-- ==== Sys2Proof/Word.lean ====
section
/-! DEFINITION. The word types of the machine (R1, R6, R78, R79, R81): register and memory contents are bit vectors. -/

namespace Sys2Proof

/-- A byte of memory (R1). -/
abbrev Byte := BitVec 8
/-- A 64-bit scalar or address register, a pointer, or a doubleword (R78). -/
abbrev Word := BitVec 64
/-- One slot of a bundle (R51). -/
abbrev SlotWord := BitVec 32
/-- A bundle: slot 0 in bits [31:0] (R51). -/
abbrev BundleWord := BitVec 128
/-- A 4 KiB vector register: byte j is bits [8j + 7:8j] (R78, R79). -/
abbrev VReg := BitVec 32768
/-- A mask-stack entry: bit j gates byte j (R81). -/
abbrev Mask := BitVec 4096
/-- An accumulator row of 64 lanes: lane j is bits [32j + 31:32j] (R78, R79). -/
abbrev AccRow := BitVec 2048
/-- An element of the matrix array (R139). -/
abbrev ArrEl := BitVec 21

end Sys2Proof
end

