-- ==== Sys2Proof/Syntax.lean ====
section
/-! DEFINITION. The one inductive of the machine's steps: one constructor per row of spec/opcode_table.json. A row with
an encoding is a slot operation (or the slot-0 header) whose arguments are the row's fields, as bit vectors of the
field's width; a row without one is an event of the module (R31 to R282), whose arguments name the unit it concerns
(`c` module core, `x` context, `t` tower, `e` copy engine, `h` Hare engine, `b` Badger engine, `q` send queue, `d` edge die,
`k` bound task). -/

namespace Sys2Proof

/-- The steps of the part (spec/95_what_each_step_holds.md: each whole and indivisible). -/
inductive Instr where
  /-- NOP (R376). -/
  | nop
  /-- HDR (R52). -/
  | hdr (s : BitVec 1) (w : BitVec 1) (m : BitVec 8) (g : BitVec 2) (v : BitVec 4) (a : BitVec 5) (l : BitVec 5)
  /-- ADD_REG (R307). -/
  | addReg (d : BitVec 6) (a : BitVec 6) (b : BitVec 6)
  /-- ADD_IMM (R307). -/
  | addImm (d : BitVec 6) (a : BitVec 6) (i : BitVec 12)
  /-- SUB_REG (R407). -/
  | subReg (d : BitVec 6) (a : BitVec 6) (b : BitVec 6)
  /-- SUB_IMM (R407). -/
  | subImm (d : BitVec 6) (a : BitVec 6) (i : BitVec 12)
  /-- MUL_REG (R374). -/
  | mulReg (d : BitVec 6) (a : BitVec 6) (b : BitVec 6)
  /-- MUL_IMM (R374). -/
  | mulImm (d : BitVec 6) (a : BitVec 6) (i : BitVec 12)
  /-- MULH_REG (R374). -/
  | mulhReg (d : BitVec 6) (a : BitVec 6) (u : BitVec 1) (b : BitVec 6)
  /-- MULH_IMM (R374). -/
  | mulhImm (d : BitVec 6) (a : BitVec 6) (u : BitVec 1) (i : BitVec 12)
  /-- DIV_REG (R341). -/
  | divReg (d : BitVec 6) (a : BitVec 6) (u : BitVec 1) (b : BitVec 6)
  /-- DIV_IMM (R341). -/
  | divImm (d : BitVec 6) (a : BitVec 6) (u : BitVec 1) (i : BitVec 12)
  /-- REM_REG (R341). -/
  | remReg (d : BitVec 6) (a : BitVec 6) (u : BitVec 1) (b : BitVec 6)
  /-- REM_IMM (R341). -/
  | remImm (d : BitVec 6) (a : BitVec 6) (u : BitVec 1) (i : BitVec 12)
  /-- AND_REG (R308). -/
  | andReg (d : BitVec 6) (a : BitVec 6) (b : BitVec 6)
  /-- AND_IMM (R308). -/
  | andImm (d : BitVec 6) (a : BitVec 6) (i : BitVec 12)
  /-- OR_REG (R380). -/
  | orReg (d : BitVec 6) (a : BitVec 6) (b : BitVec 6)
  /-- OR_IMM (R380). -/
  | orImm (d : BitVec 6) (a : BitVec 6) (i : BitVec 12)
  /-- XOR_REG (R446). -/
  | xorReg (d : BitVec 6) (a : BitVec 6) (b : BitVec 6)
  /-- XOR_IMM (R446). -/
  | xorImm (d : BitVec 6) (a : BitVec 6) (i : BitVec 12)
  /-- SHL_REG (R397). -/
  | shlReg (d : BitVec 6) (a : BitVec 6) (b : BitVec 6)
  /-- SHL_IMM (R397). -/
  | shlImm (d : BitVec 6) (a : BitVec 6) (i : BitVec 12)
  /-- SHR_REG (R397). -/
  | shrReg (d : BitVec 6) (a : BitVec 6) (b : BitVec 6)
  /-- SHR_IMM (R397). -/
  | shrImm (d : BitVec 6) (a : BitVec 6) (i : BitVec 12)
  /-- SRA_REG (R397). -/
  | sraReg (d : BitVec 6) (a : BitVec 6) (b : BitVec 6)
  /-- SRA_IMM (R397). -/
  | sraImm (d : BitVec 6) (a : BitVec 6) (i : BitVec 12)
  /-- MIN_REG (R364). -/
  | minReg (d : BitVec 6) (a : BitVec 6) (u : BitVec 1) (b : BitVec 6)
  /-- MIN_IMM (R364). -/
  | minImm (d : BitVec 6) (a : BitVec 6) (u : BitVec 1) (i : BitVec 12)
  /-- MAX_REG (R364). -/
  | maxReg (d : BitVec 6) (a : BitVec 6) (u : BitVec 1) (b : BitVec 6)
  /-- MAX_IMM (R364). -/
  | maxImm (d : BitVec 6) (a : BitVec 6) (u : BitVec 1) (i : BitVec 12)
  /-- CMP_REG (R327). -/
  | cmpReg (d : BitVec 6) (a : BitVec 6) (c : BitVec 3) (b : BitVec 6)
  /-- CMP_IMM (R327). -/
  | cmpImm (d : BitVec 6) (a : BitVec 6) (c : BitVec 3) (i : BitVec 10)
  /-- SEL (R396). -/
  | sel (d : BitVec 6) (a : BitVec 6) (b : BitVec 6) (c : BitVec 6)
  /-- LI (R359). -/
  | li (d : BitVec 7) (i : BitVec 19)
  /-- LIH (R360). -/
  | lih (d : BitVec 7) (p : BitVec 2) (i : BitVec 16)
  /-- MOV (R370). -/
  | mov (d : BitVec 7) (s : BitVec 7)
  /-- BITC (R316). -/
  | bitc (d : BitVec 6) (a : BitVec 6) (f : BitVec 6)
  /-- BFX (R315). -/
  | bfx (d : BitVec 6) (a : BitVec 6) (p : BitVec 6) (l : BitVec 6) (x : BitVec 1)
  /-- BFI (R315). -/
  | bfi (d : BitVec 6) (a : BitVec 6) (p : BitVec 6) (l : BitVec 6)
  /-- BR (R318). -/
  | br (a : BitVec 6) (c : BitVec 3) (h : BitVec 1) (i : BitVec 16)
  /-- JMP_REL (R353). -/
  | jmpRel (i : BitVec 25)
  /-- JMP_REG (R353). -/
  | jmpReg (a : BitVec 6)
  /-- CALL_REL (R324). -/
  | callRel (i : BitVec 25)
  /-- CALL_REG (R324). -/
  | callReg (a : BitVec 6)
  /-- RET (R388). -/
  | ret (a : BitVec 6)
  /-- LOOP_IMM (R362). -/
  | loopImm (n : BitVec 13) (e : BitVec 12)
  /-- LOOP_REG (R362). -/
  | loopReg (c : BitVec 6) (e : BitVec 12)
  /-- BREAK (R321). -/
  | breakOp (n : BitVec 3)
  /-- BRKM (R322). -/
  | brkm (i : BitVec 16)
  /-- ERET (R346). -/
  | eret
  /-- YIELD (R447). -/
  | yield
  /-- END (R344). -/
  | endOp
  /-- TRAP (R420). -/
  | trap (i : BitVec 16)
  /-- DBGBRK (R339). -/
  | dbgbrk
  /-- WAIT (R441). -/
  | wait (l : BitVec 8) (s : BitVec 8) (c : BitVec 6) (m : BitVec 2)
  /-- CSRR (R335). -/
  | csrr (d : BitVec 6) (c : BitVec 12)
  /-- CSRW (R335). -/
  | csrw (a : BitVec 6) (c : BitVec 12)
  /-- GSYNC (R351). -/
  | gsync
  /-- GSYNC_RELEASE (R351). -/
  | gsyncRelease (k : Nat)
  /-- SIGNAL (R398). -/
  | signal (a : BitVec 6)
  /-- SIGNAL_DECREMENT (R399). -/
  | signalDecrement (t : Nat)
  /-- LAUNCH (R358). -/
  | launch (a : BitVec 6)
  /-- DEVICE_LAUNCH_ARRIVE (R197). -/
  | deviceLaunchArrive (t : Nat)
  /-- FENCE (R187). -/
  | fence (p : BitVec 6) (s : BitVec 6) (c : BitVec 3)
  /-- DRAIN (R188). -/
  | drain (c : BitVec 3)
  /-- RECON (R230). -/
  | recon (p : BitVec 6) (l : BitVec 6) (o : BitVec 2)
  /-- RECOFF (R231). -/
  | recoff
  /-- REVERSE (R240). -/
  | reverse (g : BitVec 6)
  /-- REVERSE_RECORD (R240). -/
  | reverseRecord (c : Nat) (x : Nat)
  /-- RELEASE (R266). -/
  | release (s : BitVec 6) (q : BitVec 6)
  /-- VETO (R266). -/
  | veto (s : BitVec 6) (q : BitVec 6)
  /-- EGRESS_ANSWER (R266). -/
  | egressAnswer (c : Nat) (x : Nat)
  /-- VADD (R422). -/
  | vadd (d : BitVec 6) (a : BitVec 6) (b : BitVec 6) (t : BitVec 3)
  /-- VSUB (R422). -/
  | vsub (d : BitVec 6) (a : BitVec 6) (b : BitVec 6) (t : BitVec 3)
  /-- VMUL (R422). -/
  | vmul (d : BitVec 6) (a : BitVec 6) (b : BitVec 6) (t : BitVec 3)
  /-- VFMA (R422). -/
  | vfma (d : BitVec 6) (a : BitVec 6) (b : BitVec 6) (t : BitVec 3)
  /-- VFMS (R422). -/
  | vfms (d : BitVec 6) (a : BitVec 6) (b : BitVec 6) (t : BitVec 3)
  /-- VMAX (R422). -/
  | vmax (d : BitVec 6) (a : BitVec 6) (b : BitVec 6) (t : BitVec 3)
  /-- VMIN (R422). -/
  | vmin (d : BitVec 6) (a : BitVec 6) (b : BitVec 6) (t : BitVec 3)
  /-- VABS (R421). -/
  | vabs (d : BitVec 6) (a : BitVec 6) (t : BitVec 3)
  /-- VNEG (R421). -/
  | vneg (d : BitVec 6) (a : BitVec 6) (t : BitVec 3)
  /-- VRCP (R421). -/
  | vrcp (d : BitVec 6) (a : BitVec 6) (t : BitVec 3)
  /-- VRSQ (R421). -/
  | vrsq (d : BitVec 6) (a : BitVec 6) (t : BitVec 3)
  /-- VSQRT (R421). -/
  | vsqrt (d : BitVec 6) (a : BitVec 6) (t : BitVec 3)
  /-- VEXP2 (R421). -/
  | vexp2 (d : BitVec 6) (a : BitVec 6) (t : BitVec 3)
  /-- VLOG2 (R421). -/
  | vlog2 (d : BitVec 6) (a : BitVec 6) (t : BitVec 3)
  /-- VTANH (R421). -/
  | vtanh (d : BitVec 6) (a : BitVec 6) (t : BitVec 3)
  /-- VIADD (R423). -/
  | viadd (d : BitVec 6) (a : BitVec 6) (b : BitVec 6) (t : BitVec 3)
  /-- VISUB (R423). -/
  | visub (d : BitVec 6) (a : BitVec 6) (b : BitVec 6) (t : BitVec 3)
  /-- VIMUL (R423). -/
  | vimul (d : BitVec 6) (a : BitVec 6) (b : BitVec 6) (t : BitVec 3)
  /-- VAND (R423). -/
  | vand (d : BitVec 6) (a : BitVec 6) (b : BitVec 6) (t : BitVec 3)
  /-- VOR (R423). -/
  | vor (d : BitVec 6) (a : BitVec 6) (b : BitVec 6) (t : BitVec 3)
  /-- VXOR (R423). -/
  | vxor (d : BitVec 6) (a : BitVec 6) (b : BitVec 6) (t : BitVec 3)
  /-- VSHL (R423). -/
  | vshl (d : BitVec 6) (a : BitVec 6) (b : BitVec 6) (t : BitVec 3)
  /-- VSHR (R423). -/
  | vshr (d : BitVec 6) (a : BitVec 6) (b : BitVec 6) (t : BitVec 3)
  /-- VSRA (R423). -/
  | vsra (d : BitVec 6) (a : BitVec 6) (b : BitVec 6) (t : BitVec 3)
  /-- VCMP (R426). -/
  | vcmp (a : BitVec 6) (b : BitVec 6) (t : BitVec 3) (u : BitVec 1) (r : BitVec 3)
  /-- VSEL (R438). -/
  | vsel (d : BitVec 6) (a : BitVec 6) (b : BitVec 6) (t : BitVec 3)
  /-- VCVT (R428). -/
  | vcvt (d : BitVec 6) (a : BitVec 6) (t : BitVec 3) (o : BitVec 3) (s : BitVec 1) (u : BitVec 1)
  /-- VSCL (R437). -/
  | vscl (d : BitVec 6) (a : BitVec 6) (n : BitVec 6) (t : BitVec 3)
  /-- VBCST (R424). -/
  | vbcst (d : BitVec 6) (s : BitVec 6) (t : BitVec 3)
  /-- VRED (R436). -/
  | vred (d : BitVec 6) (a : BitVec 6) (t : BitVec 3) (o : BitVec 2)
  /-- VPERM (R435). -/
  | vperm (d : BitVec 6) (a : BitVec 6) (b : BitVec 6) (t : BitVec 3)
  /-- VSLIDE (R439). -/
  | vslide (d : BitVec 6) (a : BitVec 6) (k : BitVec 6) (t : BitVec 3) (r : BitVec 1)
  /-- VZIP (R440). -/
  | vzip (d : BitVec 6) (a : BitVec 6) (b : BitVec 6) (t : BitVec 3)
  /-- VUNZIP (R440). -/
  | vunzip (d : BitVec 6) (a : BitVec 6) (b : BitVec 6) (t : BitVec 3)
  /-- VIOTA (R430). -/
  | viota (d : BitVec 6) (t : BitVec 3)
  /-- VMOVS (R429). -/
  | vmovs (d : BitVec 6) (a : BitVec 6) (i : BitVec 6) (t : BitVec 3)
  /-- VINS (R429). -/
  | vins (d : BitVec 6) (s : BitVec 6) (i : BitVec 6) (t : BitVec 3)
  /-- KPUSH (R355). -/
  | kpush (a : BitVec 6) (t : BitVec 3)
  /-- KINV (R355). -/
  | kinv
  /-- KPOP (R355). -/
  | kpop
  /-- KMOV_TO (R355). -/
  | kmovTo (d : BitVec 6)
  /-- KMOV_FROM (R355). -/
  | kmovFrom (a : BitVec 6)
  /-- TADD (R414). -/
  | tadd (d : BitVec 6) (a : BitVec 6) (b : BitVec 6) (i : BitVec 3) (o : BitVec 3)
  /-- TMUL (R414). -/
  | tmul (d : BitVec 6) (a : BitVec 6) (b : BitVec 6) (i : BitVec 3) (o : BitVec 3)
  /-- TSCALE (R414). -/
  | tscale (d : BitVec 6) (a : BitVec 6) (s : BitVec 6) (i : BitVec 3) (o : BitVec 3)
  /-- TBIAS (R414). -/
  | tbias (d : BitVec 6) (a : BitVec 6) (b : BitVec 6) (i : BitVec 3) (o : BitVec 3)
  /-- TRELU (R414). -/
  | trelu (d : BitVec 6) (a : BitVec 6) (i : BitVec 3) (o : BitVec 3)
  /-- TGELU (R414). -/
  | tgelu (d : BitVec 6) (a : BitVec 6) (i : BitVec 3) (o : BitVec 3)
  /-- TSILU (R414). -/
  | tsilu (d : BitVec 6) (a : BitVec 6) (i : BitVec 3) (o : BitVec 3)
  /-- TEXP (R414). -/
  | texp (d : BitVec 6) (a : BitVec 6) (i : BitVec 3) (o : BitVec 3)
  /-- TSOFTMAX (R414). -/
  | tsoftmax (d : BitVec 6) (a : BitVec 6) (i : BitVec 3) (o : BitVec 3)
  /-- TRMSN (R414). -/
  | trmsn (d : BitVec 6) (a : BitVec 6) (g : BitVec 6) (c : BitVec 6) (f : BitVec 2)
  /-- TMASK (R414). -/
  | tmask (d : BitVec 6) (a : BitVec 6) (m : BitVec 6) (c : BitVec 6) (f : BitVec 2)
  /-- TTRANS (R414). -/
  | ttrans (d : BitVec 6) (a : BitVec 6) (i : BitVec 3) (o : BitVec 3)
  /-- TCVT (R414). -/
  | tcvt (d : BitVec 6) (a : BitVec 6) (i : BitVec 3) (o : BitVec 3)
  /-- MNOP (R369). -/
  | mnop
  /-- MPUSH (R160). -/
  | mpush (r : BitVec 4) (i : BitVec 6) (f : BitVec 3) (t : BitVec 1) (k : BitVec 1) (p : BitVec 1)
  /-- MFLIP (R161). -/
  | mflip
  /-- MSHIFT (R162). -/
  | mshift (r : BitVec 4) (f : BitVec 3) (k : BitVec 1)
  /-- ROW_EMERGE (R162). -/
  | rowEmerge (c : Nat)
  /-- MACC (R163). -/
  | macc (s : BitVec 6) (i : BitVec 12) (v : BitVec 6)
  /-- MACC_U (R163). -/
  | maccU (s : BitVec 6) (i : BitVec 12)
  /-- MDRAIN (R164). -/
  | mdrain (s : BitVec 6) (i : BitVec 5) (v : BitVec 6) (l : BitVec 6) (f : BitVec 3)
  /-- MZERO (R165). -/
  | mzero (s : BitVec 6) (i : BitVec 12) (n : BitVec 6)
  /-- MSPAN (R167). -/
  | mspan (s : BitVec 6)
  /-- MEND (R168). -/
  | mend
  /-- SPAN_RETIRE (R168). -/
  | spanRetire (c : Nat)
  /-- MGANG (R170). -/
  | mgang (s : BitVec 6) (g : BitVec 6)
  /-- FOLLOW (R171). -/
  | follow (k : BitVec 4)
  /-- SLD (R401). -/
  | sld (d : BitVec 6) (b : BitVec 4) (z : BitVec 3) (x : BitVec 1) (i : BitVec 12)
  /-- SST (R401). -/
  | sst (v : BitVec 6) (b : BitVec 4) (z : BitVec 3) (i : BitVec 12)
  /-- VLD (R432). -/
  | vld (v : BitVec 6) (b : BitVec 4) (i : BitVec 16)
  /-- VST (R432). -/
  | vst (v : BitVec 6) (b : BitVec 4) (i : BitVec 16)
  /-- VLDX (R434). -/
  | vldx (v : BitVec 6) (b : BitVec 4) (i : BitVec 6) (e : BitVec 2)
  /-- VSTX (R434). -/
  | vstx (v : BitVec 6) (b : BitVec 4) (i : BitVec 6) (e : BitVec 2)
  /-- SPL (R404). -/
  | spl (d : BitVec 7) (x : BitVec 10)
  /-- SPS (R404). -/
  | sps (d : BitVec 7) (x : BitVec 10)
  /-- SCALE (R395). -/
  | scale (n : BitVec 7) (b : BitVec 4) (i : BitVec 15)
  /-- BARINIT (R311). -/
  | barinit (e : BitVec 6) (b : BitVec 4) (x : BitVec 6) (y : BitVec 6)
  /-- BARARM (R311). -/
  | bararm (e : BitVec 6) (b : BitVec 4)
  /-- BARARR (R311). -/
  | bararr (n : BitVec 6) (b : BitVec 4)
  /-- BARTST (R311). -/
  | bartst (d : BitVec 6) (b : BitVec 4)
  /-- BARWAIT (R313). -/
  | barwait (p : BitVec 6) (b : BitVec 4)
  /-- RINGCFG (R392). -/
  | ringcfg (b : BitVec 4) (n : BitVec 4)
  /-- RPOP (R392). -/
  | rpop (n : BitVec 4)
  /-- WMARK (R443). -/
  | wmark (l : BitVec 6) (h : BitVec 6) (n : BitVec 4)
  /-- AADD (R304). -/
  | aadd (d : BitVec 6) (v : BitVec 6) (b : BitVec 4) (z : BitVec 1)
  /-- AFADD (R304). -/
  | afadd (d : BitVec 6) (v : BitVec 6) (b : BitVec 4)
  /-- AMIN (R304). -/
  | amin (d : BitVec 6) (v : BitVec 6) (b : BitVec 4) (z : BitVec 1) (o : BitVec 3)
  /-- AMAX (R304). -/
  | amax (d : BitVec 6) (v : BitVec 6) (b : BitVec 4) (z : BitVec 1) (o : BitVec 3)
  /-- ALOGIC (R304). -/
  | alogic (d : BitVec 6) (v : BitVec 6) (b : BitVec 4) (z : BitVec 1) (o : BitVec 3)
  /-- ASWP (R304). -/
  | aswp (d : BitVec 6) (v : BitVec 6) (b : BitVec 4) (z : BitVec 1)
  /-- ACAS (R304). -/
  | acas (d : BitVec 6) (v : BitVec 6) (b : BitVec 4) (c : BitVec 6) (z : BitVec 1)
  /-- COPY (R329). -/
  | copy (p : BitVec 5) (a : BitVec 5) (b : BitVec 5) (c : BitVec 5) (r : BitVec 6)
  /-- CSLICE (R332). -/
  | cslice (p : BitVec 5) (a : BitVec 5) (b : BitVec 5) (c : BitVec 5) (r : BitVec 6)
  /-- STREAM (R405). -/
  | stream (p : BitVec 5) (a : BitVec 5) (b : BitVec 5) (c : BitVec 5) (r : BitVec 6)
  /-- NPOST (R378). -/
  | npost (p : BitVec 5) (a : BitVec 5) (b : BitVec 5) (c : BitVec 5) (r : BitVec 6)
  /-- PLDEC (R254). -/
  | pldec (p : BitVec 5) (a : BitVec 5) (b : BitVec 5) (c : BitVec 5) (r : BitVec 6)
  /-- PLAND (R255). -/
  | pland (p : BitVec 5) (a : BitVec 5) (b : BitVec 5) (c : BitVec 5) (r : BitVec 6)
  /-- PLOR (R255). -/
  | plor (p : BitVec 5) (a : BitVec 5) (b : BitVec 5) (c : BitVec 5) (r : BitVec 6)
  /-- PLTOPK (R256). -/
  | pltopk (p : BitVec 5) (a : BitVec 5) (b : BitVec 5) (c : BitVec 5) (r : BitVec 6)
  /-- PLFUSE (R257). -/
  | plfuse (p : BitVec 5) (a : BitVec 5) (b : BitVec 5) (c : BitVec 5) (r : BitVec 6)
  /-- EGQ (R265). -/
  | egq (p : BitVec 5) (a : BitVec 5) (b : BitVec 5) (c : BitVec 5) (r : BitVec 6)
  /-- TAGSET (R418). -/
  | tagset (n : BitVec 6) (b : BitVec 4) (k : BitVec 6)
  /-- XINV_ALL (R445). -/
  | xinvAll
  /-- XINV_VA (R445). -/
  | xinvVa (v : BitVec 6)
  /-- ICACHE_FILL (R46). -/
  | icacheFill
  /-- LOAD_VALUE_RETURN (R64) of a core: the number of an access, and of a part of it or of none. -/
  | loadValueReturn (c : Nat) (a : Nat × Nat)
  /-- STORE_PERFORM (R175) of a core: the number of an access, and of a part of it or of none. -/
  | storePerform (c : Nat) (a : Nat × Nat)
  /-- DEFERRED_FAULT (R212). -/
  | deferredFault (c : Nat) (x : Nat)
  /-- COPY_START (R330). -/
  | copyStart (e : Nat)
  /-- COPY_ROW (R330): an engine, and 0 or a part of what is on its way. -/
  | copyRow (p : Nat × Nat)
  /-- COPY_COMPLETE (R115). -/
  | copyComplete (e : Nat)
  /-- HARE_JOB_START (R125). -/
  | hareJobStart (h : Nat)
  /-- HARE_BLOCK (R406): an engine, and 0, 1 or a part of what is on its way. -/
  | hareBlock (p : Nat × Nat)
  /-- HARE_JOB_END (R406). -/
  | hareJobEnd (h : Nat)
  /-- BADGER_START (R383). -/
  | badgerStart (b : Nat)
  /-- BADGER_COMPLETE (R258, R383): an engine, and 0, 1 or a part. -/
  | badgerComplete (b : Nat × Nat)
  /-- NPOST_SEND_COMPLETE (R130). -/
  | npostSendComplete (q : Nat)
  /-- NET_PACKET_RECEIVE (R379): a send queue, and 0, 1 or a part of what is on its way. -/
  | netPacketReceive (q : Nat × Nat) (off : Nat) (dat : List (BitVec 8)) (len : Nat)
  /-- NET_SEND_ABANDON (R263). -/
  | netSendAbandon (q : Nat) (sent : Nat)
  /-- EGQ_RUN (R265): an edge die, and 0 or a part of a mirror record. -/
  | egqRun (d : Nat × Nat)
  /-- EGRESS_RECORD_OUT (R267). -/
  | egressRecordOut (d : Nat)
  /-- LAUNCH_READ (R196). -/
  | launchRead
  /-- GRAPH_LAUNCH (R200). -/
  | graphLaunch (t : Nat)
  /-- TASK_PLACE (R204). -/
  | taskPlace (t : Nat)
  /-- CONTEXT_BIND (R206). -/
  | contextBind (t : Nat)
  /-- AGING_TICK (R47). -/
  | agingTick (t : Nat)
  /-- CONTEXT_FREE (R44). -/
  | contextFree (c : Nat) (x : Nat)
  /-- GRAPH_TEARDOWN (R461). -/
  | graphTeardown (t : Nat) (g : Nat)
  /-- FAULT_QUEUE_WRITE (R215). -/
  | faultQueueWrite (t : Nat)
  /-- PREEMPT_REQUEST (R216). -/
  | preemptRequest (k : Nat) (areas : List (Nat × Nat)) (live : List (Nat × Nat × Nat))
  /-- PREEMPT_FORCED_STOP (R216). -/
  | preemptForcedStop (k : Nat)
  /-- PREEMPT_HALT (R217). -/
  | preemptHalt (k : Nat)
  /-- PREEMPT_SAVE (R219). -/
  | preemptSave (k : Nat)
  /-- GANG_RESUME (R220). -/
  | gangResume (k : Nat) (slots : List Nat)
  /-- MODULE_RESET (R269). -/
  | moduleReset (stages : List (BitVec 256 × Bool))
  /-- THROTTLE_WINDOW (R24). -/
  | throttleWindow (t : Nat) (n : Nat)
  /-- TIMING_MODE_APPLY (R26). -/
  | timingModeApply (t : Nat)
  /-- SCRUB_VISIT (R223). -/
  | scrubVisit (w : Nat)
  /-- BANK_FAILING (R225) in a tower: a layer, and a bank of it. -/
  | bankFailing (t : Nat) (b : Nat × Nat)
  /-- RECOVERY_DELAY_EXPIRE (R225): a tower and a layer, and the pre-emption requests, each a task, its save areas and its live runs. -/
  | recoveryDelayExpire (l : Nat × Nat) (reqs : List (Nat × List (Nat × Nat) × List (Nat × Nat × Nat)))
  /-- RECOVERY_POINT (R225). -/
  | recoveryPoint (t : Nat) (n : Nat)
  /-- HOST_READ (R260). -/
  | hostRead (pa : Nat) (len : Nat)
  /-- HOST_WRITE (R260). -/
  | hostWrite (pa : Nat) (dat : List (BitVec 8))
  /-- FLIT_RECEIVE (R259). -/
  | flitReceive (dat : List (BitVec 8))
  /-- FLIT_NAK (R259). -/
  | flitNak (q : Nat)
  /-- LINK_RETRAIN (R259). -/
  | linkRetrain
  /-- LAUNCH_DOORBELL (R196). -/
  | launchDoorbell (v : BitVec 64)
  /-- IMAGE_INVALIDATE (R45). -/
  | imageInvalidate (v : BitVec 64)
  /-- IMGINV_DONE (R45). -/
  | imginvDone
  /-- EGRESS_STREAM_RESET (R272). -/
  | egressStreamReset (v : BitVec 64)
  /-- MODESET_WRITE (R26). -/
  | modesetWrite (v : BitVec 64)
  /-- NQ_BIND (R262). -/
  | nqBind (q : Nat) (w : Nat) (v : BitVec 64)
  /-- ATTESTATION_REQUEST (R270). -/
  | attestationRequest (v : BitVec 64)
  /-- ATTESTATION_REPORT (R270). -/
  | attestationReport
  /-- MGMT_REGISTER_WRITE (R271): by the host or by firmware, at an offset. -/
  | mgmtRegisterWrite (p : Bool × Nat) (v : BitVec 64)
  /-- OWL_STOP (R276). -/
  | owlStop (t : Nat)
  /-- OWL_RESUME (R276). -/
  | owlResume (t : Nat)
  /-- OWL_STEP (R277). -/
  | owlStep (t : Nat)
  /-- OWL_SETTLE (R222). -/
  | owlSettle (t : Nat)
  /-- OWL_SETTLE_DONE (R222). -/
  | owlSettleDone (t : Nat)
  /-- OWL_RDREG (R276). -/
  | owlRdreg (t : Nat)
  /-- OWL_WRREG (R276). -/
  | owlWrreg (t : Nat)
  /-- OWL_FLUSH (R280). -/
  | owlFlush (t : Nat)
  /-- OWL_TAGDUMP (R282). -/
  | owlTagdump (t : Nat)
  /-- OWL_BAD_COMMAND (R276). -/
  | owlBadCommand (t : Nat)
  /-- ERROR_INJECT_ARM (R281). -/
  | errorInjectArm (t : Nat) (v : BitVec 64)
  /-- TRACE_SAMPLE (R279). -/
  | traceSample (t : Nat)
  /-- ENCODING_FAULT (R283). -/
  | encodingFault (slot : Nat)
  /-- SEND_QUEUE_START (R379): a queue, 0 or a send of it, a port, a number of parts. -/
  | sendQueueStart (a : Nat × Nat × Nat × Nat)
  /-- LINK_RETRAINED (R259). -/
  | linkRetrained
  /-- BRIDGE_REPLAY (R131). -/
  | bridgeReplay (t : Nat) (seq : Nat)
  /-- FAILING_TSV_LANE (R225). -/
  | failingTsvLane (t : Nat) (n : Nat)
  deriving DecidableEq, Repr

end Sys2Proof
end

