-- ==== Sys2Proof/Machine/Limits.lean ====
section
/-! DEFINITION. The static limits of the encoding (R283): field values that no register, memory or engine state decides. A word
that breaks one is an encoding fault. -/

namespace Sys2Proof.Machine

/-- A 7-bit register code names s0 to s63 or a0 to a15 (R285). -/
def regCode (d : BitVec 7) : Bool := decide (d.toNat < 80)
/-- TYPE codes that float operations accept (R289): FP32, BF16, FP16. -/
def floatType (t : BitVec 3) : Bool := decide (t.toNat ≤ 2)
/-- TYPE codes of every float format, FP8 among them (R289). -/
def anyFloat (t : BitVec 3) : Bool := decide (t.toNat ≤ 4)
/-- TYPE codes that integer operations accept (R289). -/
def intType (t : BitVec 3) : Bool := decide (5 ≤ t.toNat)
/-- The format pairs of TTRANS (R413). -/
def transFormats (i o : BitVec 3) : Bool :=
  match i.toNat, o.toNat with
  | 0, 0 => true
  | 1, 1 => true
  | 2, 2 => true
  | 3, 3 => true
  | 4, 5 => true
  | _, _ => false
/-- Target bytes of MDRAIN's TFMT (R164). -/
def drainWidth (f : BitVec 3) : Nat :=
  match f.toNat with
  | 0 => 4
  | 1 => 2
  | 2 => 2
  | _ => 1

/-- Every static limit of the spec on the operation's fields (R52, R106, R155, R164, R192, R283 to R293, R413, R425, R427). An
event has no encoding and so no limit. -/
def legal (ins : Instr) : Bool :=
  match ins with
  | .nop => true
  | .hdr _ w m _ _ _ _ => w = 1 || m = 0
  | .addReg _ _ _ => true
  | .addImm _ _ _ => true
  | .subReg _ _ _ => true
  | .subImm _ _ _ => true
  | .mulReg _ _ _ => true
  | .mulImm _ _ _ => true
  | .mulhReg _ _ _ _ => true
  | .mulhImm _ _ _ _ => true
  | .divReg _ _ _ _ => true
  | .divImm _ _ _ _ => true
  | .remReg _ _ _ _ => true
  | .remImm _ _ _ _ => true
  | .andReg _ _ _ => true
  | .andImm _ _ _ => true
  | .orReg _ _ _ => true
  | .orImm _ _ _ => true
  | .xorReg _ _ _ => true
  | .xorImm _ _ _ => true
  | .shlReg _ _ _ => true
  | .shlImm _ _ i => decide (i.toNat < 64)
  | .shrReg _ _ _ => true
  | .shrImm _ _ i => decide (i.toNat < 64)
  | .sraReg _ _ _ => true
  | .sraImm _ _ i => decide (i.toNat < 64)
  | .minReg _ _ _ _ => true
  | .minImm _ _ _ _ => true
  | .maxReg _ _ _ _ => true
  | .maxImm _ _ _ _ => true
  | .cmpReg _ _ c _ => decide (c.toNat ≤ 5)
  | .cmpImm _ _ c _ => decide (c.toNat ≤ 5)
  | .sel _ _ _ _ => true
  | .li d _ => regCode d
  | .lih d _ _ => regCode d
  | .mov d s => regCode d && regCode s
  | .bitc _ _ f => decide (f.toNat ≤ 2)
  | .bfx _ _ p l _ => decide (p.toNat + l.toNat < 64)
  | .bfi _ _ p l => decide (p.toNat + l.toNat < 64)
  | .br a c _ _ => decide (c.toNat ≤ 5) || (c = 6 && a = 0)
  | .jmpRel _ => true
  | .jmpReg _ => true
  | .callRel _ => true
  | .callReg _ => true
  | .ret _ => true
  | .loopImm _ e => e ≠ 0
  | .loopReg _ e => e ≠ 0
  | .breakOp n => n ≠ 0 && n ≠ 7
  | .brkm _ => true
  | .eret => true
  | .yield => true
  | .endOp => true
  | .trap _ => true
  | .dbgbrk => true
  | .wait _ _ _ _ => true
  | .csrr _ _ => true
  | .csrw _ _ => true
  | .gsync => true
  | .gsyncRelease _ => true
  | .signal _ => true
  | .signalDecrement _ => true
  | .launch _ => true
  | .deviceLaunchArrive _ => true
  | .fence _ _ c => c ≠ 7
  | .drain c => c ≠ 7
  | .recon _ _ o => o ≠ 3
  | .recoff => true
  | .reverse _ => true
  | .reverseRecord _ _ => true
  | .release _ _ => true
  | .veto _ _ => true
  | .egressAnswer _ _ => true
  | .vadd _ _ _ t => floatType t
  | .vsub _ _ _ t => floatType t
  | .vmul _ _ _ t => floatType t
  | .vfma _ _ _ t => floatType t
  | .vfms _ _ _ t => floatType t
  | .vmax _ _ _ t => floatType t
  | .vmin _ _ _ t => floatType t
  | .vabs _ _ t => floatType t
  | .vneg _ _ t => floatType t
  | .vrcp _ _ t => floatType t
  | .vrsq _ _ t => floatType t
  | .vsqrt _ _ t => floatType t
  | .vexp2 _ _ t => floatType t
  | .vlog2 _ _ t => floatType t
  | .vtanh _ _ t => floatType t
  | .viadd _ _ _ t => intType t
  | .visub _ _ _ t => intType t
  | .vimul _ _ _ t => intType t
  | .vand _ _ _ _ => true
  | .vor _ _ _ _ => true
  | .vxor _ _ _ _ => true
  | .vshl _ _ _ t => intType t
  | .vshr _ _ _ t => intType t
  | .vsra _ _ _ t => intType t
  | .vcmp _ _ t u r => (floatType t || intType t) && decide (r.toNat ≤ 5) && (u = 0 || intType t)
  | .vsel _ _ _ _ => true
  | .vcvt _ _ t o s u => (u = 0 || intType o) && (s = 0 || !(anyFloat t && intType o))
  | .vscl _ _ _ t => floatType t
  | .vbcst _ _ _ => true
  | .vred _ _ t o => (floatType t || intType t) && o ≠ 3
  | .vperm _ _ _ _ => true
  | .vslide _ _ _ _ _ => true
  | .vzip _ _ _ _ => true
  | .vunzip _ _ _ _ => true
  | .viota _ t => intType t
  | .vmovs _ _ _ _ => true
  | .vins _ _ _ _ => true
  | .kpush _ _ => true
  | .kinv => true
  | .kpop => true
  | .kmovTo _ => true
  | .kmovFrom _ => true
  | .tadd _ _ _ i o => decide (i.toNat ≤ 4) && o ≠ 7
  | .tmul _ _ _ i o => decide (i.toNat ≤ 4) && o ≠ 7
  | .tscale _ _ _ i o => decide (i.toNat ≤ 4) && o ≠ 7
  | .tbias _ _ _ i o => decide (i.toNat ≤ 4) && o ≠ 7
  | .trelu _ _ i o => decide (i.toNat ≤ 4) && o ≠ 7
  | .tgelu _ _ i o => decide (i.toNat ≤ 4) && o ≠ 7
  | .tsilu _ _ i o => decide (i.toNat ≤ 4) && o ≠ 7
  | .texp _ _ i o => decide (i.toNat ≤ 4) && o ≠ 7
  | .tsoftmax _ _ i o => decide (i.toNat ≤ 4) && o ≠ 7
  | .trmsn _ _ _ _ f => f ≠ 3
  | .tmask _ _ _ _ f => f ≠ 3
  | .ttrans _ _ i o => transFormats i o
  | .tcvt _ _ i o => decide (i.toNat ≤ 4) && o ≠ 7
  | .mnop => true
  | .mpush _ _ f t _ p => f ≠ 7 && (decide (f.toNat < 5) || t = 1) && (p = 0 || t = 1)
  | .mflip => true
  | .mshift _ f _ => decide (f.toNat ≤ 4)
  | .rowEmerge _ => true
  | .macc _ _ _ => true
  | .maccU _ _ => true
  | .mdrain _ _ _ l f => decide (l.toNat * (64 * drainWidth f) < 4096)
  | .mzero _ _ _ => true
  | .mspan _ => true
  | .mend => true
  | .spanRetire _ => true
  | .mgang _ _ => true
  | .follow _ => true
  | .sld _ _ z _ _ => decide (z.toNat ≤ 3)
  | .sst _ _ z _ => decide (z.toNat ≤ 3)
  | .vld _ _ _ => true
  | .vst _ _ _ => true
  | .vldx _ _ _ _ => true
  | .vstx _ _ _ _ => true
  | .spl d _ => regCode d
  | .sps d _ => regCode d
  | .scale n _ _ => n ≠ 0 && decide (n.toNat ≤ 64)
  | .barinit _ _ _ _ => true
  | .bararm _ _ => true
  | .bararr _ _ => true
  | .bartst _ _ => true
  | .barwait _ _ => true
  | .ringcfg _ _ => true
  | .rpop _ => true
  | .wmark _ _ n => decide (n.toNat ≤ 7)
  | .aadd _ _ _ _ => true
  | .afadd _ _ _ => true
  | .amin _ _ _ z o => decide (o.toNat ≤ 2) && (o ≠ 2 || z = 0)
  | .amax _ _ _ z o => decide (o.toNat ≤ 2) && (o ≠ 2 || z = 0)
  | .alogic _ _ _ _ o => decide (o.toNat ≤ 2)
  | .aswp _ _ _ _ => true
  | .acas _ _ _ _ _ => true
  | .copy _ _ _ _ r => decide (r.toNat ≤ 15)
  | .cslice _ _ _ _ r => decide (r.toNat ≤ 15)
  | .stream _ _ _ _ r => decide (r.toNat ≤ 15)
  | .npost _ _ _ _ r => decide (r.toNat ≤ 15)
  | .pldec _ _ _ _ r => decide (r.toNat ≤ 15)
  | .pland _ _ _ _ r => decide (r.toNat ≤ 15)
  | .plor _ _ _ _ r => decide (r.toNat ≤ 15)
  | .pltopk _ _ _ _ r => decide (r.toNat ≤ 15)
  | .plfuse _ _ _ _ r => decide (r.toNat ≤ 15)
  | .egq _ _ _ _ r => decide (r.toNat ≤ 15)
  | .tagset _ _ _ => true
  | .xinvAll => true
  | .xinvVa _ => true
  | .icacheFill => true
  | .loadValueReturn _ _ => true
  | .storePerform _ _ => true
  | .deferredFault _ _ => true
  | .copyStart _ => true
  | .copyRow _ => true
  | .copyComplete _ => true
  | .hareJobStart _ => true
  | .hareBlock _ => true
  | .hareJobEnd _ => true
  | .badgerStart _ => true
  | .badgerComplete _ => true
  | .npostSendComplete _ => true
  | .netPacketReceive _ _ _ _ => true
  | .netSendAbandon _ _ => true
  | .egqRun _ => true
  | .egressRecordOut _ => true
  | .launchRead => true
  | .graphLaunch _ => true
  | .taskPlace _ => true
  | .contextBind _ => true
  | .agingTick _ => true
  | .contextFree _ _ => true
  | .graphTeardown _ _ => true
  | .faultQueueWrite _ => true
  | .preemptRequest _ _ _ => true
  | .preemptForcedStop _ => true
  | .preemptHalt _ => true
  | .preemptSave _ => true
  | .gangResume _ _ => true
  | .moduleReset _ => true
  | .throttleWindow _ _ => true
  | .timingModeApply _ => true
  | .scrubVisit _ => true
  | .bankFailing _ _ => true
  | .recoveryDelayExpire _ _ => true
  | .recoveryPoint _ _ => true
  | .hostRead _ _ => true
  | .hostWrite _ _ => true
  | .flitReceive _ => true
  | .flitNak _ => true
  | .linkRetrain => true
  | .launchDoorbell _ => true
  | .imageInvalidate _ => true
  | .imginvDone => true
  | .egressStreamReset _ => true
  | .modesetWrite _ => true
  | .nqBind _ _ _ => true
  | .attestationRequest _ => true
  | .attestationReport => true
  | .mgmtRegisterWrite _ _ => true
  | .owlStop _ => true
  | .owlResume _ => true
  | .owlStep _ => true
  | .owlSettle _ => true
  | .owlSettleDone _ => true
  | .owlRdreg _ => true
  | .owlWrreg _ => true
  | .owlFlush _ => true
  | .owlTagdump _ => true
  | .owlBadCommand _ => true
  | .errorInjectArm _ _ => true
  | .traceSample _ => true
  | .encodingFault _ => true
  | .sendQueueStart _ => true
  | .linkRetrained => true
  | .bridgeReplay _ _ => true
  | .failingTsvLane _ _ => true

end Sys2Proof.Machine
end

