-- ==== Sys2Proof/WellFormed.lean ====
section
/-! DEFINITION. Well-formed instructions: those whose fields keep every static limit of the spec (R283). The limits stand in
Machine/Limits.lean. -/

namespace Sys2Proof

/-- The operation keeps every static limit of its encoding (R283). -/
def Instr.wellFormed (ins : Instr) : Bool := Machine.legal ins

end Sys2Proof
end

