-- ==== Sys2Proof/Decode.lean ====
section
/-! DEFINITION. Decoding and encoding of slot words (R51, R52, R283 to R293). Each slot has its own opcode map: one word can stand
for different operations in different slots, so a word is decoded for a slot (0 X, 1 V, 2 M, 3 L). Decoding is total: a word that
is no operation of its slot, holds a nonzero reserved bit or breaks a static limit is rejected by name, which a context turns
into the encoding fault of R283. -/

namespace Sys2Proof

/-- The field `[lo + n - 1:lo]` of a slot word (R1). -/
def fld (w : SlotWord) (lo n : Nat) : BitVec n := w.extractLsb' lo n

/-- The X slot (R287): the operation whose fixed bits the word holds. -/
def decodeX (w : SlotWord) : Option Instr :=
  match (fld w 26 6).toNat with
  | 0 => if fld w 0 26 = 0 then some .nop else none
  | 1 => if fld w 0 6 = 0 ∧ fld w 12 2 = 0 then some (.addReg (fld w 20 6) (fld w 14 6) (fld w 6 6)) else if fld w 12 2 = 2 then some (.addImm (fld w 20 6) (fld w 14 6) (fld w 0 12)) else none
  | 2 => if fld w 0 6 = 0 ∧ fld w 12 2 = 0 then some (.subReg (fld w 20 6) (fld w 14 6) (fld w 6 6)) else if fld w 12 2 = 2 then some (.subImm (fld w 20 6) (fld w 14 6) (fld w 0 12)) else none
  | 3 => if fld w 0 6 = 0 ∧ fld w 12 2 = 0 then some (.mulReg (fld w 20 6) (fld w 14 6) (fld w 6 6)) else if fld w 12 2 = 2 then some (.mulImm (fld w 20 6) (fld w 14 6) (fld w 0 12)) else none
  | 4 => if fld w 0 6 = 0 ∧ fld w 13 1 = 0 then some (.mulhReg (fld w 20 6) (fld w 14 6) (fld w 12 1) (fld w 6 6)) else if fld w 13 1 = 1 then some (.mulhImm (fld w 20 6) (fld w 14 6) (fld w 12 1) (fld w 0 12)) else none
  | 5 => if fld w 0 6 = 0 ∧ fld w 13 1 = 0 then some (.divReg (fld w 20 6) (fld w 14 6) (fld w 12 1) (fld w 6 6)) else if fld w 13 1 = 1 then some (.divImm (fld w 20 6) (fld w 14 6) (fld w 12 1) (fld w 0 12)) else none
  | 6 => if fld w 0 6 = 0 ∧ fld w 13 1 = 0 then some (.remReg (fld w 20 6) (fld w 14 6) (fld w 12 1) (fld w 6 6)) else if fld w 13 1 = 1 then some (.remImm (fld w 20 6) (fld w 14 6) (fld w 12 1) (fld w 0 12)) else none
  | 7 => if fld w 0 6 = 0 ∧ fld w 12 2 = 0 then some (.andReg (fld w 20 6) (fld w 14 6) (fld w 6 6)) else if fld w 12 2 = 2 then some (.andImm (fld w 20 6) (fld w 14 6) (fld w 0 12)) else none
  | 8 => if fld w 0 6 = 0 ∧ fld w 12 2 = 0 then some (.orReg (fld w 20 6) (fld w 14 6) (fld w 6 6)) else if fld w 12 2 = 2 then some (.orImm (fld w 20 6) (fld w 14 6) (fld w 0 12)) else none
  | 9 => if fld w 0 6 = 0 ∧ fld w 12 2 = 0 then some (.xorReg (fld w 20 6) (fld w 14 6) (fld w 6 6)) else if fld w 12 2 = 2 then some (.xorImm (fld w 20 6) (fld w 14 6) (fld w 0 12)) else none
  | 10 => if fld w 0 6 = 0 ∧ fld w 12 2 = 0 then some (.shlReg (fld w 20 6) (fld w 14 6) (fld w 6 6)) else if fld w 12 2 = 2 then some (.shlImm (fld w 20 6) (fld w 14 6) (fld w 0 12)) else none
  | 11 => if fld w 0 6 = 0 ∧ fld w 12 2 = 0 then some (.shrReg (fld w 20 6) (fld w 14 6) (fld w 6 6)) else if fld w 12 2 = 2 then some (.shrImm (fld w 20 6) (fld w 14 6) (fld w 0 12)) else none
  | 12 => if fld w 0 6 = 0 ∧ fld w 12 2 = 0 then some (.sraReg (fld w 20 6) (fld w 14 6) (fld w 6 6)) else if fld w 12 2 = 2 then some (.sraImm (fld w 20 6) (fld w 14 6) (fld w 0 12)) else none
  | 13 => if fld w 0 6 = 0 ∧ fld w 13 1 = 0 then some (.minReg (fld w 20 6) (fld w 14 6) (fld w 12 1) (fld w 6 6)) else if fld w 13 1 = 1 then some (.minImm (fld w 20 6) (fld w 14 6) (fld w 12 1) (fld w 0 12)) else none
  | 14 => if fld w 0 6 = 0 ∧ fld w 13 1 = 0 then some (.maxReg (fld w 20 6) (fld w 14 6) (fld w 12 1) (fld w 6 6)) else if fld w 13 1 = 1 then some (.maxImm (fld w 20 6) (fld w 14 6) (fld w 12 1) (fld w 0 12)) else none
  | 15 => if fld w 0 4 = 0 ∧ fld w 13 1 = 0 then some (.cmpReg (fld w 20 6) (fld w 14 6) (fld w 10 3) (fld w 4 6)) else if fld w 13 1 = 1 then some (.cmpImm (fld w 20 6) (fld w 14 6) (fld w 10 3) (fld w 0 10)) else none
  | 16 => if fld w 0 2 = 0 then some (.sel (fld w 20 6) (fld w 14 6) (fld w 8 6) (fld w 2 6)) else none
  | 17 => some (.li (fld w 19 7) (fld w 0 19))
  | 18 => if fld w 0 1 = 0 then some (.lih (fld w 19 7) (fld w 17 2) (fld w 1 16)) else none
  | 19 => if fld w 0 12 = 0 then some (.mov (fld w 19 7) (fld w 12 7)) else none
  | 20 => if fld w 6 8 = 0 then some (.bitc (fld w 20 6) (fld w 14 6) (fld w 0 6)) else none
  | 21 => if fld w 0 1 = 0 then some (.bfx (fld w 20 6) (fld w 14 6) (fld w 8 6) (fld w 2 6) (fld w 1 1)) else none
  | 22 => if fld w 0 2 = 0 then some (.bfi (fld w 20 6) (fld w 14 6) (fld w 8 6) (fld w 2 6)) else none
  | 24 => some (.br (fld w 20 6) (fld w 17 3) (fld w 16 1) (fld w 0 16))
  | 25 => if fld w 25 1 = 0 then some (.jmpRel (fld w 0 25)) else if fld w 0 19 = 0 ∧ fld w 25 1 = 1 then some (.jmpReg (fld w 19 6)) else none
  | 26 => if fld w 25 1 = 0 then some (.callRel (fld w 0 25)) else if fld w 0 19 = 0 ∧ fld w 25 1 = 1 then some (.callReg (fld w 19 6)) else none
  | 27 => if fld w 0 20 = 0 then some (.ret (fld w 20 6)) else none
  | 28 => if fld w 25 1 = 1 then some (.loopImm (fld w 12 13) (fld w 0 12)) else if fld w 12 7 = 0 ∧ fld w 25 1 = 0 then some (.loopReg (fld w 19 6) (fld w 0 12)) else none
  | 29 => if fld w 0 23 = 0 then some (.breakOp (fld w 23 3)) else none
  | 30 => if fld w 16 10 = 0 then some (.brkm (fld w 0 16)) else none
  | 31 => if fld w 0 26 = 0 then some .eret else none
  | 32 => if fld w 0 26 = 0 then some .yield else none
  | 33 => if fld w 0 26 = 0 then some .endOp else none
  | 34 => if fld w 16 10 = 0 then some (.trap (fld w 0 16)) else none
  | 35 => if fld w 0 26 = 0 then some .dbgbrk else none
  | 36 => if fld w 0 2 = 0 then some (.wait (fld w 18 8) (fld w 10 8) (fld w 4 6) (fld w 2 2)) else none
  | 37 => if fld w 0 8 = 0 then some (.csrr (fld w 20 6) (fld w 8 12)) else none
  | 38 => if fld w 0 8 = 0 then some (.csrw (fld w 20 6) (fld w 8 12)) else none
  | 39 => if fld w 0 26 = 0 then some .gsync else none
  | 40 => if fld w 0 20 = 0 then some (.signal (fld w 20 6)) else none
  | 41 => if fld w 0 20 = 0 then some (.launch (fld w 20 6)) else none
  | 52 => if fld w 0 11 = 0 then some (.fence (fld w 20 6) (fld w 14 6) (fld w 11 3)) else none
  | 53 => if fld w 0 23 = 0 then some (.drain (fld w 23 3)) else none
  | 54 => if fld w 0 12 = 0 then some (.recon (fld w 20 6) (fld w 14 6) (fld w 12 2)) else none
  | 55 => if fld w 0 26 = 0 then some .recoff else none
  | 56 => if fld w 0 20 = 0 then some (.reverse (fld w 20 6)) else none
  | 57 => if fld w 0 14 = 0 then some (.release (fld w 20 6) (fld w 14 6)) else none
  | 58 => if fld w 0 14 = 0 then some (.veto (fld w 20 6) (fld w 14 6)) else none
  | 63 => some (.hdr (fld w 25 1) (fld w 24 1) (fld w 16 8) (fld w 14 2) (fld w 10 4) (fld w 5 5) (fld w 0 5))
  | _ => none

/-- The V slot (R290): the operation whose fixed bits the word holds. -/
def decodeV (w : SlotWord) : Option Instr :=
  match (fld w 26 6).toNat with
  | 0 => if fld w 0 26 = 0 then some .nop else none
  | 1 => if fld w 0 5 = 0 then some (.vadd (fld w 20 6) (fld w 14 6) (fld w 8 6) (fld w 5 3)) else none
  | 2 => if fld w 0 5 = 0 then some (.vsub (fld w 20 6) (fld w 14 6) (fld w 8 6) (fld w 5 3)) else none
  | 3 => if fld w 0 5 = 0 then some (.vmul (fld w 20 6) (fld w 14 6) (fld w 8 6) (fld w 5 3)) else none
  | 4 => if fld w 0 5 = 0 then some (.vfma (fld w 20 6) (fld w 14 6) (fld w 8 6) (fld w 5 3)) else none
  | 5 => if fld w 0 5 = 0 then some (.vfms (fld w 20 6) (fld w 14 6) (fld w 8 6) (fld w 5 3)) else none
  | 6 => if fld w 0 5 = 0 then some (.vmax (fld w 20 6) (fld w 14 6) (fld w 8 6) (fld w 5 3)) else none
  | 7 => if fld w 0 5 = 0 then some (.vmin (fld w 20 6) (fld w 14 6) (fld w 8 6) (fld w 5 3)) else none
  | 8 => if fld w 0 5 = 0 ∧ fld w 8 6 = 0 then some (.vabs (fld w 20 6) (fld w 14 6) (fld w 5 3)) else none
  | 9 => if fld w 0 5 = 0 ∧ fld w 8 6 = 0 then some (.vneg (fld w 20 6) (fld w 14 6) (fld w 5 3)) else none
  | 10 => if fld w 0 5 = 0 ∧ fld w 8 6 = 0 then some (.vrcp (fld w 20 6) (fld w 14 6) (fld w 5 3)) else none
  | 11 => if fld w 0 5 = 0 ∧ fld w 8 6 = 0 then some (.vrsq (fld w 20 6) (fld w 14 6) (fld w 5 3)) else none
  | 12 => if fld w 0 5 = 0 ∧ fld w 8 6 = 0 then some (.vsqrt (fld w 20 6) (fld w 14 6) (fld w 5 3)) else none
  | 13 => if fld w 0 5 = 0 ∧ fld w 8 6 = 0 then some (.vexp2 (fld w 20 6) (fld w 14 6) (fld w 5 3)) else none
  | 14 => if fld w 0 5 = 0 ∧ fld w 8 6 = 0 then some (.vlog2 (fld w 20 6) (fld w 14 6) (fld w 5 3)) else none
  | 15 => if fld w 0 5 = 0 ∧ fld w 8 6 = 0 then some (.vtanh (fld w 20 6) (fld w 14 6) (fld w 5 3)) else none
  | 16 => if fld w 0 5 = 0 then some (.viadd (fld w 20 6) (fld w 14 6) (fld w 8 6) (fld w 5 3)) else none
  | 17 => if fld w 0 5 = 0 then some (.visub (fld w 20 6) (fld w 14 6) (fld w 8 6) (fld w 5 3)) else none
  | 18 => if fld w 0 5 = 0 then some (.vimul (fld w 20 6) (fld w 14 6) (fld w 8 6) (fld w 5 3)) else none
  | 19 => if fld w 0 5 = 0 then some (.vand (fld w 20 6) (fld w 14 6) (fld w 8 6) (fld w 5 3)) else none
  | 20 => if fld w 0 5 = 0 then some (.vor (fld w 20 6) (fld w 14 6) (fld w 8 6) (fld w 5 3)) else none
  | 21 => if fld w 0 5 = 0 then some (.vxor (fld w 20 6) (fld w 14 6) (fld w 8 6) (fld w 5 3)) else none
  | 22 => if fld w 0 5 = 0 then some (.vshl (fld w 20 6) (fld w 14 6) (fld w 8 6) (fld w 5 3)) else none
  | 23 => if fld w 0 5 = 0 then some (.vshr (fld w 20 6) (fld w 14 6) (fld w 8 6) (fld w 5 3)) else none
  | 24 => if fld w 0 5 = 0 then some (.vsra (fld w 20 6) (fld w 14 6) (fld w 8 6) (fld w 5 3)) else none
  | 25 => if fld w 4 1 = 0 ∧ fld w 20 6 = 0 then some (.vcmp (fld w 14 6) (fld w 8 6) (fld w 5 3) (fld w 3 1) (fld w 0 3)) else none
  | 26 => if fld w 0 5 = 0 then some (.vsel (fld w 20 6) (fld w 14 6) (fld w 8 6) (fld w 5 3)) else none
  | 27 => if fld w 8 6 = 0 then some (.vcvt (fld w 20 6) (fld w 14 6) (fld w 5 3) (fld w 2 3) (fld w 1 1) (fld w 0 1)) else none
  | 28 => if fld w 0 5 = 0 then some (.vscl (fld w 20 6) (fld w 14 6) (fld w 8 6) (fld w 5 3)) else none
  | 29 => if fld w 0 5 = 0 ∧ fld w 8 6 = 0 then some (.vbcst (fld w 20 6) (fld w 14 6) (fld w 5 3)) else none
  | 30 => if fld w 2 3 = 0 ∧ fld w 8 6 = 0 then some (.vred (fld w 20 6) (fld w 14 6) (fld w 5 3) (fld w 0 2)) else none
  | 31 => if fld w 0 5 = 0 then some (.vperm (fld w 20 6) (fld w 14 6) (fld w 8 6) (fld w 5 3)) else none
  | 32 => if fld w 1 4 = 0 then some (.vslide (fld w 20 6) (fld w 14 6) (fld w 8 6) (fld w 5 3) (fld w 0 1)) else none
  | 33 => if fld w 0 5 = 0 then some (.vzip (fld w 20 6) (fld w 14 6) (fld w 8 6) (fld w 5 3)) else none
  | 34 => if fld w 0 5 = 0 then some (.vunzip (fld w 20 6) (fld w 14 6) (fld w 8 6) (fld w 5 3)) else none
  | 35 => if fld w 0 5 = 0 ∧ fld w 8 12 = 0 then some (.viota (fld w 20 6) (fld w 5 3)) else none
  | 36 => if fld w 0 5 = 0 then some (.vmovs (fld w 20 6) (fld w 14 6) (fld w 8 6) (fld w 5 3)) else none
  | 37 => if fld w 0 5 = 0 then some (.vins (fld w 20 6) (fld w 14 6) (fld w 8 6) (fld w 5 3)) else none
  | 38 => if fld w 0 5 = 0 ∧ fld w 8 6 = 0 ∧ fld w 20 6 = 0 then some (.kpush (fld w 14 6) (fld w 5 3)) else none
  | 39 => if fld w 0 26 = 0 then some .kinv else none
  | 40 => if fld w 0 26 = 0 then some .kpop else none
  | 41 => if fld w 0 20 = 0 then some (.kmovTo (fld w 20 6)) else if fld w 0 14 = 1 ∧ fld w 20 6 = 0 then some (.kmovFrom (fld w 14 6)) else none
  | 48 => if fld w 0 2 = 0 then some (.tadd (fld w 20 6) (fld w 14 6) (fld w 8 6) (fld w 5 3) (fld w 2 3)) else none
  | 49 => if fld w 0 2 = 0 then some (.tmul (fld w 20 6) (fld w 14 6) (fld w 8 6) (fld w 5 3) (fld w 2 3)) else none
  | 50 => if fld w 0 2 = 0 then some (.tscale (fld w 20 6) (fld w 14 6) (fld w 8 6) (fld w 5 3) (fld w 2 3)) else none
  | 51 => if fld w 0 2 = 0 then some (.tbias (fld w 20 6) (fld w 14 6) (fld w 8 6) (fld w 5 3) (fld w 2 3)) else none
  | 52 => if fld w 0 2 = 0 ∧ fld w 8 6 = 0 then some (.trelu (fld w 20 6) (fld w 14 6) (fld w 5 3) (fld w 2 3)) else none
  | 53 => if fld w 0 2 = 0 ∧ fld w 8 6 = 0 then some (.tgelu (fld w 20 6) (fld w 14 6) (fld w 5 3) (fld w 2 3)) else none
  | 54 => if fld w 0 2 = 0 ∧ fld w 8 6 = 0 then some (.tsilu (fld w 20 6) (fld w 14 6) (fld w 5 3) (fld w 2 3)) else none
  | 55 => if fld w 0 2 = 0 ∧ fld w 8 6 = 0 then some (.texp (fld w 20 6) (fld w 14 6) (fld w 5 3) (fld w 2 3)) else none
  | 56 => if fld w 0 2 = 0 ∧ fld w 8 6 = 0 then some (.tsoftmax (fld w 20 6) (fld w 14 6) (fld w 5 3) (fld w 2 3)) else none
  | 57 => some (.trmsn (fld w 20 6) (fld w 14 6) (fld w 8 6) (fld w 2 6) (fld w 0 2))
  | 58 => some (.tmask (fld w 20 6) (fld w 14 6) (fld w 8 6) (fld w 2 6) (fld w 0 2))
  | 59 => if fld w 0 2 = 0 ∧ fld w 8 6 = 0 then some (.ttrans (fld w 20 6) (fld w 14 6) (fld w 5 3) (fld w 2 3)) else none
  | 60 => if fld w 0 2 = 0 ∧ fld w 8 6 = 0 then some (.tcvt (fld w 20 6) (fld w 14 6) (fld w 5 3) (fld w 2 3)) else none
  | _ => none

/-- The M slot (R159): the operation whose fixed bits the word holds. -/
def decodeM (w : SlotWord) : Option Instr :=
  match (fld w 26 6).toNat with
  | 0 => if fld w 0 26 = 0 then some .mnop else none
  | 1 => if fld w 0 10 = 0 then some (.mpush (fld w 22 4) (fld w 16 6) (fld w 13 3) (fld w 12 1) (fld w 11 1) (fld w 10 1)) else none
  | 2 => if fld w 0 26 = 0 then some .mflip else none
  | 3 => if fld w 0 18 = 0 then some (.mshift (fld w 22 4) (fld w 19 3) (fld w 18 1)) else none
  | 4 => if fld w 0 2 = 0 then some (.macc (fld w 20 6) (fld w 8 12) (fld w 2 6)) else if fld w 0 8 = 2 then some (.maccU (fld w 20 6) (fld w 8 12)) else none
  | 5 => some (.mdrain (fld w 20 6) (fld w 15 5) (fld w 9 6) (fld w 3 6) (fld w 0 3))
  | 6 => if fld w 0 2 = 0 then some (.mzero (fld w 20 6) (fld w 8 12) (fld w 2 6)) else none
  | 8 => if fld w 0 20 = 0 then some (.mspan (fld w 20 6)) else none
  | 9 => if fld w 0 26 = 0 then some .mend else none
  | 10 => if fld w 0 14 = 0 then some (.mgang (fld w 20 6) (fld w 14 6)) else none
  | 11 => if fld w 0 22 = 0 then some (.follow (fld w 22 4)) else none
  | _ => none

/-- The L slot (R293): the operation whose fixed bits the word holds. -/
def decodeL (w : SlotWord) : Option Instr :=
  match (fld w 26 6).toNat with
  | 0 => if fld w 0 26 = 0 then some .nop else none
  | 1 => some (.sld (fld w 20 6) (fld w 16 4) (fld w 13 3) (fld w 12 1) (fld w 0 12))
  | 2 => if fld w 12 1 = 0 then some (.sst (fld w 20 6) (fld w 16 4) (fld w 13 3) (fld w 0 12)) else none
  | 3 => some (.vld (fld w 20 6) (fld w 16 4) (fld w 0 16))
  | 4 => some (.vst (fld w 20 6) (fld w 16 4) (fld w 0 16))
  | 5 => if fld w 0 8 = 0 then some (.vldx (fld w 20 6) (fld w 16 4) (fld w 10 6) (fld w 8 2)) else none
  | 6 => if fld w 0 8 = 0 then some (.vstx (fld w 20 6) (fld w 16 4) (fld w 10 6) (fld w 8 2)) else none
  | 7 => if fld w 0 9 = 0 then some (.spl (fld w 19 7) (fld w 9 10)) else none
  | 8 => if fld w 0 9 = 0 then some (.sps (fld w 19 7) (fld w 9 10)) else none
  | 9 => some (.scale (fld w 19 7) (fld w 15 4) (fld w 0 15))
  | 16 => if fld w 0 4 = 0 then some (.barinit (fld w 20 6) (fld w 16 4) (fld w 10 6) (fld w 4 6)) else none
  | 17 => if fld w 0 16 = 0 then some (.bararm (fld w 20 6) (fld w 16 4)) else none
  | 18 => if fld w 0 16 = 0 then some (.bararr (fld w 20 6) (fld w 16 4)) else none
  | 19 => if fld w 0 16 = 0 then some (.bartst (fld w 20 6) (fld w 16 4)) else none
  | 20 => if fld w 0 16 = 0 then some (.barwait (fld w 20 6) (fld w 16 4)) else none
  | 21 => if fld w 4 12 = 0 ∧ fld w 20 6 = 0 then some (.ringcfg (fld w 16 4) (fld w 0 4)) else none
  | 22 => if fld w 4 22 = 0 then some (.rpop (fld w 0 4)) else none
  | 23 => if fld w 4 6 = 0 ∧ fld w 16 4 = 0 then some (.wmark (fld w 20 6) (fld w 10 6) (fld w 0 4)) else none
  | 24 => if fld w 0 3 = 0 ∧ fld w 4 6 = 0 then some (.aadd (fld w 20 6) (fld w 14 6) (fld w 10 4) (fld w 3 1)) else none
  | 25 => if fld w 0 10 = 0 then some (.afadd (fld w 20 6) (fld w 14 6) (fld w 10 4)) else none
  | 26 => if fld w 4 6 = 0 then some (.amin (fld w 20 6) (fld w 14 6) (fld w 10 4) (fld w 3 1) (fld w 0 3)) else none
  | 27 => if fld w 4 6 = 0 then some (.amax (fld w 20 6) (fld w 14 6) (fld w 10 4) (fld w 3 1) (fld w 0 3)) else none
  | 28 => if fld w 4 6 = 0 then some (.alogic (fld w 20 6) (fld w 14 6) (fld w 10 4) (fld w 3 1) (fld w 0 3)) else none
  | 29 => if fld w 0 3 = 0 ∧ fld w 4 6 = 0 then some (.aswp (fld w 20 6) (fld w 14 6) (fld w 10 4) (fld w 3 1)) else none
  | 30 => if fld w 0 3 = 0 then some (.acas (fld w 20 6) (fld w 14 6) (fld w 10 4) (fld w 4 6) (fld w 3 1)) else none
  | 32 => some (.copy (fld w 21 5) (fld w 16 5) (fld w 11 5) (fld w 6 5) (fld w 0 6))
  | 33 => some (.cslice (fld w 21 5) (fld w 16 5) (fld w 11 5) (fld w 6 5) (fld w 0 6))
  | 34 => some (.stream (fld w 21 5) (fld w 16 5) (fld w 11 5) (fld w 6 5) (fld w 0 6))
  | 35 => some (.npost (fld w 21 5) (fld w 16 5) (fld w 11 5) (fld w 6 5) (fld w 0 6))
  | 36 => some (.pldec (fld w 21 5) (fld w 16 5) (fld w 11 5) (fld w 6 5) (fld w 0 6))
  | 37 => some (.pland (fld w 21 5) (fld w 16 5) (fld w 11 5) (fld w 6 5) (fld w 0 6))
  | 38 => some (.plor (fld w 21 5) (fld w 16 5) (fld w 11 5) (fld w 6 5) (fld w 0 6))
  | 39 => some (.pltopk (fld w 21 5) (fld w 16 5) (fld w 11 5) (fld w 6 5) (fld w 0 6))
  | 40 => some (.plfuse (fld w 21 5) (fld w 16 5) (fld w 11 5) (fld w 6 5) (fld w 0 6))
  | 41 => some (.egq (fld w 21 5) (fld w 16 5) (fld w 11 5) (fld w 6 5) (fld w 0 6))
  | 42 => if fld w 0 10 = 0 then some (.tagset (fld w 20 6) (fld w 16 4) (fld w 10 6)) else none
  | 43 => if fld w 0 26 = 0 then some .xinvAll else if fld w 0 20 = 1 then some (.xinvVa (fld w 20 6)) else none
  | _ => none

/-- Why a word is no instruction (R9, R283, R284): the slot has no operation with its opcode, or reserved bits are not zero; a field
breaks a static limit; a bundle has no such slot. -/
inductive Reject where
  | noOperation | staticLimit | noSlot
  deriving DecidableEq, Repr

/-- A word that an opcode map has read, or has not, with the static limits checked. -/
def checked (i : Option Instr) : Except Reject Instr :=
  match i with
  | none => .error .noOperation
  | some i => if i.wellFormed then .ok i else .error .staticLimit

/-- The word of slot `k` read as an operation of that slot that keeps every static limit (R283). -/
def decodeSlot (k : Nat) (w : SlotWord) : Except Reject Instr :=
  match k with
  | 0 => checked (decodeX w)
  | 1 => checked (decodeV w)
  | 2 => checked (decodeM w)
  | 3 => checked (decodeL w)
  | _ => .error .noSlot

/-- Slot `k` of a bundle (R51). -/
def slotOf (b : BundleWord) (k : Nat) : SlotWord := b.extractLsb' (32 * k) 32

/-- The slot that executes an operation (R51); none for the all-zero NOP, which stands in slots 0, 1 and 3, and for an event. -/
def Instr.slot (ins : Instr) : Option Nat :=
  match ins with
  | .nop => none
  | .hdr _ _ _ _ _ _ _ => some 0
  | .addReg _ _ _ => some 0
  | .addImm _ _ _ => some 0
  | .subReg _ _ _ => some 0
  | .subImm _ _ _ => some 0
  | .mulReg _ _ _ => some 0
  | .mulImm _ _ _ => some 0
  | .mulhReg _ _ _ _ => some 0
  | .mulhImm _ _ _ _ => some 0
  | .divReg _ _ _ _ => some 0
  | .divImm _ _ _ _ => some 0
  | .remReg _ _ _ _ => some 0
  | .remImm _ _ _ _ => some 0
  | .andReg _ _ _ => some 0
  | .andImm _ _ _ => some 0
  | .orReg _ _ _ => some 0
  | .orImm _ _ _ => some 0
  | .xorReg _ _ _ => some 0
  | .xorImm _ _ _ => some 0
  | .shlReg _ _ _ => some 0
  | .shlImm _ _ _ => some 0
  | .shrReg _ _ _ => some 0
  | .shrImm _ _ _ => some 0
  | .sraReg _ _ _ => some 0
  | .sraImm _ _ _ => some 0
  | .minReg _ _ _ _ => some 0
  | .minImm _ _ _ _ => some 0
  | .maxReg _ _ _ _ => some 0
  | .maxImm _ _ _ _ => some 0
  | .cmpReg _ _ _ _ => some 0
  | .cmpImm _ _ _ _ => some 0
  | .sel _ _ _ _ => some 0
  | .li _ _ => some 0
  | .lih _ _ _ => some 0
  | .mov _ _ => some 0
  | .bitc _ _ _ => some 0
  | .bfx _ _ _ _ _ => some 0
  | .bfi _ _ _ _ => some 0
  | .br _ _ _ _ => some 0
  | .jmpRel _ => some 0
  | .jmpReg _ => some 0
  | .callRel _ => some 0
  | .callReg _ => some 0
  | .ret _ => some 0
  | .loopImm _ _ => some 0
  | .loopReg _ _ => some 0
  | .breakOp _ => some 0
  | .brkm _ => some 0
  | .eret => some 0
  | .yield => some 0
  | .endOp => some 0
  | .trap _ => some 0
  | .dbgbrk => some 0
  | .wait _ _ _ _ => some 0
  | .csrr _ _ => some 0
  | .csrw _ _ => some 0
  | .gsync => some 0
  | .gsyncRelease _ => none
  | .signal _ => some 0
  | .signalDecrement _ => none
  | .launch _ => some 0
  | .deviceLaunchArrive _ => none
  | .fence _ _ _ => some 0
  | .drain _ => some 0
  | .recon _ _ _ => some 0
  | .recoff => some 0
  | .reverse _ => some 0
  | .reverseRecord _ _ => none
  | .release _ _ => some 0
  | .veto _ _ => some 0
  | .egressAnswer _ _ => none
  | .vadd _ _ _ _ => some 1
  | .vsub _ _ _ _ => some 1
  | .vmul _ _ _ _ => some 1
  | .vfma _ _ _ _ => some 1
  | .vfms _ _ _ _ => some 1
  | .vmax _ _ _ _ => some 1
  | .vmin _ _ _ _ => some 1
  | .vabs _ _ _ => some 1
  | .vneg _ _ _ => some 1
  | .vrcp _ _ _ => some 1
  | .vrsq _ _ _ => some 1
  | .vsqrt _ _ _ => some 1
  | .vexp2 _ _ _ => some 1
  | .vlog2 _ _ _ => some 1
  | .vtanh _ _ _ => some 1
  | .viadd _ _ _ _ => some 1
  | .visub _ _ _ _ => some 1
  | .vimul _ _ _ _ => some 1
  | .vand _ _ _ _ => some 1
  | .vor _ _ _ _ => some 1
  | .vxor _ _ _ _ => some 1
  | .vshl _ _ _ _ => some 1
  | .vshr _ _ _ _ => some 1
  | .vsra _ _ _ _ => some 1
  | .vcmp _ _ _ _ _ => some 1
  | .vsel _ _ _ _ => some 1
  | .vcvt _ _ _ _ _ _ => some 1
  | .vscl _ _ _ _ => some 1
  | .vbcst _ _ _ => some 1
  | .vred _ _ _ _ => some 1
  | .vperm _ _ _ _ => some 1
  | .vslide _ _ _ _ _ => some 1
  | .vzip _ _ _ _ => some 1
  | .vunzip _ _ _ _ => some 1
  | .viota _ _ => some 1
  | .vmovs _ _ _ _ => some 1
  | .vins _ _ _ _ => some 1
  | .kpush _ _ => some 1
  | .kinv => some 1
  | .kpop => some 1
  | .kmovTo _ => some 1
  | .kmovFrom _ => some 1
  | .tadd _ _ _ _ _ => some 1
  | .tmul _ _ _ _ _ => some 1
  | .tscale _ _ _ _ _ => some 1
  | .tbias _ _ _ _ _ => some 1
  | .trelu _ _ _ _ => some 1
  | .tgelu _ _ _ _ => some 1
  | .tsilu _ _ _ _ => some 1
  | .texp _ _ _ _ => some 1
  | .tsoftmax _ _ _ _ => some 1
  | .trmsn _ _ _ _ _ => some 1
  | .tmask _ _ _ _ _ => some 1
  | .ttrans _ _ _ _ => some 1
  | .tcvt _ _ _ _ => some 1
  | .mnop => some 2
  | .mpush _ _ _ _ _ _ => some 2
  | .mflip => some 2
  | .mshift _ _ _ => some 2
  | .rowEmerge _ => none
  | .macc _ _ _ => some 2
  | .maccU _ _ => some 2
  | .mdrain _ _ _ _ _ => some 2
  | .mzero _ _ _ => some 2
  | .mspan _ => some 2
  | .mend => some 2
  | .spanRetire _ => none
  | .mgang _ _ => some 2
  | .follow _ => some 2
  | .sld _ _ _ _ _ => some 3
  | .sst _ _ _ _ => some 3
  | .vld _ _ _ => some 3
  | .vst _ _ _ => some 3
  | .vldx _ _ _ _ => some 3
  | .vstx _ _ _ _ => some 3
  | .spl _ _ => some 3
  | .sps _ _ => some 3
  | .scale _ _ _ => some 3
  | .barinit _ _ _ _ => some 3
  | .bararm _ _ => some 3
  | .bararr _ _ => some 3
  | .bartst _ _ => some 3
  | .barwait _ _ => some 3
  | .ringcfg _ _ => some 3
  | .rpop _ => some 3
  | .wmark _ _ _ => some 3
  | .aadd _ _ _ _ => some 3
  | .afadd _ _ _ => some 3
  | .amin _ _ _ _ _ => some 3
  | .amax _ _ _ _ _ => some 3
  | .alogic _ _ _ _ _ => some 3
  | .aswp _ _ _ _ => some 3
  | .acas _ _ _ _ _ => some 3
  | .copy _ _ _ _ _ => some 3
  | .cslice _ _ _ _ _ => some 3
  | .stream _ _ _ _ _ => some 3
  | .npost _ _ _ _ _ => some 3
  | .pldec _ _ _ _ _ => some 3
  | .pland _ _ _ _ _ => some 3
  | .plor _ _ _ _ _ => some 3
  | .pltopk _ _ _ _ _ => some 3
  | .plfuse _ _ _ _ _ => some 3
  | .egq _ _ _ _ _ => some 3
  | .tagset _ _ _ => some 3
  | .xinvAll => some 3
  | .xinvVa _ => some 3
  | .icacheFill => none
  | .loadValueReturn _ _ => none
  | .storePerform _ _ => none
  | .deferredFault _ _ => none
  | .copyStart _ => none
  | .copyRow _ => none
  | .copyComplete _ => none
  | .hareJobStart _ => none
  | .hareBlock _ => none
  | .hareJobEnd _ => none
  | .badgerStart _ => none
  | .badgerComplete _ => none
  | .npostSendComplete _ => none
  | .netPacketReceive _ _ _ _ => none
  | .netSendAbandon _ _ => none
  | .egqRun _ => none
  | .egressRecordOut _ => none
  | .launchRead => none
  | .graphLaunch _ => none
  | .taskPlace _ => none
  | .contextBind _ => none
  | .agingTick _ => none
  | .contextFree _ _ => none
  | .graphTeardown _ _ => none
  | .faultQueueWrite _ => none
  | .preemptRequest _ _ _ => none
  | .preemptForcedStop _ => none
  | .preemptHalt _ => none
  | .preemptSave _ => none
  | .gangResume _ _ => none
  | .moduleReset _ => none
  | .throttleWindow _ _ => none
  | .timingModeApply _ => none
  | .scrubVisit _ => none
  | .bankFailing _ _ => none
  | .recoveryDelayExpire _ _ => none
  | .recoveryPoint _ _ => none
  | .hostRead _ _ => none
  | .hostWrite _ _ => none
  | .flitReceive _ => none
  | .flitNak _ => none
  | .linkRetrain => none
  | .launchDoorbell _ => none
  | .imageInvalidate _ => none
  | .imginvDone => none
  | .egressStreamReset _ => none
  | .modesetWrite _ => none
  | .nqBind _ _ _ => none
  | .attestationRequest _ => none
  | .attestationReport => none
  | .mgmtRegisterWrite _ _ => none
  | .owlStop _ => none
  | .owlResume _ => none
  | .owlStep _ => none
  | .owlSettle _ => none
  | .owlSettleDone _ => none
  | .owlRdreg _ => none
  | .owlWrreg _ => none
  | .owlFlush _ => none
  | .owlTagdump _ => none
  | .owlBadCommand _ => none
  | .errorInjectArm _ _ => none
  | .traceSample _ => none
  | .encodingFault _ => none
  | .sendQueueStart _ => none
  | .linkRetrained => none
  | .bridgeReplay _ _ => none
  | .failingTsvLane _ _ => none

/-- The word of an operation, written from its encoding table (R52, R106, R159, R185 to R192, R230 to R240, R286 to R293); an event
has none. -/
def encode (ins : Instr) : Option SlotWord :=
  match ins with
  | .nop => some (0#32)
  | .hdr s w m g v a l => some (63#6 ++ s ++ w ++ m ++ g ++ v ++ a ++ l)
  | .addReg d a b => some (1#6 ++ d ++ a ++ 0#2 ++ b ++ 0#6)
  | .addImm d a i => some (1#6 ++ d ++ a ++ 2#2 ++ i)
  | .subReg d a b => some (2#6 ++ d ++ a ++ 0#2 ++ b ++ 0#6)
  | .subImm d a i => some (2#6 ++ d ++ a ++ 2#2 ++ i)
  | .mulReg d a b => some (3#6 ++ d ++ a ++ 0#2 ++ b ++ 0#6)
  | .mulImm d a i => some (3#6 ++ d ++ a ++ 2#2 ++ i)
  | .mulhReg d a u b => some (4#6 ++ d ++ a ++ 0#1 ++ u ++ b ++ 0#6)
  | .mulhImm d a u i => some (4#6 ++ d ++ a ++ 1#1 ++ u ++ i)
  | .divReg d a u b => some (5#6 ++ d ++ a ++ 0#1 ++ u ++ b ++ 0#6)
  | .divImm d a u i => some (5#6 ++ d ++ a ++ 1#1 ++ u ++ i)
  | .remReg d a u b => some (6#6 ++ d ++ a ++ 0#1 ++ u ++ b ++ 0#6)
  | .remImm d a u i => some (6#6 ++ d ++ a ++ 1#1 ++ u ++ i)
  | .andReg d a b => some (7#6 ++ d ++ a ++ 0#2 ++ b ++ 0#6)
  | .andImm d a i => some (7#6 ++ d ++ a ++ 2#2 ++ i)
  | .orReg d a b => some (8#6 ++ d ++ a ++ 0#2 ++ b ++ 0#6)
  | .orImm d a i => some (8#6 ++ d ++ a ++ 2#2 ++ i)
  | .xorReg d a b => some (9#6 ++ d ++ a ++ 0#2 ++ b ++ 0#6)
  | .xorImm d a i => some (9#6 ++ d ++ a ++ 2#2 ++ i)
  | .shlReg d a b => some (10#6 ++ d ++ a ++ 0#2 ++ b ++ 0#6)
  | .shlImm d a i => some (10#6 ++ d ++ a ++ 2#2 ++ i)
  | .shrReg d a b => some (11#6 ++ d ++ a ++ 0#2 ++ b ++ 0#6)
  | .shrImm d a i => some (11#6 ++ d ++ a ++ 2#2 ++ i)
  | .sraReg d a b => some (12#6 ++ d ++ a ++ 0#2 ++ b ++ 0#6)
  | .sraImm d a i => some (12#6 ++ d ++ a ++ 2#2 ++ i)
  | .minReg d a u b => some (13#6 ++ d ++ a ++ 0#1 ++ u ++ b ++ 0#6)
  | .minImm d a u i => some (13#6 ++ d ++ a ++ 1#1 ++ u ++ i)
  | .maxReg d a u b => some (14#6 ++ d ++ a ++ 0#1 ++ u ++ b ++ 0#6)
  | .maxImm d a u i => some (14#6 ++ d ++ a ++ 1#1 ++ u ++ i)
  | .cmpReg d a c b => some (15#6 ++ d ++ a ++ 0#1 ++ c ++ b ++ 0#4)
  | .cmpImm d a c i => some (15#6 ++ d ++ a ++ 1#1 ++ c ++ i)
  | .sel d a b c => some (16#6 ++ d ++ a ++ b ++ c ++ 0#2)
  | .li d i => some (17#6 ++ d ++ i)
  | .lih d p i => some (18#6 ++ d ++ p ++ i ++ 0#1)
  | .mov d s => some (19#6 ++ d ++ s ++ 0#12)
  | .bitc d a f => some (20#6 ++ d ++ a ++ 0#8 ++ f)
  | .bfx d a p l x => some (21#6 ++ d ++ a ++ p ++ l ++ x ++ 0#1)
  | .bfi d a p l => some (22#6 ++ d ++ a ++ p ++ l ++ 0#2)
  | .br a c h i => some (24#6 ++ a ++ c ++ h ++ i)
  | .jmpRel i => some (50#7 ++ i)
  | .jmpReg a => some (51#7 ++ a ++ 0#19)
  | .callRel i => some (52#7 ++ i)
  | .callReg a => some (53#7 ++ a ++ 0#19)
  | .ret a => some (27#6 ++ a ++ 0#20)
  | .loopImm n e => some (57#7 ++ n ++ e)
  | .loopReg c e => some (56#7 ++ c ++ 0#7 ++ e)
  | .breakOp n => some (29#6 ++ n ++ 0#23)
  | .brkm i => some (30720#16 ++ i)
  | .eret => some (2080374784#32)
  | .yield => some (2147483648#32)
  | .endOp => some (2214592512#32)
  | .trap i => some (34816#16 ++ i)
  | .dbgbrk => some (2348810240#32)
  | .wait l s c m => some (36#6 ++ l ++ s ++ c ++ m ++ 0#2)
  | .csrr d c => some (37#6 ++ d ++ c ++ 0#8)
  | .csrw a c => some (38#6 ++ a ++ c ++ 0#8)
  | .gsync => some (2617245696#32)
  | .gsyncRelease _ => none
  | .signal a => some (40#6 ++ a ++ 0#20)
  | .signalDecrement _ => none
  | .launch a => some (41#6 ++ a ++ 0#20)
  | .deviceLaunchArrive _ => none
  | .fence p s c => some (52#6 ++ p ++ s ++ c ++ 0#11)
  | .drain c => some (53#6 ++ c ++ 0#23)
  | .recon p l o => some (54#6 ++ p ++ l ++ o ++ 0#12)
  | .recoff => some (3690987520#32)
  | .reverse g => some (56#6 ++ g ++ 0#20)
  | .reverseRecord _ _ => none
  | .release s q => some (57#6 ++ s ++ q ++ 0#14)
  | .veto s q => some (58#6 ++ s ++ q ++ 0#14)
  | .egressAnswer _ _ => none
  | .vadd d a b t => some (1#6 ++ d ++ a ++ b ++ t ++ 0#5)
  | .vsub d a b t => some (2#6 ++ d ++ a ++ b ++ t ++ 0#5)
  | .vmul d a b t => some (3#6 ++ d ++ a ++ b ++ t ++ 0#5)
  | .vfma d a b t => some (4#6 ++ d ++ a ++ b ++ t ++ 0#5)
  | .vfms d a b t => some (5#6 ++ d ++ a ++ b ++ t ++ 0#5)
  | .vmax d a b t => some (6#6 ++ d ++ a ++ b ++ t ++ 0#5)
  | .vmin d a b t => some (7#6 ++ d ++ a ++ b ++ t ++ 0#5)
  | .vabs d a t => some (8#6 ++ d ++ a ++ 0#6 ++ t ++ 0#5)
  | .vneg d a t => some (9#6 ++ d ++ a ++ 0#6 ++ t ++ 0#5)
  | .vrcp d a t => some (10#6 ++ d ++ a ++ 0#6 ++ t ++ 0#5)
  | .vrsq d a t => some (11#6 ++ d ++ a ++ 0#6 ++ t ++ 0#5)
  | .vsqrt d a t => some (12#6 ++ d ++ a ++ 0#6 ++ t ++ 0#5)
  | .vexp2 d a t => some (13#6 ++ d ++ a ++ 0#6 ++ t ++ 0#5)
  | .vlog2 d a t => some (14#6 ++ d ++ a ++ 0#6 ++ t ++ 0#5)
  | .vtanh d a t => some (15#6 ++ d ++ a ++ 0#6 ++ t ++ 0#5)
  | .viadd d a b t => some (16#6 ++ d ++ a ++ b ++ t ++ 0#5)
  | .visub d a b t => some (17#6 ++ d ++ a ++ b ++ t ++ 0#5)
  | .vimul d a b t => some (18#6 ++ d ++ a ++ b ++ t ++ 0#5)
  | .vand d a b t => some (19#6 ++ d ++ a ++ b ++ t ++ 0#5)
  | .vor d a b t => some (20#6 ++ d ++ a ++ b ++ t ++ 0#5)
  | .vxor d a b t => some (21#6 ++ d ++ a ++ b ++ t ++ 0#5)
  | .vshl d a b t => some (22#6 ++ d ++ a ++ b ++ t ++ 0#5)
  | .vshr d a b t => some (23#6 ++ d ++ a ++ b ++ t ++ 0#5)
  | .vsra d a b t => some (24#6 ++ d ++ a ++ b ++ t ++ 0#5)
  | .vcmp a b t u r => some (1600#12 ++ a ++ b ++ t ++ 0#1 ++ u ++ r)
  | .vsel d a b t => some (26#6 ++ d ++ a ++ b ++ t ++ 0#5)
  | .vcvt d a t o s u => some (27#6 ++ d ++ a ++ 0#6 ++ t ++ o ++ s ++ u)
  | .vscl d a n t => some (28#6 ++ d ++ a ++ n ++ t ++ 0#5)
  | .vbcst d s t => some (29#6 ++ d ++ s ++ 0#6 ++ t ++ 0#5)
  | .vred d a t o => some (30#6 ++ d ++ a ++ 0#6 ++ t ++ 0#3 ++ o)
  | .vperm d a b t => some (31#6 ++ d ++ a ++ b ++ t ++ 0#5)
  | .vslide d a k t r => some (32#6 ++ d ++ a ++ k ++ t ++ 0#4 ++ r)
  | .vzip d a b t => some (33#6 ++ d ++ a ++ b ++ t ++ 0#5)
  | .vunzip d a b t => some (34#6 ++ d ++ a ++ b ++ t ++ 0#5)
  | .viota d t => some (35#6 ++ d ++ 0#12 ++ t ++ 0#5)
  | .vmovs d a i t => some (36#6 ++ d ++ a ++ i ++ t ++ 0#5)
  | .vins d s i t => some (37#6 ++ d ++ s ++ i ++ t ++ 0#5)
  | .kpush a t => some (2432#12 ++ a ++ 0#6 ++ t ++ 0#5)
  | .kinv => some (2617245696#32)
  | .kpop => some (2684354560#32)
  | .kmovTo d => some (41#6 ++ d ++ 0#20)
  | .kmovFrom a => some (2624#12 ++ a ++ 1#14)
  | .tadd d a b i o => some (48#6 ++ d ++ a ++ b ++ i ++ o ++ 0#2)
  | .tmul d a b i o => some (49#6 ++ d ++ a ++ b ++ i ++ o ++ 0#2)
  | .tscale d a s i o => some (50#6 ++ d ++ a ++ s ++ i ++ o ++ 0#2)
  | .tbias d a b i o => some (51#6 ++ d ++ a ++ b ++ i ++ o ++ 0#2)
  | .trelu d a i o => some (52#6 ++ d ++ a ++ 0#6 ++ i ++ o ++ 0#2)
  | .tgelu d a i o => some (53#6 ++ d ++ a ++ 0#6 ++ i ++ o ++ 0#2)
  | .tsilu d a i o => some (54#6 ++ d ++ a ++ 0#6 ++ i ++ o ++ 0#2)
  | .texp d a i o => some (55#6 ++ d ++ a ++ 0#6 ++ i ++ o ++ 0#2)
  | .tsoftmax d a i o => some (56#6 ++ d ++ a ++ 0#6 ++ i ++ o ++ 0#2)
  | .trmsn d a g c f => some (57#6 ++ d ++ a ++ g ++ c ++ f)
  | .tmask d a m c f => some (58#6 ++ d ++ a ++ m ++ c ++ f)
  | .ttrans d a i o => some (59#6 ++ d ++ a ++ 0#6 ++ i ++ o ++ 0#2)
  | .tcvt d a i o => some (60#6 ++ d ++ a ++ 0#6 ++ i ++ o ++ 0#2)
  | .mnop => some (0#32)
  | .mpush r i f t k p => some (1#6 ++ r ++ i ++ f ++ t ++ k ++ p ++ 0#10)
  | .mflip => some (134217728#32)
  | .mshift r f k => some (3#6 ++ r ++ f ++ k ++ 0#18)
  | .rowEmerge _ => none
  | .macc s i v => some (4#6 ++ s ++ i ++ v ++ 0#2)
  | .maccU s i => some (4#6 ++ s ++ i ++ 2#8)
  | .mdrain s i v l f => some (5#6 ++ s ++ i ++ v ++ l ++ f)
  | .mzero s i n => some (6#6 ++ s ++ i ++ n ++ 0#2)
  | .mspan s => some (8#6 ++ s ++ 0#20)
  | .mend => some (603979776#32)
  | .spanRetire _ => none
  | .mgang s g => some (10#6 ++ s ++ g ++ 0#14)
  | .follow k => some (11#6 ++ k ++ 0#22)
  | .sld d b z x i => some (1#6 ++ d ++ b ++ z ++ x ++ i)
  | .sst v b z i => some (2#6 ++ v ++ b ++ z ++ 0#1 ++ i)
  | .vld v b i => some (3#6 ++ v ++ b ++ i)
  | .vst v b i => some (4#6 ++ v ++ b ++ i)
  | .vldx v b i e => some (5#6 ++ v ++ b ++ i ++ e ++ 0#8)
  | .vstx v b i e => some (6#6 ++ v ++ b ++ i ++ e ++ 0#8)
  | .spl d x => some (7#6 ++ d ++ x ++ 0#9)
  | .sps d x => some (8#6 ++ d ++ x ++ 0#9)
  | .scale n b i => some (9#6 ++ n ++ b ++ i)
  | .barinit e b x y => some (16#6 ++ e ++ b ++ x ++ y ++ 0#4)
  | .bararm e b => some (17#6 ++ e ++ b ++ 0#16)
  | .bararr n b => some (18#6 ++ n ++ b ++ 0#16)
  | .bartst d b => some (19#6 ++ d ++ b ++ 0#16)
  | .barwait p b => some (20#6 ++ p ++ b ++ 0#16)
  | .ringcfg b n => some (1344#12 ++ b ++ 0#12 ++ n)
  | .rpop n => some (92274688#28 ++ n)
  | .wmark l h n => some (23#6 ++ l ++ 0#4 ++ h ++ 0#6 ++ n)
  | .aadd d v b z => some (24#6 ++ d ++ v ++ b ++ 0#6 ++ z ++ 0#3)
  | .afadd d v b => some (25#6 ++ d ++ v ++ b ++ 0#10)
  | .amin d v b z o => some (26#6 ++ d ++ v ++ b ++ 0#6 ++ z ++ o)
  | .amax d v b z o => some (27#6 ++ d ++ v ++ b ++ 0#6 ++ z ++ o)
  | .alogic d v b z o => some (28#6 ++ d ++ v ++ b ++ 0#6 ++ z ++ o)
  | .aswp d v b z => some (29#6 ++ d ++ v ++ b ++ 0#6 ++ z ++ 0#3)
  | .acas d v b c z => some (30#6 ++ d ++ v ++ b ++ c ++ z ++ 0#3)
  | .copy p a b c r => some (32#6 ++ p ++ a ++ b ++ c ++ r)
  | .cslice p a b c r => some (33#6 ++ p ++ a ++ b ++ c ++ r)
  | .stream p a b c r => some (34#6 ++ p ++ a ++ b ++ c ++ r)
  | .npost p a b c r => some (35#6 ++ p ++ a ++ b ++ c ++ r)
  | .pldec p a b c r => some (36#6 ++ p ++ a ++ b ++ c ++ r)
  | .pland p a b c r => some (37#6 ++ p ++ a ++ b ++ c ++ r)
  | .plor p a b c r => some (38#6 ++ p ++ a ++ b ++ c ++ r)
  | .pltopk p a b c r => some (39#6 ++ p ++ a ++ b ++ c ++ r)
  | .plfuse p a b c r => some (40#6 ++ p ++ a ++ b ++ c ++ r)
  | .egq p a b c r => some (41#6 ++ p ++ a ++ b ++ c ++ r)
  | .tagset n b k => some (42#6 ++ n ++ b ++ k ++ 0#10)
  | .xinvAll => some (2885681152#32)
  | .xinvVa v => some (43#6 ++ v ++ 1#20)
  | .icacheFill => none
  | .loadValueReturn _ _ => none
  | .storePerform _ _ => none
  | .deferredFault _ _ => none
  | .copyStart _ => none
  | .copyRow _ => none
  | .copyComplete _ => none
  | .hareJobStart _ => none
  | .hareBlock _ => none
  | .hareJobEnd _ => none
  | .badgerStart _ => none
  | .badgerComplete _ => none
  | .npostSendComplete _ => none
  | .netPacketReceive _ _ _ _ => none
  | .netSendAbandon _ _ => none
  | .egqRun _ => none
  | .egressRecordOut _ => none
  | .launchRead => none
  | .graphLaunch _ => none
  | .taskPlace _ => none
  | .contextBind _ => none
  | .agingTick _ => none
  | .contextFree _ _ => none
  | .graphTeardown _ _ => none
  | .faultQueueWrite _ => none
  | .preemptRequest _ _ _ => none
  | .preemptForcedStop _ => none
  | .preemptHalt _ => none
  | .preemptSave _ => none
  | .gangResume _ _ => none
  | .moduleReset _ => none
  | .throttleWindow _ _ => none
  | .timingModeApply _ => none
  | .scrubVisit _ => none
  | .bankFailing _ _ => none
  | .recoveryDelayExpire _ _ => none
  | .recoveryPoint _ _ => none
  | .hostRead _ _ => none
  | .hostWrite _ _ => none
  | .flitReceive _ => none
  | .flitNak _ => none
  | .linkRetrain => none
  | .launchDoorbell _ => none
  | .imageInvalidate _ => none
  | .imginvDone => none
  | .egressStreamReset _ => none
  | .modesetWrite _ => none
  | .nqBind _ _ _ => none
  | .attestationRequest _ => none
  | .attestationReport => none
  | .mgmtRegisterWrite _ _ => none
  | .owlStop _ => none
  | .owlResume _ => none
  | .owlStep _ => none
  | .owlSettle _ => none
  | .owlSettleDone _ => none
  | .owlRdreg _ => none
  | .owlWrreg _ => none
  | .owlFlush _ => none
  | .owlTagdump _ => none
  | .owlBadCommand _ => none
  | .errorInjectArm _ _ => none
  | .traceSample _ => none
  | .encodingFault _ => none
  | .sendQueueStart _ => none
  | .linkRetrained => none
  | .bridgeReplay _ _ => none
  | .failingTsvLane _ _ => none

/-- The instruction that the decoder reads from a table word (notes/assumptions/2.md): the word is tried in slot X, then V, M
and L, and the first slot that has an operation for it decides. The bits above `nbits` are zero; a slot word has 32. -/
def decodeTableWord (nbits w : Nat) : Option Instr :=
  let v : SlotWord := BitVec.ofNat 32 (w % 2 ^ nbits)
  match decodeSlot 0 v with
  | .ok i => some i
  | .error _ =>
    match decodeSlot 1 v with
    | .ok i => some i
    | .error _ =>
      match decodeSlot 2 v with
      | .ok i => some i
      | .error _ => (decodeSlot 3 v).toOption

/-- The slot has an operation for the word. -/
def decodes (k : Nat) (v : SlotWord) : Bool := (decodeSlot k v).toBool

/-- The slot in which `decodeTableWord` finds the operation, 0 if none does. -/
def tableSlot (v : SlotWord) : Nat :=
  if decodes 0 v then 0 else if decodes 1 v then 1 else if decodes 2 v then 2 else if decodes 3 v then 3 else 0

end Sys2Proof
end

