-- ==== Sys2Proof/Config.lean ====
section
/-! DEFINITION. What an implementation fixes and the spec leaves open: FREE VALUES. None has a body, so nothing in Lean can
evaluate one or prove a value of it; a statement that mentions one holds whatever it is. -/

namespace Sys2Proof.Config

/-- The tower cycle of the `n`-th trace record of tower `t` (R279 CYCLE): the model counts the cycles of each core and none
of a tower, so the value is free (notes/assumptions/3.md). -/
opaque traceCycle (t n : Nat) : Word
/-- The ML-DSA-44 signature of an attestation report (R270), 2,420 bytes, as a function of the digest signed. The private
key never leaves the security processor. -/
opaque attestSignature (digest : BitVec 256) : BitVec 19360
/-- The ML-DSA-44 public key of the device (R270), 1,312 bytes, derived from a fused secret. -/
opaque attestPublicKey : BitVec 10496
/-- The version of firmware stage `k` in an attestation report (R270). -/
opaque stageVersion (k : Nat) : Word
/-- MGSTAT (R271): the register reports the boot stage and the recovery state, and the spec gives it no bit layout. -/
opaque mgstat (failedStage : Option Nat) : Word
/-- The bank and the row of a layer, of a pair store or of LPDDR6 that hold a physical address (R223): no rule maps an address to
them (notes/assumptions/30.md). -/
opaque bankOf (pa : Nat) : Nat
opaque rowOf (pa : Nat) : Nat
/-- Byte `i` of a stretch of a stream that the spec gives no value (command `n`): the bytes between MXDEC's elements and the 64-byte
boundary at which its scales start (R150), and a TRANSPOSE of a stream that is no whole number of rows (notes/assumptions/23.md). -/
opaque streamGap (n i : Nat) : Byte
/-- The bytes that a STREAM stopped by a fault has not delivered, when its chain holds ENTROPY and the headers of its blocks do not tell
(a header that cannot be read or is malformed): no rule gives the sizes of those blocks (notes/assumptions/24.md). -/
opaque undelivered (n : Nat) : Nat

/-- How many of the records that command `n` of a Badger engine had found were written when a fault stopped it: R258 leaves the
record area in whatever partial state it reached. -/
opaque partialRecs (n : Nat) : Nat

/-- The bytes that an operand of a record executed forward (R243) has where the record does not hold them: an operand that its own
adjoint does not need is not saved (R236), and R243 does not say where it is read (`n`, operand `k`; notes/assumptions/25.md). -/
opaque unsaved (n k : Nat) : VReg

/-- The 244 payload bytes of the flit that carries the `n`-th completion to the host (R259): the spec gives the transaction layer no
format. -/
opaque flitPayload (n : Nat) : BitVec 1952

/-- Word 3 [1:0] of the KIND 2 record of a precise stop that is no fault, breakpoint, STOP or STEP (R279): a forced pre-emption, or the halt
of another member of a gang that aborts (`n`-th free value; notes/assumptions/60.md). -/
opaque stopKind (n : Nat) : BitVec 2

end Sys2Proof.Config
end

