-- ==== Sys2Proof/Machine/Bits.lean ====
section
/-! DEFINITION. Bit fields, widening, narrowing and byte order (R1, R5, R7). -/

namespace Sys2Proof.Machine

/-- `wrap(x, n)` (R7): the low `n` bits of the two's-complement form of `x`. -/
def wrapInt (n : Nat) (x : Int) : BitVec n := BitVec.ofInt n x

/-- `sat_int(x, n)` (R7), for n ≥ 1. -/
def satInt (n : Nat) (x : Int) : Int :=
  let hi : Int := (2 : Int) ^ (n - 1) - 1
  let lo : Int := - (2 : Int) ^ (n - 1)
  if x < lo then lo else if x > hi then hi else x

/-- `sat_uint(x, n)` (R7). -/
def satUint (n : Nat) (x : Int) : Int :=
  let hi : Int := (2 : Int) ^ n - 1
  if x < 0 then 0 else if x > hi then hi else x

/-- The slice `[hi:lo]` of a word, as a number (R1, R5). -/
def bits {n : Nat} (w : BitVec n) (hi lo : Nat) : Nat := (w.toNat >>> lo) % 2 ^ (hi + 1 - lo)

/-- Bit `k` of a word (R1). -/
def bit {n : Nat} (w : BitVec n) (k : Nat) : Bool := w.getLsbD k

/-- A 64-bit word with the field `[lo + n - 1:lo]` replaced by the low `n` bits of `v`. -/
def putBits (w : Word) (lo n v : Nat) : Word :=
  BitVec.ofNat 64 (w.toNat - (((w.toNat >>> lo) % 2 ^ n) <<< lo) + ((v % 2 ^ n) <<< lo))

/-- A truth value as one bit. -/
def bnat (b : Bool) : Nat := if b then 1 else 0

/-- Element `i` of `w` bytes of a vector register (R79). -/
def vElem (v : VReg) (w i : Nat) : Nat := (v.toNat >>> (8 * w * i)) % 2 ^ (8 * w)

/-- The numbers of a little-endian array of `n` elements of `w` bits each, held in one number (R79). -/
def splitNat (w : Nat) (n : Nat) (x : Nat) : List Nat :=
  (List.range n).map (fun i => (x >>> (w * i)) % 2 ^ w)

/-- The number that holds the elements `xs` of `w` bits each, element 0 lowest (R79). -/
def joinNat (w : Nat) (xs : List Nat) : Nat :=
  xs.foldr (fun x acc => acc <<< w + x % 2 ^ w) 0

/-- The bytes of a number, lowest first (R1). -/
def bytesOf (n : Nat) (x : Nat) : List Byte := (List.range n).map (fun i => BitVec.ofNat 8 (x >>> (8 * i)))

/-- The number whose little-endian bytes are `bs` (R1). -/
def natOfBytes (bs : List Byte) : Nat := bs.foldr (fun b acc => acc * 256 + b.toNat) 0

/-- `n` rounded up to a multiple of `m`. -/
def alignUp (n m : Nat) : Nat := (n + m - 1) / m * m

end Sys2Proof.Machine
end

