-- ==== Sys2Proof/Machine/Fp.lean ====
section
/-! DEFINITION. Floating-point formats, exact values, the named rounding functions and the flags (R7, R132, R133, R139, R141,
R145 to R148). A value is exact until a rounding function narrows it (R6). -/

namespace Sys2Proof.Machine

/-- The floating-point formats of R132. -/
inductive Fmt where
  | f32 | bf16 | f16 | e4m3 | e5m2
  deriving DecidableEq, Repr

/-- Bits of a format (R132). -/
def Fmt.width (f : Fmt) : Nat :=
  match f with
  | .f32 => 32
  | .bf16 => 16
  | .f16 => 16
  | .e4m3 => 8
  | .e5m2 => 8

/-- Bytes of a format. -/
def Fmt.bytes (f : Fmt) : Nat := f.width / 8

/-- Fraction bits of a format (R132). -/
def Fmt.frac (f : Fmt) : Nat :=
  match f with
  | .f32 => 23
  | .bf16 => 7
  | .f16 => 10
  | .e4m3 => 3
  | .e5m2 => 2

/-- Exponent bits of a format (R132). -/
def Fmt.exp (f : Fmt) : Nat := f.width - 1 - f.frac

/-- Exponent bias of a format (R132). -/
def Fmt.bias (f : Fmt) : Nat := 2 ^ (f.exp - 1) - 1

/-- The format has infinities (R132: E4M3 has none). -/
def Fmt.hasInf (f : Fmt) : Bool :=
  match f with
  | .e4m3 => false
  | _ => true

/-- The magnitude bits of the largest finite value (R132). -/
def Fmt.maxMag (f : Fmt) : Nat :=
  match f with
  | .e4m3 => 0x7E
  | _ => (2 ^ f.exp - 1) * 2 ^ f.frac - 1

/-- The magnitude bits of infinity; for E4M3, of its NaN (R7, R132). -/
def Fmt.infMag (f : Fmt) : Nat := f.maxMag + 1

/-- The canonical quiet NaN (R133). -/
def Fmt.qnan (f : Fmt) : Nat :=
  match f with
  | .f32 => 0x7FC00000
  | .bf16 => 0x7FC0
  | .f16 => 0x7E00
  | .e4m3 => 0x7F
  | .e5m2 => 0x7E

/-- The exponent of the smallest normal (R132). -/
def Fmt.emin (f : Fmt) : Int := 1 - (f.bias : Int)

/-- The float format of a TYPE, IFMT or FP code (R289). -/
def fmtOfType (t : Nat) : Option Fmt :=
  match t with
  | 0 => some .f32
  | 1 => some .bf16
  | 2 => some .f16
  | 3 => some .e4m3
  | 4 => some .e5m2
  | _ => none

/-- Element bytes of a TYPE code (R289). -/
def typeBytes (t : Nat) : Nat :=
  match t with
  | 0 => 4
  | 1 => 2
  | 2 => 2
  | 3 => 1
  | 4 => 1
  | 5 => 1
  | 6 => 2
  | _ => 4

/-- An exact value: a NaN (signalling or quiet, with its sign), an infinity, or (−1)^sign × m × 2^e. -/
inductive Val where
  | nan (signalling sign : Bool)
  | inf (sign : Bool)
  | num (sign : Bool) (m : Nat) (e : Int)
  deriving DecidableEq, Repr

/-- The value of the bits of a format (R132, R133). -/
def decodeF (f : Fmt) (b : Nat) : Val :=
  let s : Bool := b.testBit (f.width - 1)
  let ex := (b >>> f.frac) % 2 ^ f.exp
  let fr := b % 2 ^ f.frac
  if f.hasInf then
    if ex = 2 ^ f.exp - 1 then
      if fr = 0 then .inf s else .nan (!(fr.testBit (f.frac - 1))) s
    else if ex = 0 then .num s fr (f.emin - f.frac)
    else .num s (fr + 2 ^ f.frac) ((ex : Int) - f.bias - f.frac)
  else
    if b % 2 ^ (f.width - 1) = 0x7F then .nan false s
    else if ex = 0 then .num s fr (f.emin - f.frac)
    else .num s (fr + 2 ^ f.frac) ((ex : Int) - f.bias - f.frac)

/-- The FPCSR flags of a result (R87): NV, DZ, OF, UF, NX, SAT in bits 0 to 5. -/
abbrev Fl := BitVec 6

def flNV : Fl := 1
def flDZ : Fl := 2
def flOF : Fl := 4
def flUF : Fl := 8
def flNX : Fl := 16
def flSAT : Fl := 32

/-- Bits of a result with the flags it raises. -/
structure FRes where
  bits : Nat
  fl : Fl
  deriving DecidableEq, Repr

/-- The sign bit of a format. -/
def Fmt.signBit (f : Fmt) (s : Bool) : Nat := if s then 2 ^ (f.width - 1) else 0

/-- `m` shifted right by `k`, rounded to nearest with ties to even, and whether anything was lost. -/
def shiftRne (m k : Nat) : Nat × Bool :=
  if k = 0 then (m, false)
  else if k > m.log2 + 2 then (0, m ≠ 0)
  else
    let q := m >>> k
    let r := m % 2 ^ k
    let h := 2 ^ (k - 1)
    let up : Bool := r > h || (r = h && q % 2 = 1)
    (if up then q + 1 else q, r ≠ 0)

/-- The magnitude bits of `m × 2^e` (m ≠ 0) rounded to nearest even in `f`, before the overflow test, with inexact and tiny (R7,
R148). A result beyond every finite value is some number above `maxMag`. -/
def roundMag (f : Fmt) (m : Nat) (e : Int) : Nat × Bool × Bool :=
  let len : Int := (m.log2 : Int)
  let ex : Int := len + e
  let tiny : Bool := ex < f.emin
  let q : Int := (if tiny then f.emin else ex) - f.frac
  if ex > 4096 then (f.infMag, true, false)
  else
    let sh : Int := q - e
    let (r, inexact) : Nat × Bool := if sh ≤ 0 then (m <<< sh.natAbs, false) else shiftRne m sh.natAbs
    let field : Nat := (q + f.frac - f.emin).toNat
    (field * 2 ^ f.frac + r, inexact, tiny)

/-- `round_rne(x, F)` of a finite x ≠ 0, with the flags of R148: OF and NX on overflow, UF when tiny and inexact, NX when inexact. -/
def roundNum (f : Fmt) (s : Bool) (m : Nat) (e : Int) : FRes :=
  if m = 0 then { bits := f.signBit s, fl := 0 }
  else
    let (mag, inexact, tiny) := roundMag f m e
    if mag > f.maxMag then { bits := f.signBit s + f.infMag, fl := flOF ||| flNX }
    else { bits := f.signBit s + mag, fl := (if inexact then flNX else 0) ||| (if inexact && tiny then flUF else 0) }

/-- The saturating rounding of R7: as `round_rne`, but a magnitude beyond the largest finite becomes the largest finite,
setting SAT and NX (R148). -/
def satNum (f : Fmt) (s : Bool) (m : Nat) (e : Int) : FRes :=
  if m = 0 then { bits := f.signBit s, fl := 0 }
  else
    let (mag, inexact, tiny) := roundMag f m e
    if mag > f.maxMag then { bits := f.signBit s + f.maxMag, fl := flSAT ||| flNX }
    else { bits := f.signBit s + mag, fl := (if inexact then flNX else 0) ||| (if inexact && tiny then flUF else 0) }

/-- The canonical quiet NaN, with NV when the operation is invalid (R146). -/
def qnanRes (f : Fmt) (invalid : Bool) : FRes := { bits := f.qnan, fl := if invalid then flNV else 0 }

/-- `round_rne` of a value as an arithmetic result (R145, R146): NaN gives the canonical quiet NaN with no flag of its own. -/
def roundVal (f : Fmt) (v : Val) : FRes :=
  match v with
  | .nan _ _ => qnanRes f false
  | .inf s => { bits := f.signBit s + f.infMag, fl := 0 }
  | .num s m e => roundNum f s m e

/-- A conversion to a float format (R148): `sat` selects the saturating function. -/
def convertVal (f : Fmt) (sat : Bool) (v : Val) : FRes :=
  match v with
  | .nan sg s =>
    { bits := if f.hasInf then f.qnan else f.signBit s + f.qnan, fl := if sg then flNV else 0 }
  | .inf s =>
    if sat then { bits := f.signBit s + f.maxMag, fl := flSAT ||| flNX }
    else if f.hasInf then { bits := f.signBit s + f.infMag, fl := 0 }
    else { bits := f.signBit s + f.infMag, fl := flNV }
  | .num s m e => if sat then satNum f s m e else roundNum f s m e

/-- The value is a signalling NaN. -/
def Val.isSnan (v : Val) : Bool :=
  match v with
  | .nan sg _ => sg
  | _ => false

/-- The value is a NaN. -/
def Val.isNan (v : Val) : Bool :=
  match v with
  | .nan _ _ => true
  | _ => false

/-- The sign bit of a value. -/
def Val.neg (v : Val) : Val :=
  match v with
  | .nan g s => .nan g (!s)
  | .inf s => .inf (!s)
  | .num s m e => .num (!s) m e

/-- The signed integer (−1)^s × m. -/
def sgn (s : Bool) (m : Nat) : Int := if s then - (m : Int) else (m : Int)

/-- The exact sum of two finite values; an exact zero is +0 unless both are −0 (R145). -/
def addNum (s1 : Bool) (m1 : Nat) (e1 : Int) (s2 : Bool) (m2 : Nat) (e2 : Int) : Val :=
  let e : Int := if e1 ≤ e2 then e1 else e2
  let x : Int := sgn s1 (m1 <<< (e1 - e).toNat) + sgn s2 (m2 <<< (e2 - e).toNat)
  if x = 0 then .num (s1 && s2) 0 0 else .num (decide (x < 0)) x.natAbs e

/-- An exact result and whether the operation was invalid (R146). -/
abbrev Exact := Val × Bool

/-- The canonical NaN as an exact result. -/
def qv : Val := .nan false false

/-- The exact sum (R145, R146): ∞ − ∞ is invalid, a signalling NaN is invalid. -/
def addV (a b : Val) : Exact :=
  match a, b with
  | .nan g _, y => (qv, g || y.isSnan)
  | x, .nan g _ => (qv, g || x.isSnan)
  | .inf s, .inf t => if s = t then (.inf s, false) else (qv, true)
  | .inf s, .num _ _ _ => (.inf s, false)
  | .num _ _ _, .inf t => (.inf t, false)
  | .num s m e, .num t n k => (addNum s m e t n k, false)

/-- The exact product (R145, R146): 0 × ∞ is invalid. -/
def mulV (a b : Val) : Exact :=
  match a, b with
  | .nan g _, y => (qv, g || y.isSnan)
  | x, .nan g _ => (qv, g || x.isSnan)
  | .inf s, .inf t => (.inf (s != t), false)
  | .inf s, .num t n _ => if n = 0 then (qv, true) else (.inf (s != t), false)
  | .num s m _, .inf t => if m = 0 then (qv, true) else (.inf (s != t), false)
  | .num s m e, .num t n k => (.num (s != t) (m * n) (e + k), false)

/-- The exact a × b + c (R145, R146). -/
def fmaV (a b c : Val) : Exact :=
  let (p, i) := mulV a b
  let (r, j) := addV p c
  (r, i || j || c.isSnan)

/-- An exact result rounded once to a format (R145, R146). -/
def roundExact (f : Fmt) (x : Exact) : FRes :=
  let r := roundVal f x.1
  { bits := r.bits, fl := r.fl ||| (if x.2 then flNV else 0) }

/-- The order of two values that are no NaN: less than, with −0 below +0 (R145). -/
def ltTotal (a b : Val) : Bool :=
  match a, b with
  | .inf s, .inf t => s && !t
  | .inf s, _ => s
  | _, .inf t => !t
  | .num s m e, .num t n k =>
    let d : Int := if e ≤ k then e else k
    let x := sgn s (m <<< (e - d).toNat)
    let y := sgn t (n <<< (k - d).toNat)
    if x = y then (x = 0 && s && !t) else decide (x < y)
  | _, _ => false

/-- The IEEE order of two values that are no NaN: −1, 0, 1, with −0 equal to +0. -/
def cmpV (a b : Val) : Int :=
  match a, b with
  | .num _ 0 _, .num _ 0 _ => 0
  | x, y => if ltTotal x y then -1 else if ltTotal y x then 1 else 0

/-- `maximumNumber` (`big`) or `minimumNumber` of two encoded operands (R145): the bits of the operand chosen. -/
def minMaxF (f : Fmt) (big : Bool) (a b : Nat) : FRes :=
  let x := decodeF f a
  let y := decodeF f b
  let nv : Fl := if x.isSnan || y.isSnan then flNV else 0
  match x.isNan, y.isNan with
  | true, true => { bits := f.qnan, fl := nv }
  | true, false => { bits := b, fl := nv }
  | false, true => { bits := a, fl := nv }
  | false, false =>
    let pickB : Bool := if big then ltTotal x y else ltTotal y x
    { bits := if pickB then b else a, fl := nv }

/-- VADD, VSUB, VMUL of encoded operands (R145). -/
def addF (f : Fmt) (a b : Nat) : FRes := roundExact f (addV (decodeF f a) (decodeF f b))
def subF (f : Fmt) (a b : Nat) : FRes := roundExact f (addV (decodeF f a) (decodeF f b).neg)
def mulF (f : Fmt) (a b : Nat) : FRes := roundExact f (mulV (decodeF f a) (decodeF f b))
/-- VFMA of encoded operands, and with `neg` VFMS (R145): one rounding. -/
def fmaF (f : Fmt) (neg : Bool) (a b c : Nat) : FRes :=
  let z := decodeF f c
  roundExact f (fmaV (decodeF f a) (decodeF f b) (if neg then z.neg else z))

/-- VSCL: round_rne(a × 2ᵏ) (R145). -/
def scaleF (f : Fmt) (a : Nat) (k : Int) : FRes :=
  match decodeF f a with
  | .nan g _ => qnanRes f g
  | .inf s => { bits := f.signBit s + f.infMag, fl := 0 }
  | .num s m e =>
    if m = 0 then { bits := f.signBit s, fl := 0 }
    else
      -- beyond ±2^13 every nonzero value overflows or is tiny whatever k is
      let k' : Int := if k > 8192 then 8192 else if k < -8192 then -8192 else k
      roundNum f s m (e + k')

/-- VABS and VNEG (R145): the sign bit alone. -/
def absF (f : Fmt) (a : Nat) : FRes := { bits := a % 2 ^ (f.width - 1), fl := 0 }
def negF (f : Fmt) (a : Nat) : FRes := { bits := a ^^^ 2 ^ (f.width - 1), fl := 0 }

/-! ## Correctly rounded functions (R147) -/

/-- The largest r below 2^k with r × r ≤ n. -/
def isqrt (k n : Nat) : Nat :=
  match k with
  | 0 => 0
  | j + 1 =>
    let r := isqrt j (n / 4)
    let t := 2 * r + 1
    if t * t ≤ n then t else 2 * r

/-- ⌊ln 2 × 2^400⌋. -/
def ln2c : Nat :=
  1789879222497203190815761498240779176894896805856420935579692301363062920687047601279850318367644315849030039181347319086

/-- Working precision of the functions below, in bits after the point. -/
def wp : Nat := 200

/-- ln 2 at the working precision. -/
def ln2w : Nat := ln2c >>> 200

/-- The Taylor sum of e^y − partial terms: y at the working precision, `t` the present term, `n` its index. -/
def expTerms (fuel : Nat) (y t n acc : Nat) : Nat :=
  match fuel with
  | 0 => acc
  | k + 1 => if t = 0 then acc else expTerms k y (((t * y) >>> wp) / (n + 1)) (n + 1) (acc + t)

/-- e^y for 0 ≤ y < 1, at the working precision. -/
def expW (y : Nat) : Nat := expTerms 80 y (2 ^ wp) 0 0

/-- The odd series z + z³/3 + z⁵/5 + …: `p` the present power, `n` its exponent, `z2` = z². -/
def atanhTerms (fuel : Nat) (z2 p n acc : Nat) : Nat :=
  match fuel with
  | 0 => acc
  | k + 1 => if p = 0 then acc else atanhTerms k z2 ((p * z2) >>> wp) (n + 2) (acc + p / n)

/-- ln x for x = m / 2^k in [1, 2), at the working precision. -/
def lnW (m k : Nat) : Nat :=
  let z := ((m - 2 ^ k) <<< wp) / (m + 2 ^ k)
  2 * atanhTerms 90 ((z * z) >>> wp) z 1 0

/-- A positive real given as m × 2^e cut off below its last bit, never exact: the sticky bit is appended. -/
def roundCut (f : Fmt) (s : Bool) (m : Nat) (e : Int) : FRes := roundNum f s (2 * m + 1) (e - 1)

/-- VEXP2 (R147), rounded into format `o`. -/
def exp2V (o : Fmt) (v : Val) : FRes :=
  match v with
  | .nan g _ => qnanRes o g
  | .inf true => { bits := 0, fl := 0 }
  | .inf false => { bits := o.infMag, fl := 0 }
  | .num s m e =>
    if m = 0 then roundNum o false 1 0
    else if (m.log2 : Int) + e > 20 then
      -- |a| > 2^20: overflows or is far below every subnormal
      if s then roundNum o false 1 (-100000) else roundNum o false 1 100000
    else if (m.log2 : Int) + e < -60 then
      -- |a| < 2^-60: just above or just below 1
      if s then roundCut o false (2 ^ 64 - 1) (-64) else roundCut o false (2 ^ 64) (-64)
    else if e ≥ 0 then roundNum o false 1 (sgn s (m <<< e.toNat))
    else
      let x : Int := sgn s m
      let k := e.natAbs
      let n : Int := x.fdiv (2 ^ k)
      let fr : Nat := (x - n * 2 ^ k).toNat
      if fr = 0 then roundNum o false 1 n
      else
        let y := (((fr <<< wp) >>> k) * ln2w) >>> wp
        roundCut o false (expW y) (n - wp)

/-- VLOG2 (R147). -/
def log2V (o : Fmt) (v : Val) : FRes :=
  match v with
  | .nan g _ => qnanRes o g
  | .inf true => qnanRes o true
  | .inf false => { bits := o.infMag, fl := 0 }
  | .num s m e =>
    if m = 0 then { bits := o.signBit true + o.infMag, fl := flDZ }
    else if s then qnanRes o true
    else
      let k := m.log2
      let n : Int := (k : Int) + e
      if m = 2 ^ k then
        if n = 0 then { bits := 0, fl := 0 } else roundNum o (decide (n < 0)) n.natAbs 0
      else
        let l := ((lnW m k) <<< wp) / ln2w
        let x : Int := n * 2 ^ wp + l
        -- the true value lies just above l, so a negative x is cut towards zero
        if x < 0 then roundCut o true (x.natAbs - 1) (-wp) else roundCut o false x.natAbs (-wp)

/-- 1/x of a finite x ≠ 0 rounded into a format. -/
def recipNum (o : Fmt) (s : Bool) (m : Nat) (e : Int) : FRes :=
  let k := m.log2 + 80
  let q := 2 ^ k / m
  if q * m = 2 ^ k then roundNum o s q (-(k : Int) - e) else roundCut o s q (-(k : Int) - e)

/-- VRCP (R147). -/
def rcpV (o : Fmt) (v : Val) : FRes :=
  match v with
  | .nan g _ => qnanRes o g
  | .inf s => { bits := o.signBit s, fl := 0 }
  | .num s m e =>
    if m = 0 then { bits := o.signBit s + o.infMag, fl := flDZ } else recipNum o s m e

/-- VSQRT (R147). -/
def sqrtV (o : Fmt) (v : Val) : FRes :=
  match v with
  | .nan g _ => qnanRes o g
  | .inf true => qnanRes o true
  | .inf false => { bits := o.infMag, fl := 0 }
  | .num s m e =>
    if m = 0 then { bits := o.signBit s, fl := 0 }
    else if s then qnanRes o true
    else
      let odd : Bool := e % 2 ≠ 0
      let m' := (if odd then 2 * m else m) <<< 120
      let e' : Int := (if odd then e - 1 else e) - 120
      let r := isqrt 120 m'
      if r * r = m' then roundNum o false r (e' / 2) else roundCut o false r (e' / 2)

/-- VRSQ (R147). -/
def rsqV (o : Fmt) (v : Val) : FRes :=
  match v with
  | .nan g _ => qnanRes o g
  | .inf true => qnanRes o true
  | .inf false => { bits := 0, fl := 0 }
  | .num s m e =>
    if m = 0 then { bits := o.signBit s + o.infMag, fl := flDZ }
    else if s then qnanRes o true
    else
      let odd : Bool := e % 2 ≠ 0
      let m' := if odd then 2 * m else m
      let e' : Int := if odd then e - 1 else e
      -- 1/√(m' 2^e') = √(2^200 / m') × 2^(−100 − e'/2)
      let r := isqrt 120 (2 ^ 200 / m')
      if r * r * m' = 2 ^ 200 then roundNum o false r (-100 - e' / 2) else roundCut o false r (-100 - e' / 2)

/-- VTANH (R147). -/
def tanhV (o : Fmt) (v : Val) : FRes :=
  match v with
  | .nan g _ => qnanRes o g
  | .inf s => roundNum o s 1 0
  | .num s m e =>
    if m = 0 then { bits := o.signBit s, fl := 0 }
    else
      let mag : Int := (m.log2 : Int) + e
      if mag < -30 then roundCut o s (m * 2 ^ 50 - 1) (e - 50)
      else if mag > 7 then roundCut o s (2 ^ 64 - 1) (-64)
      else
        -- y = 2|a| at the working precision; tanh = 1 − 2/(e^y + 1)
        let y : Nat := if e ≥ 0 then m <<< (e.toNat + 1 + wp) else (m <<< (wp + 1)) >>> e.natAbs
        let n := y / ln2w
        let ey := (expW (y - n * ln2w)) <<< n
        roundCut o s (2 ^ wp - 2 ^ (2 * wp + 1) / (ey + 2 ^ wp)) (-wp)

/-- `round_int(x)` of a finite value: nearest integer, ties to even (R7); magnitudes beyond 2^200 are cut to 2^200. -/
def roundInt (s : Bool) (m : Nat) (e : Int) : Int × Bool :=
  if e ≥ 0 then (sgn s (if e > 200 then (if m = 0 then 0 else 2 ^ 200) else m <<< e.toNat), false)
  else
    let (r, ix) := shiftRne m e.natAbs
    (sgn s r, ix)

/-- A conversion of a float value to an integer of `n` bits (R148), the bits of the result and its flags. -/
def toIntF (n : Nat) (uns : Bool) (v : Val) : FRes :=
  let clamp (x : Int) : Int := if uns then satUint n x else satInt n x
  let enc (x : Int) : Nat := (BitVec.ofInt n x).toNat
  match v with
  | .nan _ _ => { bits := 0, fl := flNV }
  | .inf s => { bits := enc (clamp (sgn s (2 ^ 200))), fl := flNV ||| flSAT ||| flNX }
  | .num s m e =>
    let (x, ix) := roundInt s m e
    let y := clamp x
    if x = y then { bits := enc y, fl := if ix then flNX else 0 }
    else { bits := enc y, fl := flNV ||| flSAT ||| flNX }

/-- A value in integer form as an exact value. -/
def valOfInt (x : Int) : Val := .num (decide (x < 0)) x.natAbs 0

/-- A conversion of an integer to a float format (R148, R428). -/
def ofIntF (f : Fmt) (sat : Bool) (x : Int) : FRes := convertVal f sat (valOfInt x)

/-! ## The array (R139, R141) -/

/-- An element of the array operand format (R139) that holds a value exactly; `m × 2^e` has at most 12 significant bits. -/
def arrOfVal (v : Val) : ArrEl :=
  match v with
  | .nan _ _ => BitVec.ofNat 21 (255 * 2 ^ 12 + 2 ^ 11)
  | .inf s => BitVec.ofNat 21 (2 ^ 20 * bnat s + 255 * 2 ^ 12)
  | .num s m e =>
    if m = 0 then BitVec.ofNat 21 (2 ^ 20 * bnat s)
    else
      let ex : Int := (m.log2 : Int) + e
      let tiny : Bool := ex < -126
      let q : Int := (if tiny then -126 else ex) - 11
      let sh : Int := e - q
      let r : Nat := if sh ≥ 0 then m <<< sh.toNat else m >>> sh.natAbs
      let field : Nat := (q + 11 + 126).toNat
      BitVec.ofNat 21 (2 ^ 20 * bnat s + 2 * (field * 2 ^ 11 + r))

/-- An encoded element in the array operand format: a NaN keeps its sign and its fraction (R139). -/
def arrOfF (f : Fmt) (b : Nat) : ArrEl :=
  match decodeF f b with
  | .nan _ s => BitVec.ofNat 21 (2 ^ 20 * bnat s + 255 * 2 ^ 12 + 2 * ((b % 2 ^ f.frac) <<< (11 - f.frac)))
  | v => arrOfVal v

/-- The pad element (R139). -/
def padEl : ArrEl := 1

/-- The value of an array element (R139). -/
def valOfArr (x : ArrEl) : Val :=
  let s := x.getLsbD 20
  let ex := bits x 19 12
  let fr := bits x 11 1
  if ex = 255 then (if fr = 0 then .inf s else .nan false s)
  else if ex = 0 then .num s fr (-137)
  else .num s (fr + 2 ^ 11) ((ex : Int) - 138)

/-- A product in the array (R137, R141): a pad product is +0, whatever the other operand. -/
def arrMul (a b : ArrEl) : Val :=
  if a.getLsbD 0 || b.getLsbD 0 then .num false 0 0 else (mulV (valOfArr a) (valOfArr b)).1

/-- `round_ext` (R141): 24 significant bits, nearest even, an exponent that never ends. -/
def roundExt (v : Val) : Val :=
  match v with
  | .num s m e =>
    if m.log2 < 24 then .num s m e
    else
      let k := m.log2 - 23
      .num s (shiftRne m k).1 (e + k)
  | x => x

/-- A sum in the array (R141): an exact zero is +0 unless every term is −0. -/
def arrAdd (p x : Val) : Val := roundExt (addV p x).1

/-- A column sum of products in the order of k (R141). -/
def columnSum (ps : List Val) : Val :=
  match ps with
  | [] => .num false 0 0
  | p :: r => r.foldl arrAdd p

/-- The Q4N codebook in 64ths (R135); none for the pad code. -/
def q4n (c : Nat) : Option (Bool × Nat) :=
  match c with
  | 0 => some (false, 0)
  | 1 => some (false, 5)
  | 2 => some (false, 10)
  | 3 => some (false, 16)
  | 4 => some (false, 24)
  | 5 => some (false, 32)
  | 6 => some (false, 40)
  | 7 => some (false, 64)
  | 9 => some (true, 5)
  | 10 => some (true, 10)
  | 11 => some (true, 16)
  | 12 => some (true, 24)
  | 13 => some (true, 32)
  | 14 => some (true, 40)
  | 15 => some (true, 64)
  | _ => none

/-- The expansion of a Q4N code with block scale `b` (R137): q(c) × (b + 1)/256. -/
def q4nEl (c b : Nat) : ArrEl :=
  match q4n c with
  | none => padEl
  | some (s, q) => arrOfVal (.num s (q * (b + 1)) (-14))

/-- FP32 as a value, and the rounding of R7 to FP32. -/
def v32 (b : Nat) : Val := decodeF .f32 b
def r32 (v : Val) : Nat := (roundVal .f32 v).bits

/-- The constants of R151 and R241. -/
def cE : Nat := 0x3FB8AA3B
def cG : Nat := 0x3F4C422A
def cK : Nat := 0x3D372713
def c3 : Nat := (roundVal .f32 (mulV (v32 cK) (.num false 3 0)).1).bits
def one32 : Nat := 0x3F800000
def half32 : Nat := 0x3F000000

end Sys2Proof.Machine
end

