-- ==== Sys2Proof/Machine/Tab.lean ====
section
/-! DEFINITION. Sparse tables by number: the form in which `State` holds register files, units and queues that are mostly
at their reset value. A key that is not listed has the table's default value. -/

namespace Sys2Proof.Machine

/-- A table from numbers to values; the first entry of a key is its value. -/
abbrev Tab (α : Type) := List (Nat × α)

/-- The entry of key `k`, if one is listed. -/
def Tab.find {α : Type} (t : Tab α) (k : Nat) : Option α :=
  match t with
  | [] => none
  | (j, a) :: r => if j = k then some a else Tab.find r k

/-- The value of key `k`: its entry, or the default `d`. -/
def Tab.get {α : Type} (t : Tab α) (k : Nat) (d : α) : α :=
  match t.find k with
  | some a => a
  | none => d

/-- The table with `k` holding `a`. -/
def Tab.set {α : Type} (t : Tab α) (k : Nat) (a : α) : Tab α :=
  match t with
  | [] => [(k, a)]
  | (j, b) :: r => if j = k then (k, a) :: r else if k < j then (k, a) :: (j, b) :: r else (j, b) :: Tab.set r k a

/-- The table without an entry for `k`. -/
def Tab.erase {α : Type} (t : Tab α) (k : Nat) : Tab α :=
  t.filter (fun e => !(e.1 == k))

/-- Every listed value changed. -/
def Tab.mapV {α : Type} (t : Tab α) (f : α → α) : Tab α := t.map (fun e => (e.1, f e.2))

/-- The keys of a table. -/
def Tab.keys {α : Type} (t : Tab α) : List Nat := t.map (fun e => e.1)

end Sys2Proof.Machine
end

