-- ==== Sys2Proof/Machine/State.lean ====
section
/-! DEFINITION. The state of the module as plain data: every piece of state the spec names, from a context's registers (R31,
R78 to R91) through a core's array (R153), the stores and their tags (R94 to R104), the engines (R106 to R130, R245), the
dispatchers (R196 to R207), the faults (R210 to R226), the host side (R259 to R273) and Owl (R274 to R282). -/

namespace Sys2Proof.Machine

/-- Why a step stops the model. Raised by an event that names a unit the module does not have (R15, R16, R22): no such
event exists on the part, so the stop is safe. -/
inductive Fault where
  /-- An event's argument names a tower, core, engine, layer or queue that the module does not have: safe. -/
  | noSuchUnit
  deriving DecidableEq, Repr

/-- Why an instruction has no outcome. -/
inductive Refusal where
  /-- The arm of an instruction whose meaning has not been written: `exec` alone raises it; safe. -/
  | notModelled (mnemonic : String)
  deriving DecidableEq, Repr

/-- What became of the last operation that `exec` ran: `issued` it had its effect; `waits` it cannot issue yet and nothing
changed (R54 to R63); `trapped` it took a context-path fault (R208) or a precise stop (R210). -/
inductive Last where
  | idle | issued | waits | trapped
  deriving DecidableEq, Repr

/-- A loop-stack entry (R70). -/
structure LoopEntry where
  start : Word
  stop : Word
  count : Word
  deriving DecidableEq, Repr

/-- A slot operation between its dispatch and its issue (R53, R57), and an undone operation of a replay window (R210): the
bundle's place in program order and address, the slot, the lent bits of the slot, whether the bundle carries a header, the
addressing bits VWB.ABSD and VWB.ABSS at dispatch (R211), and the captured scalar and address operands by register code. -/
structure QOp where
  seq : Nat
  addr : Word
  slot : Nat
  ins : Instr
  lent : Nat
  hdr : Bool
  absd : Bool
  abss : Bool
  caps : List (Nat × Word)
  /-- Operands that an earlier operation of the same slot supplies (R56): register code, the producer's bundle. -/
  links : List (Nat × Nat)
  deriving DecidableEq, Repr

/-- A pending write of a V, M or L operation (R60): `val` is none while the value of a translated access is outstanding; `ready`
is the core's cycle in which the producer's latency has elapsed; `released` once a later realigning bundle has issued. -/
structure Pend where
  seq : Nat
  slot : Nat
  reg : Nat
  val : Option Word
  ready : Nat
  released : Bool
  deriving DecidableEq, Repr

/-- A FENCE whose successors may still be held (R187). -/
structure FenceRec where
  seq : Nat
  pred : BitVec 6
  succ : BitVec 6
  scope : Nat
  deriving DecidableEq, Repr

/-- A control transfer whose delay slots are still to execute (R66); `late` tells that fetch went the other way, so that the bundle
after the delay slots dispatches 5 cycles later (R68, R69, R75). -/
structure Delay where
  left : Nat
  target : Option Word
  eret : Bool
  late : Bool
  deriving DecidableEq, Repr

/-- What an X-slot operation that holds dispatch is waiting for: the release of a GSYNC phase (R351), the answer of an
egress queue (R266, `ahead` once it has answered), or the walk of REVERSE (R240), which ends or meets a fault. After a YIELD or END bundle has issued,
`switching` and `ending` hold dispatch until every slot queue has issued (R34, R43). -/
inductive Hold where
  | none | gsync | gsyncDone | asked | answered (ahead : Bool) | walk (table : Word) | walked | walkFault (code info : Nat) | switching | ending
  deriving DecidableEq, Repr

/-- A ganged span (R170): the leader, the members in ascending sett index with their contexts, the completion barrier, and the
member cores whose row reads met a corrected error (R223). -/
structure Gang where
  leadCore : Nat
  leadCtx : Nat
  members : List (Nat × Nat)
  baren : Bool
  baroff : Nat
  soft : List Nat
  deriving DecidableEq, Repr

/-- The log record of an open recorded span (R235): its header's address, its policy, the beat entries and the data area
so far, the beats of each kind, the rows zeroed before their first MACC, the rows accumulated, and for each window register
the bytes that qualifying MDRAINs wrote and whether one did not qualify (R236). -/
structure RecSpan where
  addr : Nat
  word0 : Word
  opc : SlotWord
  rflag : Nat
  beats : List Word
  data : List Byte
  counts : Tab Nat
  zeroed : List Nat
  maccd : List Nat
  drained : Tab Nat
  spoiled : List Nat
  deriving DecidableEq, Repr

/-- An open matrix span of a context (R167, R170): the bundle that opened it (MSPAN, MGANG or FOLLOW) and its place in program
order, its shape word, the gang it belongs to, the beats since it opened (R172), the record being written. -/
structure Span where
  addr : Word
  seq : Nat
  shape : Word
  gang : Option Gang
  beat : Nat
  record : Option RecSpan
  deriving DecidableEq, Repr

/-- A translation held until XINV discards it (R99): the page's first virtual address, its size, its entry. -/
structure Held where
  va : Nat
  size : Nat
  pte : Word
  deriving DecidableEq, Repr

/-- The context control registers that are not derived from other state (R83 to R91, R229). -/
structure Csr where
  vwbBase : BitVec 10
  abss : Bool
  absd : Bool
  awbBase : BitVec 14
  awbLen : BitVec 14
  resumed : Bool
  rev : Bool
  recording : Bool
  disc : Bool
  done : BitVec 4
  fpcsr : BitVec 6
  logptr : Word
  loglim : Word
  revcur : Word
  fpc : Word
  finfo : Word
  faddr : Word
  ptbase : Word
  deriving DecidableEq, Repr

/-- What handler entry sets aside (R213): the replay window (the undone operations of each slot), the saved next PC, a
transfer whose delay slots were still to come, a switch that YIELD or END has still to make, and both stacks. -/
structure SetAside where
  vq : List QOp
  mq : List QOp
  lq : List QOp
  npc : Word
  delay : Option Delay
  loops : List LoopEntry
  masks : List Mask
  /-- The bundles dispatched before the handler was entered (R214). -/
  seq : Nat
  hold : Hold
  /-- Beats of an aborted span that the window still holds are discarded (R173). -/
  mdiscard : Bool
  deriving DecidableEq, Repr

/-- A context (R31, R32). Registers by the 7-bit code of R285: s0 to s63 are 0 to 63, a0 to a15 are 64 to 79. -/
structure Ctx where
  /-- Bound to a member of a task (R31); a context that is not bound is free. -/
  bound : Bool
  /-- END has issued (R43). -/
  ended : Bool
  /-- Stopped by a precise stop (R33, R210), and the stop's reason (R219: 0 request, 1 fault, 2 debugger). -/
  stopped : Bool
  stopReason : Nat
  /-- The bound task, the member index, the image identifier (R32, R45). -/
  task : Nat
  member : Nat
  image : BitVec 24
  /-- Program counter: the bundle that dispatch takes next (R31). -/
  pc : Word
  delay : Option Delay
  loops : List LoopEntry
  masks : List Mask
  regs : Tab Word
  /-- Dependence tokens: bit n is 1 while dn is incomplete (R61), and how often each has been produced (R62). -/
  tokens : BitVec 32
  gens : Tab Nat
  ld : Nat
  st : Nat
  cp : Nat
  mx : Nat
  csr : Csr
  /-- Range entries: word j of entry i at 8i + j (R83, R95). -/
  ranges : Tab Word
  /-- Active and shadow configuration planes: bytes 0 to 59 of each line (R206). -/
  active : Tab (BitVec 480)
  shadow : Tab (BitVec 480)
  /-- Spill partition, and its doublewords whose parity fails (R82). -/
  spill : Tab Word
  spillBad : List Nat
  /-- Handler address, 0 for none, and handler state (R213). -/
  hvec : Word
  handler : Option SetAside
  /-- Slot queues (R53): operations dispatched and not issued, oldest first. -/
  vq : List QOp
  mq : List QOp
  lq : List QOp
  /-- Bundles dispatched (program order), the last X-slot write of each register, and the last realigning bundle (R60). -/
  seq : Nat
  xw : Tab Nat
  pend : List Pend
  fences : List FenceRec
  hold : Hold
  /-- Flags of operations in flight: the dispatch cycle in which they reach FPCSR, and the flags (R87). -/
  flags : List (Nat × BitVec 6)
  span : Option Span
  /-- Held page-table translations (R99), and whether this core keeps them (the spec says it may). -/
  tlb : List Held
  keepTlb : Bool
  /-- Producer table of record mode (R236): window register to record address and the depth of that record's own C chain; rows
  read per ring and kind since RECON (R235); the bundle of the last RECON, whose own operations are not recorded (R385). -/
  prods : Tab (Nat × Nat)
  rowix : Tab Nat
  recSeq : Nat
  /-- Loads whose value came from a store still buffered (R178): the load's bundle, the store and its part. -/
  supplied : List (Option Nat × Nat × Nat)
  /-- The last bundle dispatched (R279). -/
  lastAddr : Word
  /-- ABSD and ABSS as bundles still see them after a CSRW of VWB: until which dispatch cycle, and the old bits (R335). -/
  absLag : List (Nat × Bool × Bool)
  /-- Beats up to and including the next MEND are discarded: the context led a ganged span that aborted (R173). -/
  mdiscard : Bool
  /-- X-slot results of a latency above 1 that the X view of dispatch does not show yet (R57, R76): the register, the value that the
  view still shows, the cycle from which on it shows the new one. -/
  late : List (Nat × Word × Nat)
  /-- The first cycle in which the next bundle may dispatch (R68). -/
  fetchAt : Nat
  /-- Operations of bundles before this place in program order stand in a replay window, and go before dispatch (R211). -/
  replay : Nat
  /-- The barrier objects that the context made, or that were made for it at binding, by offset in units of 64 bytes (R206, R219). -/
  bars : List Nat
  /-- MACC, MDRAIN and MZERO that have issued and have still to write (R76, R186): the bundle, the cycle of the core in which the row or slice is
  written. -/
  rowWrites : List (Nat × Nat)
  deriving DecidableEq, Repr

/-- A row in the array or its latch queue, with its mode (R153, R162): 64 FP32 or INT32 lanes. -/
structure LatchRow where
  row : AccRow
  isInt : Bool
  deriving DecidableEq, Repr

/-- A core's matrix array (R153). A plane is 64 columns of 128 entries of 21 bits (R139): column n holds entry k at bits
[21k + 20:21k]. `flip` says which plane is active. -/
structure Arr where
  p0 : Tab (BitVec 2688)
  p1 : Tab (BitVec 2688)
  tag0 : Nat
  tag1 : Nat
  flip : Bool
  inflight : List LatchRow
  latch : List LatchRow
  scaleq : List (BitVec 8)
  owner : Option Nat
  deriving DecidableEq, Repr

/-- A core's side of an operand ring (R122, R123): the instance by its slot 0, the cursor, ROFF (R153), the configuring context, and for
slots that have landed the core's cycle from which on their rows are present (R158). -/
structure Ring where
  inst : Nat
  cursor : BitVec 16
  roff : Nat
  ctx : Nat
  present : List (BitVec 16 × Nat)
  deriving DecidableEq, Repr

/-- A watermark register (R121): the range [LO, HI), MARK, the runs of bytes above MARK that have landed, and the task that bound it, whose
pre-emption releases it (R443). -/
structure WMark where
  lo : Nat
  hi : Nat
  mark : Nat
  got : List (Nat × Nat)
  task : Nat
  deriving DecidableEq, Repr

/-- The kind of an outstanding translated access; `value` is an atomic that has performed and whose old value is on its way, `log` a write
of the record engine (R231, R233). -/
inductive OutKind where
  | load | store | atomic | tagset | value | log
  deriving DecidableEq, Repr

/-- A run of bytes of an access: its physical address and length, the place of its first byte in the register or value, and its
bytes: those to be stored, or those that a load has read. -/
structure Piece where
  pa : Nat
  len : Nat
  off : Nat
  val : Nat
  deriving DecidableEq, Repr

/-- A part of an outstanding access, which performs as one (R179): a scalar access, an aligned 8-byte part of a vector access, an
element of an indexed one, a granule of a lock write. `gran` are the bytes whose locks are checked (R102), none where they are not;
`ptr` is the pointer of a fault. `stage` is where a store stands (R177): 0 issued, 1 the core's write queue, 2 the pair's port, 3 the
sett router, 4 the tower bridge port; `stamp` is its place in that buffer. A part that has performed is `done`. -/
structure OutPart where
  pieces : List Piece
  gran : List (Nat × Nat)
  ptr : Word
  stage : Nat
  stamp : Nat
  done : Bool
  deriving DecidableEq, Repr

/-- An outstanding translated access (R64, R177). `vals` are an atomic's operand and compare value, then its old value and flags. -/
structure Out where
  id : Nat
  ctx : Nat
  kind : OutKind
  op : QOp
  parts : List OutPart
  vals : List Nat
  deriving DecidableEq, Repr

/-- A write of a shared vector register or accumulator row that has issued and lands at issue plus latency (R181): the resource as
R55 numbers it, the writing context (8 once that context has been bound anew), the cycle in which it lands, the value before and the value
written, the bytes that it covers, none when it covers them all (R32); `beaten` once a write issued after it by another context has landed
before it. -/
structure Air where
  res : Nat
  ctx : Nat
  ready : Nat
  old : Nat
  val : Nat
  cover : Option Mask
  beaten : Bool
  deriving DecidableEq, Repr

/-- A span that MEND has closed and that has not retired (R168, R172); for each of its cores the first cycle in which its last MACC, MDRAIN
and MZERO have written. -/
structure Retiring where
  ctx : Nat
  gang : Option Gang
  ready : List (Nat × Nat)
  deriving DecidableEq, Repr

/-- An entry of a span table, or the unspanned set (R280): the address of an MSPAN or MGANG (0 for the unspanned set) and the cycles
counted in each class, numbered 0 to 4 in the order of R174. -/
structure ProfEntry where
  addr : Word
  counts : Tab Nat
  deriving DecidableEq, Repr

/-- A core (R17, R31). -/
structure Core where
  ctxs : Tab Ctx
  /-- The context that holds the core, and the last switching context (R33, R35). -/
  running : Option Nat
  lastSwitch : Nat
  vregs : Tab VReg
  acc : Tab AccRow
  arr : Arr
  rings : Tab Ring
  wm : Tab WMark
  outs : List Out
  retiring : List Retiring
  /-- The span table, the entry most recently used first, and the unspanned set (R280); the class of the core's last cycle (R174). -/
  prof : List ProfEntry
  unspanned : ProfEntry
  cls : Nat
  /-- Cycles that this core has run: the clock of R60, R87 and R335. -/
  clock : Nat
  /-- What is in use for a time (R76), as numbers, and the first cycle in which it is not: units, registers, the divider. -/
  busy : List (Nat × Nat)
  /-- Writes of vector registers and rows that have not landed, in the order of issue (R181). -/
  air : List Air
  /-- The first cycle in which every MACC, MDRAIN and MZERO that has issued has written (R163 to R165, R168). -/
  drain : Nat
  deriving DecidableEq, Repr

/-- An instance of an operand ring (R122, R123), known by its sett and the physical address of slot 0: the descriptor that formed
it (`field` is its BASE), HEAD and TAIL, and the live bits of each slot. -/
structure RingInst where
  sett : Nat
  base : Nat
  field : Nat
  loc : Nat
  count : Nat
  slotsz : Nat
  cmask : BitVec 16
  head : BitVec 16
  tail : BitVec 16
  live : Tab (BitVec 16)
  deriving DecidableEq, Repr

/-- A resident line of an instruction cache (R45): image identifier, bundle address, bundle. -/
structure ILine where
  image : BitVec 24
  addr : Word
  bundle : BundleWord
  deriving DecidableEq, Repr

/-- The kinds of engine command (R106, R249, R265). -/
inductive CmdKind where
  | copy | cslice | stream | send | recv | pldec | pland | plor | pltopk | plfuse | egq
  deriving DecidableEq, Repr

/-- A part of a row that an engine reads: an aligned 8-byte part or less of its source (R179, R331), with its place in the row's buffer;
whether it has been read, and whether it met poison and a corrected error. -/
structure RowPart where
  piece : Piece
  done : Bool
  bad : Bool
  soft : Bool
  deriving DecidableEq, Repr

/-- A row on its way to its homes (R189): the parts still to perform, with whether each carries poison (R224), the virtual bytes that it
covers (R121), and its credit: bytes, code, flags, row. -/
structure Landing where
  parts : List (Piece × Bool)
  vas : List (Nat × Nat)
  bytes : Nat
  code : Nat
  flags : Nat
  ix : Nat
  deriving DecidableEq, Repr

/-- An accepted engine command: the issuer and its place in program order, the produced token and the dependencies as
(token, generation) pairs (R61, R62), the captured control block and tables, the next row (R115, R218), whether every source
byte has been read (R186), the bytes delivered, the count of landed bytes of a receive, and the error that stops it. -/
structure Cmd where
  id : Nat
  kind : CmdKind
  core : Nat
  ctx : Nat
  task : Nat
  seq : Nat
  tok : Nat
  deps : List (Nat × Nat)
  ccb : List Word
  aux : List Word
  row : Nat
  read : Bool
  landed : Nat
  buf : List Byte
  slots : List (Nat × Nat)
  error : Option (Nat × Nat × Nat)
  /-- The translation of the issuing context at issue (R329): range entries, PTBASE, held pages. -/
  ranges : Tab Word
  ptbase : Word
  tlb : List Held
  /-- Attributes of the first byte of the source and of the destination, 0 while unknown (R112). -/
  refS : Nat
  refD : Nat
  /-- Ring landing: stream bytes landed in each instance, poisoned stream bytes, credits that wait for bytes to land (R123). -/
  lands : List Nat
  bad : List Nat
  credits : List (List Nat)
  /-- A stream's input so far (R128). -/
  inp : List Byte
  /-- The source of the row being read, part by part, and the rows that are on their way to their homes (R189, R331). -/
  src : Option (List RowPart)
  landing : List Landing
  /-- The 8-byte words, by physical address div 8, of slots still to land whole that have landed already (R123, R189). -/
  early : List Nat
  deriving DecidableEq, Repr

/-- An engine with a queue of commands and at most one running (R113, R245). -/
structure Engine where
  queue : List Cmd
  running : Option Cmd
  deriving DecidableEq, Repr

/-- A network send queue of a tower (R130, R262): its binding, commands queued, the sends and the receives in flight, oldest
first, the bytes of a truncated message that are still to be discarded (R379), and the port that it holds to under ROD (R261). -/
structure SendQ where
  peer : Word
  word1 : Word
  queue : List Cmd
  sends : List Cmd
  recvs : List Cmd
  skip : Nat
  port : Option Nat
  deriving DecidableEq, Repr

/-- A tower layer (R18, R28, R30, R90, R225): protection mode and the mode to come, spares and lanes in use, failing banks
and lanes, the retired extent in bytes, and whether the recovery delay has expired. -/
structure Layer where
  detect : Bool
  nextDetect : Option Bool
  spares : Nat
  lanes : Nat
  banks : List Nat
  badLanes : List Nat
  retired : Option Nat
  forced : Bool
  deriving DecidableEq, Repr

/-- An event of the tag-assignment trace (R104, R282); `id` numbers the lock write that it belongs to. -/
structure TagEvent where
  id : Nat
  lo : Nat
  hi : Nat
  lock : BitVec 4
  core : Nat
  ctx : Nat
  addr : Word
  deriving DecidableEq, Repr

/-- The stage of a task of a launched graph (R41, R42, R44). -/
inductive TaskStage where
  | waiting | runnable | placing | running | retired
  deriving DecidableEq, Repr

/-- A task of a launched graph: the descriptor as read at launch, its stage, the cycle in which it became runnable, its
priority as aged (R47), whether it has been passed over (R204), its CFGCRC failures (R206), which named barriers fired. -/
structure TaskSt where
  desc : List Word
  stage : TaskStage
  order : Nat
  queued : Bool
  prio : Nat
  passed : Bool
  fails : Nat
  fired : BitVec 4
  deriving DecidableEq, Repr

/-- A launched graph (R198, R200, R201). -/
structure Graph where
  order : Nat
  desc : List Word
  base : Nat
  tasks : Tab TaskSt
  code : Nat
  ftask : Nat
  rejected : Bool
  abandoned : Bool
  torndown : Bool
  dlaunch : Nat
  retired : Nat
  deriving DecidableEq, Repr

/-- A descriptor on its way to a Marten (R196, R197): from a host queue, or from a context (module core, context, tower and
graph order of the launching task). -/
structure Launch where
  desc : List Word
  host : Option Nat
  core : Nat
  ctx : Nat
  /-- The launching task, its tower and its graph's launch order. -/
  task : Nat
  tower : Nat
  graph : Nat
  /-- Firings that have reached the Marten since the launch did (R41, R200): pair of the tower, offset. -/
  fires : List (Nat × Nat)
  deriving DecidableEq, Repr

/-- A SIGNAL on its way to its Marten (R398, R399): the issuing core, its graph, its task, the task index it names. -/
structure SignalMsg where
  core : Nat
  graph : Nat
  src : Nat
  idx : Nat
  deriving DecidableEq, Repr

/-- A placement between TASK_PLACE and CONTEXT_BIND (R206): graph, task index, descriptor read at placement, members, and
the cycle of its Marten in which it binds. -/
structure Placing where
  graph : Nat
  idx : Nat
  desc : List Word
  members : List (Nat × Nat)
  due : Nat
  deriving DecidableEq, Repr

/-- The dispatcher of a tower (R196 to R207). -/
structure Marten where
  inflight : List Launch
  arrivals : List Launch
  signals : List SignalMsg
  counters : Tab Nat
  graphs : List Graph
  placing : List Placing
  /-- Graphs launched so far, by which they are numbered (R204). -/
  orders : Nat
  /-- Cycles that have passed (R204); the last source of a decrement in this one (R203); whether a task has been placed in it. -/
  cycle : Nat
  lastSrc : Nat
  placed : Bool
  /-- Fault-queue records held until a slot frees (R215), as eight words. -/
  records : List (List Word)
  deriving DecidableEq, Repr

/-- A breakpoint (R275). -/
structure Breakpoint where
  addr : Word
  ctl : Word
  deriving DecidableEq, Repr

/-- A tower's Owl (R274 to R281). -/
structure Owl where
  cmd : Word
  data : Word
  pend : Bool
  result : Nat
  settling : Bool
  /-- A STEP has still to issue its operation (R277). -/
  stepping : Bool
  trbase : Word
  wptr : BitVec 32
  trctl : Word
  errctl : Word
  erradr : Word
  errseen : Nat
  bps : Tab Breakpoint
  deriving DecidableEq, Repr

/-- A tower (R15, R16, R24, R26, R91, R104, R130, R245). -/
structure Tower where
  tmode : Bool
  nextTmode : Option Bool
  throt : Nat
  /-- The power level in force, and one that waits for the tower's next throttle window (R26, R29). -/
  plevel : Nat
  nextPlevel : Option Nat
  layers : Tab Layer
  flags : Tab (BitVec 64)
  trace : List TagEvent
  sendq : Tab SendQ
  copyEng : Tab Engine
  walkers : Tab Engine
  badgers : Tab Engine
  marten : Marten
  owl : Owl
  deriving DecidableEq, Repr

/-- A stage of pre-emption (R216 to R219). -/
inductive PreStage where
  | requested | halted | saved | unfit
  deriving DecidableEq, Repr

/-- A pre-emption of a gang (R216): the save areas (base, size in units of 64 KiB), the live runs of the image's .live declarations
(0 vector registers, 1 accumulator rows, 2 pair store; first, count), the landed members, the commands recorded (R218) with their
engine (0 copy engine, 1 Hare, 2 send queue, 3 Badger, 4 egress queue; its number), credits and completions held for the
restore, and the members' contexts as saved: what the sections of R219 do not carry. -/
structure Preempt where
  areas : List (Nat × Nat)
  live : List (Nat × Nat × Nat)
  landed : List Nat
  stage : PreStage
  recorded : List (Nat × Nat × Cmd)
  held : List (List Nat)
  saved : List Ctx
  deriving DecidableEq, Repr

/-- A task placed and not retired (R38, R42): its tower and graph, its index, its descriptor read at placement, its members
as (module core, context), the members freed, the members that have reached GSYNC, its pre-emption. -/
structure BoundTask where
  tower : Nat
  graph : Nat
  idx : Nat
  desc : List Word
  members : List (Nat × Nat)
  freed : List Nat
  arrived : List Nat
  pre : Option Preempt
  deriving DecidableEq, Repr

/-- An entry of an egress release queue, or a veto record on its way out (R264 to R267). -/
structure EgItem where
  stream : Nat
  seq : Nat
  last : Nat
  veto : Bool
  plen : Nat
  payload : List Byte
  released : Bool
  deriving DecidableEq, Repr

/-- A stream of an egress release queue (R264). -/
structure EgStream where
  next : Nat
  setl : Nat
  deriving DecidableEq, Repr

/-- A RELEASE or VETO waiting for its answer (R266). -/
structure EgAsk where
  core : Nat
  ctx : Nat
  veto : Bool
  stream : Nat
  q : Nat
  deriving DecidableEq, Repr

/-- The egress release queue of an edge die (R264). -/
structure Egress where
  streams : Tab EgStream
  items : List EgItem
  asks : List EgAsk
  queue : List Cmd
  deriving DecidableEq, Repr

/-- An entry of the management error log (R223, R260, R263). A correction is logged with its layer, bank and row. -/
inductive ErrEntry where
  | hostRefused (addr : Nat) (write : Bool)
  | corrected (addr layer bank row : Nat)
  | sendAbandoned (queue : Nat) (peer : Word)
  deriving DecidableEq, Repr

/-- A ring that the device fills and the host empties (R273). -/
structure HostRing where
  base : Word
  slots : Word
  head : Word
  tail : Word
  deriving DecidableEq, Repr

/-- The management registers (R271, R272) and the security processor's state (R269, R270). -/
structure Mgmt where
  doorbells : List Nat
  ldoorbell : Word
  lqtab : Word
  lqnext : Nat
  alarms : BitVec 4
  lqnum : BitVec 4
  errlog : List ErrEntry
  /-- ERRLOG: base and size, as firmware wrote them (R271). -/
  errbase : Word
  errsize : Word
  modeset : Word
  fqs : Tab HostRing
  egrings : Tab HostRing
  egrst : Word
  imginv : BitVec 24
  imgpend : List Nat
  nonce : Tab Word
  attreq : Bool
  attwin : List Byte
  measure : BitVec 256
  digests : List (BitVec 256)
  failedStage : Option Nat
  deriving DecidableEq, Repr

/-- The Aflan link (R259): sequence numbers, the replay buffer of flits sent and not acknowledged, payloads accepted, the negative
acknowledgements of each flit, and retraining, during which transactions wait. -/
structure Link where
  rxSeq : BitVec 12
  txSeq : BitVec 12
  replay : List (List Byte)
  sent : List (List Byte)
  accepted : List (List Byte)
  naks : Tab Nat
  retraining : Bool
  deriving DecidableEq, Repr

/-- What a slot operation that `exec` runs acts for: module core, context, bundle, slot, captured operands (empty for the X
slot, which reads the X view), lent bits, header, addressing bits, the slots of the bundle that hold an operation. -/
structure Focus where
  core : Nat
  ctx : Nat
  slot : Nat
  seq : Nat
  addr : Word
  caps : List (Nat × Word)
  lent : Nat
  hdr : Bool
  absd : Bool
  abss : Bool
  /-- Bit n: slot n of the bundle holds an operation (R210, R283). -/
  present : BitVec 4
  /-- The operation is issued by an Owl STEP (R277). -/
  step : Bool
  /-- The bytes of the vector register that the operation has written, none when all of them (R32, R81). -/
  cover : Option Mask
  deriving DecidableEq, Repr

/-- The module. -/
structure State where
  /-- Memory: every pair store, layer and LPDDR6 by physical address (R100), in canonical form: addresses strictly rising,
  no zero byte listed. -/
  mem : List Host.Cell
  /-- Locks by granule, physical address div 32 (R102). -/
  locks : Tab (BitVec 4)
  /-- The lock write that set the lock of a granule (R104). -/
  lockBy : Tab Nat
  /-- Words marked poisoned, and words with a correctable error, by physical address div 8 (R223). -/
  poison : List Nat
  soft : List Nat
  cores : Tab Core
  towers : Tab Tower
  /-- Instruction caches by module pair, most recently used line first (R45). -/
  icaches : Tab (List ILine)
  insts : List RingInst
  /-- Hare engines 0 to 3 and egress queues 0 and 1 (R22). -/
  hares : Tab Engine
  egress : Tab Egress
  tasks : Tab BoundTask
  mgmt : Mgmt
  link : Link
  /-- Packets handed to the network, as (send queue 16t + q, port, bytes) (R130, R261), and host read completions (R260). -/
  netOut : List (Nat × Nat × List Byte)
  hostOut : List (Bool × List Byte)
  /-- Numbers for tasks, commands and accesses. -/
  nextTask : Nat
  nextCmd : Nat
  nextOut : Nat
  /-- THE MODEL'S OWN: the operation being run, what became of the last one, events from outside that are to happen next,
  choices of the next move (0, the first, when empty), the core that moves next, a counter for free values. -/
  focus : Focus
  last : Last
  inputs : List Instr
  sched : List Nat
  nextCore : Nat
  free : Nat
  deriving DecidableEq, Repr

/-- CSRs at reset (R84 to R89, R229); PTBASE and the window bases come from a zero configuration plane (R206). -/
def Csr.reset : Csr :=
  { vwbBase := 0, abss := false, absd := false, awbBase := 0, awbLen := 0, resumed := false, rev := false,
    recording := false, disc := false, done := 0, fpcsr := 0, logptr := 0, loglim := 0, revcur := 0, fpc := 0,
    finfo := 0, faddr := 0, ptbase := 0 }

/-- A free context (R31, R32). -/
def Ctx.reset : Ctx :=
  { bound := false, ended := false, stopped := false, stopReason := 0, task := 0, member := 0, image := 0, pc := 0,
    delay := none, loops := [], masks := [], regs := [], tokens := 0, gens := [], ld := 0, st := 0, cp := 0, mx := 0,
    csr := Csr.reset, ranges := [], active := [], shadow := [], spill := [], spillBad := [], hvec := 0, handler := none,
    vq := [], mq := [], lq := [], seq := 0, xw := [], pend := [], fences := [], hold := .none, flags := [], span := none,
    tlb := [], keepTlb := true, prods := [], rowix := [], recSeq := 0, supplied := [], lastAddr := 0, absLag := [], mdiscard := false,
    late := [], fetchAt := 0, replay := 0, bars := [], rowWrites := [] }

/-- The array at module reset (R153): planes +0, tag BF16 (FMT 0), nothing queued, no owner. -/
def Arr.reset : Arr :=
  { p0 := [], p1 := [], tag0 := 0, tag1 := 0, flip := false, inflight := [], latch := [], scaleq := [], owner := none }

def ProfEntry.reset : ProfEntry := { addr := 0, counts := [] }

/-- A core at module reset. -/
def Core.reset : Core :=
  { ctxs := [], running := none, lastSwitch := 7, vregs := [], acc := [], arr := Arr.reset, rings := [], wm := [],
    outs := [], retiring := [], prof := [], unspanned := ProfEntry.reset, cls := 4, clock := 0, busy := [], air := [], drain := 0 }

/-- A watermark register at module reset: the empty range. -/
def WMark.reset : WMark := { lo := 0, hi := 0, mark := 0, got := [], task := 0 }

def Engine.reset : Engine := { queue := [], running := none }

/-- A send queue at module reset: unbound (R262). -/
def SendQ.reset : SendQ := { peer := 0, word1 := 0, queue := [], sends := [], recvs := [], skip := 0, port := none }

/-- A layer at module reset (R28, R90): SEC-DED. -/
def Layer.reset : Layer :=
  { detect := false, nextDetect := none, spares := 0, lanes := 0, banks := [], badLanes := [], retired := none,
    forced := false }

def Marten.reset : Marten :=
  { inflight := [], arrivals := [], signals := [], counters := [], graphs := [], placing := [], orders := 0, cycle := 0, lastSrc := 0, placed := false,
    records := [] }

def Breakpoint.reset : Breakpoint := { addr := 0, ctl := 0 }

/-- Owl at module reset (R275, R278, R281). -/
def Owl.reset : Owl :=
  { cmd := 0, data := 0, pend := false, result := 0, settling := false, stepping := false, trbase := 0, wptr := 0, trctl := 0, errctl := 0,
    erradr := 0, errseen := 0, bps := [] }

/-- A tower at module reset (R26, R89, R91; R29: power level 3). -/
def Tower.reset : Tower :=
  { tmode := false, nextTmode := none, throt := 0, plevel := 3, nextPlevel := none, layers := [], flags := [], trace := [], sendq := [], copyEng := [],
    walkers := [], badgers := [], marten := Marten.reset, owl := Owl.reset }

def EgStream.reset : EgStream := { next := 0, setl := 0 }

def Egress.reset : Egress := { streams := [], items := [], asks := [], queue := [] }

def HostRing.reset : HostRing := { base := 0, slots := 0, head := 0, tail := 0 }

/-- The management side at module reset (R269: M starts at 32 zero bytes; R272). -/
def Mgmt.reset : Mgmt :=
  { doorbells := [], ldoorbell := 0, lqtab := 0, lqnext := 0, alarms := 0, lqnum := 0, errlog := [], errbase := 0,
    errsize := 0, modeset := 0x30000000000, fqs := [], egrings := [], egrst := 0, imginv := 0, imgpend := [],
    nonce := [], attreq := false, attwin := [], measure := 0, digests := [], failedStage := none }

def Link.reset : Link :=
  { rxSeq := 0, txSeq := 0, replay := [], sent := [], accepted := [], naks := [], retraining := false }

def Focus.reset : Focus :=
  { core := 0, ctx := 0, slot := 0, seq := 0, addr := 0, caps := [], lent := 0, hdr := false, absd := false,
    abss := false, present := 0, step := false, cover := none }

/-- The machine right after module reset. -/
def State.reset : State :=
  { mem := [], locks := [], lockBy := [], poison := [], soft := [], cores := [], towers := [], icaches := [], insts := [], hares := [],
    egress := [], tasks := [], mgmt := Mgmt.reset, link := Link.reset, netOut := [], hostOut := [], nextTask := 0,
    nextCmd := 0, nextOut := 0, focus := Focus.reset, last := .idle, inputs := [], sched := [], nextCore := 0, free := 0 }

end Sys2Proof.Machine
end

