-- ==== Sys2Proof/Machine/Units.lean ====
section
/-! DEFINITION. Reading and changing the units of the module: towers, cores, contexts (R15 to R17, R31). Every meaning reaches
a unit through these. -/

namespace Sys2Proof.Machine

/-- Module core `c` (R16). -/
def State.core (s : State) (c : Nat) : Core := s.cores.get c Core.reset
/-- The module with core `c` as given. -/
def State.setCore (s : State) (c : Nat) (k : Core) : State := { s with cores := s.cores.set c k }
/-- The module with core `c` changed. -/
def State.modCore (s : State) (c : Nat) (f : Core → Core) : State := s.setCore c (f (s.core c))

/-- Context `x` of a core. -/
def Core.ctx (k : Core) (x : Nat) : Ctx := k.ctxs.get x Ctx.reset
/-- The core with context `x` as given. -/
def Core.setCtx (k : Core) (x : Nat) (t : Ctx) : Core := { k with ctxs := k.ctxs.set x t }

/-- Context `x` of module core `c`. -/
def State.ctx (s : State) (c x : Nat) : Ctx := (s.core c).ctx x
/-- The module with context `x` of core `c` as given. -/
def State.setCtx (s : State) (c x : Nat) (t : Ctx) : State := s.setCore c ((s.core c).setCtx x t)
/-- The module with context `x` of core `c` changed. -/
def State.modCtx (s : State) (c x : Nat) (f : Ctx → Ctx) : State := s.setCtx c x (f (s.ctx c x))

/-- Tower `t` (R15). -/
def State.tower (s : State) (t : Nat) : Tower := s.towers.get t Tower.reset
def State.setTower (s : State) (t : Nat) (w : Tower) : State := { s with towers := s.towers.set t w }
def State.modTower (s : State) (t : Nat) (f : Tower → Tower) : State := s.setTower t (f (s.tower t))

/-- The dispatcher of tower `t`. -/
def State.marten (s : State) (t : Nat) : Marten := (s.tower t).marten
def State.modMarten (s : State) (t : Nat) (f : Marten → Marten) : State :=
  s.modTower t (fun w => { w with marten := f w.marten })

/-- Owl of tower `t`. -/
def State.owl (s : State) (t : Nat) : Owl := (s.tower t).owl
def State.modOwl (s : State) (t : Nat) (f : Owl → Owl) : State := s.modTower t (fun w => { w with owl := f w.owl })

/-- Layer `n` (1 to 4) of tower `t` (R18). -/
def Tower.layer (w : Tower) (n : Nat) : Layer := w.layers.get n Layer.reset
def State.layer (s : State) (t n : Nat) : Layer := (s.tower t).layer n
def State.modLayer (s : State) (t n : Nat) (f : Layer → Layer) : State :=
  s.modTower t (fun w => { w with layers := w.layers.set n (f (w.layer n)) })

/-- Tower, core within the tower, pair of the module, sett of the module and index in the sett of module core `c` (R16). -/
def towerOf (c : Nat) : Nat := c / 96
def coreIn (c : Nat) : Nat := c % 96
def pairOf (c : Nat) : Nat := c / 2
def settOf (c : Nat) : Nat := c / 16
def settIdx (c : Nat) : Nat := c % 16

/-- Cores, towers, contexts, pairs and layers of the module (R15 to R17). -/
def numCores : Nat := 768
def numTowers : Nat := 8
def numCtxs : Nat := 8
def numPairs : Nat := 384

/-- The sett flags of module sett `g` (R91); sett `g` is sett `g % 6` of tower `g / 6`. -/
def State.sflags (s : State) (g : Nat) : BitVec 64 := (s.tower (g / 6)).flags.get (g % 6) 0
def State.setSflags (s : State) (g : Nat) (v : BitVec 64) : State :=
  s.modTower (g / 6) (fun w => { w with flags := w.flags.set (g % 6) v })

/-- The copy engines of a tower: keys 0 to 3 are SL1 to SL4, keys 4 to 9 the tile walkers of setts 0 to 5 (R113). Module key
`10 t + k`. -/
def State.copyEngine (s : State) (e : Nat) : Engine :=
  if e % 10 < 4 then (s.tower (e / 10)).copyEng.get (e % 10) Engine.reset
  else (s.tower (e / 10)).walkers.get (e % 10 - 4) Engine.reset
def State.setCopyEngine (s : State) (e : Nat) (g : Engine) : State :=
  if e % 10 < 4 then s.modTower (e / 10) (fun w => { w with copyEng := w.copyEng.set (e % 10) g })
  else s.modTower (e / 10) (fun w => { w with walkers := w.walkers.set (e % 10 - 4) g })

/-- Hare engine `h` (R22), Badger engine `b` = 2 t + k (R245), send queue `q` = 16 t + k (R130), egress queue `d` (R22). -/
def State.hare (s : State) (h : Nat) : Engine := s.hares.get h Engine.reset
def State.setHare (s : State) (h : Nat) (g : Engine) : State := { s with hares := s.hares.set h g }
def State.badger (s : State) (b : Nat) : Engine := (s.tower (b / 2)).badgers.get (b % 2) Engine.reset
def State.setBadger (s : State) (b : Nat) (g : Engine) : State :=
  s.modTower (b / 2) (fun w => { w with badgers := w.badgers.set (b % 2) g })
def State.sendq (s : State) (q : Nat) : SendQ := (s.tower (q / 16)).sendq.get (q % 16) SendQ.reset
def State.setSendq (s : State) (q : Nat) (v : SendQ) : State :=
  s.modTower (q / 16) (fun w => { w with sendq := w.sendq.set (q % 16) v })
def State.egr (s : State) (d : Nat) : Egress := s.egress.get d Egress.reset
def State.setEgr (s : State) (d : Nat) (g : Egress) : State := { s with egress := s.egress.set d g }

/-- The management side changed. -/
def State.modMgmt (s : State) (f : Mgmt → Mgmt) : State := { s with mgmt := f s.mgmt }

/-- An entry added to the management error log (R223, R260, R263). -/
def State.logError (s : State) (e : ErrEntry) : State := s.modMgmt (fun m => { m with errlog := m.errlog ++ [e] })

/-- Bound task `k` (R38). -/
def State.task (s : State) (k : Nat) : Option BoundTask := s.tasks.find k
def State.modTask (s : State) (k : Nat) (f : BoundTask → BoundTask) : State :=
  match s.tasks.find k with
  | none => s
  | some b => { s with tasks := s.tasks.set k (f b) }

/-- The context an operation acts for, and its core. -/
def State.fctx (s : State) : Ctx := s.ctx s.focus.core s.focus.ctx
def State.fcore (s : State) : Core := s.core s.focus.core
def State.modF (s : State) (f : Ctx → Ctx) : State := s.modCtx s.focus.core s.focus.ctx f
def State.modFCore (s : State) (f : Core → Core) : State := s.modCore s.focus.core f

/-- Element `i` of a list of words, 0 beyond its end. -/
def nth (ws : List Word) (i : Nat) : Word := ws.getD i 0

end Sys2Proof.Machine
end

