-- ==== Sys2Proof/Machine/Memory.lean ====
section
/-! DEFINITION. Memory (R1, R100, R101, R102, R223, R224): one list of nonzero bytes by physical address, in canonical form; the
physical map; locks; poison and soft-error marks. An unlisted byte reads 0 (notes/assumptions/1.md). -/

namespace Sys2Proof.Machine

/-- The canonical form: addresses strictly rising, no entry equal to what an unlisted address reads as. -/
def Memory.wf (m : List Host.Cell) : Bool :=
  match m with
  | [] => true
  | [c] => c.2 ≠ 0
  | c :: d :: r => decide (c.1 < d.1) && c.2 ≠ 0 && Memory.wf (d :: r)

/-- The byte at an address. -/
def Memory.byte (m : List Host.Cell) (a : Nat) : Byte :=
  match m with
  | [] => 0
  | c :: r => if c.1 = a then c.2 else Memory.byte r a

/-- The `n` bytes from address `a` as one little-endian number (R1). -/
def Memory.read (m : List Host.Cell) (a n : Nat) : Nat :=
  match m with
  | [] => 0
  | c :: r =>
    if a ≤ c.1 ∧ c.1 < a + n then c.2.toNat <<< (8 * (c.1 - a)) + Memory.read r a n else Memory.read r a n

/-- The entries of `n` bytes from `a` that hold the little-endian number `v`: its nonzero bytes, addresses rising. -/
def Memory.cells (a n v : Nat) : List Host.Cell :=
  match n with
  | 0 => []
  | k + 1 =>
    let b : Byte := BitVec.ofNat 8 v
    let r := Memory.cells (a + 1) k (v >>> 8)
    if b = 0 then r else (a, b) :: r

/-- The `n` bytes from `a` replaced by the little-endian number `v` (R1). -/
def Memory.write (m : List Host.Cell) (a n v : Nat) : List Host.Cell :=
  m.filter (fun c => decide (c.1 < a)) ++ Memory.cells a n v ++ m.filter (fun c => decide (a + n ≤ c.1))

/-- Bytes `[lo, hi)` cleared to what an unlisted byte reads as. -/
def Memory.clear (m : List Host.Cell) (lo hi : Nat) : List Host.Cell :=
  m.filter (fun c => decide (c.1 < lo) || decide (hi ≤ c.1))

/-- The byte at a physical address of the module. -/
def State.byte (s : State) (a : Nat) : Byte := Memory.byte s.mem a

/-- `n` bytes at a physical address as a number. -/
def State.readMem (s : State) (a n : Nat) : Nat := Memory.read s.mem a n

/-- Whether the aligned 8-byte word of `w = pa / 8` lies wholly in the `n` bytes from `a`. -/
def wordInside (a n w : Nat) : Bool := decide (a ≤ 8 * w) && decide (8 * w + 8 ≤ a + n)

/-- A write of `n` bytes at a physical address: a whole aligned word loses its poison mark, a part of one keeps it (R224);
a soft error is overwritten with the word. -/
def State.writeMem (s : State) (a n v : Nat) : State :=
  { s with
    mem := Memory.write s.mem a n v
    poison := s.poison.filter (fun w => !(wordInside a n w))
    soft := s.soft.filter (fun w => !(wordInside a n w)) }

/-- A doubleword at a physical address. -/
def State.word (s : State) (a : Nat) : Word := BitVec.ofNat 64 (s.readMem a 8)

/-- `n` consecutive doublewords from a physical address. -/
def State.words (s : State) (a n : Nat) : List Word := (List.range n).map (fun i => s.word (a + 8 * i))

/-- Consecutive doublewords stored at a physical address. -/
def State.writeWords (s : State) (a : Nat) (ws : List Word) : State :=
  s.writeMem a (8 * ws.length) (joinNat 64 (ws.map BitVec.toNat))

/-- Bytes stored at a physical address. -/
def State.writeBytes (s : State) (a : Nat) (bs : List Byte) : State := s.writeMem a bs.length (natOfBytes bs)

/-- Whether a word that the `n` bytes from `a` touch is marked poisoned (R223, R224). -/
def State.poisoned (s : State) (a n : Nat) : Bool :=
  s.poison.any (fun w => decide (a < 8 * w + 8) && decide (8 * w < a + n) && decide (0 < n))

/-- Words marked poisoned (R223). -/
def State.markPoison (s : State) (w : Nat) : State :=
  if s.poison.contains w then s else { s with poison := w :: s.poison }

/-- Whether a word that the `n` bytes from `a` touch holds a correctable error (R223). -/
def State.softAt (s : State) (a n : Nat) : Bool :=
  s.soft.any (fun w => decide (a < 8 * w + 8) && decide (8 * w < a + n) && decide (0 < n))

/-! ## The physical map (R18, R28, R30, R100) -/

/-- Where a physical address lies. -/
inductive Region where
  | lpddr
  | pair (q off : Nat)
  | layer (t n off : Nat)
  | lost (t n : Nat)
  | hole
  deriving DecidableEq, Repr

/-- R18: capacity of layer `n` of a tower in KiB, SEC-DED. -/
def layerKiB (n : Nat) : Nat :=
  match n with
  | 1 => 524288
  | 2 => 1048576
  | _ => 2097152

/-- SLCAPn (R28, R30): usable capacity in KiB. -/
def Layer.cap (l : Layer) (n : Nat) : Nat :=
  if l.retired.isSome then 0 else if l.detect then layerKiB n / 32 * 33 else layerKiB n

def lpSize : Nat := 0x10000000000
def pairBase : Nat := 0x200000000000
def pairSize : Nat := 0x400000
def layerBase : Nat := 0x100000000000

/-- The first physical address of pair store `q` (R100). -/
def pairAddr (q : Nat) : Nat := pairBase + q * pairSize
/-- The first physical address of layer `n` of tower `t` (R100). -/
def layerAddr (t n : Nat) : Nat := layerBase + t * 0x10000000000 + (n - 1) * 0x4000000000

/-- The region of a physical address (R100); a retired extent is reached as a retired layer. -/
def State.region (s : State) (pa : Nat) : Region :=
  if pa < lpSize then .lpddr
  else if pairBase ≤ pa then
    let q := (pa - pairBase) / pairSize
    if q < numPairs then .pair q ((pa - pairBase) % pairSize) else .hole
  else if layerBase ≤ pa then
    let d := pa - layerBase
    let t := d / 0x10000000000
    let n := d % 0x10000000000 / 0x4000000000 + 1
    let off := d % 0x4000000000
    if t < numTowers ∧ n ≤ 4 then
      let l := s.layer t n
      match l.retired with
      | some ext => if off < ext then .lost t n else .hole
      | none => if off < l.cap n * 1024 then .layer t n off else .hole
    else .hole
  else .hole

/-- The level of a region (R95): 0 pair store, 1 to 4 a layer, 5 LPDDR6. -/
def Region.level (r : Region) : Option Nat :=
  match r with
  | .lpddr => some 5
  | .pair _ _ => some 0
  | .layer _ n _ => some n
  | .lost _ n => some n
  | .hole => none

/-- `[pa, pa + n)` lies in one extent of the region of `level` (R96, R100). -/
def State.inLevel (s : State) (pa n level : Nat) : Bool :=
  match s.region pa, s.region (pa + n - 1) with
  | .pair _ _, .pair _ _ => level = 0
  | .layer t k _, .layer t' k' _ => t = t' && k = k' && level = k
  | .lost t k, .lost t' k' => t = t' && k = k' && level = k
  | .lpddr, .lpddr => level = 5
  | _, _ => false

/-- `[pa, pa + n)` lies wholly in LPDDR6. -/
def inLpddr (pa n : Nat) : Bool := decide (pa + n ≤ lpSize)

/-- `[pa, pa + n)` lies wholly in LPDDR6 or in one pair store (R198, R200). -/
def inLpOrPair (pa n : Nat) : Bool :=
  inLpddr pa n ||
  (decide (pairBase ≤ pa) && decide ((pa - pairBase) / pairSize < numPairs) &&
   decide ((pa - pairBase) % pairSize + n ≤ pairSize))

/-- The address lies in a retired layer (R226). -/
def State.lostAt (s : State) (pa : Nat) : Bool :=
  match s.region pa with
  | .lost _ _ => true
  | _ => false

/-- The error-log entry of a correction at a physical address: its layer (a pair store is level 0, LPDDR6 level 5), bank and row
(R223). -/
def State.correction (s : State) (a : Nat) : ErrEntry :=
  .corrected a (((s.region a).level).getD 0) (Config.bankOf a) (Config.rowOf a)

/-- The address lies in a layer in detect-only mode, whose check columns correct nothing (R28). -/
def State.detectOnly (s : State) (pa : Nat) : Bool :=
  match s.region pa with
  | .layer t n _ => (s.layer t n).detect
  | _ => false

/-- The correctable errors of the words that `p` selects are corrected and logged (R223); in a layer in detect-only mode they poison
their words (R28). -/
def State.correctBy (s : State) (p : Nat → Bool) : State :=
  let hits := s.soft.filter p
  let (bad, good) := hits.partition (fun w => s.detectOnly (8 * w))
  let s := { s with
    soft := s.soft.filter (fun w => !(p w))
    mgmt := { s.mgmt with errlog := s.mgmt.errlog ++ good.map (fun w => s.correction (8 * w)) } }
  bad.foldl State.markPoison s

/-- A read of `n` bytes from `a` corrects the correctable errors that it meets, and logs each (R223). -/
def State.correct (s : State) (a n : Nat) : State :=
  if s.softAt a n then s.correctBy (fun w => decide (a < 8 * w + 8) && decide (8 * w < a + n)) else s

/-- A read of several runs of bytes (R223). -/
def State.correctAll (s : State) (ps : List (Nat × Nat)) : State := ps.foldl (fun (s : State) q => s.correct q.1 q.2) s

/-! ## Locks (R102) -/

/-- The lock of the granule of a physical address. -/
def State.lock (s : State) (pa : Nat) : BitVec 4 := s.locks.get (pa / 32) 0

/-- The first granule of `[pa, pa + n)` whose lock is neither 0 nor the key (R102), with its lock. -/
def State.lockMiss (s : State) (pa n : Nat) (key : BitVec 4) : Option (Nat × BitVec 4) :=
  if n = 0 then none
  else
    let bad := s.locks.filter (fun e =>
      decide (pa / 32 ≤ e.1) && decide (e.1 ≤ (pa + n - 1) / 32) && e.2 ≠ 0 && e.2 ≠ key)
    match bad with
    | [] => none
    | e :: _ => some (32 * e.1, e.2)

/-- The granules that hold a byte of `[pa, pa + n)`. -/
def granules (pa n : Nat) : List Nat :=
  if n = 0 then [] else (List.range ((pa + n - 1) / 32 + 1 - pa / 32)).map (fun i => pa / 32 + i)

/-- The lock of granule `g` set to `k` by lock write `id`. -/
def State.setLock (s : State) (g : Nat) (k : BitVec 4) (id : Nat) : State :=
  { s with locks := s.locks.set g k, lockBy := s.lockBy.set g id }

/-- Locks of every granule that holds a byte of `[pa, pa + n)` set to `k` by lock write `id` (R103; notes/assumptions/59.md). -/
def State.setLocks (s : State) (pa n : Nat) (k : BitVec 4) (id : Nat) : State :=
  { s with
    locks := (granules pa n).foldl (fun t g => t.set g k) s.locks
    lockBy := (granules pa n).foldl (fun t g => t.set g id) s.lockBy }

/-! ## The pair store by aperture offset (R93) -/

/-- The physical address of an aperture offset for module core `c`. -/
def apAddr (c off : Nat) : Nat := pairAddr (pairOf c) + off

end Sys2Proof.Machine
end

