-- ==== Sys2Proof/Machine/Xlate.lean ====
section
/-! DEFINITION. From a pointer to bytes (R92 to R105): pointer formats, range entries, tensor handles, the page table, the
order of checks, tag checks. -/

namespace Sys2Proof.Machine

/-! ## Fault codes (R209) -/
def cILLOP : Nat := 0x01
def cDELAYBR : Nat := 0x02
def cLOOPTAIL : Nat := 0x03
def cLOOPOVF : Nat := 0x04
def cLOOPUNF : Nat := 0x05
def cXLATE : Nat := 0x08
def cPERM : Nat := 0x09
def cTAGKEY : Nat := 0x0A
def cATTRSPAN : Nat := 0x0B
def cAPERTURE : Nat := 0x0C
def cALIGN : Nat := 0x0D
def cRINGUNDER : Nat := 0x10
def cRINGOVER : Nat := 0x11
def cQIMB : Nat := 0x12
def cLATCHOVF : Nat := 0x13
def cGANGABORT : Nat := 0x14
def cCOPYOVL : Nat := 0x18
def cLAYERLOST : Nat := 0x19
def cCHECKSUM : Nat := 0x1A
def cJOBCARD : Nat := 0x1B
def cPOISON : Nat := 0x1C
def cCTRUNDER : Nat := 0x20
def cCFGCRC : Nat := 0x21
def cLOGOVF : Nat := 0x28
def cLOGMISMATCH : Nat := 0x29
def cEGAHEAD : Nat := 0x30
def cPLFORMAT : Nat := 0x31
def cTRAPI : Nat := 0x3F

/-! ## Pointers (R92) -/

/-- `P[63:56] = 0xFF`: an aperture pointer. -/
def isAp (p : Word) : Bool := bits p 63 56 = 0xFF
/-- `P[63:60] ≠ 0` in a pointer that is no aperture pointer: ALIGN. -/
def badFormat (p : Word) : Bool := !(isAp p) && bits p 63 60 ≠ 0
/-- `P[55:22] ≠ 0` in an aperture pointer: APERTURE. -/
def apBad (p : Word) : Bool := bits p 55 22 ≠ 0
/-- The aperture offset `P[21:0]`. -/
def apOff (p : Word) : Nat := bits p 21 0
/-- The virtual address `P[55:0]`, the key `P[59:56]`. -/
def vaOf (p : Word) : Nat := bits p 55 0
def keyOf (p : Word) : BitVec 4 := BitVec.ofNat 4 (bits p 59 56)

/-! ## Range entries (R95, R96) -/

/-- Word `j` of range entry `i`. -/
def Ctx.rng (t : Ctx) (i j : Nat) : Word := t.ranges.get (8 * i + j) 0

/-- The entry is one that the configuration plane treats as invalid (R95): V = 0, a nonzero reserved bit, LEVEL 6 or 7, LIMIT ≤ BASE. -/
def Ctx.rngValid (t : Ctx) (i : Nat) : Bool :=
  bit (t.rng i 3) 3 && bits (t.rng i 0) 63 56 = 0 && bits (t.rng i 1) 63 56 = 0 && bits (t.rng i 2) 63 56 = 0 &&
  bits (t.rng i 3) 63 13 = 0 && bits (t.rng i 7) 63 32 = 0 && decide (bits (t.rng i 3) 2 0 ≤ 5) &&
  decide (bits (t.rng i 0) 55 0 < bits (t.rng i 1) 55 0)

/-- A translation: physical address, LEVEL, attributes, the entry (0 to 31) or page (32 + first va) it comes from, and the
first va past the run. -/
structure Xl where
  pa : Nat
  level : Nat
  rd : Bool
  wr : Bool
  ecc : Bool
  tchk : Bool
  disc : Bool
  pin : Bool
  src : Nat
  stop : Nat
  deriving DecidableEq, Repr

/-- A va through a valid range entry. -/
def Ctx.viaRange (t : Ctx) (i va : Nat) : Xl :=
  let a := t.rng i 3
  { pa := (va + bits (t.rng i 2) 55 0) % 2 ^ 56, level := bits a 2 0, rd := bit a 4, wr := bit a 5, ecc := bit a 6,
    tchk := bit a 8, disc := bit a 7, pin := bit a 9, src := i, stop := bits (t.rng i 1) 55 0 }

/-- The valid entries, lowest number first. -/
def Ctx.rngList (t : Ctx) : List Nat := (List.range 32).filter (fun i => t.rngValid i)

/-- The lowest-numbered valid entry that hits `va` (R95). -/
def Ctx.rangeHit (t : Ctx) (va : Nat) : Option Nat :=
  t.rngList.find? (fun i => decide (bits (t.rng i 0) 55 0 ≤ va) && decide (va < bits (t.rng i 1) 55 0))

/-- Where a run that starts at `va` and ends at `e` at the latest meets the first BASE of a valid entry numbered below `n` (R95). -/
def Ctx.boundary (t : Ctx) (n va e : Nat) : Nat :=
  t.rngList.foldl (fun m i =>
    let b := bits (t.rng i 0) 55 0
    if i < n && va < b && b < m then b else m) e

/-! ## The page table (R98, R99) -/

/-- Entry `idx` of a table. No rule names a walk that meets poison: the entry is read as it stands (notes/assumptions/59.md). -/
def pteAt (s : State) (tbl idx : Nat) : Word := s.word (tbl + 8 * idx)

/-- A leaf entry at `va` for a page of `size` bytes: V, reserved bits, FRAME alignment, LEVEL 6 or 7 refused (R98). -/
def leafOk (pte : Word) (size : Nat) : Bool :=
  bit pte 0 && bits pte 63 56 = 0 && !(bit pte 11) && bits pte 55 12 * 4096 % size = 0

/-- A next-table entry: V, reserved bits, a table of `bytes` wholly in LPDDR6 (R98). -/
def tableOk (pte : Word) (bytes : Nat) : Bool :=
  bit pte 0 && bits pte 63 56 = 0 && !(bit pte 11) && inLpddr (bits pte 55 12 * 4096) bytes

/-- The walk of R98: what a completed one gives. -/
def walkTable (s : State) (root va : Nat) : Option Held :=
  if !(inLpddr root (131072 * 8)) then none
  else
    let e1 := pteAt s root (va / 2 ^ 39 % 2 ^ 17)
    if bit e1 3 || !(tableOk e1 4096) then none
    else
      let e2 := pteAt s (bits e1 55 12 * 4096) (va / 2 ^ 30 % 512)
      if bit e2 3 then
        if leafOk e2 (2 ^ 30) then some { va := va / 2 ^ 30 * 2 ^ 30, size := 2 ^ 30, pte := e2 } else none
      else if !(tableOk e2 4096) then none
      else
        let e3 := pteAt s (bits e2 55 12 * 4096) (va / 2 ^ 21 % 512)
        if bit e3 3 then
          if leafOk e3 (2 ^ 21) then some { va := va / 2 ^ 21 * 2 ^ 21, size := 2 ^ 21, pte := e3 } else none
        else if !(tableOk e3 4096) then none
        else
          let tbl := bits e3 55 12 * 4096
          let g := pteAt s tbl (va / 2 ^ 16 % 32 * 16)
          if bit g 4 then
            if leafOk g (2 ^ 16) then some { va := va / 2 ^ 16 * 2 ^ 16, size := 2 ^ 16, pte := g } else none
          else
            let e4 := pteAt s tbl (va / 2 ^ 12 % 512)
            if leafOk e4 (2 ^ 12) then some { va := va / 2 ^ 12 * 2 ^ 12, size := 2 ^ 12, pte := e4 } else none

/-- A va through a page: PIN = 0, HANDLE = 0 (R98). The run ends at the page's end or at the first range entry above. -/
def viaPage (h : Held) (va stop : Nat) : Xl :=
  { pa := bits h.pte 55 12 * 4096 + (va - h.va), level := bits h.pte 7 5, rd := bit h.pte 1, wr := bit h.pte 2,
    ecc := bit h.pte 10, tchk := bit h.pte 9, disc := bit h.pte 8, pin := false, src := 32 + h.va,
    stop := min stop (h.va + h.size) }

/-- The page that a context uses for `va`: a held translation (R99), else a walk. -/
def Ctx.page (s : State) (t : Ctx) (va : Nat) : Option Held :=
  match t.tlb.find? (fun h => decide (h.va ≤ va) && decide (va < h.va + h.size)) with
  | some h => some h
  | none => walkTable s (bits t.csr.ptbase 55 12 * 4096) va

/-- The translation of a va: the lowest-numbered range entry that hits, else the page table (R95, R98). The bytes of an access that run past
2^56 - 1 have none, so that it is XLATE and does not wrap (DESIGN CHOICE, notes/assumptions/73.md). -/
def Ctx.xlate (s : State) (t : Ctx) (va : Nat) : Option Xl :=
  if va ≥ 2 ^ 56 then none
  else
    match t.rangeHit va with
    | some i => some { t.viaRange i va with stop := t.boundary i va (bits (t.rng i 1) 55 0) }
    | none =>
      match t.page s va with
      | some h => some (viaPage h va (t.boundary 32 va (2 ^ 56)))
      | none => none

/-- A part of an access (R105): first va, length, its translation if it has one. -/
structure Part where
  va : Nat
  len : Nat
  xl : Option Xl
  deriving DecidableEq, Repr

/-- The bytes `[va, e)` cut where the translation changes (R105). A run ends at the latest at a 4 KiB boundary when it does not
translate; `fuel` bounds the cuts, and bytes beyond it count as untranslated. -/
def Ctx.cut (s : State) (t : Ctx) (fuel va e : Nat) : List Part :=
  match fuel with
  | 0 => if va < e then [{ va := va, len := e - va, xl := none }] else []
  | k + 1 =>
    if e ≤ va then []
    else
      match t.xlate s va with
      | some x =>
        let stop := min e x.stop
        { va := va, len := stop - va, xl := some x } :: Ctx.cut s t k stop e
      | none =>
        let stop := min e (t.boundary 32 va (va / 4096 * 4096 + 4096))
        { va := va, len := stop - va, xl := none } :: Ctx.cut s t k stop e

/-- What an access wants: a read, a write, or both (an atomic, R192). -/
inductive Acc where
  | rd | wr | rw
  deriving DecidableEq, Repr

/-- R96: the entry permits the access, and with ECC = 1 the layer is not in detect-only mode. -/
def Xl.permits (s : State) (x : Xl) (a : Acc) : Bool :=
  let rw : Bool :=
    match a with
    | .rd => x.rd
    | .wr => x.wr
    | .rw => x.rd && x.wr
  let det : Bool :=
    match s.region x.pa with
    | .layer t n _ => (s.layer t n).detect
    | .lost t n => (s.layer t n).detect
    | _ => false
  rw && !(x.ecc && det)

/-- The attributes that must agree over an access (R105), TCHK among them unless it plays no part. -/
def Xl.attrs (x : Xl) (noTags : Bool) : Nat × Bool × Bool × Bool × Bool := (x.level, x.ecc, x.disc, x.tchk && !noTags, x.pin)

/-- A checked access: its (physical address, length) pieces in ascending va, whether granules are checked, the level. -/
structure Checked where
  items : List (Nat × Nat)
  tchk : Bool
  level : Nat
  pages : List Held
  deriving DecidableEq, Repr

/-- The checks XLATE, PERM, APERTURE (R94, unless `layers`), ATTRSPAN of R105 over the parts of a translated access, in the order of the
numbered list; a fault is its code. With `layers` the access reaches every level; with `noTags` TCHK plays no part in it (R418). -/
def checkParts (s : State) (ps : List Part) (a : Acc) (layers noTags : Bool) : Except Nat Checked :=
  let xs := ps.filterMap (fun p => p.xl.map (fun x => (p, x)))
  if xs.length ≠ ps.length || xs.any (fun q => !(s.inLevel q.2.pa q.1.len q.2.level)) then .error cXLATE
  else if xs.any (fun q => !(q.2.permits s a)) then .error cPERM
  else if !layers && xs.any (fun q => q.2.level ≠ 0 && q.2.level ≠ 5) then .error cAPERTURE
  else
    match xs with
    | [] => .ok { items := [], tchk := false, level := 0, pages := [] }
    | q :: r =>
      if r.any (fun z => z.2.attrs noTags ≠ q.2.attrs noTags) then .error cATTRSPAN
      else .ok { items := xs.map (fun z => (z.2.pa, z.1.len)), tchk := q.2.tchk && !noTags, level := q.2.level, pages := [] }

/-- The pages that the walks of an access completed (R99). -/
def Ctx.pagesOf (s : State) (t : Ctx) (ps : List Part) : List Held :=
  ps.filterMap (fun p =>
    match t.rangeHit p.va with
    | some _ => none
    | none =>
      if t.tlb.any (fun h => decide (h.va ≤ p.va) && decide (p.va < h.va + h.size)) then none
      else walkTable s (bits t.csr.ptbase 55 12 * 4096) p.va)

/-- An access of `n` bytes at a pointer that is no aperture pointer, up to ATTRSPAN (R105). -/
def Ctx.checkAs (s : State) (t : Ctx) (p : Word) (n : Nat) (a : Acc) (layers noTags : Bool) : Except Nat Checked :=
  if badFormat p then .error cALIGN
  else
    let ps := Ctx.cut s t (n / 4096 + 80) (vaOf p) (vaOf p + n)
    match checkParts s ps a layers noTags with
    | .ok k => .ok { k with pages := t.pagesOf s ps }
    | .error e => .error e

/-- An access whose granules are checked where TCHK = 1 (R102): `layers` where it may reach every level, as the record engine's and REVERSE's
may (R233, R243). -/
def Ctx.check (s : State) (t : Ctx) (p : Word) (n : Nat) (a : Acc) (layers : Bool) : Except Nat Checked := t.checkAs s p n a layers false

/-- A lock write: it reaches every level, and TCHK plays no part in it (R418). -/
def Ctx.checkLock (s : State) (t : Ctx) (p : Word) (n : Nat) : Except Nat Checked := t.checkAs s p n .wr true true

/-- The pages of a passed access kept by the core (R99). -/
def Ctx.hold_ (t : Ctx) (hs : List Held) : Ctx :=
  if t.keepTlb then
    { t with tlb := hs.foldl (fun l h => if l.contains h then l else l ++ [h]) t.tlb }
  else t

/-! ## Tags (R102, R104) -/

/-- The first failing granule of a list of pieces in ascending va order, with its lock. -/
def tagMiss (s : State) (items : List (Nat × Nat)) (key : BitVec 4) : Option (Nat × BitVec 4) :=
  match items with
  | [] => none
  | (pa, n) :: r =>
    match s.lockMiss pa n key with
    | some m => some m
    | none => tagMiss s r key

/-- The lock write that a trace event belongs to has performed at the granule of `pa` (R104, R419). The event stands in the trace from the issue of
TAGSET; until its lock write has performed there the model counts it as covering nothing (DESIGN CHOICE, notes/assumptions/73.md). -/
def State.tagDone (s : State) (e : TagEvent) (pa : Nat) : Bool :=
  (s.core e.core).outs.all (fun o => o.id ≠ e.id || o.parts.all (fun p =>
    p.done || !(p.pieces.any (fun q => q.pa / 32 = pa / 32))))

/-- The earlier locks of a granule (R104), newest first, of the events whose lock writes have performed there; the event that set the current
lock is skipped. -/
def lockHistory (s : State) (t pa : Nat) : List (BitVec 4) :=
  (((s.tower t).trace.filter (fun e => decide (e.lo ≤ pa) && decide (pa < e.hi) && s.tagDone e pa &&
    s.lockBy.find (pa / 32) ≠ some e.id)).map TagEvent.lock).take 3

/-- FINFO's history, LOCK and KEY fields for TAGKEY (R88, R104), from the trace of tower `t` (notes/assumptions/59.md). -/
def tagInfo (s : State) (t pa : Nat) (lock key : BitVec 4) : Nat :=
  let h := lockHistory s t pa
  let e (i : Nat) : Nat := (h.getD i 0).toNat
  key.toNat <<< 10 + lock.toNat <<< 14 + (e 0) <<< 18 + (e 1) <<< 22 + (e 2) <<< 26 + h.length <<< 30

end Sys2Proof.Machine
end

