-- ==== Sys2Proof/Machine/Runnable.lean ====
section
/-! DEFINITION. Dependency counters, named barriers and the ready queue of a Marten (R41, R199, R203, R204). -/

namespace Sys2Proof.Machine

/-! ## The model's choice where events have no order of their own -/

/-- The next choice among `n` possibilities: 0, the first, when none is given. -/
def State.choose (s : State) (n : Nat) : Nat × State :=
  match s.sched with
  | [] => (0, s)
  | k :: r => (k % max n 1, { s with sched := r })

/-- Which of `n` things that no rule orders comes now, a choice where there are several. -/
def State.turn (s : State) (n : Nat) : Nat × State := if n ≤ 1 then (0, s) else s.choose n

/-! ## Tasks that become runnable -/

/-- Named barrier `n` of a task descriptor: V, pair of the tower, offset in units of 64 bytes (R199). -/
def barField (desc : List Word) (n : Nat) : Nat := bits (nth desc (6 + n / 2)) (32 * (n % 2) + 31) (32 * (n % 2))
def barNamed (desc : List Word) (n : Nat) : Bool := (barField desc n).testBit 31
def barPair (desc : List Word) (n : Nat) : Nat := (barField desc n >>> 16) % 64
def barOff (desc : List Word) (n : Nat) : Nat := barField desc n % 65536

/-- Fields of a task descriptor (R199). -/
def dNpred (d : List Word) : Nat := bits (nth d 3) 39 24
def dNsucc (d : List Word) : Nat := bits (nth d 3) 15 12
def dPrio (d : List Word) : Nat := bits (nth d 3) 11 9
def dPack (d : List Word) : Nat := bits (nth d 3) 8 7
def dGsize (d : List Word) : Nat := bits (nth d 3) 6 0
def dImage (d : List Word) : Nat := bits (nth d 3) 63 40
def dSucc (d : List Word) (k : Nat) : Nat := bits (nth d (4 + k / 4)) (16 * (k % 4) + 15) (16 * (k % 4))

/-- Fields of a graph descriptor (R198). -/
def gTtab (d : List Word) : Nat := (nth d 0).toNat
def gCrec (d : List Word) : Nat := (nth d 1).toNat
def gTrec (d : List Word) : Bool := bit (nth d 2) 35
def gTower (d : List Word) : Nat := bits (nth d 2) 34 32
def gGid (d : List Word) : Nat := bits (nth d 2) 31 0
def gNtask (d : List Word) : Nat := bits (nth d 3) 16 0

/-- Every named barrier of a task has fired since its graph's launch (R41). -/
def allFired (t : TaskSt) : Bool :=
  (List.range 4).all (fun n => !(barNamed t.desc n) || t.fired.getLsbD n)

/-- Entries that a graph has in the ready queue. -/
def Graph.queued (g : Graph) : Nat := (g.tasks.filter (fun e => e.2.queued)).length

/-- Entries of the ready queue of a Marten, where `g` is the graph with its launch order as it now stands. -/
def Marten.queued (m : Marten) (g : Graph) : Nat :=
  m.graphs.foldl (fun n h => if h.order = g.order then n else n + h.queued) g.queued

/-- The next cycle of this Marten: tasks that become runnable in one cycle tie in the second key of R204, and one task is placed in it at most. -/
def Marten.nextCycle (m : Marten) : Marten := if m.graphs.isEmpty then m else { m with cycle := m.cycle + 1, lastSrc := 0, placed := false }

/-- Decrements from source `k` come to this Marten: those of one cycle apply in ascending order of their sources (R203), so that a lower source than
the last one belongs to a later cycle. -/
def Marten.source (m : Marten) (k : Nat) : Marten :=
  if k < m.lastSrc then { m.nextCycle with lastSrc := k } else { m with lastSrc := k }

/-- The sources of one core: a retirement comes before a SIGNAL (R203). -/
def srcRetire (c : Nat) : Nat := 2 * c + 1
def srcSignal (c : Nat) : Nat := 2 * c + 2

/-- Task `i` of graph `g` enters the ready queue if it is runnable now (R41, R204). A graph that is rejected, abandoned or torn
down places nothing. -/
def Marten.test (m : Marten) (g : Graph) (i : Nat) : Marten × Graph :=
  match g.tasks.find i with
  | none => (m, g)
  | some t =>
    if t.stage = .waiting ∧ m.counters.get (g.base + i) 0 = 0 ∧ allFired t ∧ !g.rejected ∧ !g.abandoned ∧ !g.torndown then
      let t' := { t with stage := TaskStage.runnable, order := m.cycle, queued := decide (m.queued g < 4096) }
      (m, { g with tasks := g.tasks.set i t' })
    else (m, g)

/-- The graph with launch order `o` changed. -/
def Marten.modGraph (m : Marten) (o : Nat) (f : Marten → Graph → Marten × Graph) : Marten :=
  match m.graphs.find? (fun g => g.order = o) with
  | none => m
  | some g =>
    let (m', g') := f m g
    { m' with graphs := m'.graphs.map (fun h => if h.order = o then g' else h) }

/-- The first fault of a graph (R201): CODE and FTASK are set if CODE was 0. -/
def Graph.note (g : Graph) (code task : Nat) : Graph := if g.code = 0 then { g with code := code, ftask := task } else g

/-- A decrement of the counter of task `i` (R203): to zero it tests R41; at zero it changes nothing and the graph takes CTRUNDER. -/
def Marten.decrement (m : Marten) (o i : Nat) : Marten :=
  m.modGraph o (fun m g =>
    let c := m.counters.get (g.base + i) 0
    if c = 0 then (m, g.note cCTRUNDER i)
    else
      let m := { m with counters := m.counters.set (g.base + i) (c - 1) }
      if c = 1 then m.test g i else (m, g))

/-- A firing kept for the launches that wait at the Marten for counters (R41, R200). -/
def Launch.fire (l : Launch) (p off : Nat) : Launch :=
  if l.fires.contains (p, off) then l else { l with fires := l.fires ++ [(p, off)] }

/-- The named barriers of a task descriptor that are among those that fired. -/
def firedOf (desc : List Word) (fires : List (Nat × Nat)) : BitVec 4 :=
  ((List.range 4).filter (fun n => barNamed desc n && fires.contains (barPair desc n, barOff desc n))).foldl
    (fun (b : BitVec 4) n => b ||| (1#4 <<< n)) 0

/-- A firing of the barrier at pair `p` (of the tower), offset `off` units of 64 bytes, reaches the Marten (R41, R119 KIND 1). -/
def Marten.fire (m : Marten) (p off : Nat) : Marten :=
  let m : Marten := { m with arrivals := m.arrivals.map (fun l => l.fire p off) }
  m.graphs.foldl (fun m g0 =>
    m.modGraph g0.order (fun m g =>
      g.tasks.foldl (fun (mg : Marten × Graph) e =>
        let mask := firedOf e.2.desc [(p, off)]
        if mask = 0 then mg
        else
          let t' := { e.2 with fired := e.2.fired ||| mask }
          Marten.test mg.1 { mg.2 with tasks := mg.2.tasks.set e.1 t' } e.1) (m, g))) m

end Sys2Proof.Machine
end

