-- ==== Sys2Proof/Machine/Barrier.lean ====
section
/-! DEFINITION. The barrier unit (R117 to R120): the state machine of R120 over the 64-byte slot in a pair store. -/

namespace Sys2Proof.Machine

/-- The first five words of a barrier slot (R117). -/
structure Bar where
  expected : Nat
  arrived : Nat
  phase : Bool
  armed : Bool
  bind0 : Word
  bind1 : Word
  status : BitVec 32
  stop : BitVec 32
  deriving DecidableEq, Repr

/-- The barrier in the slot at a physical address, with whatever stores left there (R117), but for bits [31:29] of the status word: R118's map has
them Reserved RO, and R8 reads such a field as zero. -/
def State.bar (s : State) (pa : Nat) : Bar :=
  let w0 := s.word pa
  let w1 := s.word (pa + 8)
  let w4 := s.word (pa + 32)
  { expected := bits w0 47 0, arrived := bits w1 47 0, phase := bit w0 48, armed := bit w0 49, bind0 := s.word (pa + 16),
    bind1 := s.word (pa + 24), status := BitVec.ofNat 32 (bits w4 28 0), stop := BitVec.ofNat 32 (bits w4 63 32) }

/-- The barrier written back: words 0 to 4; the reserved bits of words 0 and 1 and of the status word (R8, R118) are written as zero, words 5 to 7
are never written (notes/assumptions/64.md). -/
def State.putBar (s : State) (pa : Nat) (b : Bar) : State :=
  s.writeWords pa
    [BitVec.ofNat 64 (b.expected + bnat b.phase <<< 48 + bnat b.armed <<< 49), BitVec.ofNat 64 b.arrived, b.bind0, b.bind1,
     BitVec.ofNat 64 (b.status.toNat + b.stop.toNat <<< 32)]

/-- Fields of the status word (R118). -/
def Bar.code (b : Bar) : Nat := bits b.status 7 0
def Bar.count (b : Bar) : Nat := bits b.status 15 8

/-- The status word with COUNT one higher, saturating, and CODE and UNIT written only when CODE was 0 (R120). -/
def Bar.report (b : Bar) (code unit stop : Nat) (setStop : Bool) : Bar :=
  let n := min (b.count + 1) 255
  let first : Bool := b.code = 0
  let lo : Nat := if first then code else b.code
  let un : Nat := if first then unit else bits b.status 23 16
  { b with
    status := BitVec.ofNat 32 (bits b.status 28 24 <<< 24 + un <<< 16 + n <<< 8 + lo)
    stop := if first && setStop then BitVec.ofNat 32 stop else b.stop }

/-- A binding is bad (R119). -/
def badBind (w : Word) : Bool :=
  match bits w 2 0 with
  | 0 => bits w 63 3 ≠ 0
  | 1 => bits w 63 3 ≠ 0
  | 2 => bits w 63 18 ≠ 0 || decide (96 ≤ bits w 9 3)
  | 3 => bits w 63 12 ≠ 0 || decide (6 ≤ bits w 11 9)
  | _ => true

/-- A context's token `d` completes, and cp no longer counts the command that produced it (R64); d0 and a complete token are left as they
are (R61, R119). -/
def State.completeToken (s : State) (c x d : Nat) : State :=
  s.modCtx c x (fun t => if bit t.tokens d then { t with tokens := t.tokens &&& ~~~(1#32 <<< d), cp := t.cp - 1 } else t)

/-- A command of a context with produced token `d` finishes (R61, R64): its token, as it then stands, completes (notes/assumptions/72.md); one that
produces none leaves cp. -/
def State.endToken (s : State) (c x d : Nat) : State :=
  if d = 0 then s.modCtx c x (fun t => { t with cp := t.cp - 1 }) else s.completeToken c x d

/-- What a good binding does (R119), for the barrier in pair store `q` at `off` units of 64 bytes. -/
def State.act (s : State) (q off : Nat) (w : Word) : State :=
  let t := q / 48
  match bits w 2 0 with
  | 1 => s.modMarten t (fun m => m.fire (q % 48) off)
  | 2 => s.completeToken (96 * t + bits w 9 3) (bits w 12 10) (bits w 17 13)
  | 3 =>
    let g := 6 * t + bits w 11 9
    s.setSflags g (s.sflags g ||| (1#64 <<< bits w 8 3))
  | _ => s

/-- `notify` of R120: the state with the binding's effect, and the barrier with a bad binding reported. -/
def notify (s : State) (q off : Nat) (b : Bar) (w : Word) : State × Bar :=
  if badBind w then (s, b.report cILLOP 0x30 0 false) else (s.act q off w, b)

/-- `fire` of R120. -/
def fire (s : State) (q off : Nat) (b : Bar) : State × Bar :=
  let b := { b with phase := !b.phase }
  let (s, b) := notify s q off b b.bind0
  notify s q off b b.bind1

/-- `n` firings in a row (R120). -/
def fireTimes (n : Nat) (s : State) (q off : Nat) (b : Bar) : State × Bar :=
  match n with
  | 0 => (s, b)
  | k + 1 =>
    let (s, b) := fire s q off b
    fireTimes k s q off b

/-- How many firings the loop of `settle` is run for: a firing after the first two only flips PHASE and counts bad bindings,
and COUNT saturates at 255, so beyond 512 the parity decides. -/
def firings (n : Nat) : Nat := if n ≤ 512 then n else 512 + n % 2

/-- `settle` of R120. -/
def settle (s : State) (q off : Nat) (b : Bar) : State × Bar :=
  if b.armed then
    if b.expected = 0 then
      let (s, b) := fire s q off b
      (s, { b with armed := false })
    else fireTimes (firings (b.arrived / b.expected)) s q off { b with arrived := b.arrived % b.expected }
  else (s, b)

/-- The barrier slot at offset `off` (units of 64 bytes) of pair store `q`. -/
def barAddr (q off : Nat) : Nat := pairAddr q + 64 * off

/-- The words of the barrier slot read, with what R223 does at a read. -/
def State.readBar (s : State) (q off : Nat) : State := s.correct (barAddr q off) 40

/-- A change of the barrier followed by `settle`, written back. -/
def State.settleBar (s : State) (q off : Nat) (b : Bar) : State :=
  let (s, b) := settle s q off b
  s.putBar (barAddr q off) b

/-- `credit` of R120. -/
def State.credit (s : State) (q off n unit code : Nat) (flags : Nat) (stop : Nat) : State :=
  let s := s.readBar q off
  let b := s.bar (barAddr q off)
  let b := { b with arrived := min (b.arrived + n) (2 ^ 48 - 1) }
  let b := if code ≠ 0 then b.report code unit stop true else b
  let b := { b with status := b.status ||| BitVec.ofNat 32 ((flags % 32) <<< 24) }
  s.settleBar q off b

/-- `barinit` of R120. -/
def State.barinit (s : State) (q off expected : Nat) (b0 b1 : Word) : State :=
  s.putBar (barAddr q off)
    { expected := expected, arrived := 0, phase := false, armed := false, bind0 := b0, bind1 := b1, status := 0, stop := 0 }

/-- `bararm` of R120. -/
def State.bararm (s : State) (q off expected : Nat) : State :=
  let s := s.readBar q off
  s.settleBar q off { s.bar (barAddr q off) with expected := expected, status := 0, stop := 0, armed := true }

/-- Flags of the status word in bit order from [24] (R118). -/
def fgPOISON : Nat := 1
def fgCORRECTED : Nat := 2
def fgABORT : Nat := 4
def fgLAYERLOST : Nat := 8
def fgCHECKSUM : Nat := 16

/-- The status flag that a code carries (R118, R173): POISON, LAYERLOST, CHECKSUM. -/
def flagOf (code : Nat) : Nat :=
  if code = cPOISON then fgPOISON
  else if code = cLAYERLOST then fgLAYERLOST
  else if code = cCHECKSUM then fgCHECKSUM
  else 0

end Sys2Proof.Machine
end

