-- ==== Sys2Proof/Machine/Regs.lean ====
section
/-! DEFINITION. Registers as an operation reads and writes them: the X view and captured operands (R56, R57, R60), vector
registers, accumulator rows and the mask stack (R78 to R81), flags (R87), control registers (R83 to R91, R229, R335). -/

namespace Sys2Proof.Machine

/-! ## Scalar and address registers -/

/-- Register codes (R285): scalar n, address n. -/
def sreg (n : BitVec 6) : Nat := n.toNat
def areg (n : Nat) : Nat := 64 + n

/-- A register in the X view of a context. -/
def Ctx.reg (t : Ctx) (r : Nat) : Word := t.regs.get r 0

/-- The operand with register code `r` as the operation of the focus reads it (R57): captured, or for the X slot the X view. -/
def State.opnd (s : State) (r : Nat) : Word :=
  match s.focus.caps.lookup r with
  | some v => v
  | none => s.fctx.reg r

/-- A scalar operand, an address operand. -/
def State.sOp (s : State) (n : BitVec 6) : Word := s.opnd (sreg n)
def State.aOp (s : State) (n : BitVec 4) : Word := s.opnd (areg n.toNat)

/-- `write_x(r, v)` (R301): the X view, and which bundle wrote it last (R60). -/
def State.writeX (s : State) (r : Nat) (v : Word) : State :=
  s.modF (fun t => { t with regs := t.regs.set r v, xw := t.xw.set r s.focus.seq, late := t.late.filter (fun e => e.1 ≠ r) })

/-- A register as a V, M or L operation captures it in dispatch cycle `now` (R57): a result of MUL, DIV or CSRR shows only after its
latency (R76). -/
def Ctx.view (t : Ctx) (r now : Nat) : Word :=
  match t.late.find? (fun e => e.1 = r && decide (now < e.2.2)) with
  | some e => e.2.1
  | none => t.reg r

/-- What the X view goes on showing of register `r` once a result of latency `l` has been written in cycle `now`: `old` is the context
before that write. -/
def Ctx.lag (t old : Ctx) (r now l : Nat) : Ctx :=
  let before := (old.late.filter (fun e => e.1 = r && decide (now < e.2.2))).map (fun e => (e.1, e.2.1, min e.2.2 (now + l)))
  { t with late := t.late.filter (fun e => decide (now < e.2.2)) ++ before ++ [(r, old.reg r, now + l)] }

/-- A pending write put among those of a context, in program order (R60). -/
def insertPend (p : Pend) (ps : List Pend) : List Pend :=
  match ps with
  | [] => [p]
  | q :: r => if p.seq < q.seq || (p.seq = q.seq && p.slot < q.slot) then p :: q :: r else q :: insertPend p r

/-- `write_pending(r, v)` of an operation of latency `l` (R60, R76, R301). -/
def State.writePending (s : State) (r : Nat) (v : Word) (l : Nat) : State :=
  let p : Pend :=
    { seq := s.focus.seq, slot := s.focus.slot, reg := r, val := some v, ready := s.fcore.clock + l, released := false }
  s.modF (fun t => { t with pend := insertPend p t.pend })

/-- A pending write whose value is still to return (R64, R402). -/
def State.expectPending (s : State) (r : Nat) : State :=
  let p : Pend := { seq := s.focus.seq, slot := s.focus.slot, reg := r, val := none, ready := 0, released := false }
  s.modF (fun t => { t with pend := insertPend p t.pend })

/-- An X-slot operation of a later bundle has written the register (R60). -/
def Pend.overtaken (p : Pend) (xw : Tab Nat) : Bool :=
  match xw.find p.reg with
  | some q => decide (p.seq < q)
  | none => false

/-- The commits of cycle `now`, in program order up to the first write that cannot commit yet (R60): one that is not released, whose producer's
latency has not elapsed, or whose value has not returned. A write is discarded if an X-slot operation of a later bundle wrote the register. -/
def commitList (now : Nat) (xw : Tab Nat) (ps : List Pend) (regs : Tab Word) : List Pend × Tab Word :=
  match ps with
  | [] => ([], regs)
  | p :: r =>
    match p.val with
    | some v =>
      if p.released && decide (p.ready ≤ now) then commitList now xw r (if p.overtaken xw then regs else regs.set p.reg v)
      else (p :: r, regs)
    | none => (p :: r, regs)

/-- A value that a producer of the same slot supplies (R56) put into the operands of one queued operation. -/
def QOp.supply (o : QOp) (p : Pend) : QOp :=
  match p.val with
  | some v =>
    if o.slot = p.slot && o.links.contains (p.reg, p.seq) then
      { o with caps := (p.reg, v) :: o.caps.filter (fun e => e.1 ≠ p.reg), links := o.links.filter (fun e => e ≠ (p.reg, p.seq)) }
    else o
  | none => o

/-- Values that leave the pending list, put into every queued operation that waits for them. -/
def supplyAll (gone : List Pend) (q : List QOp) : List QOp :=
  q.map (fun o => if o.links.isEmpty then o else gone.foldl QOp.supply o)

/-- The writes of released operations that can commit in cycle `now`, committed (R60). -/
def Ctx.commit (t : Ctx) (now : Nat) : Ctx :=
  if t.pend.isEmpty then t
  else
    let (ps, regs) := commitList now t.xw t.pend t.regs
    let gone := t.pend.filter (fun p => !(ps.contains p))
    { t with pend := ps, regs := regs, late := t.late.filter (fun e => !(gone.any (fun p => p.reg = e.1 && !(p.overtaken t.xw)))),
             vq := supplyAll gone t.vq, mq := supplyAll gone t.mq, lq := supplyAll gone t.lq }

/-- A realigning bundle issues: every pending write of an earlier bundle is released and commits as its value is there (R60). -/
def Ctx.realign (t : Ctx) (seq now : Nat) : Ctx :=
  Ctx.commit { t with pend := t.pend.map (fun p => if p.seq < seq then { p with released := true } else p) } now

/-- R60: an X-slot operation that reads a register with a released, uncommitted write stalls dispatch. -/
def Ctx.stalled (t : Ctx) (rs : List Nat) : Bool := t.pend.any (fun p => p.released && rs.contains p.reg)

/-- Every V, M and L operation of earlier bundles has issued (R58). -/
def Ctx.drained (t : Ctx) : Bool := t.vq.isEmpty && t.mq.isEmpty && t.lq.isEmpty

/-! ## Vector registers, accumulator rows, masks -/

/-- The physical register of window register `n` (R80). -/
def Ctx.vphys (t : Ctx) (n : BitVec 6) : Nat := (t.csr.vwbBase.toNat + n.toNat) % 1024

/-- The physical register of a V-slot destination (R80): absolute in a bundle with a header while VWB.ABSD is 1. -/
def State.vDst (s : State) (n : BitVec 6) : Nat :=
  if s.focus.hdr && s.focus.absd then s.focus.lent % 16 * 64 + n.toNat else s.fctx.vphys n

/-- The physical register of a V-slot first source (R80). -/
def State.vSrc (s : State) (n : BitVec 6) : Nat :=
  if s.focus.hdr && s.focus.abss then s.focus.lent % 16 * 64 + n.toNat else s.fctx.vphys n

/-- The physical register of any other window field. -/
def State.vWin (s : State) (n : BitVec 6) : Nat := s.fctx.vphys n

/-- A physical vector register of the core; a register with its cleared mark is not listed and reads as zero (R32). -/
def Core.vreg (k : Core) (p : Nat) : VReg := k.vregs.get p 0

/-- What context `x` reads of a resource that holds `v` with every issued write: while a write of another context has not landed, and
none of its own is on the way (its slots stall for that one, R55), the value that stood before (R181). -/
def Core.seen (k : Core) (x res v : Nat) : Nat :=
  let es := k.air.filter (fun e => e.res = res)
  if es.any (fun e => e.ctx = x) then v
  else
    match es with
    | e :: _ => e.old
    | [] => v

/-- A physical vector register as context `x` reads it (R181). -/
def Core.vregFor (k : Core) (x p : Nat) : VReg :=
  if k.air.isEmpty then k.vreg p else BitVec.ofNat 32768 (k.seen x p (k.vreg p).toNat)

/-- A physical vector register as the operation of the focus reads it. -/
def State.vreg (s : State) (p : Nat) : VReg := s.fcore.vregFor s.focus.ctx p

/-- Whether physical register `p` lies in the context's window, and at which window register. -/
def Ctx.window (t : Ctx) (p : Nat) : Nat := (p + 1024 - t.csr.vwbBase.toNat) % 1024

/-- A write of a physical vector register; it clears the producer-table entry of the register in every context whose window
holds it (R236), at its issue, not where it lands later (R181; notes/assumptions/70.md). -/
def Core.setVreg (k : Core) (p : Nat) (v : VReg) : Core :=
  { k with
    vregs := k.vregs.set p v
    ctxs := k.ctxs.map (fun e => if e.2.prods.isEmpty then e else (e.1, { e.2 with prods := e.2.prods.erase (e.2.window p) })) }
def State.setVreg (s : State) (p : Nat) (v : VReg) : State := s.modFCore (fun k => k.setVreg p v)

/-- The physical row of accumulator index `x`; none is PERM (R80). -/
def Ctx.accRow (t : Ctx) (x : Nat) : Option Nat :=
  if x < t.csr.awbLen.toNat then some (t.csr.awbBase.toNat + x) else none
def Core.accAt (k : Core) (r : Nat) : AccRow := k.acc.get r 0

/-- Resources of R55 as numbers: physical vector registers below 1,024, accumulator row `r` as 2,048 + r. -/
def rRow (r : Nat) : Nat := 2048 + r

/-- An accumulator row as context `x` reads it (R181). -/
def Core.accFor (k : Core) (x r : Nat) : AccRow :=
  if k.air.isEmpty then k.accAt r else BitVec.ofNat 2048 (k.seen x (rRow r) (k.accAt r).toNat)

/-! ## Writes of shared registers and rows land at issue plus latency (R181) -/

/-- A register or row by its number. -/
def Core.res (k : Core) (n : Nat) : Nat := if n < 1024 then (k.vreg n).toNat else (k.accAt (n - 2048)).toNat
def Core.setRes (k : Core) (n v : Nat) : Core :=
  if n < 1024 then { k with vregs := k.vregs.set n (BitVec.ofNat 32768 v) }
  else { k with acc := k.acc.set (n - 2048) (BitVec.ofNat 2048 v) }

/-- The bytes that either of two writes covers. -/
def joinCover (a b : Option Mask) : Option Mask :=
  match a, b with
  | some m, some n => some (m ||| n)
  | _, _ => none

/-- What a write that covers the bytes `c` makes of a register that holds `base`, where it would make `v` of any. -/
def coverOver (c : Option Mask) (base v : Nat) : Nat :=
  match c with
  | none => v
  | some m => (List.range 4096).foldl (fun n j => n + (((if m.getLsbD j then v else base) >>> (8 * j)) % 256) <<< (8 * j)) 0

/-- A write by context `x` of resource `n`, which held `old`, has issued and lands in cycle `ready`: it takes the place of an earlier one of
its own context that has not landed (R55), and covers its bytes too. -/
def Core.launch (k : Core) (x n old ready : Nat) (cover : Option Mask) : Core :=
  let mine := k.air.filter (fun e => e.res = n && e.ctx = x)
  let was := (k.air.find? (fun e => e.res = n)).map Air.old
  let all := mine.foldl (fun c e => joinCover c e.cover) cover
  { k with air := k.air.filter (fun e => !(mine.contains e)) ++
    [{ res := n, ctx := x, ready := ready, old := was.getD old, val := k.res n, cover := all, beaten := false }] }

/-- A write lands: what other contexts read is its value from now on; where a write issued after it has landed before it, it is the one
that stands. -/
def Core.landAir (k : Core) (e : Air) : Core :=
  let (before, after) := k.air.span (fun f => f ≠ e)
  let seen (late : Bool) (f : Air) : Air :=
    if f.res = e.res then { f with old := e.val, beaten := f.beaten || (late && f.ctx ≠ e.ctx) } else f
  let rest := before.map (seen true) ++ (after.drop 1).map (seen false)
  let k := { k with air := rest }
  if e.beaten && rest.all (fun f => f.res ≠ e.res) then k.setRes e.res e.val else k

/-- The writes whose time has come land, the earliest first. -/
def landAll (fuel : Nat) (k : Core) : Core :=
  match fuel with
  | 0 => k
  | n + 1 =>
    match (k.air.filter (fun e => decide (e.ready ≤ k.clock))).foldl (fun (b : Option Air) e =>
        match b with
        | none => some e
        | some f => if e.ready < f.ready then some e else some f) none with
    | none => k
    | some e => landAll n (k.landAir e)
def Core.land (k : Core) : Core := if k.air.isEmpty then k else landAll k.air.length k

/-- Every write of context `x` has landed (R210). -/
def Core.landCtx (k : Core) (x : Nat) : Core :=
  (k.air.filter (fun e => e.ctx = x)).foldl (fun k e =>
    match k.air.find? (fun f => f.res = e.res && f.ctx = x) with
    | some f => k.landAir f
    | none => k) k

/-- A value that reaches resource `n` for context `x` and lands at once, as a load's does. -/
def Core.landNow (k : Core) (x n : Nat) : Core :=
  { k with air := (k.air.filter (fun e => !(e.res = n && e.ctx = x))).map (fun e =>
      if e.res = n then { e with old := k.res n, beaten := true } else e) }

/-- The mask that gates V-slot lanes: the top entry, all ones when the stack is empty (R74, R81). -/
def Ctx.top (t : Ctx) : Mask :=
  match t.masks with
  | [] => BitVec.allOnes 4096
  | m :: _ => m
def State.mask (s : State) : Mask := s.fctx.top

/-! ## Flags (R87) -/

/-- Flags of an operation of latency `l` that issues now: they reach FPCSR when it completes. -/
def State.raiseFlags (s : State) (l : Nat) (f : BitVec 6) : State :=
  if f = 0 then s else s.modF (fun t => { t with flags := t.flags ++ [(s.fcore.clock + l, f)] })

/-- FPCSR with the flags of every operation completed before cycle `n`. -/
def Ctx.flagsAt (t : Ctx) (n : Nat) : BitVec 6 :=
  t.flags.foldl (fun f e => if e.1 ≤ n then f ||| e.2 else f) t.csr.fpcsr

/-- The flags of every issued operation in FPCSR, as after a precise stop (R210). -/
def Ctx.allFlags (t : Ctx) : Ctx :=
  { t with csr := { t.csr with fpcsr := t.flags.foldl (fun f e => f ||| e.2) t.csr.fpcsr }, flags := [] }

/-! ## Control registers (R83 to R91, R229) -/

/-- The value of a control register of context `x` of core `c` in dispatch cycle `n`; none for a number not in the table. A BANKS count
above 255 shows modulo 256 (notes/assumptions/59.md). -/
def State.csr (s : State) (c x num : Nat) : Option Word :=
  let t := s.ctx c x
  let tw := towerOf c
  let w := s.tower tw
  match num with
  | 0x000 => some (BitVec.ofNat 64 (tw <<< 10 + coreIn c <<< 3 + x))
  | 0x001 => some (BitVec.ofNat 64 (bnat t.csr.abss <<< 11 + bnat t.csr.absd <<< 10 + t.csr.vwbBase.toNat))
  | 0x002 => some (BitVec.ofNat 64 (t.csr.awbLen.toNat <<< 14 + t.csr.awbBase.toNat))
  | 0x003 => some (BitVec.ofNat 64 (t.loops.length <<< 13 + t.masks.length <<< 8 + bnat t.csr.resumed <<< 7 +
      bnat t.csr.rev <<< 6 + bnat t.csr.recording <<< 5 + bnat t.csr.disc <<< 4 + t.csr.done.toNat))
  | 0x004 => some (BitVec.ofNat 64 (t.flagsAt (s.core c).clock).toNat)
  | 0x005 => some t.csr.logptr
  | 0x006 => some t.csr.loglim
  | 0x007 => some t.csr.revcur
  | 0x008 => some t.csr.fpc
  | 0x009 => some t.csr.finfo
  | 0x00A => some t.csr.faddr
  | 0x00B => some t.csr.ptbase
  | 0x00C =>
    let lp := bnat (w.layer 1).detect + 2 * bnat (w.layer 2).detect + 4 * bnat (w.layer 3).detect + 8 * bnat (w.layer 4).detect
    some (BitVec.ofNat 64 (w.throt <<< 8 + lp <<< 4 + w.plevel <<< 2 + bnat w.tmode))
  | 0x018 => some (s.sflags (settOf c))
  | _ =>
    if 0x010 ≤ num ∧ num ≤ 0x013 then some (BitVec.ofNat 64 ((w.layer (num - 0x00F)).cap (num - 0x00F)))
    else if 0x014 ≤ num ∧ num ≤ 0x017 then
      let l := w.layer (num - 0x013)
      some (BitVec.ofNat 64 (bnat l.retired.isSome <<< 24 + (l.lanes % 256) <<< 16 + (l.spares % 256) <<< 8 + l.banks.length % 256))
    else if 0x200 ≤ num ∧ num ≤ 0x2FF then some (t.ranges.get (num - 0x200) 0)
    else none

/-- Bits `[hi:lo]` of `old` replaced by those of `new`. -/
def mergeBits (old new : Word) (hi lo : Nat) : Word := putBits old lo (hi + 1 - lo) (bits new hi lo)

/-- A program's write of a control register (R335): RW fields take the bits, RO fields keep theirs, W1C fields clear. `n` is the
dispatch cycle. None for a number not in the table. REVCUR := 0 ends a walk that has stopped (R243). -/
def State.csrWrite (s : State) (c x num : Nat) (v : Word) : Option State :=
  let t := s.ctx c x
  let n := (s.core c).clock
  let recOpen : Bool :=
    match t.span with
    | some sp => sp.record.isSome
    | none => false
  let put (k : Csr) : Option State := some (s.setCtx c x { t with csr := k })
  match num with
  | 0x001 =>
    some (s.setCtx c x { t with
      csr := { t.csr with abss := bit v 11, absd := bit v 10 }
      absLag := t.absLag.filter (fun e => decide (n < e.1)) ++ [(n + 2, t.csr.absd, t.csr.abss)] })
  | 0x003 => put { t.csr with resumed := t.csr.resumed && !(bit v 7), disc := t.csr.disc && !(bit v 4) }
  | 0x004 =>
    some (s.setCtx c x { t with
      csr := { t.csr with fpcsr := BitVec.ofNat 6 (bits v 5 0) }
      flags := t.flags.filter (fun e => decide (n < e.1)) })
  | 0x005 =>
    if recOpen then some s
    else put { t.csr with logptr := putBits (mergeBits t.csr.logptr v 59 6) 0 1 1 }
  | 0x006 => put { t.csr with loglim := mergeBits t.csr.loglim v 55 4 }
  | 0x007 =>
    let cur := mergeBits t.csr.revcur v 55 6
    if recOpen then some s else put { t.csr with revcur := cur, rev := t.csr.rev && cur ≠ 0 }
  | 0x018 => some (s.setSflags (settOf c) (s.sflags (settOf c) &&& ~~~v))
  | _ => if (s.csr c x num).isSome then some s else none

/-- ABSD and ABSS as a bundle dispatched in cycle `n` sees them (R335). -/
def Ctx.absAt (t : Ctx) (n : Nat) : Bool × Bool :=
  match t.absLag.find? (fun e => decide (n < e.1)) with
  | some e => e.2
  | none => (t.csr.absd, t.csr.abss)

end Sys2Proof.Machine
end

