-- ==== Sys2Proof/Machine/Access.lean ====
section
/-! DEFINITION. Loads, stores, atomics and lock writes (R92 to R94, R102 to R105, R121, R176 to R182, R192 to R195, R400 to R402,
R418, R419, R431 to R434, R443): an aperture access performs at issue, a translated one is outstanding until its event. -/

namespace Sys2Proof.Machine

/-- What an operation of a context comes to: it has its effect; it cannot issue yet; or it fails with a fault code, the
pointer for FADDR and FINFO's fields above [9:0]. -/
inductive Res where
  | done (s : State)
  | wait
  | trap (code : Nat) (faddr : Word) (info : Nat)
  deriving Repr

/-- The result continued. -/
def Res.bind (r : Res) (f : State → Res) : Res :=
  match r with
  | .done s => f s
  | .wait => .wait
  | .trap c a i => .trap c a i

/-- A pointer with `off` added to its low 56 bits, the top byte kept (R401, R432). -/
def addPtr (p : Word) (off : Int) : Word :=
  BitVec.ofNat 64 (bits p 63 56 <<< 56 + (((bits p 55 0 : Int) + off) % (2 ^ 56 : Int)).toNat)

/-- R121, R443: the bytes `[lo, lo + n)` of an access meet a watermarked range of the core at or above MARK. -/
def Core.wmHeld (k : Core) (lo n : Nat) : Bool :=
  k.wm.any (fun e =>
    let a := max lo (max e.2.lo e.2.mark)
    let b := min (lo + n) e.2.hi
    decide (a < b))

/-- The core's outstanding requests have reached 8,192 (R64). -/
def Core.outsFull (k : Core) : Bool := decide (8192 ≤ (k.outs.filter (fun o => o.kind ≠ .log)).length)

/-! ## Byte runs of a vector access -/

/-- The maximal runs of set bits of a mask: (first, length), ascending. -/
def runsFrom (m : Nat) (fuel i len : Nat) : List (Nat × Nat) :=
  match fuel with
  | 0 => if len = 0 then [] else [(i - len, len)]
  | k + 1 =>
    if m.testBit i then runsFrom m k (i + 1) (len + 1)
    else if len = 0 then runsFrom m k (i + 1) 0 else (i - len, len) :: runsFrom m k (i + 1) 0

/-- The enabled bytes of a vector access as runs (R81, R432). -/
def maskRuns (m : Mask) : List (Nat × Nat) :=
  if m = BitVec.allOnes 4096 then [(0, 4096)] else runsFrom m.toNat 4096 0 0

/-- Bytes `[off, off + n)` of a vector register replaced by `v`. -/
def putBytes (r : VReg) (off n v : Nat) : VReg :=
  let old := (r.toNat >>> (8 * off)) % 2 ^ (8 * n)
  BitVec.ofNat 32768 (r.toNat - old <<< (8 * off) + (v % 2 ^ (8 * n)) <<< (8 * off))

/-- Bytes `[off, off + n)` of a vector register. -/
def getBytes (r : VReg) (off n : Nat) : Nat := (r.toNat >>> (8 * off)) % 2 ^ (8 * n)

/-- The byte runs laid over the pieces of a checked access: (physical address, length, byte offset in the register). `base` is
the va of byte 0; `va` the va of the piece. -/
def placeRuns (pieces : List (Nat × Nat)) (va base : Nat) (runs : List (Nat × Nat)) : List (Nat × Nat × Nat) :=
  match pieces with
  | [] => []
  | (pa, n) :: r =>
    (runs.filterMap (fun q =>
      let a := max va (base + q.1)
      let b := min (va + n) (base + q.1 + q.2)
      if a < b then some (pa + (a - va), b - a, a - base) else none)) ++ placeRuns r (va + n) base runs

/-- A run of bytes cut at the aligned 8-byte blocks of the register that it fills, each with its block (R179). -/
def blocksOf (q : Nat × Nat × Nat) : List (Nat × Nat × Nat × Nat) :=
  (List.range ((q.2.2 % 8 + q.2.1 + 7) / 8)).map (fun i =>
    let b := q.2.2 / 8 + i
    let a := max q.2.2 (8 * b)
    (b, q.1 + (a - q.2.2), min (q.2.2 + q.2.1) (8 * b + 8) - a, a))

/-- The (physical address, length) pieces of a value or register, its bytes from place `off` on; `v` is that value. -/
def piecesOf (items : List (Nat × Nat)) (off : Nat) (v : Nat) : List Piece :=
  match items with
  | [] => []
  | (pa, n) :: r => { pa := pa, len := n, off := off, val := v % 2 ^ (8 * n) } :: piecesOf r (off + n) (v >>> (8 * n))

/-- The number that pieces hold, each at its place less `base`. -/
def pieceValue (ps : List Piece) (base : Nat) : Nat := ps.foldl (fun v p => v + p.val <<< (8 * (p.off - base))) 0

/-- A part as it issues. -/
def OutPart.new (ps : List Piece) (gran : List (Nat × Nat)) (ptr : Word) : OutPart :=
  { pieces := ps, gran := gran, ptr := ptr, stage := 0, stamp := 0, done := false }

/-! ## Reading (R177, R178) -/

/-- A store of core `c'` that stands in buffer `stage` answers reads of core `c` (R177). -/
def serves (stage c' c : Nat) : Bool :=
  match stage with
  | 0 => false
  | 1 => c' = c
  | 2 => c' / 2 = c / 2
  | 3 => c' / 16 = c / 16
  | _ => c' / 96 = c / 96

/-- A part of a buffered store, with the store's number and the part's. -/
abbrev StorePart := Nat × Nat × OutPart

/-- Store parts in the order in which they came to their buffer. -/
def insertStamp (e : StorePart) (l : List StorePart) : List StorePart :=
  match l with
  | [] => [e]
  | f :: r => if e.2.2.stamp < f.2.2.stamp then e :: f :: r else f :: insertStamp e r

/-- The parts of an access with their numbers. -/
def Out.indexed (o : Out) : List StorePart := o.parts.zipIdx.map (fun q => (o.id, q.2, q.1))

/-- The parts of stores in buffer `stage` that answer reads of core `c`, the oldest in the buffer first. -/
def State.stagePart (s : State) (c stage : Nat) : List StorePart :=
  (s.cores.flatMap (fun e => if serves stage e.1 c then e.2.outs.flatMap (fun o =>
    if o.kind = .store then o.indexed.filter (fun q => !q.2.2.done && q.2.2.stage = stage) else []) else [])).foldl
    (fun l q => insertStamp q l) []

/-- The store parts that a read of context `x` of core `c` meets before the home, the farthest buffer first, and last the context's own
stores older than access `id` that have not reached the core's write queue (R177, R179). -/
def State.visible (s : State) (c x id : Nat) : List StorePart :=
  if (s.cores.all (fun e => e.2.outs.isEmpty)) then []
  else
    s.stagePart c 4 ++ s.stagePart c 3 ++ s.stagePart c 2 ++ s.stagePart c 1 ++
      ((s.core c).outs.filter (fun o => o.kind = .store && o.ctx = x && decide (o.id < id))).flatMap (fun o =>
        o.indexed.filter (fun q => !q.2.2.done && q.2.2.stage = 0))

/-- `n` bytes at `pa` with the bytes of one buffered piece laid over them. -/
def overlay (pa n v : Nat) (it : Piece) : Nat :=
  let a := max pa it.pa
  let b := min (pa + n) (it.pa + it.len)
  if a < b then
    let w := 8 * (b - a)
    let new := (it.val >>> (8 * (a - it.pa))) % 2 ^ w
    let old := (v >>> (8 * (a - pa))) % 2 ^ w
    v - old <<< (8 * (a - pa)) + new <<< (8 * (a - pa))
  else v

/-- What a read of core `c`, context `x`, access `id` gets for `n` bytes at `pa` (R177). -/
def State.readFor (s : State) (c x id pa n : Nat) : Nat :=
  (s.visible c x id).foldl (fun v q => q.2.2.pieces.foldl (overlay pa n) v) (s.readMem pa n)

/-- The buffered stores that supply bytes of `[pa, pa + n)` to such a read (R178). -/
def State.suppliers (s : State) (c x id pa n : Nat) : List (Nat × Nat) :=
  ((s.visible c x id).filter (fun q => q.2.2.pieces.any (fun it => decide (pa < it.pa + it.len) && decide (it.pa < pa + n)))).map
    (fun q => (q.1, q.2.1))

/-- The stores that supply such a read are remembered until they perform: the context has read a value that stands in them (R179). `load` is the
bundle of a load, which is performed for a scope only when they are (R178); a row read has none. -/
def State.noteSuppliers (s : State) (c x : Nat) (load : Option Nat) (id pa n : Nat) : State :=
  match s.suppliers c x id pa n with
  | [] => s
  | l => s.modCtx c x (fun t => { t with supplied := t.supplied ++ l.map (fun e => (load, e)) })

/-- Such a read meets poison: at the home, in bytes that no buffered store supplies (R224). -/
def State.poisonFor (s : State) (c x id pa n : Nat) : Bool :=
  s.poisoned pa n &&
  s.poison.any (fun w =>
    let a := max pa (8 * w)
    let b := min (pa + n) (8 * w + 8)
    decide (a < b) && !((s.visible c x id).any (fun q => q.2.2.pieces.any (fun it =>
      decide (it.pa ≤ a) && decide (b ≤ it.pa + it.len)))))

/-- What an operation that reads its pair store at its issue gets: the home's bytes and marks (R176). -/
def State.readNow (s : State) (pa n : Nat) : Nat := s.readMem pa n
def State.poisonNow (s : State) (pa n : Nat) : Bool := s.poisoned pa n
def State.wordNow (s : State) (pa : Nat) : Word := BitVec.ofNat 64 (s.readNow pa 8)
def State.wordsNow (s : State) (pa n : Nat) : List Word := (List.range n).map (fun i => s.wordNow (pa + 8 * i))

/-! ## Order with what is outstanding (R179, R181, R182) -/

/-- A piece touches an aligned 8-byte word of `[pa, pa + n)`. -/
def Piece.meets (w : Nat) (p : Piece) (pa n : Nat) : Bool :=
  decide (p.pa / w ≤ (pa + n - 1) / w) && decide (pa / w ≤ (p.pa + p.len - 1) / w)

/-- Two parts touch a common aligned `w`-byte block. -/
def OutPart.meets (w : Nat) (a b : OutPart) : Bool := a.pieces.any (fun p => b.pieces.any (fun q => p.meets w q.pa q.len))

/-- A part of an outstanding access, by core, access and place. -/
abbrev PartId := Nat × Nat × Nat

/-- The parts of buffered stores that have supplied a load of context `x` of core `c` and that `p` selects (R178): a later access of the context
to the word comes behind them (R179). -/
def State.suppliedBy (s : State) (c x : Nat) (p : OutPart → Bool) : List PartId :=
  let sup := (s.ctx c x).supplied
  if sup.isEmpty then []
  else
    s.cores.flatMap (fun e => e.2.outs.flatMap (fun o =>
      if o.kind = .store then
        (o.indexed.filter (fun q => !q.2.2.done && p q.2.2 && sup.any (fun z => z.2 = (o.id, q.2.1)))).map (fun q => (e.1, o.id, q.2.1))
      else []))

/-- An access of the focus to `[pa, pa + n)` that acts at the home at once, as one at issue to the pair store does (R176), waits for the context's own
outstanding accesses of the same words and for the buffered stores that the context has read there (R179); log writes of its own bundle come
after it (R180). -/
def State.apWaits (s : State) (pa n : Nat) : Bool :=
  let here (p : OutPart) : Bool := p.pieces.any (fun q => q.meets 8 pa n)
  s.fcore.outs.any (fun o => o.ctx = s.focus.ctx && o.parts.any (fun p => !p.done && here p) &&
    (match o.kind with
     | .load => true
     | .atomic => true
     | .store => true
     | .log => decide (o.op.seq < s.focus.seq)
     | _ => false)) ||
  !(s.suppliedBy s.focus.core s.focus.ctx here).isEmpty

/-- An atomic at issue goes behind every earlier store of its core to the 64-byte line (R194). -/
def State.lineWaits (s : State) (pa n : Nat) : Bool :=
  s.fcore.outs.any (fun o => o.kind = .store && o.parts.any (fun p => !p.done && p.pieces.any (fun q => q.meets 64 pa n)))

/-- A granule of `[pa, pa + n)` is among those that the part is checked at (R102). -/
def OutPart.checks (p : OutPart) (pa n : Nat) : Bool := p.gran.any (fun g => ({ pa := g.1, len := g.2, off := 0, val := 0 } : Piece).meets 32 pa n)

/-- The parts of the access are checked, and fault, together (R102); each element of VLDX and VSTX is an access of its own (R105). -/
def Out.whole (o : Out) : Bool :=
  match o.op.ins with
  | .vldx _ _ _ _ => false
  | .vstx _ _ _ _ => false
  | _ => true

/-- A store whose granules have been checked, and which has begun to write: some of its parts have performed. -/
def Out.begun (o : Out) : Bool := o.kind = .store && o.whole && o.parts.any OutPart.done

/-- A lock write at issue to `[pa, pa + n)` waits for the context's own lock writes and checked accesses there (R103), and for what is left of any
store that has begun to write there (notes/assumptions/65.md). -/
def State.tagWaits (s : State) (pa n : Nat) : Bool :=
  s.fcore.outs.any (fun o => o.ctx = s.focus.ctx && o.parts.any (fun p => !p.done &&
    (p.checks pa n || (o.kind = .tagset && p.pieces.any (fun q => q.meets 32 pa n))))) ||
  s.cores.any (fun e => e.2.outs.any (fun o => o.begun && o.parts.any (fun p => !p.done && p.checks pa n)))

/-! ## Issue -/

/-- The operation of the focus as an entry of a replay window (R210, R212). -/
def State.focusOp (s : State) (i : Instr) : QOp :=
  { seq := s.focus.seq, addr := s.focus.addr, slot := s.focus.slot, ins := i, lent := s.focus.lent, hdr := s.focus.hdr,
    absd := s.focus.absd, abss := s.focus.abss, caps := s.focus.caps, links := [] }

/-- What an access of a kind counts in ld and in st (R64). -/
def OutKind.loads (k : OutKind) : Nat := if k = .load || k = .atomic then 1 else 0
def OutKind.stores (k : OutKind) : Nat := if k = .store || k = .atomic || k = .tagset then 1 else 0

/-- An outstanding access added, with its counters (R64) and the pages its walks completed (R99). One of no bytes is none. -/
def State.addOut (s : State) (kind : OutKind) (i : Instr) (parts : List OutPart) (vals : List Nat) (pages : List Held) : State :=
  if parts.isEmpty then s.modF (fun t => t.hold_ pages)
  else
    let o : Out := { id := s.nextOut, ctx := s.focus.ctx, kind := kind, op := s.focusOp i, parts := parts, vals := vals }
    let s := { s with nextOut := s.nextOut + 1 }
    let s := s.modFCore (fun k => { k with outs := k.outs ++ [o] })
    s.modF (fun t => { t.hold_ pages with ld := t.ld + kind.loads, st := t.st + kind.stores })

/-- Sign or zero extension of a loaded value of `n` bytes (R401). -/
def extend (n : Nat) (sx : Bool) (v : Nat) : Word :=
  if sx && v.testBit (8 * n - 1) then BitVec.ofNat 64 (2 ^ 64 - 2 ^ (8 * n) + v) else BitVec.ofNat 64 v

/-- The granules that a checked access looks at (R102). -/
def Checked.gran (k : Checked) : List (Nat × Nat) := if k.tchk then k.items else []

/-- The one part of a scalar access or an element (R179). -/
def Checked.part (k : Checked) (p : Word) (off v : Nat) : OutPart := OutPart.new (piecesOf k.items off v) k.gran p

/-- SLD (R401, R402): `n` bytes at `p` into register `d`. -/
def loadScalar (s : State) (i : Instr) (p : Word) (n : Nat) (sx : Bool) (d : Nat) : Res :=
  if p.toNat % n ≠ 0 then .trap cALIGN p 0
  else if isAp p then
    if apBad p then .trap cAPERTURE p 0
    else
      let pa := apAddr s.focus.core (apOff p)
      if s.fcore.wmHeld (vaOf p) n || s.apWaits pa n then .wait
      else if s.poisonNow pa n then .trap cPOISON p 0
      else .done ((s.correct pa n).writePending d (extend n sx (s.readNow pa n)) 6)
  else
    match s.fctx.check s p n .rd false with
    | .error e => .trap e p 0
    | .ok k =>
      if s.fcore.wmHeld (vaOf p) n || s.fcore.outsFull then .wait
      else .done ((s.addOut .load i [k.part p 0 0] [] k.pages).expectPending d)

/-- SST (R401, R402): the low `n` bytes of `v` at `p`. -/
def storeScalar (s : State) (i : Instr) (p : Word) (n : Nat) (v : Word) : Res :=
  if p.toNat % n ≠ 0 then .trap cALIGN p 0
  else if isAp p then
    if apBad p then .trap cAPERTURE p 0
    else
      let pa := apAddr s.focus.core (apOff p)
      if s.fcore.wmHeld (vaOf p) n || s.apWaits pa n then .wait
      else .done (s.writeMem pa n v.toNat)
  else
    match s.fctx.check s p n .wr false with
    | .error e => .trap e p 0
    | .ok k =>
      if s.fcore.wmHeld (vaOf p) n || s.fcore.outsFull then .wait
      else .done (s.addOut .store i [k.part p 0 v.toNat] [] k.pages)

/-- The hull of the enabled bytes: (first, length). -/
def hullOf (runs : List (Nat × Nat)) : Nat × Nat :=
  match runs with
  | [] => (0, 0)
  | q :: _ =>
    let z := runs.getLastD (0, 0)
    (q.1, z.1 + z.2 - q.1)

/-- The enabled bytes of a vector access (R432): its (physical address, length, byte of the register) runs, the runs of its hull whose
granules are checked, the pages walked. -/
structure VecRuns where
  runs : List (Nat × Nat × Nat)
  hull : List (Nat × Nat × Nat)
  pages : List Held
  deriving DecidableEq, Repr

/-- The enabled bytes of `[p, p + 4096)` (R432): or a fault code. Where no byte is enabled there is no access, and
nothing but the pointer's alignment is checked. -/
def vectorPieces (s : State) (p : Word) (runs : List (Nat × Nat)) (a : Acc) : Except Nat VecRuns :=
  let h := hullOf runs
  if bits p 5 0 ≠ 0 then .error cALIGN
  else if runs.isEmpty then .ok { runs := [], hull := [], pages := [] }
  else if isAp p then
    if apBad p || decide (pairSize < apOff p + h.1 + h.2) then .error cAPERTURE
    else .ok { runs := runs.map (fun q => (apAddr s.focus.core (apOff p) + q.1, q.2, q.1)), hull := [], pages := [] }
  else if badFormat p then .error cALIGN
  else
    match s.fctx.check s (addPtr p h.1) h.2 a false with
    | .error e => .error e
    | .ok k =>
      .ok { runs := placeRuns k.items (vaOf p + h.1) (vaOf p) runs, pages := k.pages
            hull := if k.tchk then placeRuns k.items (vaOf p + h.1) (vaOf p) [h] else [] }

/-- The aligned 8-byte parts of a vector access (R179, R432); `r` is the register that a store writes out. Parts of the hull that hold no
enabled byte stand for their tag check (R105, R432). -/
def VecRuns.parts (v : VecRuns) (p : Word) (r : VReg) : List OutPart :=
  let bytes := v.runs.flatMap blocksOf
  let grans := v.hull.flatMap blocksOf
  let blocks := ((if grans.isEmpty then bytes else grans).map (fun b => b.1)).eraseReps
  blocks.map (fun b =>
    OutPart.new
      ((bytes.filter (fun e => e.1 = b)).map (fun e =>
        { pa := e.2.1, len := e.2.2.1, off := e.2.2.2, val := getBytes r e.2.2.2 e.2.2.1 }))
      ((grans.filter (fun e => e.1 = b)).map (fun e => (e.2.1, e.2.2.1))) p)

/-- R121, R443: the enabled bytes of a vector access meet a watermarked range. -/
def Core.wmHeldRuns (k : Core) (p : Word) (runs : List (Nat × Nat)) : Bool :=
  !k.wm.isEmpty && runs.any (fun q => k.wmHeld (vaOf p + q.1) q.2)

/-- The operation of the focus has written these bytes of its register (R32). -/
def State.covers (s : State) (c : Option Mask) : State := { s with focus := { s.focus with cover := c } }

/-- The bytes of runs (first, length) of a register; none for all of them. -/
def runCover (runs : List (Nat × Nat)) : Option Mask :=
  if runs = [(0, 4096)] then none
  else some (runs.foldl (fun (m : Mask) r => m ||| (BitVec.ofNat 4096 (2 ^ r.2 - 1) <<< r.1)) 0)

/-- VLD (R432): the enabled bytes of the register from memory. -/
def loadVector (s : State) (i : Instr) (p : Word) (d : Nat) : Res :=
  let runs := maskRuns s.mask
  match vectorPieces s p runs .rd with
  | .error e => .trap e p 0
  | .ok v =>
    if s.fcore.wmHeldRuns p runs then .wait
    else if isAp p then
      if v.runs.any (fun it => s.apWaits it.1 it.2.1) then .wait
      else if v.runs.any (fun it => s.poisonNow it.1 it.2.1) then .trap cPOISON p 0
      else
        .done (((v.runs.foldl (fun (s : State) it => s.correct it.1 it.2.1) s).setVreg d
          (v.runs.foldl (fun r it => putBytes r it.2.2 it.2.1 (s.readNow it.1 it.2.1)) (s.vreg d))).covers (runCover runs))
    else if runs.isEmpty then .done s
    else if s.fcore.outsFull then .wait
    else .done (s.addOut .load i (v.parts p 0) [] v.pages)

/-- VST (R432): the enabled bytes of the register to memory. -/
def storeVector (s : State) (i : Instr) (p : Word) (r : VReg) : Res :=
  let runs := maskRuns s.mask
  match vectorPieces s p runs .wr with
  | .error e => .trap e p 0
  | .ok v =>
    if s.fcore.wmHeldRuns p runs then .wait
    else if isAp p then
      if v.runs.any (fun it => s.apWaits it.1 it.2.1) then .wait
      else .done (v.runs.foldl (fun s it => s.writeMem it.1 it.2.1 (getBytes r it.2.2 it.2.1)) s)
    else if runs.isEmpty then .done s
    else if s.fcore.outsFull then .wait
    else .done (s.addOut .store i (v.parts p r) [] v.pages)

/-- Elements of an indexed access (R434): (index, pointer) of each enabled element, ascending. -/
def indexedElems (base : Word) (vi : VReg) (z : Nat) (m : Mask) : List (Nat × Word) :=
  (List.range (min 1024 (4096 / z))).filterMap (fun k =>
    if m.getLsbD (k * z) then some (k, addPtr base (vElem vi 4 k * z)) else none)

/-- The enabled elements, each an access of its own, checked in ascending order (R434): their parts and the pages walked; a fault is its code
and pointer. `r` is the register that a store writes out. -/
def indexedParts (s : State) (z : Nat) (a : Acc) (r : VReg) (es : List (Nat × Word)) :
    Except (Nat × Word) (List OutPart × List Held) :=
  match es with
  | [] => .ok ([], [])
  | (k, p) :: rest =>
    let v := getBytes r (k * z) z
    let part : Except Nat (OutPart × List Held) :=
      if isAp p then
        if apBad p then .error cAPERTURE
        else .ok (OutPart.new [{ pa := apAddr s.focus.core (apOff p), len := z, off := k * z, val := v }] [] p, [])
      else
        match s.fctx.check s p z a false with
        | .error e => .error e
        | .ok q => .ok (q.part p (k * z) v, q.pages)
    match part with
    | .error e => .error (e, p)
    | .ok (o, hs) =>
      match indexedParts s z a r rest with
      | .error e => .error e
      | .ok (os, hs') => .ok (o :: os, hs ++ hs')

/-- VLDX (R434). -/
def loadIndexed (s : State) (i : Instr) (base : Word) (z : Nat) (vi : VReg) (d : Nat) : Res :=
  if base.toNat % z ≠ 0 then .trap cALIGN base 0
  else
    let es := indexedElems base vi z s.mask
    match indexedParts s z .rd 0 es with
    | .error e => .trap e.1 e.2 0
    | .ok (parts, pages) =>
      let items := parts.flatMap OutPart.pieces
      if es.any (fun e => s.fcore.wmHeld (vaOf e.2) z) then .wait
      else if isAp base then
        if items.any (fun it => s.apWaits it.pa it.len) then .wait
        else
          match parts.find? (fun o => o.pieces.any (fun it => s.poisonNow it.pa it.len)) with
          | some o => .trap cPOISON o.ptr 0
          | none => .done (((items.foldl (fun (s : State) it => s.correct it.pa it.len) s).setVreg d
              (items.foldl (fun r it => putBytes r it.off it.len (s.readNow it.pa it.len)) (s.vreg d))).covers
                (runCover (items.map (fun it => (it.off, it.len)))))
      else if es.isEmpty then .done s
      else if s.fcore.outsFull then .wait
      else .done (s.addOut .load i parts [] pages)

/-- VSTX (R434): of elements that reach the same word the highest wins, since they perform in ascending order there. -/
def storeIndexed (s : State) (i : Instr) (base : Word) (z : Nat) (vi r : VReg) : Res :=
  if base.toNat % z ≠ 0 then .trap cALIGN base 0
  else
    let es := indexedElems base vi z s.mask
    match indexedParts s z .wr r es with
    | .error e => .trap e.1 e.2 0
    | .ok (parts, pages) =>
      let items := parts.flatMap OutPart.pieces
      if es.any (fun e => s.fcore.wmHeld (vaOf e.2) z) then .wait
      else if isAp base then
        if items.any (fun it => s.apWaits it.pa it.len) then .wait
        else .done (items.foldl (fun s it => s.writeMem it.pa it.len it.val) s)
      else if es.isEmpty then .done s
      else if s.fcore.outsFull then .wait
      else .done (s.addOut .store i parts [] pages)

/-! ## Atomics (R192 to R195, R304 to R306) -/

/-- The atomic operations. -/
inductive AtomicOp where
  | add | fadd | min | max | logic | swap | cas
  deriving DecidableEq, Repr

/-- R195: minimumNumber and maximumNumber of two FP32 words. Two NaNs give 0x7FC00000; when the result equals m, m's bits stay. -/
def atomicMinMax (big : Bool) (m v : Nat) : FRes := minMaxF .f32 big m v

/-- The new word and the flags (R193): `n` bits, old word `m`, operand `v`, compare `c`, OP field `o`. -/
def atomicNew (op : AtomicOp) (o n m v c : Nat) : Nat × BitVec 6 :=
  let sg (x : Nat) : Int := (BitVec.ofNat n x).toInt
  match op with
  | .add => ((m + v) % 2 ^ n, 0)
  | .fadd => let r := addF .f32 m v; (r.bits, r.fl)
  | .min =>
    match o with
    | 0 => (if sg v < sg m then v else m, 0)
    | 1 => (if v < m then v else m, 0)
    | _ => let r := atomicMinMax false m v; (r.bits, r.fl)
  | .max =>
    match o with
    | 0 => (if sg m < sg v then v else m, 0)
    | 1 => (if m < v then v else m, 0)
    | _ => let r := atomicMinMax true m v; (r.bits, r.fl)
  | .logic =>
    match o with
    | 0 => (m &&& v, 0)
    | 1 => (m ||| v, 0)
    | _ => (m ^^^ v, 0)
  | .swap => (v, 0)
  | .cas => (if m = c then v else m, 0)

/-- The operation, the OP field and the register that receives the old value, of an atomic instruction. -/
def atomicOf (i : Instr) : Option (AtomicOp × Nat × BitVec 6) :=
  match i with
  | .aadd d _ _ _ => some (.add, 0, d)
  | .afadd d _ _ => some (.fadd, 0, d)
  | .amin d _ _ _ o => some (.min, o.toNat, d)
  | .amax d _ _ _ o => some (.max, o.toNat, d)
  | .alogic d _ _ _ o => some (.logic, o.toNat, d)
  | .aswp d _ _ _ => some (.swap, 0, d)
  | .acas d _ _ _ _ => some (.cas, 0, d)
  | _ => none

/-- Pieces of a word written, each with its bytes of `v`. -/
def State.writePieces (s : State) (ps : List Piece) (v : Nat) : State :=
  ps.foldl (fun s p => s.writeMem p.pa p.len (v >>> (8 * p.off))) s

/-- An atomic at its home: memory changes only when the word does (R304). -/
def State.doAtomic (s : State) (op : AtomicOp) (o nb : Nat) (ps : List Piece) (v c : Nat) : State × Nat × BitVec 6 :=
  let n := 8 * nb
  let m := pieceValue (ps.map (fun p => { p with val := s.readMem p.pa p.len })) 0
  let s := ps.foldl (fun (s : State) p => s.correct p.pa p.len) s
  let (new, fl) := atomicNew op o n m (v % 2 ^ n) (c % 2 ^ n)
  (if new = m then s else s.writePieces ps new, m, fl)

/-- The latency after which an aperture atomic's value returns (R192); its flags reach FPCSR in that cycle (R87). -/
def atomicLatency : Nat := 8

/-- An atomic (R304, R305, R306). -/
def atomic (s : State) (i : Instr) (op : AtomicOp) (o : Nat) (p : Word) (nb : Nat) (v c : Word) (d : Nat) : Res :=
  if p.toNat % nb ≠ 0 then .trap cALIGN p 0
  else if isAp p then
    if apBad p then .trap cAPERTURE p 0
    else
      let pa := apAddr s.focus.core (apOff p)
      if s.fcore.wmHeld (vaOf p) nb || s.apWaits pa nb || s.lineWaits pa nb then .wait
      else if s.poisoned pa nb then .trap cPOISON p 0
      else
        let (s, m, fl) := s.doAtomic op o nb (piecesOf [(pa, nb)] 0 0) v.toNat c.toNat
        .done ((s.writePending d (BitVec.ofNat 64 m) atomicLatency).raiseFlags (atomicLatency + 1) fl)
  else
    match s.fctx.check s p nb .rw false with
    | .error e => .trap e p 0
    | .ok k =>
      if s.fcore.wmHeld (vaOf p) nb || s.fcore.outsFull then .wait
      else .done ((s.addOut .atomic i [k.part p 0 0] [v.toNat, c.toNat] k.pages).expectPending d)

/-! ## Lock writes (R418, R419) -/

/-- One event of the tag-assignment trace, the last 4,096 kept (R104); `id` numbers the lock write that it belongs to. -/
def State.traceTag (s : State) (lo hi : Nat) (k : BitVec 4) (id : Nat) : State :=
  let e : TagEvent :=
    { id := id, lo := lo, hi := hi, lock := k, core := s.focus.core, ctx := s.focus.ctx, addr := s.focus.addr }
  s.modTower (towerOf s.focus.core) (fun w => { w with trace := (e :: w.trace).take 4096 })

/-- The part of a lock write at one granule (R418). -/
def granulePart (p : Word) (k : BitVec 4) (g : Nat) : OutPart :=
  OutPart.new [{ pa := 32 * g, len := 32, off := 0, val := k.toNat }] [] p

/-- TAGSET (R418): `len` bytes of granules at `p`, lock `k`. -/
def tagset (s : State) (i : Instr) (p : Word) (len : Nat) (k : Word) : Res :=
  if len = 0 || len % 32 ≠ 0 || decide (2 ^ 20 < len) || bits k 63 4 ≠ 0 then .trap cILLOP 0 0
  else if bits p 4 0 ≠ 0 then .trap cALIGN p 0
  else
    let lock : BitVec 4 := BitVec.ofNat 4 k.toNat
    if isAp p then
      if apBad p || decide (pairSize < apOff p + len) then .trap cAPERTURE p 0
      else
        let pa := apAddr s.focus.core (apOff p)
        if s.tagWaits pa len then .wait
        else .done { (s.traceTag pa (pa + len) lock s.nextOut).setLocks pa len lock s.nextOut with nextOut := s.nextOut + 1 }
    else
      match s.fctx.checkLock s p len with
      | .error e => .trap e p 0
      | .ok q =>
        if q.items.any (fun it => s.lostAt it.1) then .trap cLAYERLOST p 0
        else if s.fcore.outsFull then .wait
        else
          let s := q.items.foldl (fun s it => s.traceTag it.1 (it.1 + it.2) lock s.nextOut) s
          .done (s.addOut .tagset i ((q.items.flatMap (fun it => granules it.1 it.2)).map (granulePart p lock)) [] q.pages)

/-! ## Performing outstanding accesses -/

/-- The operation reads memory (R180): a load, an atomic, a control-block or descriptor capture. -/
def readsMem (i : Instr) : Bool :=
  match i with
  | .sld _ _ _ _ _ => true
  | .vld _ _ _ => true
  | .vldx _ _ _ _ => true
  | .scale _ _ _ => true
  | .bartst _ _ => true
  | .barwait _ _ => true
  | .ringcfg _ _ => true
  | .copy _ _ _ _ _ => true
  | .cslice _ _ _ _ _ => true
  | .stream _ _ _ _ _ => true
  | .npost _ _ _ _ _ => true
  | .pldec _ _ _ _ _ => true
  | .pland _ _ _ _ _ => true
  | .plor _ _ _ _ _ => true
  | .pltopk _ _ _ _ _ => true
  | .plfuse _ _ _ _ _ => true
  | .egq _ _ _ _ _ => true
  | _ => (atomicOf i).isSome

/-- The operation reads a row of a ring. -/
def readsRow (i : Instr) : Bool :=
  match i with
  | .mpush _ _ _ _ _ _ => true
  | .mshift _ _ _ => true
  | _ => false

/-- A log write of bundle `seq` is held behind a read of its own bundle that has not issued (R180). -/
def Ctx.readsFirst (t : Ctx) (seq : Nat) : Bool :=
  !t.stopped && (t.mq.any (fun p => p.seq = seq && readsRow p.ins) || t.lq.any (fun p => p.seq = seq && readsMem p.ins))

/-- Outstanding access `k` of core `c`. -/
def State.out (s : State) (c k : Nat) : Option Out := (s.core c).outs.find? (fun o => o.id = k)

/-- The granules that lock write part `p` writes are checked by part `q` (R103). -/
def OutPart.guards (p q : OutPart) : Bool := p.pieces.any (fun g => q.gran.any (fun r => g.meets 32 r.1 r.2))

/-- A part `p` of an older access of kind `a` has to perform before part `q` of an access of kind `b` of the same context (R179, and for
locks R103): a load or an atomic before any access of the word; a store before a store of the word to its buffer, and before an atomic. -/
def orders (a : OutKind) (p : OutPart) (b : OutKind) (q : OutPart) : Bool :=
  match a, b with
  | .value, _ => false
  | _, .value => false
  | .tagset, .tagset => p.meets 32 q
  | .tagset, _ => p.guards q
  | _, .tagset => q.guards p
  | .store, .load => false
  | .store, .store => p.stage = 0 && p.meets 8 q
  | .store, .atomic => p.meets 8 q
  | _, _ => p.meets 8 q

/-- The parts of outstanding access `o` of core `c` that pass `p`, as identifiers. -/
def Out.partsWith (o : Out) (c : Nat) (p : OutPart → Bool) : List PartId :=
  (o.indexed.filter (fun q => !q.2.2.done && p q.2.2)).map (fun q => (c, o.id, q.2.1))

/-- The buffers on the way from core `c` to the home of `pa` (R177): the farthest that a store passes before its home. -/
def stagesTo (c pa : Nat) : Nat :=
  if pairBase ≤ pa then
    let q := (pa - pairBase) / pairSize
    if q = pairOf c then 2 else if q / 48 = towerOf c then 3 else 4
  else 4

/-- The last buffer of a store part before its home. -/
def OutPart.lastStage (p : OutPart) (c : Nat) : Nat := p.pieces.foldl (fun m q => max m (stagesTo c q.pa)) 0

/-- The parts of an access that leave the core together with part `p`: of a store that is checked as a whole, all that have not (R102, R103;
notes/assumptions/65.md). -/
def Out.leaves (o : Out) (p : OutPart) : List OutPart :=
  if o.kind = .store && o.whole && p.stage = 0 && !p.gran.isEmpty then o.parts.filter (fun q => !q.done && q.stage = 0) else [p]

/-- What part `j` of outstanding access `o` of core `c` has to wait for. Older accesses of its context to the word or granule (`orders`), and where
parts leave together to those of any of them; in one VSTX, the elements before it (R434). A store stays behind what came
before it to its buffer, and goes home behind what came before it to a farther buffer that serves its core (R177, R179). An atomic goes behind
every older store of its core to the line (R194), and behind every buffered store that its context has read there. A log write goes behind the
reads of its bundle (R180); a lock write behind what is left of any store that has begun to write under the old lock (R103). -/
def State.blockers (s : State) (c : Nat) (o : Out) (j : Nat) (p : OutPart) : List PartId :=
  let os := (s.core c).outs
  let ps := o.leaves p
  (os.filter (fun b => b.ctx = o.ctx && decide (b.id < o.id))).flatMap (fun b => b.partsWith c (fun q => ps.any (orders b.kind q o.kind))) ++
  (match o.kind with
   | .tagset => s.cores.flatMap (fun e => e.2.outs.flatMap (fun b => if b.begun then b.partsWith e.1 p.guards else []))
   | .store =>
     if p.stage = 0 then
       ((o.indexed.take j).filter (fun q => !q.2.2.done && q.2.2.stage = 0 && q.2.2.meets 8 p)).map (fun q => (c, o.id, q.2.1))
     else
       s.cores.flatMap (fun e => e.2.outs.flatMap (fun b =>
         if b.kind = .store then b.partsWith e.1 (fun q =>
           (q.stage = p.stage || (decide (p.stage < q.stage) && p.stage = p.lastStage c)) && serves q.stage e.1 c &&
             decide (q.stamp < p.stamp) && q.meets 8 p)
         else []))
   | .atomic =>
     (os.filter (fun b => b.kind = .store && decide (b.id < o.id))).flatMap (fun b => b.partsWith c (fun q => q.meets 64 p)) ++
     s.suppliedBy c o.ctx (fun q => q.meets 8 p)
   | .log =>
     (os.filter (fun b => b.ctx = o.ctx && b.op.seq = o.op.seq && (b.kind = .load || b.kind = .atomic))).flatMap (fun b =>
       b.partsWith c (fun _ => true))
   | _ => [])

/-- The part waits for nothing. -/
def State.clear (s : State) (c : Nat) (o : Out) (j : Nat) (p : OutPart) : Bool :=
  !p.done && (s.blockers c o j p).isEmpty && !(o.kind = .log && (s.ctx c o.ctx).readsFirst o.op.seq)

/-- The deferred fault that a part meets (R212): TAGKEY with FINFO's fields, or POISON of a load or atomic. -/
def State.partFault (s : State) (c : Nat) (o : Out) (p : OutPart) : Option (Nat × Nat) :=
  match tagMiss s p.gran (keyOf p.ptr) with
  | some (pa, lock) => some (cTAGKEY, tagInfo s (towerOf c) pa lock (keyOf p.ptr))
  | none =>
    match o.kind with
    | .load => if p.pieces.any (fun q => s.poisonFor c o.ctx o.id q.pa q.len) then some (cPOISON, 0) else none
    | .atomic => if p.pieces.any (fun q => s.poisoned q.pa q.len) then some (cPOISON, 0) else none
    | _ => none

/-- A part of a store that writes nothing: its granules are checked, and it is done, with the first part that writes. -/
def Out.idlePart (o : Out) (p : OutPart) : Bool := o.kind = .store && p.pieces.isEmpty

/-- The part can perform now: it waits for nothing and, of a store, stands in the last buffer before its home. -/
def State.atHome (s : State) (c : Nat) (o : Out) (q : StorePart) : Bool :=
  s.clear c o q.2.1 q.2.2 && (o.kind ≠ .store || q.2.2.stage = q.2.2.lastStage c)

/-- The first part that faults, with FINFO's fields and the pointer. -/
def State.firstFault (s : State) (c : Nat) (o : Out) (qs : List StorePart) : Option (Nat × Nat × Word) :=
  qs.findSome? (fun q => (s.partFault c o q.2.2).map (fun e => (e.1, e.2, q.2.2.ptr)))

/-- The deferred fault that an outstanding access meets now (R102, R212): code, FINFO's fields, pointer. Where an access is checked as a whole,
the granules of a store are checked when its first part that writes performs, so that it writes nothing when one fails, and none takes another lock
before the last part has performed (R103); of a load the first part that fails in ascending order is reported, once those before it could perform
(notes/assumptions/65.md). -/
def State.outFault (s : State) (c : Nat) (o : Out) : Option (Nat × Nat × Word) :=
  let ready := o.indexed.filter (fun q => !(o.idlePart q.2.2) && s.atHome c o q)
  match o.kind with
  | .value => none
  | .tagset => none
  | .log => none
  | .store =>
    if !o.whole then s.firstFault c o ready
    else if ready.isEmpty || o.parts.any OutPart.done then none
    else s.firstFault c o o.indexed
  | _ => s.firstFault c o (if o.whole then (o.indexed.takeWhile (fun q => q.2.2.done || s.atHome c o q)).filter (fun q => !q.2.2.done) else ready)

/-- Part `j` can move: it waits for nothing, and neither the access nor a part that would read meets a fault. -/
def State.canMove (s : State) (c : Nat) (o : Out) (j : Nat) (p : OutPart) : Bool :=
  !(o.idlePart p) && s.clear c o j p && (s.outFault c o).isNone && !(o.kind = .load && (s.partFault c o p).isSome)

/-- Outstanding access `id` of core `c` removed. -/
def State.dropOut (s : State) (c id : Nat) : State :=
  s.modCore c (fun k => { k with outs := k.outs.filter (fun o => o.id ≠ id) })

/-- Outstanding access `o` of core `c` as given. -/
def State.setOut (s : State) (c : Nat) (o : Out) : State :=
  s.modCore c (fun k => { k with outs := k.outs.map (fun q => if q.id = o.id then o else q) })

/-- Part `j` of an access as given. -/
def Out.setPart (o : Out) (j : Nat) (p : OutPart) : Out := { o with parts := o.parts.set j p }

/-- Part `j` of a write has performed, and with it the parts that write nothing. -/
def Out.did (o : Out) (j : Nat) (p : OutPart) : Out :=
  let o' := o.setPart j { p with done := true }
  { o' with parts := o'.parts.map (fun q => if o.idlePart q then { q with done := true } else q) }

/-- Every part has performed. -/
def Out.finished (o : Out) : Bool := o.parts.all OutPart.done

/-- The value of an outstanding access reaches its pending write, which commits if it is released (R60, R64). -/
def Ctx.deliver (t : Ctx) (seq r : Nat) (v : Word) : Ctx :=
  Ctx.commit { t with pend := t.pend.map (fun p =>
    if p.seq = seq && p.slot = 3 && p.reg = r && p.val.isNone then { p with val := some v } else p) } 0

/-- A load whose parts have all been read returns (R64): a scalar into its pending write, vector bytes into the register. -/
def State.finishLoad (s : State) (c : Nat) (o : Out) : State :=
  let ps := o.parts.flatMap OutPart.pieces
  let s := (s.dropOut c o.id).modCtx c o.ctx (fun t => { t with ld := t.ld - 1 })
  let fill (d : BitVec 6) : State :=
    let n := (s.ctx c o.ctx).vphys d
    let k := s.core c
    s.setCore c ((k.setVreg n (ps.foldl (fun r p => putBytes r p.off p.len p.val) (k.vreg n))).landNow o.ctx n)
  match o.op.ins with
  | .sld d _ z x _ => s.modCtx c o.ctx (fun t => t.deliver o.op.seq (sreg d) (extend (2 ^ z.toNat) (x = 1) (pieceValue ps 0)))
  | .vld d _ _ => fill d
  | .vldx d _ _ _ => fill d
  | _ => s

/-- Part `j` of a load reads (R178). -/
def State.readPart (s : State) (c : Nat) (o : Out) (j : Nat) (p : OutPart) : State :=
  let p' := { p with done := true, pieces := p.pieces.map (fun q => { q with val := s.readFor c o.ctx o.id q.pa q.len }) }
  let o' := o.setPart j p'
  let s := p.pieces.foldl (fun (s : State) q => (s.noteSuppliers c o.ctx (some o.op.seq) o.id q.pa q.len).correct q.pa q.len) (s.setOut c o')
  if o'.finished then s.finishLoad c o' else s

/-- An atomic performs at its home (R194, R304): st counts down, the old value is on its way. -/
def State.performAtomic (s : State) (c : Nat) (o : Out) (p : OutPart) : State :=
  match atomicOf o.op.ins with
  | none => s.dropOut c o.id
  | some (op, f, _) =>
    let nb := p.pieces.foldl (fun n q => n + q.len) 0
    let (s, m, fl) := s.doAtomic op f nb p.pieces (o.vals.headD 0) (o.vals.getD 1 0)
    (s.setOut c { o with kind := .value, parts := [{ p with done := true }], vals := [m, fl.toNat] }).modCtx c o.ctx
      (fun t => { t with st := t.st - 1 })

/-- The old value of an atomic returns, and its flags with it (R193, R304). -/
def State.returnValue (s : State) (c : Nat) (o : Out) : State :=
  match atomicOf o.op.ins with
  | none => s.dropOut c o.id
  | some (_, _, d) =>
    (s.dropOut c o.id).modCtx c o.ctx (fun t =>
      Ctx.deliver { t with ld := t.ld - 1, csr := { t.csr with fpcsr := t.csr.fpcsr ||| BitVec.ofNat 6 (o.vals.getD 1 0) } }
        o.op.seq (sreg d) (BitVec.ofNat 64 (o.vals.headD 0)))

/-- Loads that part `j` of store `id` has supplied are complete for every scope (R178). -/
def State.forgetSupplier (s : State) (id j : Nat) : State :=
  { s with cores := s.cores.map (fun e =>
      (e.1, { e.2 with ctxs := e.2.ctxs.map (fun z =>
        if z.2.supplied.isEmpty then z else (z.1, { z.2 with supplied := z.2.supplied.filter (fun q => q.2 ≠ (id, j)) })) })) }

/-- Part `j` of a store, lock write or log write performs at its home (R175, R177, R233, R419); with the last part st counts down. -/
def State.performStore (s : State) (c : Nat) (o : Out) (j : Nat) (p : OutPart) : State :=
  let s : State :=
    match o.kind with
    | .tagset => p.pieces.foldl (fun (s : State) q => s.setLock (q.pa / 32) (BitVec.ofNat 4 q.val) o.id) s
    | _ => p.pieces.foldl (fun (s : State) q => s.writeMem q.pa q.len q.val) s
  let o' := o.did j p
  let s := s.forgetSupplier o.id j
  if o'.finished then (s.dropOut c o.id).modCtx c o.ctx (fun t => { t with st := t.st - o.kind.stores }) else s.setOut c o'

/-- One move of part `j` of a store on its way home (R177): to the next buffer, behind what stands there, or to its home. -/
def State.advanceStore (s : State) (c : Nat) (o : Out) (j : Nat) (p : OutPart) : State :=
  if p.stage < p.lastStage c then
    { s.setOut c (o.setPart j { p with stage := p.stage + 1, stamp := s.nextOut }) with nextOut := s.nextOut + 1 }
  else s.performStore c o j p

/-- One move of part `j` of access `id` of core `c`, if nothing holds it: a load's part reads, an atomic performs, a store moves on. -/
def State.movePart (s : State) (c id j : Nat) : State :=
  match s.out c id with
  | none => s
  | some o =>
    match o.parts[j]? with
    | none => s
    | some p =>
      if s.canMove c o j p then
        match o.kind with
        | .load => s.readPart c o j p
        | .atomic => s.performAtomic c o p
        | .store => s.advanceStore c o j p
        | .tagset => s.performStore c o j p
        | .log => s.performStore c o j p
        | .value => s
      else s

/-- The part, or every part when `j` is their number, moves (R177, R179). -/
def State.moveParts (s : State) (c : Nat) (o : Out) (j : Nat) : State :=
  if j < o.parts.length then s.movePart c o.id j else (List.range o.parts.length).foldl (fun s i => s.movePart c o.id i) s

/-- The part with which part `j` performs: one that writes nothing is done with the first that writes. -/
def Out.carrier (o : Out) (j : Nat) : Nat :=
  match o.parts[j]? with
  | some p => if o.idlePart p then o.parts.findIdx (fun q => !(o.idlePart q)) else j
  | none => j

/-- Part `q` performs, whatever it waits for first; a part that meets a fault stays as it is. `fuel` bounds the chain. -/
def forcePart (fuel : Nat) (s : State) (q : PartId) : State :=
  match fuel with
  | 0 => s
  | k + 1 =>
    match s.out q.1 q.2.1 with
    | none => s
    | some o =>
      let j := o.carrier q.2.2
      match o.parts[j]? with
      | none => s
      | some p =>
        if p.done then s
        else
          let s := (s.blockers q.1 o j p).foldl (forcePart k) s
          let s := s.movePart q.1 q.2.1 j
          if o.kind = .store then forcePart k s q else s

/-- Buffers and blockers that a forced access can meet one behind the other, at most. -/
def forceFuel : Nat := 64

end Sys2Proof.Machine
end

