-- ==== Sys2Proof/Machine/Ops.lean ====
section
/-! DEFINITION. The named operations that meanings share: taking a context-path fault as one operation, the precise stop it
makes, the handler entry and the return from it, the report to the tower fault queue, the abort of a ganged span (R173, R208 to
R215, R279), and how a meaning's result becomes the outcome of `exec`. -/

namespace Sys2Proof.Machine

/-! ## Records -/

/-- The graph of a bound task. -/
def State.graphOf (s : State) (b : BoundTask) : Option Graph :=
  (s.marten b.tower).graphs.find? (fun g => g.order = b.graph)

/-- GID and task index of the task bound to a context (R215). -/
def State.taskIds (s : State) (c x : Nat) : Nat × Nat :=
  match s.task (s.ctx c x).task with
  | none => (0, 0)
  | some b =>
    match s.graphOf b with
    | none => (0, b.idx)
    | some g => (gGid g.desc, b.idx)

/-- A record of Owl's trace buffer (R278, R279): words 0 and 2 to 7 given, CYCLE a free value; nothing while EN = 0 or SIZE = 0. Owl reaches
no layer (R94): a record that would stand in one, or outside every memory, is counted and written nowhere (notes/assumptions/60.md). -/
def State.traceRecord (s : State) (t : Nat) (w0 w2 : Word) (rest : List Word) : State :=
  let o := s.owl t
  let size := bits o.trctl 31 16
  if bit o.trctl 0 && size ≠ 0 then
    let a := o.trbase.toNat + o.wptr.toNat % (size * 64) * 64
    let r := (w0 :: Config.traceCycle t s.free :: w2 :: rest ++ [0, 0, 0, 0, 0]).take 8
    let s := if inLpOrPair a 64 then s.writeWords a r else s
    { s.modOwl t (fun o => { o with wptr := o.wptr + 1 }) with free := s.free + 1 }
  else s

/-- The KIND 2 record of a precise stop (R279): `why` is 0 fault, 1 breakpoint, 2 STOP or STEP. -/
def State.traceStop (s : State) (c x : Nat) (addr : Word) (slot code why : Nat) : State :=
  let t := s.ctx c x
  s.traceRecord (towerOf c) (mergeBits (BitVec.ofNat 64 slot) addr 63 4)
    (BitVec.ofNat 64 (code <<< 32 + x <<< 23 + coreIn c <<< 16 + 2))
    [BitVec.ofNat 64 why, t.csr.faddr, t.csr.finfo, BitVec.ofNat 64 t.csr.done.toNat]

/-- The fault-queue record of a context (R215). -/
def State.faultRecord (s : State) (c x : Nat) (double save : Bool) (need : Nat) : List Word :=
  let t := s.ctx c x
  let (gid, idx) := s.taskIds c x
  [t.csr.fpc, t.pc, t.csr.faddr, t.csr.finfo,
   BitVec.ofNat 64 (bnat save <<< 49 + bnat double <<< 48 + idx <<< 32 + gid),
   BitVec.ofNat 64 (t.csr.done.toNat <<< 16 + towerOf c <<< 10 + coreIn c <<< 3 + x), BitVec.ofNat 64 need, 0]

/-- A record handed to the tower's Marten, which writes it when a slot is free (R215). -/
def State.postRecord (s : State) (t : Nat) (r : List Word) : State :=
  s.modMarten t (fun m => { m with records := m.records ++ [r] })

/-! ## Ganged spans (R173) -/

/-- A member of an aborting span: rows in flight, latch queue and scale queue are discarded, the array has no owner, the
barrier is credited. -/
def State.abortMember (s : State) (g : Gang) (f : Nat × Nat) (code idx : Nat) (m : Nat × Nat) : State :=
  let s := s.modCore m.1 (fun k =>
    { k with arr := { k.arr with inflight := [], latch := [], scaleq := [], owner := none } })
  let s := s.modCtx m.1 m.2 (fun t => { t with span := none })
  if g.baren then
    let flags := fgABORT ||| (if m = f then flagOf code else 0)
    s.credit (pairOf m.1) g.baroff 64 0x18 cGANGABORT flags
      (code <<< 24 + settIdx f.1 <<< 20 + idx % 2 ^ 20)
  else s

/-- `gang_abort(f, c, i)` of R173 for the faulting or stopping member `f` = (core, context); code 0 for a stop of its own that is
no fault. Nothing happens for a context in no ganged span. -/
def State.gangAbort (s : State) (f : Nat × Nat) (code : Nat) : State :=
  match (s.ctx f.1 f.2).span with
  | none => s
  | some sp =>
    match sp.gang with
    | none => s
    | some g =>
      let idx :=
        match (s.ctx g.leadCore g.leadCtx).span with
        | some l => l.beat
        | none => sp.beat
      let s := g.members.foldl (fun s m => s.abortMember g f code idx m) s
      s.modCtx g.leadCore g.leadCtx (fun t => { t with mx := t.mx - 1, mdiscard := true })

/-! ## The precise stop (R210) -/

/-- An operation entered in a queue in program order (R212). -/
def insertOp (o : QOp) (q : List QOp) : List QOp :=
  match q with
  | [] => [o]
  | p :: r => if p.seq < o.seq then p :: insertOp o r else o :: p :: r

/-- An outstanding access that met a deferred fault is undone (R212): it writes nothing more, its counters and pending write go, and
it stands in the L queue again in program order: that of the set-aside window if it issued before its context's handler was entered (R214). -/
def State.undoOut (s : State) (c : Nat) (o : Out) : State :=
  (s.dropOut c o.id).modCtx c o.ctx (fun t =>
    let t := { t with
      ld := t.ld - o.kind.loads, st := t.st - o.kind.stores
      pend := t.pend.filter (fun p => !(p.seq = o.op.seq && p.slot = 3 && p.val.isNone)) }
    match t.handler with
    | some h =>
      if o.op.seq < h.seq then { t with handler := some { h with lq := insertOp o.op h.lq } }
      else { t with lq := insertOp o.op t.lq }
    | none => { t with lq := insertOp o.op t.lq })

/-- A deferred fault found while a stop completes: the undone operation, its code, pointer, FINFO fields. -/
structure Deferred where
  op : QOp
  code : Nat
  faddr : Word
  info : Nat
  deriving DecidableEq, Repr

/-- Every part of a load or atomic performs, whatever it waits for first. -/
def State.forceOut (s : State) (c : Nat) (o : Out) : State :=
  (List.range o.parts.length).foldl (fun s j => forcePart forceFuel s (c, o.id, j)) s

/-- Every load and atomic of the context that is still outstanding delivers its value (R210), oldest first, or is undone by a
deferred fault. -/
def settleOuts (os : List Out) (s : State) (c : Nat) (ds : List Deferred) : State × List Deferred :=
  match os with
  | [] => (s, ds)
  | o :: r =>
    if o.kind = .store || o.kind = .tagset || o.kind = .log then settleOuts r s c ds
    else
      let s := s.forceOut c o
      match s.out c o.id with
      | none => settleOuts r s c ds
      | some q =>
        if q.kind = .value then settleOuts r (s.returnValue c q) c ds
        else
          match s.outFault c q with
          | some (code, info, ptr) =>
            settleOuts r (s.undoOut c q) c (ds ++ [{ op := q.op, code := code, faddr := ptr, info := info }])
          | none => settleOuts r s c ds

/-- The array of core `c` is no longer owned by context `x`. -/
def State.freeArray (s : State) (c x : Nat) : State :=
  s.modCore c (fun k => if k.arr.owner = some x then { k with arr := { k.arr with owner := none } } else k)

/-- A GSYNC arrival withdrawn, an unanswered RELEASE or VETO withdrawn, a walk of REVERSE stopped between records (R244, R352,
R387): the X operation that held dispatch has not issued and replays. A release, an answer or a finished walk that has already
come stands, and a switch that an issued YIELD or END has still to make stays to be made. -/
def State.dropHold (s : State) (c x : Nat) : State :=
  let t := s.ctx c x
  match t.hold with
  | .gsync =>
    (s.modTask t.task (fun b => { b with arrived := b.arrived.filter (fun m => m ≠ t.member) })).modCtx c x
      (fun t => { t with hold := .none })
  | .asked =>
    let drop (s : State) (d : Nat) : State :=
      s.setEgr d { s.egr d with asks := (s.egr d).asks.filter (fun a => !(a.core = c && a.ctx = x)) }
    (drop (drop s 0) 1).modCtx c x (fun t => { t with hold := .none })
  | .walk _ => (s.freeArray c x).modCtx c x (fun t => { t with hold := .none })
  | .walkFault _ _ => s.modCtx c x (fun t => { t with hold := .none })
  | _ => s

/-- Steps 1 to 3 of R210: nothing further issues; issued operations complete; every pending write commits; rows in flight
emerge. The undone operations stay in their queues, which are the replay window. A context that had ended ends again once its
window has replayed (R43, R212). -/
def State.quiesce (s : State) (c x : Nat) : State × List Deferred :=
  let s := s.dropHold c x
  let s := if (s.ctx c x).ended then s.modCtx c x (fun t => { t with ended := false, hold := .ending }) else s
  let (s, ds) := settleOuts ((s.core c).outs.filter (fun o => o.ctx = x)) s c []
  let s := s.modCtx c x (fun t =>
    (Ctx.commit { t with pend := t.pend.map (fun p => { p with ready := 0, released := true }), late := [], fetchAt := 0 } 0).allFlags)
  let k := (s.core c).landCtx x
  let s := s.setCore c k
  (if k.arr.owner = some x then
    s.setCore c { k with arr := { k.arr with inflight := [], latch := k.arr.latch ++ k.arr.inflight } }
   else s, ds)

/-- The done mask of the bundle `seq` of a context's window (R210). -/
def Ctx.doneOf (t : Ctx) (seq : Nat) : BitVec 4 :=
  let has (q : List QOp) : Bool := q.any (fun o => o.seq = seq)
  BitVec.ofNat 4 (15 - (if has t.vq then 2 else 0) - (if has t.mq then 4 else 0) - (if has t.lq then 8 else 0))

/-- The done mask of the oldest bundle of the window, 0b1111 when it is empty (R210). -/
def Ctx.oldestDone (t : Ctx) : BitVec 4 :=
  match (t.vq ++ t.mq ++ t.lq).map QOp.seq with
  | [] => 15
  | a :: r => t.doneOf (r.foldl min a)

/-- The context stays stopped, and its core may switch (R33, R215). -/
def State.halt (s : State) (c x reason : Nat) : State :=
  let s := s.modCtx c x (fun t => { t with stopped := true, stopReason := reason, replay := t.seq })
  s.modCore c (fun k => if k.running = some x then { k with running := none, lastSwitch := x } else k)

/-- Handler entry (R213): window, next PC, transfer under way and both stacks are set aside; the handler starts at HVEC with empty
stacks. -/
def Ctx.enterHandler (t : Ctx) : Ctx :=
  { t with
    handler := some { vq := t.vq, mq := t.mq, lq := t.lq, npc := t.pc, delay := t.delay, loops := t.loops, masks := t.masks,
                      seq := t.seq, hold := t.hold, mdiscard := t.mdiscard }
    vq := [], mq := [], lq := [], pc := t.hvec, delay := none, loops := [], masks := [], hold := .none, mdiscard := false }

/-- The return from a handler after its delay slots (R214, R346): the handler's own stacks are discarded and the set-aside state is
back; the window replays as recorded (R211). -/
def Ctx.leaveHandler (t : Ctx) : Ctx :=
  match t.handler with
  | none => t
  | some h =>
    { t with handler := none, vq := h.vq, mq := h.mq, lq := h.lq, pc := h.npc, delay := h.delay, loops := h.loops,
             masks := h.masks, hold := h.hold, mdiscard := h.mdiscard, replay := h.seq }

/-- Loop-stack and mask-stack entries that are in use, the set-aside ones counted (R213). -/
def Ctx.loopDepth (t : Ctx) : Nat :=
  t.loops.length + (match t.handler with
    | some h => h.loops.length
    | none => 0)
def Ctx.maskDepth (t : Ctx) : Nat :=
  t.masks.length + (match t.handler with
    | some h => h.masks.length
    | none => 0)

/-- Program order of two operations by bundle and slot. -/
def older (a b : Nat × Nat) : Bool := a.1 < b.1 || (a.1 = b.1 && a.2 < b.2)

/-- The deferred fault that context `x` of core `c` takes instead of the fault or breakpoint of slot `slot` of bundle `seq`: the oldest one
that its precise stop meets, if it is older (R212, R275). In handler state, one of an access from before the handler is not taken (R214). -/
def State.stopPick (s : State) (c x slot seq : Nat) : Option Deferred :=
  let before : Nat :=
    match (s.ctx c x).handler with
    | some h => h.seq
    | none => 0
  ((s.quiesce c x).2.filter (fun d => decide (before ≤ d.op.seq))).foldl (fun (b : Option Deferred) d =>
    match b with
    | none => if older (d.op.seq, d.op.slot) (seq, slot) then some d else none
    | some e => if older (d.op.seq, d.op.slot) (e.op.seq, e.op.slot) then some d else some e) none

/-- TAKING A FAULT on the context path (R208, R210, R212, R213, R215), for context `x` of core `c`: `slot` and bundle of the faulting
operation, its code, pointer and FINFO fields; `seq` its place in program order; `inWindow` tells whether its bundle was
dispatched, otherwise `done` is the done mask shown. A ganged span aborts first (R173). Of several faults the oldest
bundle's, and in it the lowest slot's, is taken. A context with a handler, outside handler state, enters it, unless `stay`; any other stops and
reports to the tower fault queue. -/
def State.takeFault (s : State) (c x slot seq : Nat) (addr : Word) (code : Nat) (faddr : Word) (info : Nat)
    (inWindow : Bool) (done : BitVec 4) (stay : Bool) : State :=
  let (slot, addr, code, faddr, info, win, sq) : Nat × Word × Nat × Word × Nat × Bool × Nat :=
    match s.stopPick c x slot seq with
    | some d => (d.op.slot, d.op.addr, d.code, d.faddr, d.info, true, d.op.seq)
    | none => (slot, addr, code, faddr, info, inWindow, seq)
  let s := ((s.gangAbort (c, x) code).quiesce c x).1
  let t := s.ctx c x
  let dm := if win then t.doneOf sq else done
  let t := { t with csr := { t.csr with
    fpc := addr, faddr := faddr, finfo := BitVec.ofNat 64 (code + slot <<< 8 + info), done := dm } }
  let s := (s.setCtx c x t).traceStop c x addr slot code 0
  if t.hvec ≠ 0 && t.handler.isNone && !stay then s.modCtx c x Ctx.enterHandler
  else
    let s := s.halt c x 1
    if stay && t.hvec ≠ 0 && t.handler.isNone then s
    else s.postRecord (towerOf c) (s.faultRecord c x t.handler.isSome false 0)

/-- A precise stop that is no fault (R210, R275, R276, R339): FPC, FINFO and FADDR keep their values. `why` is 1 breakpoint, 2 STOP or
STEP. -/
def State.debugStop (s : State) (c x slot : Nat) (addr : Word) (why : Nat) : State :=
  let s := s.gangAbort (c, x) 0
  let (s, _) := s.quiesce c x
  let s := s.modCtx c x (fun t => { t with csr := { t.csr with done := t.oldestDone } })
  (s.traceStop c x addr slot 0 why).halt c x 2

/-- The stop of a breakpoint, or of DBGBRK, at slot `slot` of bundle `seq` (R275, R339): it counts as a fault of its slot, so an older deferred
fault is taken instead (R212). -/
def State.breakStop (s : State) (c x slot seq : Nat) (addr : Word) : State :=
  match s.stopPick c x slot seq with
  | some d => s.takeFault c x d.op.slot d.op.seq d.op.addr d.code d.faddr d.info true 0 false
  | none => s.debugStop c x slot addr 1

/-- The stop of Owl's STOP and STEP (R276, R277): a deferred fault that it meets is taken instead (R212). The context stays stopped on it, and
RESUME enters its handler first (R276; notes/assumptions/15.md). -/
def State.owlHalt (s : State) (c x slot : Nat) (addr : Word) : State :=
  match s.stopPick c x 4 (s.ctx c x).seq with
  | some d => s.takeFault c x d.op.slot d.op.seq d.op.addr d.code d.faddr d.info true 0 true
  | none => s.debugStop c x slot addr 2

/-! ## From a meaning to an outcome -/

/-- A fault of the operation of the focus. An X-slot operation that faults has not issued: its bundle is not in the window, and the
done mask shows the slots that hold no operation (R210, R283). -/
def State.faultHere (s : State) (code : Nat) (faddr : Word) (info : Nat) : State :=
  s.takeFault s.focus.core s.focus.ctx s.focus.slot s.focus.seq s.focus.addr code faddr info
    (s.focus.slot ≠ 0) (~~~s.focus.present) s.focus.step

/-- The outcome of an operation: its effect; nothing yet; or the fault taken. Always a next state. -/
def finish (s : State) (r : Res) : Host.Outcome State Fault Refusal :=
  match r with
  | .done s' => .next { s' with last := .issued }
  | .wait => .next { s with last := .waits }
  | .trap code faddr info => .next { s.faultHere code faddr info with last := .trapped }

/-- The outcome of an event that has its effect. -/
def happened (s : State) : Host.Outcome State Fault Refusal := .next { s with last := .issued }

/-- The outcome of an event whose condition does not hold: nothing happens. -/
def notNow (s : State) : Host.Outcome State Fault Refusal := .next { s with last := .waits }

/-- The outcome of a write by the host: it waits in its queue while the link retrains (R259). -/
def fromHost (s s' : State) : Host.Outcome State Fault Refusal := if s.link.retraining then notNow s else happened s'

/-- The outcome of an operation that ends in a stop it makes itself (R173, R339, R420). -/
def stoppedAt (s : State) : Host.Outcome State Fault Refusal := .next { s with last := .trapped }

end Sys2Proof.Machine
end

