-- ==== Sys2Proof/Machine/Operands.lean ====
section
/-! DEFINITION. What each operation reads and writes: scalar and address operands (R56, R57), and the vector registers, accumulator
rows, mask stack, scale queue and rings that are ordered in program order across slots (R55, R393). The address and immediate
forms of the operands stand here too. -/

namespace Sys2Proof.Machine

/-- The scalar and address registers that an operation reads, by code (R285). -/
def scalarSrcs (ins : Instr) : List Nat :=
  match ins with
  | .nop => []
  | .hdr _ _ _ _ _ _ _ => []
  | .addReg _ a b => [sreg a, sreg b]
  | .addImm _ a _ => [sreg a]
  | .subReg _ a b => [sreg a, sreg b]
  | .subImm _ a _ => [sreg a]
  | .mulReg _ a b => [sreg a, sreg b]
  | .mulImm _ a _ => [sreg a]
  | .mulhReg _ a _ b => [sreg a, sreg b]
  | .mulhImm _ a _ _ => [sreg a]
  | .divReg _ a _ b => [sreg a, sreg b]
  | .divImm _ a _ _ => [sreg a]
  | .remReg _ a _ b => [sreg a, sreg b]
  | .remImm _ a _ _ => [sreg a]
  | .andReg _ a b => [sreg a, sreg b]
  | .andImm _ a _ => [sreg a]
  | .orReg _ a b => [sreg a, sreg b]
  | .orImm _ a _ => [sreg a]
  | .xorReg _ a b => [sreg a, sreg b]
  | .xorImm _ a _ => [sreg a]
  | .shlReg _ a b => [sreg a, sreg b]
  | .shlImm _ a _ => [sreg a]
  | .shrReg _ a b => [sreg a, sreg b]
  | .shrImm _ a _ => [sreg a]
  | .sraReg _ a b => [sreg a, sreg b]
  | .sraImm _ a _ => [sreg a]
  | .minReg _ a _ b => [sreg a, sreg b]
  | .minImm _ a _ _ => [sreg a]
  | .maxReg _ a _ b => [sreg a, sreg b]
  | .maxImm _ a _ _ => [sreg a]
  | .cmpReg _ a _ b => [sreg a, sreg b]
  | .cmpImm _ a _ _ => [sreg a]
  | .sel _ a b c => [sreg a, sreg b, sreg c]
  | .li _ _ => []
  | .lih d _ _ => [d.toNat]
  | .mov _ s => [s.toNat]
  | .bitc _ a _ => [sreg a]
  | .bfx _ a _ _ _ => [sreg a]
  | .bfi d a _ _ => [sreg d, sreg a]
  | .br a c _ _ => if c = 6 then [] else [sreg a]
  | .jmpRel _ => []
  | .jmpReg a => [sreg a]
  | .callRel _ => []
  | .callReg a => [sreg a]
  | .ret a => [sreg a]
  | .loopImm _ _ => []
  | .loopReg c _ => [sreg c]
  | .breakOp _ => []
  | .brkm _ => []
  | .eret => []
  | .yield => []
  | .endOp => []
  | .trap _ => []
  | .dbgbrk => []
  | .wait _ _ _ _ => []
  | .csrr _ _ => []
  | .csrw a _ => [sreg a]
  | .gsync => []
  | .gsyncRelease _ => []
  | .signal a => [sreg a]
  | .signalDecrement _ => []
  | .launch a => [sreg a]
  | .deviceLaunchArrive _ => []
  | .fence _ _ _ => []
  | .drain _ => []
  | .recon p l _ => [sreg p, sreg l]
  | .recoff => []
  | .reverse g => [sreg g]
  | .reverseRecord _ _ => []
  | .release s q => [sreg s, sreg q]
  | .veto s q => [sreg s, sreg q]
  | .egressAnswer _ _ => []
  | .vadd _ _ _ _ => []
  | .vsub _ _ _ _ => []
  | .vmul _ _ _ _ => []
  | .vfma _ _ _ _ => []
  | .vfms _ _ _ _ => []
  | .vmax _ _ _ _ => []
  | .vmin _ _ _ _ => []
  | .vabs _ _ _ => []
  | .vneg _ _ _ => []
  | .vrcp _ _ _ => []
  | .vrsq _ _ _ => []
  | .vsqrt _ _ _ => []
  | .vexp2 _ _ _ => []
  | .vlog2 _ _ _ => []
  | .vtanh _ _ _ => []
  | .viadd _ _ _ _ => []
  | .visub _ _ _ _ => []
  | .vimul _ _ _ _ => []
  | .vand _ _ _ _ => []
  | .vor _ _ _ _ => []
  | .vxor _ _ _ _ => []
  | .vshl _ _ _ _ => []
  | .vshr _ _ _ _ => []
  | .vsra _ _ _ _ => []
  | .vcmp _ _ _ _ _ => []
  | .vsel _ _ _ _ => []
  | .vcvt _ _ _ _ _ _ => []
  | .vscl _ _ n _ => [sreg n]
  | .vbcst _ s _ => [sreg s]
  | .vred _ _ _ _ => []
  | .vperm _ _ _ _ => []
  | .vslide _ _ k _ _ => [sreg k]
  | .vzip _ _ _ _ => []
  | .vunzip _ _ _ _ => []
  | .viota _ _ => []
  | .vmovs _ _ i _ => [sreg i]
  | .vins _ s i _ => [sreg s, sreg i]
  | .kpush _ _ => []
  | .kinv => []
  | .kpop => []
  | .kmovTo _ => []
  | .kmovFrom _ => []
  | .tadd _ _ _ _ _ => []
  | .tmul _ _ _ _ _ => []
  | .tscale _ _ s _ _ => [sreg s]
  | .tbias _ _ _ _ _ => []
  | .trelu _ _ _ _ => []
  | .tgelu _ _ _ _ => []
  | .tsilu _ _ _ _ => []
  | .texp _ _ _ _ => []
  | .tsoftmax _ _ _ _ => []
  | .trmsn _ _ _ c _ => [sreg c]
  | .tmask _ _ _ c _ => [sreg c]
  | .ttrans _ _ _ _ => []
  | .tcvt _ _ _ _ => []
  | .mnop => []
  | .mpush _ _ _ _ _ _ => []
  | .mflip => []
  | .mshift _ _ _ => []
  | .rowEmerge _ => []
  | .macc s _ _ => [sreg s]
  | .maccU s _ => [sreg s]
  | .mdrain s _ _ _ _ => [sreg s]
  | .mzero s _ _ => [sreg s]
  | .mspan s => [sreg s]
  | .mend => []
  | .spanRetire _ => []
  | .mgang s g => [sreg s, sreg g]
  | .follow _ => []
  | .sld _ b _ _ _ => [areg b.toNat]
  | .sst v b _ _ => [sreg v, areg b.toNat]
  | .vld _ b _ => [areg b.toNat]
  | .vst _ b _ => [areg b.toNat]
  | .vldx _ b _ _ => [areg b.toNat]
  | .vstx _ b _ _ => [areg b.toNat]
  | .spl _ _ => []
  | .sps d _ => [d.toNat]
  | .scale _ b _ => [areg b.toNat]
  | .barinit e b x y => [sreg e, sreg x, sreg y, areg b.toNat]
  | .bararm e b => [sreg e, areg b.toNat]
  | .bararr n b => [sreg n, areg b.toNat]
  | .bartst _ b => [areg b.toNat]
  | .barwait p b => [sreg p, areg b.toNat]
  | .ringcfg b _ => [areg b.toNat]
  | .rpop _ => []
  | .wmark l h _ => [sreg l, sreg h]
  | .aadd _ v b _ => [sreg v, areg b.toNat]
  | .afadd _ v b => [sreg v, areg b.toNat]
  | .amin _ v b _ _ => [sreg v, areg b.toNat]
  | .amax _ v b _ _ => [sreg v, areg b.toNat]
  | .alogic _ v b _ _ => [sreg v, areg b.toNat]
  | .aswp _ v b _ => [sreg v, areg b.toNat]
  | .acas _ v b c _ => [sreg v, sreg c, areg b.toNat]
  | .copy _ _ _ _ r => [areg r.toNat]
  | .cslice _ _ _ _ r => [areg r.toNat]
  | .stream _ _ _ _ r => [areg r.toNat]
  | .npost _ _ _ _ r => [areg r.toNat]
  | .pldec _ _ _ _ r => [areg r.toNat]
  | .pland _ _ _ _ r => [areg r.toNat]
  | .plor _ _ _ _ r => [areg r.toNat]
  | .pltopk _ _ _ _ r => [areg r.toNat]
  | .plfuse _ _ _ _ r => [areg r.toNat]
  | .egq _ _ _ _ r => [areg r.toNat]
  | .tagset n b k => [areg b.toNat, sreg n, sreg k]
  | .xinvAll => []
  | .xinvVa v => [sreg v]
  | .icacheFill => []
  | .loadValueReturn _ _ => []
  | .storePerform _ _ => []
  | .deferredFault _ _ => []
  | .copyStart _ => []
  | .copyRow _ => []
  | .copyComplete _ => []
  | .hareJobStart _ => []
  | .hareBlock _ => []
  | .hareJobEnd _ => []
  | .badgerStart _ => []
  | .badgerComplete _ => []
  | .npostSendComplete _ => []
  | .netPacketReceive _ _ _ _ => []
  | .netSendAbandon _ _ => []
  | .egqRun _ => []
  | .egressRecordOut _ => []
  | .launchRead => []
  | .graphLaunch _ => []
  | .taskPlace _ => []
  | .contextBind _ => []
  | .agingTick _ => []
  | .contextFree _ _ => []
  | .graphTeardown _ _ => []
  | .faultQueueWrite _ => []
  | .preemptRequest _ _ _ => []
  | .preemptForcedStop _ => []
  | .preemptHalt _ => []
  | .preemptSave _ => []
  | .gangResume _ _ => []
  | .moduleReset _ => []
  | .throttleWindow _ _ => []
  | .timingModeApply _ => []
  | .scrubVisit _ => []
  | .bankFailing _ _ => []
  | .recoveryDelayExpire _ _ => []
  | .recoveryPoint _ _ => []
  | .hostRead _ _ => []
  | .hostWrite _ _ => []
  | .flitReceive _ => []
  | .flitNak _ => []
  | .linkRetrain => []
  | .launchDoorbell _ => []
  | .imageInvalidate _ => []
  | .imginvDone => []
  | .egressStreamReset _ => []
  | .modesetWrite _ => []
  | .nqBind _ _ _ => []
  | .attestationRequest _ => []
  | .attestationReport => []
  | .mgmtRegisterWrite _ _ => []
  | .owlStop _ => []
  | .owlResume _ => []
  | .owlStep _ => []
  | .owlSettle _ => []
  | .owlSettleDone _ => []
  | .owlRdreg _ => []
  | .owlWrreg _ => []
  | .owlFlush _ => []
  | .owlTagdump _ => []
  | .owlBadCommand _ => []
  | .errorInjectArm _ _ => []
  | .traceSample _ => []
  | .encodingFault _ => []
  | .sendQueueStart _ => []
  | .linkRetrained => []
  | .bridgeReplay _ _ => []
  | .failingTsvLane _ _ => []

/-- Resources of R55 as numbers: physical vector registers below 1,024; accumulator rows from 2,048; the mask stack; the scale
queue; in record mode whether a span is open (R228); rings. -/
def rMask : Nat := 20000
def rScale : Nat := 20001
def rSpan : Nat := 20002
def rRing (q : BitVec 4) : Nat := 20010 + q.toNat

/-- The formats that take scales from the queue (R155, R160). -/
def needsScale (f : BitVec 3) : Bool := decide (5 ≤ f.toNat)

/-- How many scales an operation takes from the queue (R160). -/
def scalesOf (i : Instr) : Nat :=
  match i with
  | .mpush _ _ f _ _ _ => if f = 5 then 1 else if f = 6 then 2 else 0
  | _ => 0

/-- SCALE. -/
def isScale (i : Instr) : Bool :=
  match i with
  | .scale _ _ _ => true
  | _ => false

/-- The accumulator rows x to x + n of a queued operation, with x = unsigned(s) + imm (R159). -/
def QOp.accs (t : Ctx) (o : QOp) (s : BitVec 6) (imm n : Nat) : List Nat :=
  match o.caps.lookup (sreg s) with
  | some v => (List.range (n + 1)).map (fun k => 2048 + t.csr.awbBase.toNat + v.toNat + imm + k)
  | none => []

/-- The physical register of a queued operation's destination, first source, other fields (R80). -/
def QOp.dst (t : Ctx) (o : QOp) (n : BitVec 6) : Nat :=
  if o.hdr && o.absd then o.lent % 16 * 64 + n.toNat else t.vphys n
def QOp.src (t : Ctx) (o : QOp) (n : BitVec 6) : Nat :=
  if o.hdr && o.abss then o.lent % 16 * 64 + n.toNat else t.vphys n

/-- The resources that a queued operation reads. -/
def QOp.reads (t : Ctx) (o : QOp) : List Nat :=
  let dst := o.dst t
  let src := o.src t
  let win := t.vphys
  let accs := o.accs t
  let tile (rs : List Nat) : List Nat := if t.csr.recording then rSpan :: rs else rs
  match o.ins with
  | .nop => []
  | .hdr _ _ _ _ _ _ _ => []
  | .addReg _ _ _ => []
  | .addImm _ _ _ => []
  | .subReg _ _ _ => []
  | .subImm _ _ _ => []
  | .mulReg _ _ _ => []
  | .mulImm _ _ _ => []
  | .mulhReg _ _ _ _ => []
  | .mulhImm _ _ _ _ => []
  | .divReg _ _ _ _ => []
  | .divImm _ _ _ _ => []
  | .remReg _ _ _ _ => []
  | .remImm _ _ _ _ => []
  | .andReg _ _ _ => []
  | .andImm _ _ _ => []
  | .orReg _ _ _ => []
  | .orImm _ _ _ => []
  | .xorReg _ _ _ => []
  | .xorImm _ _ _ => []
  | .shlReg _ _ _ => []
  | .shlImm _ _ _ => []
  | .shrReg _ _ _ => []
  | .shrImm _ _ _ => []
  | .sraReg _ _ _ => []
  | .sraImm _ _ _ => []
  | .minReg _ _ _ _ => []
  | .minImm _ _ _ _ => []
  | .maxReg _ _ _ _ => []
  | .maxImm _ _ _ _ => []
  | .cmpReg _ _ _ _ => []
  | .cmpImm _ _ _ _ => []
  | .sel _ _ _ _ => []
  | .li _ _ => []
  | .lih _ _ _ => []
  | .mov _ _ => []
  | .bitc _ _ _ => []
  | .bfx _ _ _ _ _ => []
  | .bfi _ _ _ _ => []
  | .br _ _ _ _ => []
  | .jmpRel _ => []
  | .jmpReg _ => []
  | .callRel _ => []
  | .callReg _ => []
  | .ret _ => []
  | .loopImm _ _ => []
  | .loopReg _ _ => []
  | .breakOp _ => []
  | .brkm _ => []
  | .eret => []
  | .yield => []
  | .endOp => []
  | .trap _ => []
  | .dbgbrk => []
  | .wait _ _ _ _ => []
  | .csrr _ _ => []
  | .csrw _ _ => []
  | .gsync => []
  | .gsyncRelease _ => []
  | .signal _ => []
  | .signalDecrement _ => []
  | .launch _ => []
  | .deviceLaunchArrive _ => []
  | .fence _ _ _ => []
  | .drain _ => []
  | .recon _ _ _ => []
  | .recoff => []
  | .reverse _ => []
  | .reverseRecord _ _ => []
  | .release _ _ => []
  | .veto _ _ => []
  | .egressAnswer _ _ => []
  | .vadd _ a b _ => [src a, win b, rMask]
  | .vsub _ a b _ => [src a, win b, rMask]
  | .vmul _ a b _ => [src a, win b, rMask]
  | .vfma d a b _ => [src a, win b, dst d, rMask]
  | .vfms d a b _ => [src a, win b, dst d, rMask]
  | .vmax _ a b _ => [src a, win b, rMask]
  | .vmin _ a b _ => [src a, win b, rMask]
  | .vabs _ a _ => [src a, rMask]
  | .vneg _ a _ => [src a, rMask]
  | .vrcp _ a _ => [src a, rMask]
  | .vrsq _ a _ => [src a, rMask]
  | .vsqrt _ a _ => [src a, rMask]
  | .vexp2 _ a _ => [src a, rMask]
  | .vlog2 _ a _ => [src a, rMask]
  | .vtanh _ a _ => [src a, rMask]
  | .viadd _ a b _ => [src a, win b, rMask]
  | .visub _ a b _ => [src a, win b, rMask]
  | .vimul _ a b _ => [src a, win b, rMask]
  | .vand _ a b _ => [src a, win b, rMask]
  | .vor _ a b _ => [src a, win b, rMask]
  | .vxor _ a b _ => [src a, win b, rMask]
  | .vshl _ a b _ => [src a, win b, rMask]
  | .vshr _ a b _ => [src a, win b, rMask]
  | .vsra _ a b _ => [src a, win b, rMask]
  | .vcmp a b _ _ _ => [src a, win b, rMask]
  | .vsel _ a b _ => [src a, win b, rMask]
  | .vcvt _ a _ _ _ _ => [src a, rMask]
  | .vscl _ a _ _ => [src a, rMask]
  | .vbcst _ _ _ => [rMask]
  | .vred _ a _ _ => [src a, rMask]
  | .vperm _ a b _ => [src a, win b, rMask]
  | .vslide _ a _ _ _ => [src a, rMask]
  | .vzip _ a b _ => [src a, win b, rMask]
  | .vunzip _ a b _ => [src a, win b, rMask]
  | .viota _ _ => [rMask]
  | .vmovs _ a _ _ => [src a]
  | .vins _ _ _ _ => [rMask]
  | .kpush a _ => [src a, rMask]
  | .kinv => [rMask]
  | .kpop => [rMask]
  | .kmovTo _ => [rMask]
  | .kmovFrom a => [src a, rMask]
  | .tadd _ a b _ _ => tile [src a, win b, rMask]
  | .tmul _ a b _ _ => tile [src a, win b, rMask]
  | .tscale _ a _ _ _ => tile [src a, rMask]
  | .tbias _ a b _ _ => tile [src a, win b, rMask]
  | .trelu _ a _ _ => tile [src a, rMask]
  | .tgelu _ a _ _ => tile [src a, rMask]
  | .tsilu _ a _ _ => tile [src a, rMask]
  | .texp _ a _ _ => tile [src a, rMask]
  | .tsoftmax _ a _ _ => tile [src a, rMask]
  | .trmsn _ a g _ _ => tile [src a, win g, rMask]
  | .tmask _ a m _ _ => tile [src a, win m, rMask]
  | .ttrans _ a _ _ => tile [src a, rMask]
  | .tcvt _ a _ _ => tile [src a, rMask]
  | .mnop => []
  | .mpush r _ f _ _ _ => if needsScale f then [rScale, rRing r] else [rRing r]
  | .mflip => []
  | .mshift r _ _ => [rRing r]
  | .rowEmerge _ => []
  | .macc s i v => win v :: accs s i.toNat 0
  | .maccU s i => accs s i.toNat 0
  | .mdrain s i _ _ _ => accs s i.toNat 0
  | .mzero _ _ _ => []
  | .mspan _ => []
  | .mend => [rScale]
  | .spanRetire _ => []
  | .mgang _ _ => []
  | .follow _ => []
  | .sld _ _ _ _ _ => []
  | .sst _ _ _ _ => []
  | .vld _ _ _ => [rMask]
  | .vst v _ _ => [rMask, win v]
  | .vldx _ _ i _ => [rMask, win i]
  | .vstx v _ i _ => [rMask, win v, win i]
  | .spl _ _ => []
  | .sps _ _ => []
  | .scale _ _ _ => []
  | .barinit _ _ _ _ => []
  | .bararm _ _ => []
  | .bararr _ _ => []
  | .bartst _ _ => []
  | .barwait _ _ => []
  | .ringcfg _ _ => []
  | .rpop _ => []
  | .wmark _ _ _ => []
  | .aadd _ _ _ _ => []
  | .afadd _ _ _ => []
  | .amin _ _ _ _ _ => []
  | .amax _ _ _ _ _ => []
  | .alogic _ _ _ _ _ => []
  | .aswp _ _ _ _ => []
  | .acas _ _ _ _ _ => []
  | .copy _ _ _ _ _ => []
  | .cslice _ _ _ _ _ => []
  | .stream _ _ _ _ _ => []
  | .npost _ _ _ _ _ => []
  | .pldec _ _ _ _ _ => []
  | .pland _ _ _ _ _ => []
  | .plor _ _ _ _ _ => []
  | .pltopk _ _ _ _ _ => []
  | .plfuse _ _ _ _ _ => []
  | .egq _ _ _ _ _ => []
  | .tagset _ _ _ => []
  | .xinvAll => []
  | .xinvVa _ => []
  | .icacheFill => []
  | .loadValueReturn _ _ => []
  | .storePerform _ _ => []
  | .deferredFault _ _ => []
  | .copyStart _ => []
  | .copyRow _ => []
  | .copyComplete _ => []
  | .hareJobStart _ => []
  | .hareBlock _ => []
  | .hareJobEnd _ => []
  | .badgerStart _ => []
  | .badgerComplete _ => []
  | .npostSendComplete _ => []
  | .netPacketReceive _ _ _ _ => []
  | .netSendAbandon _ _ => []
  | .egqRun _ => []
  | .egressRecordOut _ => []
  | .launchRead => []
  | .graphLaunch _ => []
  | .taskPlace _ => []
  | .contextBind _ => []
  | .agingTick _ => []
  | .contextFree _ _ => []
  | .graphTeardown _ _ => []
  | .faultQueueWrite _ => []
  | .preemptRequest _ _ _ => []
  | .preemptForcedStop _ => []
  | .preemptHalt _ => []
  | .preemptSave _ => []
  | .gangResume _ _ => []
  | .moduleReset _ => []
  | .throttleWindow _ _ => []
  | .timingModeApply _ => []
  | .scrubVisit _ => []
  | .bankFailing _ _ => []
  | .recoveryDelayExpire _ _ => []
  | .recoveryPoint _ _ => []
  | .hostRead _ _ => []
  | .hostWrite _ _ => []
  | .flitReceive _ => []
  | .flitNak _ => []
  | .linkRetrain => []
  | .launchDoorbell _ => []
  | .imageInvalidate _ => []
  | .imginvDone => []
  | .egressStreamReset _ => []
  | .modesetWrite _ => []
  | .nqBind _ _ _ => []
  | .attestationRequest _ => []
  | .attestationReport => []
  | .mgmtRegisterWrite _ _ => []
  | .owlStop _ => []
  | .owlResume _ => []
  | .owlStep _ => []
  | .owlSettle _ => []
  | .owlSettleDone _ => []
  | .owlRdreg _ => []
  | .owlWrreg _ => []
  | .owlFlush _ => []
  | .owlTagdump _ => []
  | .owlBadCommand _ => []
  | .errorInjectArm _ _ => []
  | .traceSample _ => []
  | .encodingFault _ => []
  | .sendQueueStart _ => []
  | .linkRetrained => []
  | .bridgeReplay _ _ => []
  | .failingTsvLane _ _ => []

/-- The resources that a queued operation writes. -/
def QOp.writes (t : Ctx) (o : QOp) : List Nat :=
  let dst := o.dst t
  let win := t.vphys
  let accs := o.accs t
  match o.ins with
  | .nop => []
  | .hdr _ _ _ _ _ _ _ => []
  | .addReg _ _ _ => []
  | .addImm _ _ _ => []
  | .subReg _ _ _ => []
  | .subImm _ _ _ => []
  | .mulReg _ _ _ => []
  | .mulImm _ _ _ => []
  | .mulhReg _ _ _ _ => []
  | .mulhImm _ _ _ _ => []
  | .divReg _ _ _ _ => []
  | .divImm _ _ _ _ => []
  | .remReg _ _ _ _ => []
  | .remImm _ _ _ _ => []
  | .andReg _ _ _ => []
  | .andImm _ _ _ => []
  | .orReg _ _ _ => []
  | .orImm _ _ _ => []
  | .xorReg _ _ _ => []
  | .xorImm _ _ _ => []
  | .shlReg _ _ _ => []
  | .shlImm _ _ _ => []
  | .shrReg _ _ _ => []
  | .shrImm _ _ _ => []
  | .sraReg _ _ _ => []
  | .sraImm _ _ _ => []
  | .minReg _ _ _ _ => []
  | .minImm _ _ _ _ => []
  | .maxReg _ _ _ _ => []
  | .maxImm _ _ _ _ => []
  | .cmpReg _ _ _ _ => []
  | .cmpImm _ _ _ _ => []
  | .sel _ _ _ _ => []
  | .li _ _ => []
  | .lih _ _ _ => []
  | .mov _ _ => []
  | .bitc _ _ _ => []
  | .bfx _ _ _ _ _ => []
  | .bfi _ _ _ _ => []
  | .br _ _ _ _ => []
  | .jmpRel _ => []
  | .jmpReg _ => []
  | .callRel _ => []
  | .callReg _ => []
  | .ret _ => []
  | .loopImm _ _ => []
  | .loopReg _ _ => []
  | .breakOp _ => []
  | .brkm _ => []
  | .eret => []
  | .yield => []
  | .endOp => []
  | .trap _ => []
  | .dbgbrk => []
  | .wait _ _ _ _ => []
  | .csrr _ _ => []
  | .csrw _ _ => []
  | .gsync => []
  | .gsyncRelease _ => []
  | .signal _ => []
  | .signalDecrement _ => []
  | .launch _ => []
  | .deviceLaunchArrive _ => []
  | .fence _ _ _ => []
  | .drain _ => []
  | .recon _ _ _ => []
  | .recoff => []
  | .reverse _ => []
  | .reverseRecord _ _ => []
  | .release _ _ => []
  | .veto _ _ => []
  | .egressAnswer _ _ => []
  | .vadd d _ _ _ => [dst d]
  | .vsub d _ _ _ => [dst d]
  | .vmul d _ _ _ => [dst d]
  | .vfma d _ _ _ => [dst d]
  | .vfms d _ _ _ => [dst d]
  | .vmax d _ _ _ => [dst d]
  | .vmin d _ _ _ => [dst d]
  | .vabs d _ _ => [dst d]
  | .vneg d _ _ => [dst d]
  | .vrcp d _ _ => [dst d]
  | .vrsq d _ _ => [dst d]
  | .vsqrt d _ _ => [dst d]
  | .vexp2 d _ _ => [dst d]
  | .vlog2 d _ _ => [dst d]
  | .vtanh d _ _ => [dst d]
  | .viadd d _ _ _ => [dst d]
  | .visub d _ _ _ => [dst d]
  | .vimul d _ _ _ => [dst d]
  | .vand d _ _ _ => [dst d]
  | .vor d _ _ _ => [dst d]
  | .vxor d _ _ _ => [dst d]
  | .vshl d _ _ _ => [dst d]
  | .vshr d _ _ _ => [dst d]
  | .vsra d _ _ _ => [dst d]
  | .vcmp _ _ _ _ _ => [rMask]
  | .vsel d _ _ _ => [dst d]
  | .vcvt d _ _ _ _ _ => [dst d]
  | .vscl d _ _ _ => [dst d]
  | .vbcst d _ _ => [dst d]
  | .vred d _ _ _ => [dst d]
  | .vperm d _ _ _ => [dst d]
  | .vslide d _ _ _ _ => [dst d]
  | .vzip d _ _ _ => [dst d]
  | .vunzip d _ _ _ => [dst d]
  | .viota d _ => [dst d]
  | .vmovs _ _ _ _ => []
  | .vins d _ _ _ => [dst d]
  | .kpush _ _ => [rMask]
  | .kinv => [rMask]
  | .kpop => [rMask]
  | .kmovTo d => [dst d]
  | .kmovFrom _ => [rMask]
  | .tadd d _ _ _ _ => [dst d]
  | .tmul d _ _ _ _ => [dst d]
  | .tscale d _ _ _ _ => [dst d]
  | .tbias d _ _ _ _ => [dst d]
  | .trelu d _ _ _ => [dst d]
  | .tgelu d _ _ _ => [dst d]
  | .tsilu d _ _ _ => [dst d]
  | .texp d _ _ _ => [dst d]
  | .tsoftmax d _ _ _ => [dst d]
  | .trmsn d _ _ _ _ => [dst d]
  | .tmask d _ _ _ _ => [dst d]
  | .ttrans d _ _ _ => [dst d]
  | .tcvt d _ _ _ => [dst d]
  | .mnop => []
  | .mpush r _ f _ _ _ => if needsScale f then [rScale, rRing r] else [rRing r]
  | .mflip => []
  | .mshift r _ _ => [rRing r]
  | .rowEmerge _ => []
  | .macc s i _ => accs s i.toNat 0
  | .maccU s i => accs s i.toNat 0
  | .mdrain _ _ v _ _ => [win v]
  | .mzero s i n => accs s i.toNat n.toNat
  | .mspan _ => [rSpan]
  | .mend => [rSpan]
  | .spanRetire _ => []
  | .mgang _ _ => [rSpan]
  | .follow _ => [rSpan]
  | .sld _ _ _ _ _ => []
  | .sst _ _ _ _ => []
  | .vld v _ _ => [win v]
  | .vst _ _ _ => []
  | .vldx v _ _ _ => [win v]
  | .vstx _ _ _ _ => []
  | .spl _ _ => []
  | .sps _ _ => []
  | .scale _ _ _ => [rScale]
  | .barinit _ _ _ _ => []
  | .bararm _ _ => []
  | .bararr _ _ => []
  | .bartst _ _ => []
  | .barwait _ _ => []
  | .ringcfg _ n => [rRing n]
  | .rpop n => [rRing n]
  | .wmark _ _ _ => []
  | .aadd _ _ _ _ => []
  | .afadd _ _ _ => []
  | .amin _ _ _ _ _ => []
  | .amax _ _ _ _ _ => []
  | .alogic _ _ _ _ _ => []
  | .aswp _ _ _ _ => []
  | .acas _ _ _ _ _ => []
  | .copy _ _ _ _ _ => []
  | .cslice _ _ _ _ _ => []
  | .stream _ _ _ _ _ => []
  | .npost _ _ _ _ _ => []
  | .pldec _ _ _ _ _ => []
  | .pland _ _ _ _ _ => []
  | .plor _ _ _ _ _ => []
  | .pltopk _ _ _ _ _ => []
  | .plfuse _ _ _ _ _ => []
  | .egq _ _ _ _ _ => []
  | .tagset _ _ _ => []
  | .xinvAll => []
  | .xinvVa _ => []
  | .icacheFill => []
  | .loadValueReturn _ _ => []
  | .storePerform _ _ => []
  | .deferredFault _ _ => []
  | .copyStart _ => []
  | .copyRow _ => []
  | .copyComplete _ => []
  | .hareJobStart _ => []
  | .hareBlock _ => []
  | .hareJobEnd _ => []
  | .badgerStart _ => []
  | .badgerComplete _ => []
  | .npostSendComplete _ => []
  | .netPacketReceive _ _ _ _ => []
  | .netSendAbandon _ _ => []
  | .egqRun _ => []
  | .egressRecordOut _ => []
  | .launchRead => []
  | .graphLaunch _ => []
  | .taskPlace _ => []
  | .contextBind _ => []
  | .agingTick _ => []
  | .contextFree _ _ => []
  | .graphTeardown _ _ => []
  | .faultQueueWrite _ => []
  | .preemptRequest _ _ _ => []
  | .preemptForcedStop _ => []
  | .preemptHalt _ => []
  | .preemptSave _ => []
  | .gangResume _ _ => []
  | .moduleReset _ => []
  | .throttleWindow _ _ => []
  | .timingModeApply _ => []
  | .scrubVisit _ => []
  | .bankFailing _ _ => []
  | .recoveryDelayExpire _ _ => []
  | .recoveryPoint _ _ => []
  | .hostRead _ _ => []
  | .hostWrite _ _ => []
  | .flitReceive _ => []
  | .flitNak _ => []
  | .linkRetrain => []
  | .launchDoorbell _ => []
  | .imageInvalidate _ => []
  | .imginvDone => []
  | .egressStreamReset _ => []
  | .modesetWrite _ => []
  | .nqBind _ _ _ => []
  | .attestationRequest _ => []
  | .attestationReport => []
  | .mgmtRegisterWrite _ _ => []
  | .owlStop _ => []
  | .owlResume _ => []
  | .owlStep _ => []
  | .owlSettle _ => []
  | .owlSettleDone _ => []
  | .owlRdreg _ => []
  | .owlWrreg _ => []
  | .owlFlush _ => []
  | .owlTagdump _ => []
  | .owlBadCommand _ => []
  | .errorInjectArm _ _ => []
  | .traceSample _ => []
  | .encodingFault _ => []
  | .sendQueueStart _ => []
  | .linkRetrained => []
  | .bridgeReplay _ _ => []
  | .failingTsvLane _ _ => []

/-- R55: `a` stands before `b` in program order, and one of them writes what the other reads or writes. -/
def conflicts (t : Ctx) (a b : QOp) : Bool :=
  let wa := a.writes t
  let wb := b.writes t
  let rb := b.reads t
  wa.any (fun r => rb.contains r || wb.contains r) || (!wb.isEmpty && (a.reads t).any (fun r => wb.contains r))

/-- Program order of two queued operations; within a bundle V, then M, then L. -/
def QOp.before (a b : QOp) : Bool := decide (a.seq < b.seq) || (a.seq = b.seq && decide (a.slot < b.slot))

/-! ## Operand forms -/

/-- The second operand of an XA immediate form (R302): sext(IMM12). -/
def immXA (i : BitVec 12) : Word := i.signExtend 64
/-- CMP's immediate (R286): sext(IMM10). -/
def immXC (i : BitVec 10) : Word := i.signExtend 64
/-- Relative targets (R288): own address + 16 × sext(imm). -/
def relTarget {n : Nat} (a : Word) (i : BitVec n) : Word := a + 16#64 * i.signExtend 64
/-- The address of an LS operand (R292, R401): aB + sext(IMM12) + 4,096 × signed(lent-to-L), top byte kept. -/
def State.lsPtr (s : State) (b : BitVec 4) (i : BitVec 12) : Word :=
  addPtr (s.aOp b) (i.toInt + 4096 * (BitVec.ofNat 5 s.focus.lent).toInt)
/-- The address of an LV operand (R292, R432): aB + 64 × sext(IMM16). -/
def State.lvPtr (s : State) (b : BitVec 4) (i : BitVec 16) : Word := addPtr (s.aOp b) (64 * i.toInt)
/-- The address of an LQ operand (R292): aB + sext(IMM15). -/
def State.lqPtr (s : State) (b : BitVec 4) (i : BitVec 15) : Word := addPtr (s.aOp b) i.toInt

end Sys2Proof.Machine
end

