-- ==== Sys2Proof/Machine/Flags.lean ====
section
/-! DEFINITION. Flag computations (R87, R145 to R148, R411): which flags an operation raises, and the latency after which they
reach FPCSR (R76, R416). -/

namespace Sys2Proof.Machine

/-- Latencies of the V slot (R76): float and compare class; transcendentals; reductions. -/
def latFloat : Nat := 8
def latTrans : Nat := 20
def latRed : Nat := 12
/-- Latencies of tile operations (R416). -/
def latTile : Nat := 10
def latTexp : Nat := 22
def latTsilu : Nat := 32
def latTgelu : Nat := 36
def latTrow : Nat := 44
/-- Latency of MDRAIN (R164). -/
def latDrain : Nat := 6

/-- The flags of a list of results, ORed (R87). -/
def orFlags (fs : List Fl) : Fl := fs.foldl (fun a b => a ||| b) 0

/-- A comparison's invalid flag (R426): a signalling NaN for every relation, a quiet NaN for lt, le, gt, ge. -/
def cmpFlags (rel : Nat) (a b : Val) : Fl :=
  if a.isSnan || b.isSnan then flNV
  else if (a.isNan || b.isNan) && decide (2 ≤ rel) then flNV
  else 0

/-- Integer-to-integer conversion clamps: SAT and NX (R428). -/
def clampFlags (changed : Bool) : Fl := if changed then flSAT ||| flNX else 0

end Sys2Proof.Machine
end

