-- ==== Sys2Proof/Machine/Order.lean ====
section
/-! DEFINITION. Classes of access and when they are complete (R183, R186, R187), and the engine commands in flight. -/

namespace Sys2Proof.Machine

/-! ## Engine commands -/

def Engine.cmds (e : Engine) : List Cmd := e.running.toList ++ e.queue
def SendQ.cmds (q : SendQ) : List Cmd := q.sends ++ q.recvs ++ q.queue

/-- The commands of tower `t`'s copy engines, tile walkers, Badger engines and send queues. -/
def Tower.cmds (w : Tower) : List Cmd :=
  w.copyEng.flatMap (fun e => e.2.cmds) ++ w.walkers.flatMap (fun e => e.2.cmds) ++ w.badgers.flatMap (fun e => e.2.cmds) ++
    w.sendq.flatMap (fun e => e.2.cmds)

/-- Every command of the module that an engine holds. -/
def State.cmds (s : State) : List Cmd :=
  s.towers.flatMap (fun e => e.2.cmds) ++ s.hares.flatMap (fun e => e.2.cmds) ++ s.egress.flatMap (fun e => e.2.queue)

/-- The commands of context `x` of core `c` (R44, R64); those of a saved gang that held the context before are not among them. -/
def State.cmdsOf (s : State) (c x : Nat) : List Cmd :=
  s.cmds.filter (fun k => k.core = c && k.ctx = x && k.task = (s.ctx c x).task)

/-- Every dependency token of a command, as it refers under R62, is complete: the token is complete, or a later command has
produced it since. -/
def State.depsMet (s : State) (k : Cmd) : Bool :=
  let t := s.ctx k.core k.ctx
  k.deps.all (fun d => !(bit t.tokens d.1) || t.gens.get d.1 0 ≠ d.2)

/-! ## Classes (R186) -/

/-- The operands of an operation that issues: captured at dispatch, or supplied by an earlier operation of its slot (R56, R57). -/
def Ctx.operands (t : Ctx) (o : QOp) : List (Nat × Word) :=
  o.links.foldl (fun caps l =>
    match (t.pend.find? (fun p => p.slot = o.slot && p.reg = l.1 && p.seq = l.2)).bind Pend.val with
    | some v => (l.1, v) :: caps.filter (fun e => e.1 ≠ l.1)
    | none => caps) o.caps

/-- DIR of the NPOST control block at an aperture pointer, at its home (R130, R190). -/
def State.npostDir (s : State) (c : Nat) (p : Word) : Bool := (s.readMem (apAddr c (apOff p) + 8) 8).testBit 4

/-- The classes of an operation of context `x` of core `c` as bits of PRED and SUCC: R 1, W 2, CR 4, CW 8, MR 16, MW 32 (R185, R186). An NPOST's
control block is found through its operand as it issues, captured or supplied (R56). -/
def State.classes (s : State) (c x : Nat) (o : QOp) : BitVec 6 :=
  match o.ins with
  | .sld _ _ _ _ _ => 1
  | .vld _ _ _ => 1
  | .vldx _ _ _ _ => 1
  | .sst _ _ _ _ => 2
  | .vst _ _ _ => 2
  | .vstx _ _ _ _ => 2
  | .tagset _ _ _ => 2
  | .aadd _ _ _ _ => 3
  | .afadd _ _ _ => 3
  | .amin _ _ _ _ _ => 3
  | .amax _ _ _ _ _ => 3
  | .alogic _ _ _ _ _ => 3
  | .aswp _ _ _ _ => 3
  | .acas _ _ _ _ _ => 3
  | .copy _ _ _ _ _ => 12
  | .cslice _ _ _ _ _ => 12
  | .stream _ _ _ _ _ => 12
  | .npost _ _ _ _ r =>
    match ((s.ctx c x).operands o).lookup (areg r.toNat) with
    | some p => if s.npostDir c p then 8 else 4
    | none => 12
  | .mpush _ _ _ _ _ _ => 16
  | .mshift _ _ _ => 16
  | .macc _ _ _ => 32
  | .maccU _ _ => 32
  | .mdrain _ _ _ _ _ => 32
  | .mzero _ _ _ => 32
  | _ => 0

/-- A store that stands in buffer `stage` has performed for a scope (R177, R183): the issuing context reads its own store at once, the
others of a scope from the buffer that serves it. -/
def performedFor (stage scope : Nat) : Bool :=
  match scope with
  | 0 => true
  | 1 => decide (1 ≤ stage)
  | 2 => decide (2 ≤ stage)
  | 3 => decide (3 ≤ stage)
  | 4 => decide (4 ≤ stage)
  | _ => false

/-- The pair store of an address lies in the scope of a context of core `c`, so that observers of the scope read its home through the
aperture (R93, R176). -/
def apertureIn (scope c pa : Nat) : Bool :=
  decide (pairBase ≤ pa) &&
  (let q := (pa - pairBase) / pairSize
   match scope with
   | 0 => false
   | 1 => q = pairOf c
   | 2 => q = pairOf c
   | 3 => q / 8 = settOf c
   | 4 => q / 48 = towerOf c
   | _ => true)

/-- A store part has performed for a scope of core `c` (R177): it is at home, or it stands in a buffer that serves every observer of the scope, none
of which reads the home through the aperture. -/
def OutPart.performedFor (p : OutPart) (scope c : Nat) : Bool :=
  p.done || (Machine.performedFor p.stage scope && !(p.pieces.any (fun q => apertureIn scope c q.pa)))

/-- Part `j` of store `id`, which has supplied a load of core `c`, has performed for a scope of that core (R178). -/
def State.storeFor (s : State) (scope c id j : Nat) : Bool :=
  s.cores.all (fun e => e.2.outs.all (fun o => o.id ≠ id ||
    (match o.parts[j]? with
     | some p => p.performedFor scope c
     | none => true)))

/-- Every operation of the context before `seq` in the classes `cl` is complete for the scope (R186). -/
def State.complete (s : State) (c x seq : Nat) (cl : BitVec 6) (scope : Nat) : Bool :=
  let t := s.ctx c x
  let outs := (s.core c).outs.filter (fun o => o.ctx = x && decide (o.op.seq < seq))
  let waiting := (t.mq ++ t.lq).all (fun o => !(decide (o.seq < seq)) || (s.classes c x o) &&& cl = 0)
  let r := outs.all (fun o => o.kind = .store || o.kind = .tagset || o.kind = .log) &&
    t.supplied.all (fun q => !(q.1.any (fun n => decide (n < seq))) || s.storeFor scope c q.2.1 q.2.2)
  let w := outs.all (fun o =>
    match o.kind with
    | .store => o.parts.all (fun p => p.performedFor scope c)
    | .tagset => false
    | .atomic => false
    | .load => true
    | .value => true
    | .log => true)
  let mw := t.rowWrites.all (fun e => !(decide (e.1 < seq)) || decide (e.2 ≤ (s.core c).clock))
  let cmds := (s.cmdsOf c x).filter (fun k => decide (k.seq < seq))
  let engine (k : Cmd) : Bool := k.kind = .copy || k.kind = .cslice || k.kind = .stream
  let cr := cmds.all (fun k => k.read || !(engine k || k.kind = .send))
  let cw := cmds.all (fun k => !(engine k || k.kind = .recv))
  waiting && (cl &&& 1 = 0 || r) && (cl &&& 2 = 0 || w) && (cl &&& 4 = 0 || cr) && (cl &&& 8 = 0 || cw) && (cl &&& 32 = 0 || mw)

/-- Engine classes, matrix classes: FENCE adds no order between two engine or two matrix classes (R187). -/
def clEngine : BitVec 6 := 12
def clMatrix : BitVec 6 := 48

/-- The predecessor classes that FENCE `f` orders before an operation of classes `cl` (R187). -/
def FenceRec.preds (f : FenceRec) (cl : BitVec 6) : BitVec 6 :=
  let k := f.succ &&& cl
  (if k &&& 3 ≠ 0 then f.pred else 0) ||| (if k &&& clEngine ≠ 0 then f.pred &&& ~~~clEngine else 0) |||
    (if k &&& clMatrix ≠ 0 then f.pred &&& ~~~clMatrix else 0)

/-- A queued operation is held by a FENCE of its context (R187). -/
def State.fenced (s : State) (c x : Nat) (o : QOp) : Bool :=
  (s.ctx c x).fences.any (fun f =>
    decide (f.seq < o.seq) && !(s.complete c x f.seq (f.preds (s.classes c x o)) f.scope))

/-- Fences with nothing left to hold are forgotten. -/
def State.pruneFences (s : State) (c x : Nat) : State :=
  let t := s.ctx c x
  if t.fences.isEmpty then s
  else s.setCtx c x { t with fences := t.fences.filter (fun f => !(s.complete c x f.seq f.pred f.scope)) }

end Sys2Proof.Machine
end

