-- ==== Sys2Proof/Machine/Scalar.lean ====
section
/-! DEFINITION. X-slot arithmetic, moves and bit fields (R302, R307, R308, R314 to R316, R326, R327, R340, R341, R359, R360, R364,
R370, R374, R380, R396, R397, R407, R446). None raises a fault on its operands and none sets a flag; encoding faults are raised
at dispatch (R283). -/

namespace Sys2Proof.Machine

/-! ## The functions -/

/-- MULH (R374): bits [127:64] of the exact product, signed or, for `u`, unsigned. -/
def mulHigh (u : Bool) (a b : Word) : Word :=
  if u then BitVec.ofNat 64 ((a.toNat * b.toNat) >>> 64) else BitVec.ofInt 64 ((a.toInt * b.toInt) >>> 64)

/-- DIV (R341). -/
def divWord (u : Bool) (x y : Word) : Word :=
  if y = 0 then BitVec.allOnes 64
  else if u then BitVec.ofNat 64 (x.toNat / y.toNat)
  else BitVec.ofInt 64 (x.toInt.tdiv y.toInt)

/-- REM (R341). -/
def remWord (u : Bool) (x y : Word) : Word :=
  if y = 0 then x
  else if u then BitVec.ofNat 64 (x.toNat % y.toNat)
  else BitVec.ofInt 64 (x.toInt.tmod y.toInt)

/-- MIN and MAX (R364). -/
def minWord (u : Bool) (a b : Word) : Word :=
  if u then (if b.toNat < a.toNat then b else a) else (if b.toInt < a.toInt then b else a)
def maxWord (u : Bool) (a b : Word) : Word :=
  if u then (if a.toNat < b.toNat then b else a) else (if a.toInt < b.toInt then b else a)

/-- The relation of CMP's COND (R327). -/
def cmpWord (c : Nat) (x y : Word) : Bool :=
  match c with
  | 0 => x = y
  | 1 => x ≠ y
  | 2 => decide (x.toInt < y.toInt)
  | 3 => decide (y.toInt ≤ x.toInt)
  | 4 => decide (x.toNat < y.toNat)
  | _ => decide (y.toNat ≤ x.toNat)

/-- Shifts by `k`, 0 to 63 (R397). -/
def shlWord (a : Word) (k : Nat) : Word := BitVec.ofNat 64 (a.toNat * 2 ^ k)
def shrWord (a : Word) (k : Nat) : Word := a >>> k
def sraWord (a : Word) (k : Nat) : Word := a.sshiftRight k

/-- Leading zero bits, trailing zero bits, one bits (R316). -/
def leadZeros (a : Word) : Nat := ((List.range 64).takeWhile (fun i => !(a.getLsbD (63 - i)))).length
def trailZeros (a : Word) : Nat := ((List.range 64).takeWhile (fun i => !(a.getLsbD i))).length
def oneBits (a : Word) : Nat := ((List.range 64).filter (fun i => a.getLsbD i)).length

/-- BITC by FN (R316). -/
def bitCount (f : Nat) (a : Word) : Nat :=
  match f with
  | 0 => leadZeros a
  | 1 => trailZeros a
  | _ => oneBits a

/-- The bits of a word under `n` one bits at `p`. -/
def fieldMask (p n : Nat) : Word := BitVec.ofNat 64 ((2 ^ n - 1) <<< p)

/-- BFX (R315): the `n` bits from `p`, sign- or zero-extended. -/
def bitField (sx : Bool) (p n : Nat) (a : Word) : Word :=
  let f := (a.toNat >>> p) % 2 ^ n
  if sx && f.testBit (n - 1) then BitVec.ofInt 64 ((f : Int) - (2 : Int) ^ n) else BitVec.ofNat 64 f

/-- BFI (R315): `n` bits of `d` from `p` replaced by the low `n` bits of `a`. -/
def bitInsert (p n : Nat) (d a : Word) : Word := (d &&& ~~~(fieldMask p n)) ||| ((a <<< p) &&& fieldMask p n)

/-- LIH (R360): bits [16 p + 15:16 p] replaced. -/
def putHalf (p : Nat) (d : Word) (v : BitVec 16) : Word := bitInsert (16 * p) 16 d (v.setWidth 64)

/-! ## The write -/

/-- An X-slot operation whose effect is one register write. -/
def State.setReg (s : State) (r : Nat) (v : Word) : Host.Outcome State Fault Refusal := finish s (.done (s.writeX r v))

/-! ## The meanings -/

/-- NOP (R376): nothing. -/
def execNop (s : State) : Host.Outcome State Fault Refusal := finish s (.done s)

/-- ADD (R307). -/
def execAddReg (d a b : BitVec 6) (s : State) : Host.Outcome State Fault Refusal :=
  s.setReg (sreg d) (s.sOp a + s.sOp b)
def execAddImm (d a : BitVec 6) (v : BitVec 12) (s : State) : Host.Outcome State Fault Refusal :=
  s.setReg (sreg d) (s.sOp a + immXA v)

/-- SUB (R407). -/
def execSubReg (d a b : BitVec 6) (s : State) : Host.Outcome State Fault Refusal :=
  s.setReg (sreg d) (s.sOp a - s.sOp b)
def execSubImm (d a : BitVec 6) (v : BitVec 12) (s : State) : Host.Outcome State Fault Refusal :=
  s.setReg (sreg d) (s.sOp a - immXA v)

/-- MUL (R374). -/
def execMulReg (d a b : BitVec 6) (s : State) : Host.Outcome State Fault Refusal :=
  s.setReg (sreg d) (s.sOp a * s.sOp b)
def execMulImm (d a : BitVec 6) (v : BitVec 12) (s : State) : Host.Outcome State Fault Refusal :=
  s.setReg (sreg d) (s.sOp a * immXA v)

/-- MULH (R374). -/
def execMulhReg (d a : BitVec 6) (u : BitVec 1) (b : BitVec 6) (s : State) : Host.Outcome State Fault Refusal :=
  s.setReg (sreg d) (mulHigh (u = 1) (s.sOp a) (s.sOp b))
def execMulhImm (d a : BitVec 6) (u : BitVec 1) (v : BitVec 12) (s : State) : Host.Outcome State Fault Refusal :=
  s.setReg (sreg d) (mulHigh (u = 1) (s.sOp a) (immXA v))

/-- DIV (R341). -/
def execDivReg (d a : BitVec 6) (u : BitVec 1) (b : BitVec 6) (s : State) : Host.Outcome State Fault Refusal :=
  s.setReg (sreg d) (divWord (u = 1) (s.sOp a) (s.sOp b))
def execDivImm (d a : BitVec 6) (u : BitVec 1) (v : BitVec 12) (s : State) : Host.Outcome State Fault Refusal :=
  s.setReg (sreg d) (divWord (u = 1) (s.sOp a) (immXA v))

/-- REM (R341). -/
def execRemReg (d a : BitVec 6) (u : BitVec 1) (b : BitVec 6) (s : State) : Host.Outcome State Fault Refusal :=
  s.setReg (sreg d) (remWord (u = 1) (s.sOp a) (s.sOp b))
def execRemImm (d a : BitVec 6) (u : BitVec 1) (v : BitVec 12) (s : State) : Host.Outcome State Fault Refusal :=
  s.setReg (sreg d) (remWord (u = 1) (s.sOp a) (immXA v))

/-- AND (R308). -/
def execAndReg (d a b : BitVec 6) (s : State) : Host.Outcome State Fault Refusal :=
  s.setReg (sreg d) (s.sOp a &&& s.sOp b)
def execAndImm (d a : BitVec 6) (v : BitVec 12) (s : State) : Host.Outcome State Fault Refusal :=
  s.setReg (sreg d) (s.sOp a &&& immXA v)

/-- OR (R380). -/
def execOrReg (d a b : BitVec 6) (s : State) : Host.Outcome State Fault Refusal :=
  s.setReg (sreg d) (s.sOp a ||| s.sOp b)
def execOrImm (d a : BitVec 6) (v : BitVec 12) (s : State) : Host.Outcome State Fault Refusal :=
  s.setReg (sreg d) (s.sOp a ||| immXA v)

/-- XOR (R446). -/
def execXorReg (d a b : BitVec 6) (s : State) : Host.Outcome State Fault Refusal :=
  s.setReg (sreg d) (s.sOp a ^^^ s.sOp b)
def execXorImm (d a : BitVec 6) (v : BitVec 12) (s : State) : Host.Outcome State Fault Refusal :=
  s.setReg (sreg d) (s.sOp a ^^^ immXA v)

/-- SHL, SHR, SRA (R397): the amount is sB[5:0], or the immediate. -/
def execShlReg (d a b : BitVec 6) (s : State) : Host.Outcome State Fault Refusal :=
  s.setReg (sreg d) (shlWord (s.sOp a) (bits (s.sOp b) 5 0))
def execShlImm (d a : BitVec 6) (v : BitVec 12) (s : State) : Host.Outcome State Fault Refusal :=
  s.setReg (sreg d) (shlWord (s.sOp a) v.toNat)
def execShrReg (d a b : BitVec 6) (s : State) : Host.Outcome State Fault Refusal :=
  s.setReg (sreg d) (shrWord (s.sOp a) (bits (s.sOp b) 5 0))
def execShrImm (d a : BitVec 6) (v : BitVec 12) (s : State) : Host.Outcome State Fault Refusal :=
  s.setReg (sreg d) (shrWord (s.sOp a) v.toNat)
def execSraReg (d a b : BitVec 6) (s : State) : Host.Outcome State Fault Refusal :=
  s.setReg (sreg d) (sraWord (s.sOp a) (bits (s.sOp b) 5 0))
def execSraImm (d a : BitVec 6) (v : BitVec 12) (s : State) : Host.Outcome State Fault Refusal :=
  s.setReg (sreg d) (sraWord (s.sOp a) v.toNat)

/-- MIN, MAX (R364). -/
def execMinReg (d a : BitVec 6) (u : BitVec 1) (b : BitVec 6) (s : State) : Host.Outcome State Fault Refusal :=
  s.setReg (sreg d) (minWord (u = 1) (s.sOp a) (s.sOp b))
def execMinImm (d a : BitVec 6) (u : BitVec 1) (v : BitVec 12) (s : State) : Host.Outcome State Fault Refusal :=
  s.setReg (sreg d) (minWord (u = 1) (s.sOp a) (immXA v))
def execMaxReg (d a : BitVec 6) (u : BitVec 1) (b : BitVec 6) (s : State) : Host.Outcome State Fault Refusal :=
  s.setReg (sreg d) (maxWord (u = 1) (s.sOp a) (s.sOp b))
def execMaxImm (d a : BitVec 6) (u : BitVec 1) (v : BitVec 12) (s : State) : Host.Outcome State Fault Refusal :=
  s.setReg (sreg d) (maxWord (u = 1) (s.sOp a) (immXA v))

/-- CMP (R327): 1 when the relation holds, else 0. -/
def execCmpReg (d a : BitVec 6) (c : BitVec 3) (b : BitVec 6) (s : State) : Host.Outcome State Fault Refusal :=
  s.setReg (sreg d) (BitVec.ofNat 64 (bnat (cmpWord c.toNat (s.sOp a) (s.sOp b))))
def execCmpImm (d a : BitVec 6) (c : BitVec 3) (v : BitVec 10) (s : State) : Host.Outcome State Fault Refusal :=
  s.setReg (sreg d) (BitVec.ofNat 64 (bnat (cmpWord c.toNat (s.sOp a) (immXC v))))

/-- SEL (R396). -/
def execSel (d a b c : BitVec 6) (s : State) : Host.Outcome State Fault Refusal :=
  s.setReg (sreg d) (if s.sOp c ≠ 0 then s.sOp a else s.sOp b)

/-- LI (R359): a 7-bit code names a scalar or an address register. -/
def execLi (d : BitVec 7) (v : BitVec 19) (s : State) : Host.Outcome State Fault Refusal :=
  s.setReg d.toNat (v.signExtend 64)

/-- LIH (R360): reads D from the X view. -/
def execLih (d : BitVec 7) (p : BitVec 2) (v : BitVec 16) (s : State) : Host.Outcome State Fault Refusal :=
  s.setReg d.toNat (putHalf p.toNat (s.opnd d.toNat) v)

/-- MOV (R370). -/
def execMov (d r : BitVec 7) (s : State) : Host.Outcome State Fault Refusal := s.setReg d.toNat (s.opnd r.toNat)

/-- BITC (R316). -/
def execBitc (d a f : BitVec 6) (s : State) : Host.Outcome State Fault Refusal :=
  s.setReg (sreg d) (BitVec.ofNat 64 (bitCount f.toNat (s.sOp a)))

/-- BFX (R315). -/
def execBfx (d a p l : BitVec 6) (x : BitVec 1) (s : State) : Host.Outcome State Fault Refusal :=
  s.setReg (sreg d) (bitField (x = 1) p.toNat (l.toNat + 1) (s.sOp a))

/-- BFI (R315): reads sD as well as sA. -/
def execBfi (d a p l : BitVec 6) (s : State) : Host.Outcome State Fault Refusal :=
  s.setReg (sreg d) (bitInsert p.toNat (l.toNat + 1) (s.sOp d) (s.sOp a))

end Sys2Proof.Machine
end

