-- ==== Sys2Proof/Machine/Control.lean ====
section
/-! DEFINITION. X-slot control: headers, transfers, loops, realigning and system operations, control registers, gang
synchronisation, launches and signals, fences, and the two events of dispatch itself, the instruction-cache fill and the encoding
fault (R46, R52, R58 to R75, R187, R188, R283, R317 to R325, R334 to R339, R344 to R347, R350 to R353, R357, R358, R361, R362,
R388, R398, R399, R420, R441, R447). -/

namespace Sys2Proof.Machine

/-! ## Realigning (R58, R60) -/

/-- The context of the focus with the pending writes of earlier bundles released (R60). -/
def State.realignF (s : State) : State := s.modF (fun t => t.realign s.focus.seq s.fcore.clock)

/-- A realigning operation: it waits until every V, M and L operation of earlier bundles has issued, releases the pending
writes, and waits for those of the registers `rs` that it reads. -/
def realigning (s : State) (rs : List Nat) (k : State → Res) : Res :=
  if !s.fctx.drained then .wait
  else
    let s := s.realignF
    if s.fctx.stalled rs then .wait else k s

/-! ## Transfers (R66, R67, R73) -/

/-- The fault of a control transfer that may not stand here: DELAYBR, then LOOPTAIL. -/
def State.transferFault (s : State) : Option Nat :=
  let t := s.fctx
  if t.delay.isSome then some cDELAYBR
  else
    match t.loops with
    | [] => none
    | e :: _ =>
      let a := s.focus.addr.toNat
      if e.start.toNat ≤ a ∧ e.stop.toNat ≤ a + 32 ∧ a ≤ e.stop.toNat then some cLOOPTAIL else none

/-- A transfer whose two delay slots follow; no target when it is not taken. `late` tells that fetch did not go its way (R68). -/
def State.transfer (s : State) (target : Option Word) (late : Bool) : State :=
  s.modF (fun t => { t with delay := some { left := 2, target := target, eret := false, late := late } })

/-- A transfer with its checks; `k` is its further effect. -/
def transferTo (s : State) (target : Option Word) (late : Bool) (k : State → State) : Res :=
  match s.transferFault with
  | some e => .trap e 0 0
  | none => .done (k (s.transfer target late))

/-- BR's condition (R318). -/
def branchTaken (c : Nat) (x : Word) : Bool :=
  match c with
  | 0 => x = 0
  | 1 => x ≠ 0
  | 2 => decide (x.toInt < 0)
  | 3 => decide (0 ≤ x.toInt)
  | 4 => decide (0 < x.toInt)
  | 5 => decide (x.toInt ≤ 0)
  | _ => true

/-- BR (R318). The hint decides only timing: what it names wrongly comes late (R68). -/
def execBr (a : BitVec 6) (c : BitVec 3) (h : BitVec 1) (v : BitVec 16) (s : State) : Host.Outcome State Fault Refusal :=
  let take := branchTaken c.toNat (s.sOp a)
  finish s (transferTo s (if take then some (relTarget s.focus.addr v) else none) (take ≠ (h = 1)) id)

/-- JMP (R353). -/
def execJmpRel (v : BitVec 25) (s : State) : Host.Outcome State Fault Refusal :=
  finish s (transferTo s (some (relTarget s.focus.addr v)) false id)
def execJmpReg (a : BitVec 6) (s : State) : Host.Outcome State Fault Refusal :=
  finish s (transferTo s (some (s.sOp a)) true id)

/-- CALL (R324): the target is read before s63 takes the link. -/
def State.putLink (s : State) : State := s.writeX 63 (s.focus.addr + 48)
def execCallRel (v : BitVec 25) (s : State) : Host.Outcome State Fault Refusal :=
  finish s (transferTo s (some (relTarget s.focus.addr v)) false State.putLink)
def execCallReg (a : BitVec 6) (s : State) : Host.Outcome State Fault Refusal :=
  finish s (transferTo s (some (s.sOp a)) true State.putLink)

/-- RET (R388). -/
def execRet (a : BitVec 6) (s : State) : Host.Outcome State Fault Refusal :=
  finish s (transferTo s (some (s.sOp a)) true id)

/-- BRKM (R75, R322): taken when the stack is not empty and its top enables no lane. Fetch takes it for not taken. -/
def execBrkm (v : BitVec 16) (s : State) : Host.Outcome State Fault Refusal :=
  finish s (realigning s [] (fun s =>
    let take := !s.fctx.masks.isEmpty && s.mask = 0
    transferTo s (if take then some (relTarget s.focus.addr v) else none) take id))

/-- ERET (R214, R346): valid in handler state only; what it restores is restored after its delay slots. -/
def execEret (s : State) : Host.Outcome State Fault Refusal :=
  finish s (
    if s.fctx.handler.isNone then .trap cILLOP 0 0
    else
      match s.transferFault with
      | some e => .trap e 0 0
      | none => .done (s.modF (fun t => { t with delay := some { left := 2, target := none, eret := true, late := false } })))

/-! ## Loops (R70 to R72, R321, R362) -/

/-- LOOP with its count: ILLOP for a count above 32 bits, then the transfer's faults, then LOOPOVF. A count of 0 continues after
the end bundle, which fetch did not expect. -/
def loopBy (s : State) (n : Word) (e : BitVec 12) : Res :=
  if bits n 63 32 ≠ 0 then .trap cILLOP 0 0
  else
    match s.transferFault with
    | some f => .trap f 0 0
    | none =>
      let stop := s.focus.addr + 16#64 * e.setWidth 64
      if n = 0 then .done (s.modF (fun t => { t with delay := some { left := 0, target := some (stop + 16), eret := false, late := true } }))
      else if 6 ≤ s.fctx.loopDepth then .trap cLOOPOVF 0 0
      else .done (s.modF (fun t => { t with loops := { start := s.focus.addr + 16, stop := stop, count := n } :: t.loops }))

/-- LOOP (R362). -/
def execLoopImm (n : BitVec 13) (e : BitVec 12) (s : State) : Host.Outcome State Fault Refusal :=
  finish s (loopBy s (n.setWidth 64) e)
def execLoopReg (c : BitVec 6) (e : BitVec 12) (s : State) : Host.Outcome State Fault Refusal :=
  finish s (loopBy s (s.sOp c) e)

/-- BREAK (R72, R321): in handler state it sees the handler's own entries only. -/
def execBreakOp (n : BitVec 3) (s : State) : Host.Outcome State Fault Refusal :=
  finish s (
    if s.fctx.loops.length < n.toNat then .trap cLOOPUNF 0 0
    else .done (s.modF (fun t => { t with loops := t.loops.drop n.toNat })))

/-! ## Headers, switch points and waits -/

/-- The core gives the context up: it is the last switching context (R33, R35). -/
def State.giveUp (s : State) (c x : Nat) : State :=
  s.modCore c (fun k => if k.running = some x then { k with running := none, lastSwitch := x } else k)

/-- The tokens that a header's mask names and that are incomplete (R52, R63). -/
def Ctx.maskWaits (t : Ctx) (m : BitVec 8) (g : BitVec 2) : Bool := (t.tokens.toNat >>> (8 * g.toNat)) &&& m.toNat ≠ 0

/-- HDR (R52, R58, R59, R63): Sync or Wait enable realigns; a named incomplete token holds the bundle and is a switch point. -/
def execHdr (y w : BitVec 1) (m : BitVec 8) (g : BitVec 2) (_v : BitVec 4) (_m _l : BitVec 5) (s : State) :
    Host.Outcome State Fault Refusal :=
  if y = 0 && w = 0 then finish s (.done s)
  else if !s.fctx.drained then finish s .wait
  else if w = 1 && s.fctx.maskWaits m g then .next { s.giveUp s.focus.core s.focus.ctx with last := .waits }
  else finish s (.done s.realignF)

/-- YIELD (R34, R447): the switch is made once every slot queue has issued everything up to and including this bundle. -/
def execYield (s : State) : Host.Outcome State Fault Refusal :=
  finish s (realigning s [] (fun s => .done (s.modF (fun t => { t with hold := .switching }))))

/-- END (R43, R344, R345): it takes effect once the bundle's own operations have issued. ILLOP with an open span; a follower's waits
for its gang's span to end. -/
def execEndOp (s : State) : Host.Outcome State Fault Refusal :=
  finish s (realigning s [] (fun s =>
    match s.fctx.span with
    | none => .done (s.modF (fun t => { t with hold := .ending }))
    | some sp =>
      match sp.gang with
      | some g => if g.leadCore = s.focus.core && g.leadCtx = s.focus.ctx then .trap cILLOP 0 0 else .wait
      | none => .trap cILLOP 0 0))

/-- The end of a context (R43, R345): fetch halts, both stacks, the set-aside entries and window, and record mode go. -/
def Ctx.finishEnd (t : Ctx) : Ctx :=
  { t with ended := true, hold := .none, loops := [], masks := [], handler := none, delay := none,
           csr := { t.csr with recording := false } }

/-- WAIT (R65, R441). The all-ones value of a field is no limit. -/
def execWait (l t : BitVec 8) (c : BitVec 6) (m : BitVec 2) (s : State) : Host.Outcome State Fault Refusal :=
  finish s (realigning s [] (fun s =>
    let k := s.fctx
    if (l = 255 || k.ld ≤ l.toNat) && (t = 255 || k.st ≤ t.toNat) && (c = 63 || k.cp ≤ c.toNat) &&
        (m = 3 || k.mx ≤ m.toNat) then .done s
    else .wait))

/-- TRAP (R420): run once its bundle has dispatched; FADDR takes the immediate, and the X done bit is 1. -/
def execTrap (v : BitVec 16) (s : State) : Host.Outcome State Fault Refusal :=
  stoppedAt (s.takeFault s.focus.core s.focus.ctx 0 s.focus.seq s.focus.addr cTRAPI (v.setWidth 64) 0 true 0 s.focus.step)

/-- DBGBRK (R339): run once its bundle has dispatched; a precise stop that is no fault. -/
def execDbgbrk (s : State) : Host.Outcome State Fault Refusal :=
  stoppedAt (s.breakStop s.focus.core s.focus.ctx 0 s.focus.seq s.focus.addr)

/-! ## Control registers (R334 to R336) -/

/-- R336: LOGPTR, LOGLIM, REVCUR and CTXSTAT wait for every earlier V and M operation. -/
def csrHeld (t : Ctx) (num : Nat) : Bool :=
  (num = 3 || num = 5 || num = 6 || num = 7) && !(t.vq.isEmpty && t.mq.isEmpty)

/-- CSRR (R335). -/
def execCsrr (d : BitVec 6) (c : BitVec 12) (s : State) : Host.Outcome State Fault Refusal :=
  finish s (
    match s.csr s.focus.core s.focus.ctx c.toNat with
    | none => .trap cILLOP 0 0
    | some v => if csrHeld s.fctx c.toNat then .wait else .done (s.writeX (sreg d) v))

/-- CSRW (R335). -/
def execCsrw (a : BitVec 6) (c : BitVec 12) (s : State) : Host.Outcome State Fault Refusal :=
  finish s (
    match s.csrWrite s.focus.core s.focus.ctx c.toNat (s.sOp a) with
    | none => .trap cILLOP 0 0
    | some s' => if csrHeld s.fctx c.toNat then .wait else .done s')

/-! ## Gang synchronisation (R351, R352) -/

/-- END of the context has issued (R43): the context has ended, or does once its queues have issued. -/
def Ctx.ends (t : Ctx) : Bool :=
  t.ended || t.hold = .ending ||
  (match t.handler with
   | some h => h.hold = .ending
   | none => false)

/-- Every member of the task has arrived at the phase or has executed END; a freed member has. -/
def State.gangArrived (s : State) (b : BoundTask) : Bool :=
  (List.range b.members.length).all (fun i =>
    b.arrived.contains i || b.freed.contains i ||
    (match b.members[i]? with
     | some m => (s.ctx m.1 m.2).ends
     | none => true))

/-- GSYNC (R351): the bundle is held from its arrival to its release. A gang of one is released at arrival. -/
def execGsync (s : State) : Host.Outcome State Fault Refusal :=
  let t := s.fctx
  match t.hold with
  | .gsyncDone => finish s (.done (s.modF (fun t => { t with hold := .none })))
  | .gsync => finish s .wait
  | _ =>
    match s.task t.task with
    | none => finish s (.done s)
    | some b =>
      if b.members.length ≤ 1 then finish s (.done s)
      else
        .next { (s.modTask t.task (fun b => { b with arrived := b.arrived ++ [t.member] })).modF
          (fun t => { t with hold := .gsync }) with last := .waits }

/-- GSYNC_RELEASE (R351): when every member of the gang of task `k` has arrived or ended, every arrived member is released. -/
def execGsyncRelease (k : Nat) (s : State) : Host.Outcome State Fault Refusal :=
  match s.task k with
  | none => notNow s
  | some b =>
    if b.arrived.isEmpty || !s.gangArrived b then notNow s
    else
      happened (b.arrived.foldl (fun s i =>
        match b.members[i]? with
        | some m => s.modCtx m.1 m.2 (fun t => { t with hold := .gsyncDone })
        | none => s) (s.modTask k (fun b => { b with arrived := [] })))

/-! ## Signals and launches (R357, R358, R398, R399) -/

/-- SIGNAL (R398, R399): one decrement on its way to the tower's Marten. -/
def execSignal (a : BitVec 6) (s : State) : Host.Outcome State Fault Refusal :=
  finish s (
    let v := s.sOp a
    if bits v 63 16 ≠ 0 then .trap cILLOP 0 0
    else
      match s.task s.fctx.task with
      | none => .done s
      | some b =>
        .done (s.modMarten b.tower (fun m => { m with
          signals := m.signals ++ [{ core := s.focus.core, graph := b.graph, src := b.idx, idx := v.toNat }] })))

/-- SIGNAL_DECREMENT (R203, R399): one of the SIGNALs on their way, in whatever order they were sent, reaches the Marten of tower `t`. One whose
graph has completed finds no counter and changes nothing (DESIGN CHOICE, notes/assumptions/73.md). -/
def execSignalDecrement (t : Nat) (s : State) : Host.Outcome State Fault Refusal :=
  if numTowers ≤ t then .fault .noSuchUnit
  else
    let (n, s) := s.turn (s.marten t).signals.length
    match (s.marten t).signals[n]? with
    | none => notNow s
    | some g =>
      happened (s.modMarten t (fun m =>
        let m := { m with signals := m.signals.eraseIdx n }.source (srcSignal g.core)
        m.modGraph g.graph (fun m h =>
          if h.abandoned || h.torndown || h.rejected then (m, h)
          else if gNtask h.desc ≤ g.idx then (m, h.note cILLOP g.src)
          else
            let c := m.counters.get (h.base + g.idx) 0
            if c = 0 then (m, h.note cCTRUNDER g.idx)
            else
              let m := { m with counters := m.counters.set (h.base + g.idx) (c - 1) }
              if c = 1 then m.test h g.idx else (m, h))))

/-- Device launches that a Marten's input holds (R358). -/
def Marten.deviceInput (m : Marten) : Nat :=
  ((m.inflight ++ m.arrivals).filter (fun l => l.host.isNone)).length

/-- LAUNCH (R357, R358): captures the descriptor and sends it to the Marten that it names; a full input holds dispatch. -/
def execLaunch (a : BitVec 6) (s : State) : Host.Outcome State Fault Refusal :=
  finish s (
    let p := s.sOp a
    if !isAp p then .trap cALIGN p 0
    else if apBad p then .trap cAPERTURE p 0
    else if bits p 5 0 ≠ 0 then .trap cALIGN p 0
    else
      let pa := apAddr s.focus.core (apOff p)
      if s.apWaits pa 64 then .wait
      else if s.poisonNow pa 64 then .trap cPOISON p 0
      else
        let d := s.wordsNow pa 8
        let t := gTower d
        if 16 ≤ (s.marten t).deviceInput then .wait
        else
          let b := s.task s.fctx.task
          let l : Launch :=
            { desc := d, host := none, core := s.focus.core, ctx := s.focus.ctx, task := s.fctx.task,
              tower := (b.map BoundTask.tower).getD (towerOf s.focus.core), graph := (b.map BoundTask.graph).getD 0,
              fires := [] }
          .done ((s.correct pa 64).modMarten t (fun m => { m with inflight := m.inflight ++ [l] })))

/-- A LAUNCH of the graph with launch order `g` of tower `t` that is discarded (R197, R200, R201). -/
def State.discardLaunch (s : State) (t g : Nat) : State :=
  s.modMarten t (fun m => m.modGraph g (fun m h => (m, { h with dlaunch := min (h.dlaunch + 1) 65535 })))

/-- The graph with launch order `g` of tower `t` has been torn down. -/
def State.tornDown (s : State) (t g : Nat) : Bool :=
  (s.marten t).graphs.any (fun h => h.order = g && h.torndown)

/-- DEVICE_LAUNCH_ARRIVE (R197, R358): a launch on its way reaches the Marten of tower `t`; the tear-down of its launching task
comes first, and then it is discarded and counted. -/
def execDeviceLaunchArrive (t : Nat) (s : State) : Host.Outcome State Fault Refusal :=
  if numTowers ≤ t then .fault .noSuchUnit
  else
    match (s.marten t).inflight with
    | [] => notNow s
    | l :: r =>
      let s := s.modMarten t (fun m => { m with inflight := r })
      if l.host.isNone && s.tornDown l.tower l.graph then happened (s.discardLaunch l.tower l.graph)
      else happened (s.modMarten t (fun m => { m with arrivals := m.arrivals ++ [l] }))

/-! ## Fences (R187, R188) -/

/-- FENCE (R187): realigns; from its issue it holds later operations of the successor classes. -/
def execFence (p q : BitVec 6) (c : BitVec 3) (s : State) : Host.Outcome State Fault Refusal :=
  finish s (realigning s [] (fun s =>
    if p = 0 || q = 0 then .done s
    else .done (s.modF (fun t => { t with
      fences := t.fences ++ [{ seq := s.focus.seq, pred := p, succ := q, scope := c.toNat }] }))))

/-- DRAIN (R188): realigns, then holds dispatch until every earlier R and W operation is complete for the scope. -/
def execDrain (c : BitVec 3) (s : State) : Host.Outcome State Fault Refusal :=
  finish s (realigning s [] (fun s =>
    if s.complete s.focus.core s.focus.ctx s.focus.seq 3 c.toNat then .done s else .wait))

/-! ## Dispatch's own events (R46, R283) -/

/-- Lines that the instruction cache of a pair holds: 512 KiB of 16-byte bundles (R17, R45). -/
def icacheLines : Nat := 32768

/-- The line of a bundle in the instruction cache of a core's pair (R45). -/
def State.line (s : State) (c : Nat) (image : BitVec 24) (a : Word) : Option BundleWord :=
  ((s.icaches.get (pairOf c) []).find? (fun l => l.image = image && l.addr = a)).map ILine.bundle

/-- A line made the most recently used one; the least recently used goes when the cache is full (R45). -/
def State.putLine (s : State) (c : Nat) (l : ILine) : State :=
  let ls := (s.icaches.get (pairOf c) []).filter (fun k => !(k.image = l.image && k.addr = l.addr))
  { s with icaches := s.icaches.set (pairOf c) ((l :: ls).take icacheLines) }

/-- The line of a bundle, if it is resident, made the most recently used one. -/
def State.touchLine (s : State) (c : Nat) (image : BitVec 24) (a : Word) : State :=
  match s.line c image a with
  | some w => s.putLine c { image := image, addr := a, bundle := w }
  | none => s

/-- Where a fetch at `a` reads (R46), as (physical address, length) runs: its parts are translated as the tables stand, the walk made afresh, and no
lock is checked; or its fault code. Bits [63:56] of the address are those of a pointer read (R92): a bad format is ALIGN, an aperture form a miss,
and a key plays no part but in the line's tag (notes/assumptions/9.md). -/
def State.fetchParts (s : State) (t : Ctx) (a : Word) : Except Nat (List (Nat × Nat)) :=
  if bits a 3 0 ≠ 0 || badFormat a then .error cALIGN
  else if isAp a then .error cXLATE
  else
    let ps := Ctx.cut s { t with tlb := [] } 18 (vaOf a) (vaOf a + 16)
    let xs := ps.filterMap (fun p => p.xl.map (fun x => (x, p.len)))
    if xs.length ≠ ps.length || xs.any (fun q => q.1.level ≠ 5 || !(s.inLevel q.1.pa q.2 5)) then .error cXLATE
    else if xs.any (fun q => !q.1.rd) then .error cPERM
    else .ok (xs.map (fun q => (q.1.pa, q.2)))

/-- The bundle at those runs of bytes. -/
def State.bundleAt (s : State) (ps : List (Nat × Nat)) : BundleWord :=
  BitVec.ofNat 128 (pieceValue ((piecesOf ps 0 0).map (fun p => { p with val := s.readMem p.pa p.len })) 0)

/-- ICACHE_FILL (R46, R223): the bundle of the focus is fetched into its pair's cache, or the fetch faults in slot 0. No bundle has been read
then, and CTXSTAT.DONE shows 0 (notes/assumptions/9.md). -/
def execIcacheFill (s : State) : Host.Outcome State Fault Refusal :=
  match s.fetchParts s.fctx s.focus.addr with
  | .ok ps => happened ((s.correctAll ps).putLine s.focus.core { image := s.fctx.image, addr := s.focus.addr, bundle := s.bundleAt ps })
  | .error e =>
    stoppedAt (s.takeFault s.focus.core s.focus.ctx 0 s.focus.seq s.focus.addr e s.focus.addr 0 false 0 s.focus.step)

/-- ENCODING_FAULT (R283): the bundle of the focus does not dispatch; ILLOP reports `slot`, and the done bits are those of the slots
that hold no operation. -/
def execEncodingFault (slot : Nat) (s : State) : Host.Outcome State Fault Refusal :=
  if 4 ≤ slot then .fault .noSuchUnit
  else
    stoppedAt (s.takeFault s.focus.core s.focus.ctx slot s.focus.seq s.focus.addr cILLOP 0 0 false (~~~s.focus.present)
      s.focus.step)

end Sys2Proof.Machine
end

