-- ==== Sys2Proof/Machine/Rings.lean ====
section
/-! DEFINITION. Operand rings: instances, cursors, landing, popping, configuring, and the row reads of the M slot (R122 to R124, R157,
R226, R281, R328, R392, R393). -/

namespace Sys2Proof.Machine

/-! ## Instances (R122, R123) -/

def RingInst.size (i : RingInst) : Nat := 256 <<< i.slotsz
/-- Slot index of a free-running count. -/
def RingInst.slot (i : RingInst) (n : BitVec 16) : Nat := n.toNat % i.count
/-- The physical address of the slot of a count. -/
def RingInst.slotAddr (i : RingInst) (n : BitVec 16) : Nat := i.base + i.slot n * i.size
def RingInst.bits (i : RingInst) (n : BitVec 16) : BitVec 16 := i.live.get (i.slot n) 0
def RingInst.setBits (i : RingInst) (n : BitVec 16) (v : BitVec 16) : RingInst := { i with live := i.live.set (i.slot n) v }
/-- Slots filled and not freed. -/
def RingInst.filled (i : RingInst) : Nat := (i.tail - i.head).toNat

/-- HEAD advanced over every leading slot whose live bits are all clear (R123). -/
def freeHeads (fuel : Nat) (i : RingInst) : RingInst :=
  match fuel with
  | 0 => i
  | k + 1 => if i.head = i.tail || i.bits i.head ≠ 0 then i else freeHeads k { i with head := i.head + 1 }
def RingInst.free (i : RingInst) : RingInst := freeHeads 256 i

/-- The instance of sett `g` whose slot 0 is at physical address `b`. -/
def State.inst (s : State) (g b : Nat) : Option RingInst := s.insts.find? (fun i => i.sett = g && i.base = b)
def State.setInst (s : State) (i : RingInst) : State :=
  { s with insts := s.insts.map (fun j => if j.sett = i.sett && j.base = i.base then i else j) }

/-- A producer command that names the instance is queued or in flight (R124). -/
def State.producer (s : State) (g b : Nat) : Bool := s.cmds.any (fun k => k.slots.contains (g, b))

/-- Rings of the sett that refer to the instance, but for ring `q` of core `c`. -/
def State.otherRing (s : State) (g b c q : Nat) : Bool :=
  s.cores.any (fun e => settOf e.1 = g && e.2.rings.any (fun r => r.2.inst = b && !(e.1 = c && r.1 = q)))

/-- A core holds a slot of the instance. -/
def RingInst.held (i : RingInst) : Bool := i.live.any (fun e => e.2 ≠ 0)

/-- An instance to which no ring of its sett refers, which no producer names and of which no core holds a slot is no more
(notes/assumptions/20.md). -/
def State.dropInst (s : State) (g b : Nat) : State :=
  if s.producer g b || s.otherRing g b numCores 0 || ((s.inst g b).map RingInst.held).getD false then s
  else { s with insts := s.insts.filter (fun i => !(i.sett = g && i.base = b)) }

/-- Core `c`'s live bits of an instance cleared, all of them (R123). -/
def RingInst.clearCore (i : RingInst) (c : Nat) : RingInst :=
  RingInst.free { i with live := i.live.map (fun e => (e.1, e.2 &&& ~~~(1#16 <<< settIdx c))) }

/-- Ring `q` of core `c` is not configured any more (R123, release). -/
def State.releaseRing (s : State) (c q : Nat) : State :=
  match (s.core c).rings.find q with
  | none => s
  | some r =>
    let s := s.modCore c (fun k => { k with rings := k.rings.erase q })
    let s : State :=
      match s.inst (settOf c) r.inst with
      | some i => s.setInst (i.clearCore c)
      | none => s
    s.dropInst (settOf c) r.inst

/-- The rings that a context configured are released (R44, R123). -/
def State.releaseRings (s : State) (c x : Nat) : State :=
  (((s.core c).rings.filter (fun e => e.2.ctx = x)).map (fun e => e.1)).foldl (fun s q => s.releaseRing c q) s

/-- The slot at core `c`'s cursor is popped whole: its bit clears, the cursor moves, ROFF is 0 (R123, R157). -/
def State.popRing (s : State) (c q : Nat) : State :=
  match (s.core c).rings.find q with
  | none => s
  | some r =>
    let s : State :=
      match s.inst (settOf c) r.inst with
      | none => s
      | some i => s.setInst (i.setBits r.cursor (i.bits r.cursor &&& ~~~(1#16 <<< settIdx c))).free
    s.modCore c (fun k => { k with rings := k.rings.set q { r with cursor := r.cursor + 1, roff := 0 } })

/-! ## Landing (R123) -/

/-- Every instance grants the permit of its slot TAIL. -/
def RingInst.permit (i : RingInst) : Bool := decide (i.filled < i.count) && i.bits i.tail = 0

/-- Cycles from the landing of a slot to the presence of its rows (R158): the latency of the ring's level. -/
def rowLatency (loc : Nat) : Nat :=
  match loc with
  | 0 => 6
  | 1 => 20
  | _ => 28

/-- The slots of the counts `ns` of an instance at level `loc` have landed for the rings of a core that refer to it (R158). -/
def Core.landed (k : Core) (base loc : Nat) (ns : List (BitVec 16)) : Core :=
  { k with rings := k.rings.mapV (fun r =>
      if r.inst = base then
        { r with present := r.present.filter (fun e => decide (k.clock < e.2)) ++ ns.map (fun n => (n, k.clock + rowLatency loc)) }
      else r) }

/-- A slot's bytes at its home, zero-padded, but for the words `early`, which stand there already (R189). -/
def State.fillSlot (s : State) (i : RingInst) (bs : List Byte) (early : List Nat) : State :=
  let a := i.slotAddr i.tail
  let v := natOfBytes (bs.take i.size)
  if early.isEmpty then s.writeMem a i.size v
  else
    (List.range (i.size / 8)).foldl (fun (s : State) j =>
      if early.contains (a / 8 + j) then s else s.writeMem (a + 8 * j) 8 (v >>> (64 * j))) s

/-- One slot landed whole, zero-padded; the words `bad` of the slot (by offset) are poisoned. The words `early` have landed before. -/
def State.landSlot (s : State) (i : RingInst) (bs : List Byte) (bad early : List Nat) : State :=
  let a := i.slotAddr i.tail
  let s := s.fillSlot i bs early
  let s := (bad.filter (fun o => !(early.contains ((a + o) / 8)))).foldl (fun (s : State) o => s.markPoison ((a + o) / 8)) s
  let s := s.setInst { i.setBits i.tail i.cmask with tail := i.tail + 1 }
  { s with cores := s.cores.map (fun e => if settOf e.1 = i.sett then (e.1, e.2.landed i.base i.loc [i.tail]) else e) }

/-- The rings `n` that a producer of core `c` names: its own, or those of every core of its multicast mask; the instances, each once
(R123, R328). None when one is not configured. -/
def State.ringTargets (s : State) (c n mcast : Nat) : Option (List (Nat × Nat)) :=
  let cores := if mcast = 0 then [c] else ((List.range 16).filter (fun i => mcast.testBit i)).map (fun i => 16 * settOf c + i)
  let rs := cores.map (fun k => (s.core k).rings.find n)
  if rs.all Option.isSome then
    some (rs.foldl (fun l r =>
      match r with
      | some r => if l.contains (settOf c, r.inst) then l else l ++ [(settOf c, r.inst)]
      | none => l) [])
  else none

/-! ## Row reads (R157, R281) -/

/-- What a row read gives: the row; it has to wait; or a fault code. Owl's counters change with a read that meets poison too. -/
inductive RowRes where
  | got (s : State) (row : Nat) (soft : Bool)
  | wait
  | trap (s : State) (code : Nat)

/-- R281: a matching row read passes, or meets the injected error (true: uncorrectable). `ev` is 1 for MSHIFT, 2 for MPUSH. -/
def State.injectRow (s : State) (c q ev : Nat) : State × Option Bool :=
  let o := s.owl (towerOf c)
  let r := o.errctl
  if bit r 0 && bits r 9 8 = ev && bits r 19 13 = coreIn c && bits r 23 20 = q then
    if o.errseen < bits r 47 32 then (s.modOwl (towerOf c) (fun o => { o with errseen := o.errseen + 1 }), none)
    else (s.modOwl (towerOf c) (fun o => { o with errctl := putBits o.errctl 0 1 0, errseen := 0 }), some (bit r 1))
  else (s, none)

/-- `read_row` of R157 for ring `q` of core `c`; `ev` as in `injectRow`. An injected error changes the read alone and marks no word (R281,
R449); in a layer in detect-only mode a single-bit one is not corrected either (R28). -/
def State.readRow (s : State) (c q sz : Nat) (keep : Bool) (ev : Nat) : RowRes :=
  match (s.core c).rings.find q with
  | none => .trap s cRINGUNDER
  | some r =>
    match s.inst (settOf c) r.inst with
    | none => .trap s cRINGUNDER
    | some i =>
      if r.roff % sz ≠ 0 then .trap s cILLOP
      else if r.cursor = i.tail then if s.producer i.sett i.base then .wait else .trap s cRINGUNDER
      else if r.present.any (fun e => e.1 = r.cursor && decide ((s.core c).clock < e.2)) then .wait
      else
        let a := i.slotAddr r.cursor + r.roff
        if s.lostAt a then .trap s cLAYERLOST
        else
          let x := r.ctx
          let (s, inj) := s.injectRow c q ev
          if inj = some true || (inj = some false && s.detectOnly a) then .trap s cPOISON
          else
            let soft := inj = some false || s.softAt a sz
            let s := s.correct a sz
            let s := if inj = some false then s.logError (s.correction a) else s
            if s.poisonFor c x s.nextOut a sz then .trap s cPOISON
            else
              let row := s.readFor c x s.nextOut a sz
              let s := s.noteSuppliers c x none s.nextOut a sz
              if keep then .got s row soft
              else if r.roff + sz = i.size then .got (s.popRing c q) row soft
              else .got (s.modCore c (fun k => { k with rings := k.rings.set q { r with roff := r.roff + sz } })) row soft

/-! ## RINGCFG and RPOP (R122, R392, R393) -/

/-- A barrier, descriptor or control-block pointer that must be an aperture pointer aligned to `n` (R107, R310, R392). -/
def apFault (p : Word) (n : Nat) : Option Nat :=
  if !(isAp p) then some cALIGN
  else if apBad p then some cAPERTURE
  else if p.toNat % n ≠ 0 then some cALIGN
  else none

/-- R122: the physical address of slot 0 of a ring at a virtual address, wholly in one translation of the level. -/
def ringVa (s : State) (t : Ctx) (va n level : Nat) : Option (Nat × List Held) :=
  let ps := Ctx.cut s t 160 va (va + n)
  match ps.map (fun p => p.xl) with
  | some x :: r =>
    if x.level = level && r.all (fun y => (y.map Xl.src) = some x.src) && s.inLevel x.pa n level then some (x.pa, t.pagesOf s ps)
    else none
  | _ => none

/-- The 16-byte descriptor of R122. -/
structure RingDesc where
  w0 : Word
  w1 : Word
  deriving DecidableEq, Repr

def RingDesc.field (d : RingDesc) : Nat := Machine.bits d.w0 55 0
def RingDesc.tail (d : RingDesc) : BitVec 16 := BitVec.ofNat 16 (Machine.bits d.w1 63 48)
def RingDesc.head (d : RingDesc) : BitVec 16 := BitVec.ofNat 16 (Machine.bits d.w1 47 32)
def RingDesc.cmask (d : RingDesc) : BitVec 16 := BitVec.ofNat 16 (Machine.bits d.w1 31 16)
def RingDesc.loc (d : RingDesc) : Nat := Machine.bits d.w1 14 13
def RingDesc.count (d : RingDesc) : Nat := Machine.bits d.w1 12 4
def RingDesc.slotsz (d : RingDesc) : Nat := Machine.bits d.w1 3 0
def RingDesc.size (d : RingDesc) : Nat := 256 <<< d.slotsz

/-- R122, R392: CMASK without the core, a reserved code, a nonzero reserved field, COUNT, CMASK, TAIL − HEAD. -/
def RingDesc.illegal (d : RingDesc) (c : Nat) : Bool :=
  !(d.cmask.getLsbD (settIdx c)) || d.loc = 3 || decide (8 < d.slotsz) || Machine.bits d.w0 63 56 ≠ 0 || bit d.w1 15 ||
    decide (d.count < 2) || decide (256 < d.count) || decide (d.count < (d.tail - d.head).toNat)

/-- A RINGCFG may join the instance (R122). -/
def RingDesc.agrees (d : RingDesc) (i : RingInst) : Bool :=
  i.field = d.field && i.cmask = d.cmask && i.loc = d.loc && i.count = d.count && i.slotsz = d.slotsz &&
    decide ((d.head - i.head).toNat ≤ (i.tail - i.head).toNat)

/-- Counts `a`, `a + 1`, … up to but not including `b`. -/
def countsFrom (a b : BitVec 16) : List (BitVec 16) := (List.range (b - a).toNat).map (fun n => a + BitVec.ofNat 16 n)

/-- The core's live bit set in the slots of the counts `ns`. -/
def RingInst.mark (i : RingInst) (c : Nat) (ns : List (BitVec 16)) : RingInst :=
  ns.foldl (fun i n => i.setBits n (i.bits n ||| (1#16 <<< settIdx c))) i

/-- The instance that a descriptor forms: slots HEAD to TAIL − 1 pre-landed for the configuring core alone (R123). -/
def RingDesc.form (d : RingDesc) (c base : Nat) : RingInst :=
  RingInst.mark { sett := settOf c, base := base, field := d.field, loc := d.loc, count := d.count, slotsz := d.slotsz,
                  cmask := d.cmask, head := d.head, tail := d.tail, live := [] } c (countsFrom d.head d.tail)

/-- Ring `q` of core `c` configured for context `x` by a descriptor (R122, R123), or the code of the fault that stops it. -/
def formRing (s : State) (c x q : Nat) (d : RingDesc) : Except Nat State :=
  let n := d.count * d.size
  if d.illegal c then .error cILLOP
  else if d.field % d.size ≠ 0 then .error cALIGN
  else
    let place : Except Nat (Nat × List Held) :=
      if d.loc = 0 then if pairSize < d.field + n then .error cAPERTURE else .ok (apAddr c d.field, [])
      else
        match ringVa s (s.ctx c x) d.field n d.loc with
        | none => .error cXLATE
        | some y => .ok y
    match place with
    | .error e => .error e
    | .ok (base, hs) =>
      let g := settOf c
      let old := (s.core c).rings.find q
      let holds : Bool :=
        match old with
        | none => false
        | some r =>
          match s.inst g r.inst with
          | none => false
          | some i => i.live.any (fun e => e.2.getLsbD (settIdx c))
      let known := (s.inst g base).filter (fun i => s.otherRing g base c q || s.producer g base || i.held)
      if holds then .error cRINGOVER
      else if (known.map (fun i => d.agrees i)) = some false then .error cRINGOVER
      else if s.lostAt base then .error cLAYERLOST
      else
        let s := (s.releaseRing c q).modCtx c x (fun t => t.hold_ hs)
        let i := (s.inst g base).getD (d.form c base)
        let s : State :=
          match s.inst g base with
          | some i =>
            s.setInst (i.mark c ((countsFrom d.head i.tail).filter (fun m => decide ((m - i.head).toNat < i.filled))))
          | none => { s with insts := s.insts ++ [i] }
        .ok (s.modCore c (fun k => Core.landed { k with
          rings := k.rings.set q { inst := base, cursor := d.head, roff := 0, ctx := x, present := [] } } base i.loc
          (countsFrom d.head i.tail)))

/-- RINGCFG (R122, R123, R392). -/
def ringcfg (s : State) (p : Word) (q : Nat) : Res :=
  let c := s.focus.core
  match apFault p 16 with
  | some e => .trap e p 0
  | none =>
    let a := apAddr c (apOff p)
    if s.apWaits a 16 then .wait
    else if s.poisonNow a 16 then .trap cPOISON p 0
    else
      let d : RingDesc := { w0 := s.wordNow a, w1 := s.wordNow (a + 8) }
      match formRing (s.correct a 16) c s.focus.ctx q d with
      | .error e => .trap e (if e = cXLATE then d.w0 else p) 0
      | .ok s => .done s

/-- RPOP (R392). -/
def rpop (s : State) (q : Nat) : Res :=
  let c := s.focus.core
  match (s.core c).rings.find q with
  | none => .trap cRINGUNDER 0 0
  | some r =>
    match s.inst (settOf c) r.inst with
    | none => .trap cRINGUNDER 0 0
    | some i =>
      if r.cursor = i.tail then if s.producer i.sett i.base then .wait else .trap cRINGUNDER 0 0
      else .done (s.popRing c q)

end Sys2Proof.Machine
end

