-- ==== Sys2Proof/Machine/Ready.lean ====
section
/-! DEFINITION. What a queued operation has to wait for whatever it does: operands (R56), program order of shared registers (R55), the
time that units and results take (R76), fences (R187), the row read of its own bundle (R180), a gang (R171); and the breakpoints (R275). -/

namespace Sys2Proof.Machine

/-- Breakpoint `b` selects slot `slot` of the bundle at `addr` for context `x` of core `c` (R275). -/
def Breakpoint.hits (b : Breakpoint) (c x : Nat) (addr : Word) (slot : Nat) : Bool :=
  bit b.ctl 31 && bit b.ctl (27 + slot) && bits b.addr 63 4 = bits addr 63 4 &&
    (bit b.ctl 26 || bits b.ctl 25 19 = coreIn c) && (bit b.ctl 18 || bits b.ctl 17 15 = x)

/-- A breakpoint stops the operation (R275). -/
def State.breakAt (s : State) (c x : Nat) (addr : Word) (slot : Nat) : Bool :=
  (s.owl (towerOf c)).bps.any (fun e => e.2.hits c x addr slot)

/-- The operation stores (R180). -/
def storesMem (i : Instr) : Bool :=
  match i with
  | .sst _ _ _ _ => true
  | .vst _ _ _ => true
  | .vstx _ _ _ _ => true
  | .tagset _ _ _ => true
  | .barinit _ _ _ _ => true
  | .bararm _ _ => true
  | .bararr _ _ => true
  | _ => (atomicOf i).isSome

/-- The context is a follower of an open ganged span (R171). -/
def Ctx.follows (t : Ctx) (c x : Nat) : Bool :=
  match t.span with
  | some sp =>
    match sp.gang with
    | some g => !(g.leadCore = c && g.leadCtx = x)
    | none => false
  | none => false

/-- The queued operations of a context. -/
def Ctx.queued (t : Ctx) : List QOp := t.vq ++ t.mq ++ t.lq

/-- The values that earlier operations of its slot supply are there (R56). -/
def Ctx.linksReady (t : Ctx) (o : QOp) : Bool :=
  o.links.all (fun l => t.pend.all (fun p => !(p.slot = o.slot && p.reg = l.1 && p.seq = l.2 && p.val.isNone)))

/-! ## Occupancy and latency (R53, R55, R56, R76, R163 to R166, R341, R416, R433) -/

/-- Occupancy and latency of a V-slot operation (R76, R416): those of exact timing. In elastic timing R77 bounds them from below alone, and the model
takes the same figures (DESIGN CHOICE, notes/assumptions/73.md). -/
def timeV (i : Instr) : Nat × Nat :=
  match i with
  | .viadd _ _ _ _ => (4, 6)
  | .visub _ _ _ _ => (4, 6)
  | .vand _ _ _ _ => (4, 6)
  | .vor _ _ _ _ => (4, 6)
  | .vxor _ _ _ _ => (4, 6)
  | .vshl _ _ _ _ => (4, 6)
  | .vshr _ _ _ _ => (4, 6)
  | .vsra _ _ _ _ => (4, 6)
  | .vrcp _ _ _ => (8, latTrans)
  | .vrsq _ _ _ => (8, latTrans)
  | .vsqrt _ _ _ => (8, latTrans)
  | .vexp2 _ _ _ => (8, latTrans)
  | .vlog2 _ _ _ => (8, latTrans)
  | .vtanh _ _ _ => (8, latTrans)
  | .vred _ _ _ _ => (4, latRed)
  | .kpush _ _ => (1, 2)
  | .kinv => (1, 2)
  | .kpop => (1, 2)
  | .kmovTo _ => (1, 2)
  | .kmovFrom _ => (1, 2)
  | .tadd _ _ _ _ _ => (4, latTile)
  | .tmul _ _ _ _ _ => (4, latTile)
  | .tscale _ _ _ _ _ => (4, latTile)
  | .tbias _ _ _ _ _ => (4, latTile)
  | .trelu _ _ _ _ => (4, latTile)
  | .tmask _ _ _ _ _ => (4, latTile)
  | .tcvt _ _ _ _ => (4, latTile)
  | .ttrans _ _ _ _ => (8, 14)
  | .texp _ _ _ _ => (8, latTexp)
  | .tsilu _ _ _ _ => (16, latTsilu)
  | .tgelu _ _ _ _ => (20, latTgelu)
  | .tsoftmax _ _ _ _ => (24, latTrow)
  | .trmsn _ _ _ _ _ => (24, latTrow)
  | _ => (4, latFloat)

/-- Occupancy and latency of an M- or L-slot operation (R76, R162 to R166, R313, R393, R433). -/
def timeML (i : Instr) : Nat × Nat :=
  match i with
  | .mshift _ _ _ => (1, 68)
  | .macc _ _ _ => (1, 2)
  | .maccU _ _ => (1, 2)
  | .mzero _ _ _ => (1, 2)
  | .mdrain _ _ _ _ _ => (1, latDrain)
  | .sld _ _ _ _ _ => (1, 6)
  | .sst _ _ _ _ => (1, 6)
  | .vld _ _ _ => (4, 6)
  | .vst _ _ _ => (4, 6)
  | .vldx _ _ _ _ => (8, 10)
  | .vstx _ _ _ _ => (8, 10)
  | .scale _ _ _ => (1, 6)
  | .ringcfg _ _ => (1, 6)
  | _ => (1, 1)

def QOp.time (o : QOp) : Nat × Nat := if o.slot = 1 then timeV o.ins else timeML o.ins

/-- The register that an X-slot operation of a latency above 1 writes, and that latency (R76). -/
def lateX (i : Instr) : Option (Nat × Nat) :=
  match i with
  | .mulReg d _ _ => some (sreg d, 3)
  | .mulImm d _ _ => some (sreg d, 3)
  | .mulhReg d _ _ _ => some (sreg d, 3)
  | .mulhImm d _ _ _ => some (sreg d, 3)
  | .divReg d _ _ _ => some (sreg d, 20)
  | .divImm d _ _ _ => some (sreg d, 20)
  | .remReg d _ _ _ => some (sreg d, 20)
  | .remImm d _ _ _ => some (sreg d, 20)
  | .csrr d _ => some (sreg d, 2)
  | _ => none

/-- The operation uses its context's divider (R341). -/
def divides (i : Instr) : Bool :=
  match lateX i with
  | some (_, l) => l = 20
  | none => false

/-- BRKM reads the mask stack (R75). -/
def readsMasks (i : Instr) : Bool :=
  match i with
  | .brkm _ => true
  | _ => false

/-- The control registers that an X-slot operation writes with latency 2 (R76, R385), and the one that it reads. -/
def csrDst (i : Instr) : List Nat :=
  match i with
  | .csrw _ c => [c.toNat]
  | .recon _ _ _ => [3, 5, 6, 7]
  | _ => []
def csrSrc (i : Instr) : List Nat :=
  match i with
  | .csrr _ c => [c.toNat]
  | _ => []

/-- What is in use for a time, as numbers: a slot's unit, the array's pipeline, and for each context the registers, rows, mask stack, scale
queue and rings of R55 and R393, the rows that MACC and MZERO have written (R163, R375), its divider, its scalar, address and control registers. -/
def rUnit (slot : Nat) : Nat := 15000 + slot
def rPipe : Nat := 15010
def rOwn (x n : Nat) : Nat := 65536 * (x + 1) + n
def rDivider : Nat := 0
def rReg (r : Nat) : Nat := 1 + r
def rCsr (c : Nat) : Nat := 20100 + c
def resOf (x n : Nat) : Nat := rOwn x (if n < rMask then 1000 + n else n)
def rSum (x r : Nat) : Nat := rOwn x (32768 + r)

/-- A resource is not in use any more. -/
def Core.free (k : Core) (n : Nat) : Bool := k.busy.all (fun e => e.1 ≠ n || decide (e.2 ≤ k.clock))

/-- The operation accumulates: it may follow another of its kind on one row at once (R163). -/
def sums (i : Instr) : Bool :=
  match i with
  | .macc _ _ _ => true
  | .maccU _ _ => true
  | _ => false

/-- The operation zeroes rows: an accumulation may follow it on them at once (R375). -/
def zeroes (i : Instr) : Bool :=
  match i with
  | .mzero _ _ _ => true
  | _ => false

/-- The oldest row in flight or queued has emerged, as far as time goes (R162, R163). -/
def Core.emerged (k : Core) : Bool :=
  let n := k.arr.inflight.length + k.arr.latch.length
  n = 0 || decide ((k.busy.filter (fun e => e.1 = rPipe && decide (k.clock < e.2))).length < n)

/-- The row that the accumulation `o` of context `x` takes is an integer row (R162, R163): rows that have emerged or are in flight come first,
then those of the MSHIFTs that wait before it. -/
def State.intRow (s : State) (c x : Nat) (o : QOp) : Bool :=
  let k := s.core c
  let t := s.ctx c x
  let here := if k.arr.owner = some x then (k.arr.latch ++ k.arr.inflight).map LatchRow.isInt else []
  let coming := t.mq.filterMap (fun p =>
    match p.ins with
    | .mshift _ f _ => some (decide (f = 4))
    | _ => none)
  (here ++ coming).getD (t.mq.filter (fun p => sums p.ins && decide (p.seq < o.seq))).length false

/-- The operation as far as its reads go: MACC reads no VS in integer mode (R143, R363). -/
def State.asRead (s : State) (c x : Nat) (o : QOp) : QOp :=
  match o.ins with
  | .macc r i _ => if s.intRow c x o then { o with ins := .maccU r i } else o
  | _ => o

/-- What `o` reads in context `x` of core `c` has been written, as far as time goes (R55, R56, R393). -/
def State.readsReady (s : State) (c x : Nat) (o : QOp) : Bool :=
  let k := s.core c
  let rs := (s.asRead c x o).reads (s.ctx c x)
  rs.all (fun r => k.free (resOf x r)) && (sums o.ins || rs.all (fun r => k.free (rSum x r)))

/-- The times that `o` waits for have come: its unit is free (R54), what it reads has been written (R55), and what earlier operations of
its slot supply has come (R56). -/
def State.timeReady (s : State) (c x : Nat) (o : QOp) : Bool :=
  let t := s.ctx c x
  let k := s.core c
  k.free (rUnit o.slot) && s.readsReady c x o &&
  o.links.all (fun l => t.pend.all (fun p => !(p.slot = o.slot && p.reg = l.1 && p.seq = l.2) || decide (p.ready ≤ k.clock)))

/-- The operation accumulates, drains or zeroes: a span retires once the last one has written (R163 to R165, R168). -/
def writesRows (i : Instr) : Bool :=
  match i with
  | .macc _ _ _ => true
  | .maccU _ _ => true
  | .mdrain _ _ _ _ _ => true
  | .mzero _ _ _ => true
  | _ => false

/-- A time added to those in use: of a register the last write decides (R55), of the array's pipeline every row counts. -/
def busyWith (b : List (Nat × Nat)) (e : Nat × Nat) : List (Nat × Nat) :=
  (if e.1 = rPipe then b else b.filter (fun f => f.1 ≠ e.1)) ++ [e]

/-- Times added to those in use on core `c`. -/
def State.occupy (s : State) (c : Nat) (es : List (Nat × Nat)) : State :=
  s.modCore c (fun k => { k with busy := (es.map (fun e => (e.1, k.clock + e.2))).foldl busyWith k.busy })

/-- What an operation writes for readers to wait for: of a ring, RINGCFG alone (R393). -/
def QOp.results (t : Ctx) (o : QOp) : List Nat :=
  match o.ins with
  | .ringcfg _ _ => o.writes t
  | _ => (o.writes t).filter (fun n => decide (n ≤ rScale))

/-- The unit and the results of an operation that has issued are in use for its occupancy and its latency. -/
def State.occupyBy (s : State) (c x : Nat) (o : QOp) : State :=
  let d := o.time
  let ws := o.results (s.ctx c x)
  let rs := if sums o.ins || zeroes o.ins then ws.map (rSum x) else ws.map (resOf x)
  let s := if writesRows o.ins then s.modCore c (fun k => { k with drain := max k.drain (k.clock + d.2) }) else s
  s.occupy c ((rUnit o.slot, d.1) :: (if readsRow o.ins && d.2 = 68 then [(rPipe, d.2)] else rs.map (fun r => (r, d.2))))

/-- MACC, MDRAIN or MZERO has issued; it has written when its latency is over (R76, R186). -/
def State.noteWrite (s : State) (c x : Nat) (o : QOp) : State :=
  if writesRows o.ins then
    let now := (s.core c).clock
    s.modCtx c x (fun t => { t with rowWrites := t.rowWrites.filter (fun e => decide (now < e.2)) ++ [(o.seq, now + o.time.2)] })
  else s

/-- The vector registers and rows that an operation has written land at its issue plus its latency (R181), for another context bound by then, and
over the mark that a binding sets meanwhile (R32); `old` is the core before. -/
def State.launchBy (s : State) (c x : Nat) (o : QOp) (old : Core) : State :=
  let k := s.core c
  let ws := (o.writes (old.ctx x)).filter (fun n => decide (n < rUnit 0))
  let cover : Option Mask :=
    match o.ins with
    | .mdrain _ _ _ l f => some (BitVec.ofNat 4096 (2 ^ (64 * drainWidth f) - 1) <<< (l.toNat * (64 * drainWidth f)))
    | _ => s.focus.cover
  let waits (n : Nat) : Bool := k.outs.any (fun p => p.ctx = x && p.op.seq = o.seq && p.op.slot = o.slot && (p.op.writes (old.ctx x)).contains n)
  s.setCore c ((ws.filter (fun n => !(waits n))).foldl (fun k n => k.launch x n (old.res n) (k.clock + o.time.2) (if n < 1024 then cover else none)) k)

/-- The X-slot operation waits for nothing that takes time: its operands (R56), the divider (R341), the mask stack (R55, R75), the control
register that it reads (R76). -/
def State.xReady (s : State) (c x : Nat) (i : Instr) : Bool :=
  let k := s.core c
  (scalarSrcs i).all (fun r => k.free (rOwn x (rReg r))) &&
  (!(divides i) || k.free (rOwn x rDivider)) &&
  (!(readsMasks i) || k.free (resOf x rMask)) &&
  (csrSrc i).all (fun n => k.free (rOwn x (rCsr n)))

/-- The results of the X-slot operation of bundle `seq` that has issued are in use for its latency, and so is the divider; registers that it
has written in one cycle are not. `old` is the context before it, whose value the X view of dispatch goes on showing (R57). -/
def State.occupyX (s : State) (c x : Nat) (i : Instr) (old : Ctx) (seq : Nat) : State :=
  let s := s.occupy c ((csrDst i).map (fun n => (rOwn x (rCsr n), 2)))
  match lateX i with
  | some (r, l) =>
    (s.occupy c ((rOwn x (rReg r), l) :: (if divides i then [(rOwn x rDivider, l)] else []))).modCtx c x
      (fun t => t.lag old r (s.core c).clock l)
  | none =>
    let ws := ((s.ctx c x).xw.filter (fun e => e.2 = seq)).map (fun e => rOwn x (rReg e.1))
    s.modCore c (fun k => { k with busy := k.busy.filter (fun e => !(ws.contains e.1)) })

/-- The context was a follower of a ganged span that MEND has closed and that has not retired: its held M operations go on waiting (R172). -/
def State.retiringFollower (s : State) (c x : Nat) : Bool :=
  s.cores.any (fun e => settOf e.1 = settOf c && e.2.retiring.any (fun r =>
    match r.gang with
    | some g => g.members.contains (c, x) && !(g.leadCore = c && g.leadCtx = x)
    | none => false))

/-- No earlier operation of its context, queued or outstanding, stands in the way of `o` (R55). SCALE makes its checks before it waits for those
that take scales before it (R395). -/
def State.inOrder (s : State) (c x : Nat) (o : QOp) : Bool :=
  let t := s.ctx c x
  let o' := s.asRead c x o
  (isScale o.ins || t.queued.all (fun p => !(p.before o && conflicts t (s.asRead c x p) o'))) &&
  (s.core c).outs.all (fun p => !(p.ctx = x && p.kind = .load && p.op.before o && conflicts t p.op o'))

/-- The operation `o`, at the head of its queue, waits for nothing but what its own meaning waits for and, if it accumulates, the emergence of
its row. -/
def State.opClear (s : State) (c x : Nat) (o : QOp) : Bool :=
  let t := s.ctx c x
  t.linksReady o &&
  s.timeReady c x o &&
  s.inOrder c x o &&
  !(s.fenced c x o) &&
  !(o.slot = 2 && (t.follows c x || s.retiringFollower c x)) &&
  !(o.slot = 3 && storesMem o.ins && t.mq.any (fun p => p.seq = o.seq && readsRow p.ins))

/-- The operation `o`, at the head of its queue, waits for nothing but what its own meaning waits for. -/
def State.opReady (s : State) (c x : Nat) (o : QOp) : Bool := s.opClear c x o && (!(sums o.ins) || (s.core c).emerged)

/-- The beat `ins` of the leader's focus has nothing to wait for in member `x` of core `c`, whose operations before its FOLLOW go first (R55,
R172), but for its row. -/
def State.memberClear (s : State) (ins : Instr) (c x : Nat) : Bool :=
  match (s.ctx c x).span with
  | none => true
  | some sp =>
    let o : QOp := { s.focusOp ins with seq := sp.seq, slot := 2, hdr := false }
    s.inOrder c x o && s.readsReady c x o

/-- The beat `ins` has nothing to wait for in member `x` of core `c`. -/
def State.memberReady (s : State) (ins : Instr) (c x : Nat) : Bool :=
  s.memberClear ins c x && (!(sums ins) || (s.core c).emerged || (s.ctx c x).span.isNone)

/-- The beat has issued in a member that does not lead: its unit, its results and what others see of them take their time there too. -/
def State.memberIssued (s : State) (ins : Instr) (c x : Nat) (old : Core) : State :=
  let o : QOp := { s.focusOp ins with slot := 2, hdr := false }
  (s.occupyBy c x o).launchBy c x o old

end Sys2Proof.Machine
end

