-- ==== Sys2Proof/Machine/Record.lean ====
section
/-! DEFINITION. Record mode: arming and disarming it, log writes, tile records, span records (R228 to R238, R384, R385). -/

namespace Sys2Proof.Machine

/-! ## Log registers (R229) -/

/-- LOGPTR.ADDR, KEY and NSEG; LOGLIM.LIMIT; REVCUR.ADDR. -/
def Ctx.logAddr (t : Ctx) : Nat := bits t.csr.logptr 55 6 * 64
def Ctx.logKey (t : Ctx) : Nat := bits t.csr.logptr 59 56
def Ctx.logNew (t : Ctx) : Bool := bit t.csr.logptr 0
def Ctx.logLimit (t : Ctx) : Nat := bits t.csr.loglim 55 6 * 64
def Ctx.revAddr (t : Ctx) : Nat := bits t.csr.revcur 55 6 * 64
/-- The policy: 0 save, 1 keep, 2 recompute; 3 acts as 0. -/
def Ctx.logPol (t : Ctx) : Nat :=
  let p := bits t.csr.loglim 5 4
  if p = 3 then 0 else p
/-- The pointer {LOGPTR.KEY, address}. -/
def Ctx.logPtr (t : Ctx) (a : Nat) : Word := BitVec.ofNat 64 (t.logKey <<< 56 + a % 2 ^ 56)

/-- The operation of the focus is recorded if it is recordable (R228, R385): record mode is on, outside handler state, in a
bundle after RECON's. -/
def State.recordsNow (s : State) : Bool :=
  let t := s.fctx
  t.csr.recording && t.handler.isNone && decide (t.recSeq < s.focus.seq)

/-- The open recorded span. -/
def Ctx.recSpan (t : Ctx) : Option RecSpan :=
  match t.span with
  | some sp => sp.record
  | none => none

/-! ## RECON and RECOFF (R230, R231) -/

/-- RECON (R230, R385). -/
def recon (s : State) (p lim : Word) (o : Nat) : Res :=
  let t := s.fctx
  if t.csr.recording || t.csr.rev || t.handler.isSome || t.span.isSome then .trap cILLOP 0 0
  else if bits p 63 60 ≠ 0 || bits p 5 0 ≠ 0 then .trap cALIGN p 0
  else if bits lim 63 56 ≠ 0 || bits lim 5 0 ≠ 0 || decide (bits lim 55 0 ≤ bits p 55 0) then .trap cILLOP 0 0
  else
    match t.check s p 1 .wr true with
    | .error e => .trap e p 0
    | .ok k =>
      if k.level = 0 then .trap cPERM p 0
      else
        .done (s.modF (fun t => { t.hold_ k.pages with
          prods := [], rowix := [], recSeq := s.focus.seq
          csr := { t.csr with
            logptr := BitVec.ofNat 64 (bits p 59 6 * 64 + 1)
            loglim := BitVec.ofNat 64 (bits lim 55 6 * 64 + o * 16)
            revcur := 0
            recording := true } }))

def execRecon (p l : BitVec 6) (o : BitVec 2) (s : State) : Host.Outcome State Fault Refusal :=
  finish s (realigning s [sreg p, sreg l] (fun s => recon s (s.sOp p) (s.sOp l) o.toNat))

/-- RECOFF (R231): it holds dispatch until every log write of the context has performed. -/
def execRecoff (s : State) : Host.Outcome State Fault Refusal :=
  finish s (realigning s [] (fun s =>
    let t := s.fctx
    if !t.csr.recording then .done s
    else if t.recSpan.isSome then .trap cILLOP 0 0
    else if s.fcore.outs.any (fun o => o.ctx = s.focus.ctx && o.kind = .log) then .wait
    else .done (s.modF (fun t => { t with csr := { t.csr with recording := false } }))))

/-! ## Log writes (R233) -/

/-- The checks of a log write of `n` bytes at address `a`: translation for write, the tag check with LOGPTR.KEY, LAYERLOST. -/
def logCheck (s : State) (t : Ctx) (a n : Nat) : Except (Nat × Nat) Checked :=
  match t.check s (t.logPtr a) n .wr true with
  | .error e => .error (e, 0)
  | .ok k =>
    match (if k.tchk then tagMiss s k.items (BitVec.ofNat 4 t.logKey) else none) with
    | some (pa, lock) => .error (cTAGKEY, tagInfo s (towerOf s.focus.core) pa lock (BitVec.ofNat 4 t.logKey))
    | none => if k.items.any (fun q => s.lostAt q.1) then .error (cLAYERLOST, 0) else .ok k

/-- The checks of a log write of the bytes `bs` at address `a`, in parts of 64 bytes, and the parts that it then makes. -/
def logParts (fuel : Nat) (s : State) (t : Ctx) (a : Nat) (bs : List Byte) : Except (Nat × Nat) (List OutPart × List Held) :=
  match fuel with
  | 0 => .ok ([], [])
  | k + 1 =>
    if bs.isEmpty then .ok ([], [])
    else
      let part := bs.take 64
      match logCheck s t a part.length with
      | .error e => .error e
      | .ok c =>
        match logParts k s t (a + 64) (bs.drop 64) with
        | .error e => .error e
        | .ok (r, hs) => .ok (OutPart.new (piecesOf c.items 0 (natOfBytes part)) [] (t.logPtr a) :: r, c.pages ++ hs)

/-- A log write by operation `ins` of the focus, checked whole in the state `s` before the operation has any effect; `s'` is its effect so far.
Or the fault (code, FINFO fields) that it meets. -/
def logWrite (s s' : State) (ins : Instr) (a : Nat) (bs : List Byte) : Except (Nat × Nat) State :=
  match logParts (bs.length / 64 + 1) s s.fctx a bs with
  | .error e => .error e
  | .ok (ps, hs) => .ok (s'.addOut .log ins ps [] hs)

/-- LOGPTR.ADDR moved (R233). -/
def Ctx.setLogAddr (t : Ctx) (a : Nat) (new : Bool) : Ctx :=
  { t with csr := { t.csr with logptr := BitVec.ofNat 64 (t.logKey <<< 56 + (a % 2 ^ 56) / 64 * 64 + bnat new) } }

/-- A record at `a` of `len` bytes is in the log (R233): REVCUR names it, NSEG is clear, LOGPTR.ADDR has moved past it. -/
def Ctx.logged (t : Ctx) (a len : Nat) : Ctx :=
  let t := t.setLogAddr (a + len) false
  { t with csr := { t.csr with revcur := BitVec.ofNat 64 a } }

/-- Word 0 of a record header (R232): BACK from REVCUR, MASKED, FIRST, KIND. -/
def Ctx.recWord0 (t : Ctx) (masked : Bool) (kind : Nat) : Word :=
  let back := if t.logNew then t.revAddr else t.logAddr + 2 ^ 56 - t.revAddr
  BitVec.ofNat 64 ((back % 2 ^ 56) <<< 8 + bnat masked <<< 5 + bnat t.logNew <<< 4 + kind)

def wordsBytes (ws : List Word) : List Byte := ws.flatMap (fun w => bytesOf 8 w.toNat)
def padTo (n : Nat) (bs : List Byte) : List Byte := bs ++ List.replicate (n - bs.length) 0
def vregBytes (v : VReg) : List Byte := bytesOf 4096 v.toNat

/-! ## Tile records (R234, R236) -/

/-- The flag of a needed operand (R236): 1 S, 2 K, 3 C; `input` is false for D. -/
def Ctx.recFlag (t : Ctx) (input : Bool) (p : Nat) : Nat :=
  match t.logPol with
  | 1 => 2
  | 2 =>
    if !input then 1
    else
      match t.prods.find (t.window p) with
      | some (_, depth) => if depth ≤ 2 then 3 else 1
      | none => 1
  | _ => 1

/-- What an operand contributes to a record's body (R234). -/
def flagBytes (f : Nat) (v : VReg) : List Byte :=
  match f with
  | 1 => vregBytes v
  | 2 => padTo 64 (bytesOf 4 (crc32c (vregBytes v)))
  | _ => []

/-- The operands of a tile operation for its record: physical D, A and B, which of D, A, B its adjoint needs (bits 0, 1, 2), SCAL0,
and whether it writes all of D when no mask gates it. -/
structure TileRec where
  d : Nat
  a : Nat
  b : Option Nat
  needs : Nat
  scal : Word
  full : Bool

/-- A tile operation recorded (R233, R234, R236, R237, R415): `s` is the state at its issue, `s'` its effect. Outside record mode, and in
handler state, nothing is recorded. -/
def recordTile (s s' : State) (ins : Instr) (k : TileRec) : Res :=
  let t := s.fctx
  if !s.recordsNow then .done s'
  else
    let masked := !t.masks.isEmpty
    let fd := if k.needs.testBit 0 then t.recFlag false k.d else 0
    let fa := if k.needs.testBit 1 then t.recFlag true k.a else 0
    let b := k.b.getD 0
    let fb := if k.needs.testBit 2 && k.b.isSome then t.recFlag true b else 0
    let body := flagBytes fd (s'.fcore.vreg k.d) ++ flagBytes fa (s.vreg k.a) ++ flagBytes fb (s.vreg b) ++
      (if masked then bytesOf 512 s.mask.toNat else [])
    let len := alignUp (64 + body.length) 64
    let a := t.logAddr
    if t.logLimit < a + len then .trap cLOGOVF (t.logPtr a) 0
    else
      let prod (f p : Nat) : Nat × Nat := if f = 3 then t.prods.get (t.window p) (0, 0) else (0, 0)
      let opc := ((encode ins).getD 0).toNat
      let hdr : List Word :=
        [t.recWord0 masked 2, BitVec.ofNat 64 (len <<< 32 + opc),
         BitVec.ofNat 64 ((s.focus.lent % 16) <<< 48 + (fd + fa <<< 2 + fb <<< 4) <<< 40 + k.d + k.a <<< 10 + b <<< 20),
         k.scal, 0, BitVec.ofNat 64 (prod fa k.a).1, BitVec.ofNat 64 (prod fb b).1, 0]
      match logWrite s s' ins a (padTo len (wordsBytes hdr ++ body)) with
      | .error (e, i) => .trap e (t.logPtr a) i
      | .ok s' =>
        let depth := max (if fa = 3 then (prod fa k.a).2 + 1 else 0) (if fb = 3 then (prod fb b).2 + 1 else 0)
        .done (s'.modF (fun t =>
          let t := t.logged a len
          if k.full && !masked && t.window k.d < 64 then { t with prods := t.prods.set (t.window k.d) (a, depth) } else t))

/-! ## Span records (R235) -/

/-- Bytes that MSPAN reserves (R235, R237). -/
def spanReserve : Nat := 37952

/-- The header of a span record (R232, R235) of `len` bytes: at MSPAN no beat has been counted. -/
def RecSpan.header (r : RecSpan) (shape : Word) (len : Nat) : List Byte :=
  wordsBytes [r.word0, BitVec.ofNat 64 (len <<< 32 + r.opc.toNat), shape,
    BitVec.ofNat 64 (r.beats.length + (if len = 0 then 0 else r.rflag) <<< 16), 0, 0, 0, 0]

/-- The record that MSPAN opens, its checks made and its header written (R233, R237); none when the span is not recorded. -/
def openRecord (s : State) (ins : Instr) (shape : Word) : Except (Nat × Word × Nat) (Option RecSpan × State) :=
  if !s.recordsNow then .ok (none, s)
  else
    let t := s.fctx
    let a := t.logAddr
    if t.logLimit < a + spanReserve then .error (cLOGOVF, t.logPtr a, 0)
    else
      let r : RecSpan :=
        { addr := a, word0 := t.recWord0 false 1, opc := (encode ins).getD 0,
          rflag := if t.logPol = 1 then 2 else 1, beats := [], data := [], counts := [], zeroed := [], maccd := [],
          drained := [], spoiled := [] }
      match logWrite s s ins a (r.header shape 0) with
      | .error (e, i) => .error (e, t.logPtr a, i)
      | .ok s => .ok (some r, s.modF (fun t => t.logged a spanReserve))

/-- Where the entries and the data of a span record lie once it has `n` beats (R235). -/
def RecSpan.entsAt (r : RecSpan) : Nat := r.addr + 64
def RecSpan.dataAt (r : RecSpan) (n : Nat) : Nat := r.addr + 64 + alignUp (8 * n) 64

/-- A beat of a recorded span (R235), `s` the state at its issue, `s'` its effect: kind 1 to 6 (MPUSH, MFLIP, MSHIFT, MACC, MDRAIN, MZERO),
resolved row, physical register, the data it appends. The 65th beat of a kind is ILLOP. Its entry and data are checked and written where they lie
if the span ends here; when the entries take up another 64 bytes, the data so far moves behind them (notes/assumptions/61.md). -/
def recordBeat (s s' : State) (ins : Instr) (kind x preg : Nat) (dat : List Byte) (f : RecSpan → RecSpan) : Res :=
  let t := s.fctx
  match t.recSpan with
  | none => .done s'
  | some r =>
    if !s.recordsNow then .done s'
    else if 64 ≤ r.counts.get kind 0 then .trap cILLOP 0 0
    else
      let n := r.beats.length
      let w : Word := BitVec.ofNat 64 (((encode ins).getD 0).toNat + (x % 2 ^ 14) <<< 32 + (preg % 2 ^ 10) <<< 46)
      let r' := f { r with beats := r.beats ++ [w], data := r.data ++ dat, counts := r.counts.set kind (r.counts.get kind 0 + 1) }
      let ea := r.entsAt + n / 8 * 64
      let ents := padTo 64 (wordsBytes (r'.beats.drop (n / 8 * 8)))
      let from_ := if n % 8 = 0 then 0 else r.data.length / 64 * 64
      let da := r.dataAt (n + 1) + from_
      let bs := r'.data.drop from_
      match logWrite s s' ins ea ents with
      | .error (e, i) => .trap e (t.logPtr ea) i
      | .ok s' =>
        match (if dat.isEmpty && n % 8 ≠ 0 then .ok s' else logWrite s s' ins da (padTo (alignUp bs.length 64) bs)) with
        | .error (e, i) => .trap e (t.logPtr da) i
        | .ok s' => .done (s'.modF (fun t => { t with span := t.span.map (fun sp => { sp with record := some r' }) }))

/-- The record of a span at its MEND, which writes LEN, NBEAT and RFLAG into the header (R233, R235, R236). A MEND
in handler state does so too for a span that was recorded before it (notes/assumptions/70.md). -/
def closeRecord (s : State) : Res :=
  let t := s.fctx
  match t.span, t.recSpan with
  | some sp, some r =>
    let len := alignUp (64 + alignUp (8 * r.beats.length) 64 + r.data.length) 64
    match logWrite s s .mend r.addr (r.header sp.shape len) with
    | .error (e, i) => .trap e (t.logPtr r.addr) i
    | .ok s =>
      let good := (r.drained.filter (fun q => q.2 = 2 ^ 4096 - 1 && !(r.spoiled.contains q.1))).map (fun q => q.1)
      .done (s.modF (fun t =>
        let t := t.setLogAddr (t.revAddr + len) false
        { t with prods := good.foldl (fun ps p =>
            if t.window p < 64 then ps.set (t.window p) (r.addr, 0) else ps) t.prods }))
  | _, _ => .done s

end Sys2Proof.Machine
end

