-- ==== Sys2Proof/Machine/Matrix.lean ====
section
/-! DEFINITION. The matrix engine: the beats of the M slot, spans and ganged spans, the emergence of rows and the retirement of
spans (R153 to R174, R223, R235, R236, R280, R348, R349, R363 to R373). -/

namespace Sys2Proof.Machine

/-! ## Planes (R153, R155, R160) -/

/-- Entry k of a column. -/
def colEntry (col : BitVec 2688) (k : Nat) : ArrEl := BitVec.ofNat 21 (col.toNat >>> (21 * k))
/-- The column with entry k replaced. -/
def setEntry (col : BitVec 2688) (k : Nat) (v : ArrEl) : BitVec 2688 :=
  BitVec.ofNat 2688 (col.toNat - (colEntry col k).toNat <<< (21 * k) + v.toNat <<< (21 * k))

def Arr.active (a : Arr) : Tab (BitVec 2688) := if a.flip then a.p1 else a.p0
def Arr.activeTag (a : Arr) : Nat := if a.flip then a.tag1 else a.tag0
def Arr.shadow (a : Arr) : Tab (BitVec 2688) := if a.flip then a.p0 else a.p1
def Arr.shadowTag (a : Arr) : Nat := if a.flip then a.tag0 else a.tag1
/-- The shadow plane and its tag replaced. -/
def Arr.setShadow (a : Arr) (p : Tab (BitVec 2688)) (tag : Nat) : Arr :=
  if a.flip then { a with p0 := p, tag0 := tag } else { a with p1 := p, tag1 := tag }

/-- Bytes of a row (R155). -/
def rowBytes (fmt : Nat) : Nat :=
  match fmt with
  | 5 => 32
  | 6 => 64
  | _ => 128

/-- Bits of a row's elements, and their number (R155). -/
def elBits (fmt : Nat) : Nat :=
  match fmt with
  | 0 => 16
  | 1 => 16
  | 5 => 4
  | 6 => 4
  | _ => 8
def elCount (fmt : Nat) : Nat := 8 * rowBytes fmt / elBits fmt

/-- An element of a format in the array operand format (R137, R139); an INT8 element is held as its byte in bits [8:1], clear of the pad mark
(notes/assumptions/59.md). `b` is the block scale. -/
def arrEl (fmt b x : Nat) : ArrEl :=
  match fmt with
  | 0 => arrOfF .bf16 x
  | 1 => arrOfF .f16 x
  | 2 => arrOfF .e4m3 x
  | 3 => arrOfF .e5m2 x
  | 4 => BitVec.ofNat 21 (2 * x)
  | _ => q4nEl x b

/-- The (k, n, element) triples that a push of a row writes (R155, R160); `ktail` is 0 when .p is not given. -/
def pushEls (fmt idx : Nat) (tr : Bool) (ktail : Nat) (scales : List (BitVec 8)) (row : Nat) : List (Nat × Nat × ArrEl) :=
  (List.range (elCount fmt)).map (fun e =>
    let x := (row >>> (elBits fmt * e)) % 2 ^ elBits fmt
    let v := arrEl fmt (scales.getD (e / 64) 0).toNat x
    let v := if ktail ≠ 0 && decide (ktail ≤ e) then (if 5 ≤ fmt then padEl else 0) else v
    if tr then (e, idx, v)
    else if fmt ≤ 1 then (idx, e, v)
    else (2 * idx + e / 64, e % 64, v))

/-- MPUSH's effect on the array: the shadow plane is cleared when its tag differs (R160). -/
def Arr.push (a : Arr) (fmt : Nat) (els : List (Nat × Nat × ArrEl)) : Arr :=
  let p := if a.shadowTag = fmt then a.shadow else []
  a.setShadow (els.foldl (fun p e => p.set e.2.1 (setEntry (p.get e.2.1 0) e.1 e.2.2)) p) fmt

/-- The pairs of R140 and R156: format of A, tag of the plane. -/
def pairOk (a tag : Nat) : Bool :=
  match a with
  | 0 => tag = 0 || tag = 1 || tag = 5
  | 1 => tag = 0 || tag = 1 || tag = 5
  | 2 => tag = 2 || tag = 3 || tag = 6
  | 3 => tag = 2 || tag = 3 || tag = 6
  | _ => tag = 4

/-- The 64 column sums of an A row over the active plane (R141, R142, R162). -/
def Arr.shift (a : Arr) (fmt row : Nat) : LatchRow :=
  let n := elCount fmt
  let xs := (List.range n).map (fun k => (row >>> (elBits fmt * k)) % 2 ^ elBits fmt)
  let lane (c : Nat) : Nat :=
    let col := a.active.get c 0
    if fmt = 4 then
      let sum : Int := (List.range n).foldl (fun acc k =>
        acc + (BitVec.ofNat 8 (xs.getD k 0)).toInt * (BitVec.ofNat 8 (bits (colEntry col k) 8 1)).toInt) 0
      (BitVec.ofInt 32 sum).toNat
    else r32 (columnSum ((List.range n).map (fun k => arrMul (arrEl fmt 0 (xs.getD k 0)) (colEntry col k))))
  { row := BitVec.ofNat 2048 (joinNat 32 ((List.range 64).map lane)), isInt := fmt = 4 }

/-! ## Beats over the members of a gang (R172, R173) -/

/-- What a beat comes to in one member. Owl's counters change even when a row read meets poison. -/
inductive BeatRes where
  | done (s : State)
  | wait
  | trap (s : State) (code : Nat) (faddr : Word) (info : Nat)

def BeatRes.isWait (b : BeatRes) : Bool :=
  match b with
  | .wait => true
  | _ => false
def BeatRes.isTrap (b : BeatRes) : Bool :=
  match b with
  | .trap _ _ _ _ => true
  | _ => false
def BeatRes.ofRes (s : State) (r : Res) : BeatRes :=
  match r with
  | .done s' => .done s'
  | .wait => .wait
  | .trap c a i => .trap s c a i

/-- The gang whose span the context of the focus leads or follows. -/
def State.gang (s : State) : Option Gang :=
  match s.fctx.span with
  | some sp => sp.gang
  | none => none

/-- The outcome of a beat of one context. -/
def finishBeat (s : State) (b : BeatRes) : Host.Outcome State Fault Refusal :=
  match b with
  | .done s' => finish s (.done s')
  | .wait => finish s .wait
  | .trap s' c a i => finish s' (.trap c a i)

/-- A fault of a beat in a follower (R173): FPC is its FOLLOW bundle. -/
def State.followerFault (s : State) (c x code : Nat) (faddr : Word) (info : Nat) : State :=
  match (s.ctx c x).span with
  | some sp => s.takeFault c x 2 sp.seq sp.addr code faddr info true 0 false
  | none => s

/-- A beat of the leader counted (R172). -/
def State.countBeat (s : State) : State :=
  s.modF (fun t => { t with span := t.span.map (fun sp => { sp with beat := sp.beat + 1 }) })

/-- The beat `ins` in member `m` of a gang: it waits behind the member's own earlier operations (R55, R172). -/
def memberBeat (s : State) (ins : Instr) (f : State → Nat → Nat → BeatRes) (m : Nat × Nat) : BeatRes :=
  if m = (s.focus.core, s.focus.ctx) || s.memberReady ins m.1 m.2 then f s m.1 m.2 else .wait

/-- A beat of a ganged span: a fault in any member aborts, the lowest sett index first (R173), at once, even while another member's stall would hold
the beat (DESIGN CHOICE, notes/assumptions/73.md). A stall in any member stalls all (R172). A beat that none holds is about to issue: a breakpoint on
it stops the leader before any member's fault can arise (R275); the caller takes that stop. -/
def gangBeat (s : State) (ms : List (Nat × Nat)) (ins : Instr) (f : State → Nat → Nat → BeatRes) : Host.Outcome State Fault Refusal :=
  let rs := ms.map (fun m => (m, memberBeat s ins f m))
  match rs.find? (fun r => r.2.isTrap) with
  | some (m, .trap s' code a i) =>
    let c := s.focus.core
    let stop : Bool := !s.focus.step && s.breakAt c s.focus.ctx s.focus.addr 2
    if stop && !(rs.any (fun r => r.2.isWait)) then finish s (.done s)
    else if m = (c, s.focus.ctx) then finish s' (.trap code a i)
    else .next { s'.followerFault m.1 m.2 code a i with last := .waits }
  | _ =>
    if rs.any (fun r => r.2.isWait) then finish s .wait
    else
      finish s (.done (State.countBeat (ms.foldl (fun s m =>
        match f s m.1 m.2 with
        | .done s' => if m = (s.focus.core, s.focus.ctx) then s' else s'.memberIssued ins m.1 m.2 (s.core m.1)
        | _ => s) s)))

/-- A beat `ins` that every member of a gang makes. Beats of a span that has aborted are discarded up to its MEND (R173). -/
def beat (s : State) (ins : Instr) (f : State → Nat → Nat → BeatRes) : Host.Outcome State Fault Refusal :=
  if s.fctx.mdiscard then finish s (.done s)
  else
    match s.gang with
    | some g => gangBeat s g.members ins f
    | none => finishBeat s (f s s.focus.core s.focus.ctx)

/-- A beat that needs an open span (R159). -/
def spanBeat (s : State) (ins : Instr) (f : State → Nat → Nat → BeatRes) : Host.Outcome State Fault Refusal :=
  if !s.fctx.mdiscard && s.fctx.span.isNone then finish s (.trap cILLOP 0 0) else beat s ins f

/-- A corrected row read of a member (R223): its completion credit will say so. -/
def State.noteSoft (s : State) (soft : Bool) (c : Nat) : State :=
  match s.gang with
  | some g =>
    if soft then s.modCtx g.leadCore g.leadCtx (fun t => { t with
      span := t.span.map (fun sp => { sp with gang := sp.gang.map (fun g => { g with soft := c :: g.soft }) }) })
    else s
  | none => s

/-- Flags of an operation of latency `l` that issues now in context `x` of core `c` (R87). -/
def State.raiseAt (s : State) (c x l : Nat) (f : Fl) : State :=
  if f = 0 then s else s.modCtx c x (fun t => { t with flags := t.flags ++ [((s.core c).clock + l, f)] })

/-- The 65th beat of a kind in a recorded span (R235). -/
def State.recordFull (s : State) (kind : Nat) : Bool :=
  match s.fctx.recSpan with
  | some r => s.recordsNow && decide (64 ≤ r.counts.get kind 0)
  | none => false

/-- The data that a row read appends to a record (R235): descriptor, row or its CRC. `ev` is 1 for MSHIFT, 2 for MPUSH. -/
def rowItem (t : Ctx) (q ev pa sz row : Nat) (scales : List (BitVec 8)) : List Byte :=
  let ix := t.rowix.get (4 * q + ev) 0
  let b (i : Nat) : Nat := (scales.getD i 0).toNat
  let d := wordsBytes [BitVec.ofNat 64 (ix % 2 ^ 32 + (b 0) <<< 32 + (b 1) <<< 40), BitVec.ofNat 64 pa]
  let bs := bytesOf sz row
  match t.recSpan with
  | some r => d ++ (if r.rflag = 2 then wordsBytes [BitVec.ofNat 64 (crc32c bs)] else bs)
  | none => []

/-- The physical address of the row at a ring's cursor. -/
def State.rowAddr (s : State) (c q : Nat) : Nat :=
  match (s.core c).rings.find q with
  | none => 0
  | some r =>
    match s.inst (settOf c) r.inst with
    | none => 0
    | some i => i.slotAddr r.cursor + r.roff

/-- A row read in record mode counted, whether its beat is logged or not (R235). -/
def State.countRow (s : State) (q ev : Nat) : State :=
  if s.fctx.csr.recording then s.modF (fun t => { t with rowix := t.rowix.set (4 * q + ev) (t.rowix.get (4 * q + ev) 0 + 1) }) else s

/-- A row read's beat put into the record: `s` before it, `s'` after. -/
def recordRow (s s' : State) (ins : Instr) (q ev sz row : Nat) (scales : List (BitVec 8)) : BeatRes :=
  match recordBeat s s' ins (if ev = 2 then 1 else 3) 0 0 (rowItem s.fctx q ev (s.rowAddr s.focus.core q) sz row scales) id with
  | .done s' => .done (s'.countRow q ev)
  | .wait => .wait
  | .trap c a i => .trap s c a i

/-! ## MPUSH, MFLIP, MSHIFT (R160 to R162) -/

/-- MPUSH in one member (R160, R371). -/
def pushIn (q : BitVec 4) (i : BitVec 6) (f : BitVec 3) (tr k p : BitVec 1) (s : State) (c x : Nat) : BeatRes :=
  let fmt := f.toNat
  let ktail :=
    match s.fctx.span with
    | some sp => bits sp.shape 54 48
    | none => 0
  let a := (s.core c).arr
  let need := if fmt = 5 then 1 else if fmt = 6 then 2 else 0
  let follower := (s.ctx c x).follows c x
  let pendingScale := follower && (s.ctx c x).lq.any (fun o => isScale o.ins)
  if p = 1 && (fmt = 0 || fmt = 1 || fmt = 5) && decide (64 ≤ ktail) then .trap s cILLOP 0 0
  else if s.recordFull 1 then .trap s cILLOP 0 0
  else if a.scaleq.length < need then (if pendingScale then .wait else .trap s cQIMB 0 0)
  else
    match s.readRow c q.toNat (rowBytes fmt) (k = 1) 2 with
    | .wait => .wait
    | .trap s' e => .trap s' e 0 0
    | .got s' row soft =>
      let els := pushEls fmt i.toNat (tr = 1) (if p = 1 then ktail else 0) a.scaleq row
      let s' := s'.modCore c (fun k => { k with arr := { k.arr.push fmt els with scaleq := k.arr.scaleq.drop need } })
      recordRow s (s'.noteSoft soft c) (.mpush q i f tr k p) q.toNat 2 (rowBytes fmt) row (a.scaleq.take need)

def execMpush (q : BitVec 4) (i : BitVec 6) (f : BitVec 3) (tr k p : BitVec 1) (s : State) :
    Host.Outcome State Fault Refusal := spanBeat s (.mpush q i f tr k p) (pushIn q i f tr k p)

/-- MFLIP in one member (R161). -/
def flipIn (s : State) (c _x : Nat) : BeatRes :=
  if s.recordFull 2 then .trap s cILLOP 0 0
  else
    let s' := s.modCore c (fun k => { k with arr := { k.arr with flip := !k.arr.flip } })
    .ofRes s (recordBeat s s' .mflip 2 0 0 [] id)

def execMflip (s : State) : Host.Outcome State Fault Refusal := spanBeat s .mflip flipIn

/-- MSHIFT in one member (R162, R372). -/
def shiftIn (q : BitVec 4) (f : BitVec 3) (k : BitVec 1) (s : State) (c _x : Nat) : BeatRes :=
  let fmt := f.toNat
  let a := (s.core c).arr
  let recorded := s.fctx.recSpan.isSome
  if !(pairOk fmt a.activeTag) then .trap s cILLOP 0 0
  else if (recorded && fmt = 4) || s.recordFull 3 then .trap s cILLOP 0 0
  else if 96 ≤ a.inflight.length + a.latch.length then .trap s cLATCHOVF 0 0
  else
    match s.readRow c q.toNat 128 (k = 1) 1 with
    | .wait => .wait
    | .trap s' e => .trap s' e 0 0
    | .got s' row soft =>
      let s' := s'.modCore c (fun k => { k with arr := { k.arr with inflight := k.arr.inflight ++ [a.shift fmt row] } })
      recordRow s (s'.noteSoft soft c) (.mshift q f k) q.toNat 1 128 row []

def execMshift (q : BitVec 4) (f : BitVec 3) (k : BitVec 1) (s : State) : Host.Outcome State Fault Refusal :=
  spanBeat s (.mshift q f k) (shiftIn q f k)

/-- ROW_EMERGE (R162): the oldest row in flight of core `c` enters the latch queue. -/
def execRowEmerge (c : Nat) (s : State) : Host.Outcome State Fault Refusal :=
  if numCores ≤ c then .fault .noSuchUnit
  else
    match (s.core c).arr.inflight with
    | [] => notNow s
    | r :: rs => happened (s.modCore c (fun k => { k with arr := { k.arr with inflight := rs, latch := k.arr.latch ++ [r] } }))

/-! ## MACC, MDRAIN, MZERO (R143, R163 to R165) -/

/-- Lane `j` of a row. -/
def laneOf (r : AccRow) (j : Nat) : Nat := (r.toNat >>> (32 * j)) % 2 ^ 32

/-- MACC's new row (R143): super scales in a vector register, or 1.0. -/
def accumulate (acc : AccRow) (e : LatchRow) (scale : Option VReg) : AccRow :=
  let lane (j : Nat) : Nat :=
    let a := laneOf acc j
    let m := laneOf e.row j
    if e.isInt then (a + m) % 2 ^ 32
    else
      let k := match scale with
        | some v => vElem v 4 j
        | none => one32
      (roundExact .f32 (fmaV (v32 m) (v32 k) (v32 a))).bits
  BitVec.ofNat 2048 (joinNat 32 ((List.range 64).map lane))

/-- The accumulator index of a beat (R159). -/
def State.accIdx (s : State) (r : BitVec 6) (imm : Nat) : Nat := (s.sOp r).toNat + imm

/-- MACC in one member (R163); `v` is none for .u. -/
def maccIn (ins : Instr) (n : Nat) (v : Option (BitVec 6)) (s : State) (c x : Nat) : BeatRes :=
  let t := s.ctx c x
  let k := s.core c
  match t.accRow n with
  | none => .trap s cPERM 0 0
  | some r =>
    if s.recordFull 4 then .trap s cILLOP 0 0
    else
      match k.arr.latch with
      | [] => if k.arr.inflight.isEmpty then .trap s cLATCHOVF 0 0 else .wait
      | e :: es =>
        let sc := v.map (fun v => k.vregFor x (t.vphys v))
        let s' := s.setCore c { k with
          arr := { k.arr with latch := es }, acc := k.acc.set r (accumulate (k.accFor x r) e sc) }
        .ofRes s (recordBeat s s' ins 4 n ((v.map t.vphys).getD 0) ((sc.map (fun v => bytesOf 256 v.toNat)).getD [])
          (fun r => { r with maccd := n :: r.maccd }))

def execMacc (r : BitVec 6) (i : BitVec 12) (v : BitVec 6) (s : State) : Host.Outcome State Fault Refusal :=
  spanBeat s (.macc r i v) (maccIn (.macc r i v) (s.accIdx r i.toNat) (some v))

def execMaccU (r : BitVec 6) (i : BitVec 12) (s : State) : Host.Outcome State Fault Refusal :=
  spanBeat s (.maccU r i) (maccIn (.maccU r i) (s.accIdx r i.toNat) none)

/-- MDRAIN's conversion of a lane (R148, R164): bits and flags. -/
def drainLane (f x : Nat) : FRes :=
  match f with
  | 0 => { bits := x, fl := 0 }
  | 1 => convertVal .bf16 false (v32 x)
  | 2 => convertVal .f16 false (v32 x)
  | 3 => convertVal .e4m3 false (v32 x)
  | 4 => convertVal .e4m3 true (v32 x)
  | 5 => convertVal .e5m2 false (v32 x)
  | 6 => convertVal .e5m2 true (v32 x)
  | _ =>
    let a : Int := (BitVec.ofNat 32 x).toInt
    let b := satInt 8 a
    { bits := (BitVec.ofInt 8 b).toNat, fl := clampFlags (b ≠ a) }

/-- MDRAIN in one member (R164, R365); the mask stack does not gate it. -/
def drainIn (ins : Instr) (n : Nat) (v l : BitVec 6) (f : BitVec 3) (s : State) (c x : Nat) : BeatRes :=
  let t := s.ctx c x
  let k := s.core c
  let w := drainWidth f
  if 4096 ≤ l.toNat * 64 * w then .trap s cILLOP 0 0
  else
    match t.accRow n with
    | none => .trap s cPERM 0 0
    | some r =>
      if s.recordFull 5 then .trap s cILLOP 0 0
      else
        let p := t.vphys v
        let rs := (List.range 64).map (fun j => drainLane f.toNat (laneOf (k.accFor x r) j))
        let off := l.toNat * 64 * w
        let new := putBytes (k.vreg p) off (64 * w) (joinNat (8 * w) (rs.map FRes.bits))
        let s' := (s.setCore c (k.setVreg p new)).raiseAt c x latDrain (orFlags (rs.map FRes.fl))
        .ofRes s (recordBeat s s' ins 5 n p [] (fun r => { r with
          drained := r.drained.set p (r.drained.get p 0 ||| ((2 ^ (64 * w) - 1) <<< off))
          spoiled := if r.zeroed.contains n then r.spoiled else p :: r.spoiled }))

def execMdrain (r : BitVec 6) (i : BitVec 5) (v l : BitVec 6) (f : BitVec 3) (s : State) :
    Host.Outcome State Fault Refusal :=
  beat s (.mdrain r i v l f) (drainIn (.mdrain r i v l f) (s.accIdx r i.toNat) v l f)

/-- MZERO in one member (R165). -/
def zeroIn (ins : Instr) (n m : Nat) (s : State) (c x : Nat) : BeatRes :=
  match (s.ctx c x).accRow (n + m) with
  | none => .trap s cPERM 0 0
  | some r =>
    if s.recordFull 6 then .trap s cILLOP 0 0
    else
      let s' := s.modCore c (fun k => { k with
        acc := (List.range (m + 1)).foldl (fun a j => a.set (r - m + j) 0) k.acc })
      .ofRes s (recordBeat s s' ins 6 n 0 [] (fun q => { q with
        zeroed := q.zeroed ++ (((List.range (m + 1)).map (fun j => n + j)).filter (fun j => !(q.maccd.contains j))) }))

def execMzero (r : BitVec 6) (i : BitVec 12) (n : BitVec 6) (s : State) : Host.Outcome State Fault Refusal :=
  beat s (.mzero r i n) (zeroIn (.mzero r i n) (s.accIdx r i.toNat) n.toNat)

/-- MNOP (R369): no beat. -/
def execMnop (s : State) : Host.Outcome State Fault Refusal := finish s (.done s)

/-! ## The profiler's span table (R280) -/

/-- A class counter (R280) counts one more cycle, up to 2⁴⁸ − 1. -/
def ProfEntry.count (e : ProfEntry) (k : Nat) : ProfEntry :=
  { e with counts := e.counts.set k (min (e.counts.get k 0 + 1) (2 ^ 48 - 1)) }

/-- A KIND 3 record of core `c` (R279): an entry's address and its five counters. -/
def State.profRecord (s : State) (c : Nat) (e : ProfEntry) (slot : Nat) : State :=
  s.traceRecord (towerOf c) (mergeBits (BitVec.ofNat 64 slot) e.addr 63 4) (BitVec.ofNat 64 (coreIn c <<< 16 + 3))
    ((List.range 5).map (fun k => BitVec.ofNat 64 (e.counts.get k 0)))

/-- A span opens on core `c` at `addr`: its entry is the most recently used one; when the table is full, the least recently used
entry goes, with a record if PREN = 1. -/
def State.touchProf (s : State) (c : Nat) (addr : Word) : State :=
  let p := (s.core c).prof
  match p.find? (fun e => e.addr = addr) with
  | some e => s.modCore c (fun k => { k with prof := e :: p.filter (fun e => e.addr ≠ addr) })
  | none =>
    let new : ProfEntry := { addr := addr, counts := [] }
    if p.length < 16 then s.modCore c (fun k => { k with prof := new :: p })
    else
      let s := if bit (s.owl (towerOf c)).trctl 2 then s.profRecord c (p.getLastD new) 2 else s
      s.modCore c (fun k => { k with prof := new :: p.take 15 })

/-- The operation is a beat of a span. -/
def isBeat (i : Instr) : Bool :=
  match i with
  | .mpush _ _ _ _ _ _ => true
  | .mflip => true
  | .mshift _ _ _ => true
  | .macc _ _ _ => true
  | .maccU _ _ => true
  | .mdrain _ _ _ _ _ => true
  | .mzero _ _ _ => true
  | _ => false

/-- A beat, or the MEND, of a span that has aborted: it does not issue (R173). -/
def Ctx.discards (t : Ctx) (i : Instr) : Bool := t.mdiscard && (isBeat i || i = .mend)

/-- The class of a cycle in which a beat issues, and in which its ring, its scale or its row keeps it waiting (R174). -/
def issuesClass (i : Instr) : Nat :=
  match i with
  | .mshift _ _ _ => 0
  | .mpush _ _ _ _ _ _ => 1
  | .mflip => 1
  | .macc _ _ _ => 3
  | .maccU _ _ => 3
  | .mdrain _ _ _ _ _ => 3
  | .mzero _ _ _ => 3
  | _ => 4
def waitsClass (i : Instr) : Nat :=
  match i with
  | .mshift _ _ _ => 2
  | .mpush _ _ _ _ _ _ => 1
  | .macc _ _ _ => 3
  | .maccU _ _ => 3
  | _ => 4

/-- A REVERSE of the context walks (R240). -/
def Ctx.reversing (t : Ctx) : Bool :=
  match t.hold with
  | .walk _ => true
  | _ => false

/-- The address that the cycles of core `c` are charged to, context `x` holding it (R174): that of the MSPAN or the leader's MGANG of the
span open on the core, or that of a REVERSE that walks (R240). -/
def State.chargeAddr (s : State) (c x : Nat) : Option Word :=
  if (s.ctx c x).reversing then some (s.ctx c x).pc
  else
    match (s.ctx c ((s.core c).arr.owner.getD x)).span with
    | none => none
    | some sp =>
      match sp.gang with
      | none => some sp.addr
      | some g => ((s.ctx g.leadCore g.leadCtx).span).map (fun l => l.addr)

/-- The class of the last cycle of core `c`: in a ganged span that of the leader's (R174). -/
def State.arrayClass (s : State) (c x : Nat) : Nat :=
  match (s.ctx c ((s.core c).arr.owner.getD x)).span with
  | some sp =>
    match sp.gang with
    | some g => (s.core g.leadCore).cls
    | none => (s.core c).cls
  | none => (s.core c).cls

/-- A cycle of core `c` counted (R174, R280). -/
def State.charge (s : State) (c : Nat) (addr : Option Word) (k : Nat) : State :=
  match addr with
  | none => s.modCore c (fun q => { q with unspanned := q.unspanned.count k })
  | some a =>
    let s := if (s.core c).prof.any (fun e => e.addr = a) then s else s.touchProf c a
    s.modCore c (fun q => { q with prof := q.prof.map (fun e => if e.addr = a then e.count k else e) })

/-! ## Spans (R167, R168) -/

/-- Another context of the core owns the array. -/
def Core.ownedByOther (k : Core) (x : Nat) : Bool :=
  match k.arr.owner with
  | none => false
  | some y => y ≠ x

/-- A span opens in context `x` of core `c`. -/
def State.openSpan (s : State) (c x : Nat) (sp : Span) : State :=
  (s.modCore c (fun k => { k with arr := { k.arr with owner := some x } })).modCtx c x
    (fun t => { t with span := some sp, mdiscard := false })

/-- MSPAN (R167, R373). -/
def execMspan (r : BitVec 6) (s : State) : Host.Outcome State Fault Refusal :=
  finish s (
    let shape := s.sOp r
    let t := s.fctx
    if bits shape 63 55 ≠ 0 || t.span.isSome then .trap cILLOP 0 0
    else if s.fcore.ownedByOther s.focus.ctx then .trap cPERM 0 0
    else
      match openRecord s (.mspan r) shape with
      | .error (e, a, i) => .trap e a i
      | .ok (rec, s') =>
        if 2 ≤ t.mx then .wait
        else
          let sp : Span :=
            { addr := s.focus.addr, seq := s.focus.seq, shape := shape, gang := none, beat := 0, record := rec }
          .done (((s'.openSpan s.focus.core s.focus.ctx sp).modF (fun t => { t with mx := t.mx + 1 })).touchProf
            s.focus.core s.focus.addr))

/-- MEND in one member (R168, R366). -/
def mendIn (s : State) (c _x : Nat) : BeatRes :=
  let a := (s.core c).arr
  if !(a.inflight.isEmpty && a.latch.isEmpty) then .trap s cLATCHOVF 0 0
  else if !a.scaleq.isEmpty then .trap s cQIMB 0 0
  else .done s

/-- The span of a member is closed. -/
def State.closeSpan (s : State) (m : Nat × Nat) : State :=
  (s.modCore m.1 (fun k => { k with arr := { k.arr with owner := none } })).modCtx m.1 m.2 (fun t => { t with span := none })

/-- MEND (R168, R172, R366): the span retires by its own event; the MEND of a span that has aborted is discarded. -/
def execMend (s : State) : Host.Outcome State Fault Refusal :=
  if s.fctx.mdiscard then finish s (.done (s.modF (fun t => { t with mdiscard := false })))
  else
    match s.fctx.span with
    | none => finish s (.trap cILLOP 0 0)
    | some sp =>
      let cores : List Nat :=
        match sp.gang with
        | some g => g.members.map (fun m => m.1)
        | none => [s.focus.core]
      let ret : Retiring := { ctx := s.focus.ctx, gang := sp.gang, ready := cores.map (fun c => (c, (s.core c).drain)) }
      let retire (s : State) : State := s.modFCore (fun k => { k with retiring := k.retiring ++ [ret] })
      match sp.gang with
      | some g =>
        match gangBeat s g.members .mend mendIn with
        | .next s' =>
          if s'.last = .issued then .next (retire (g.members.foldl State.closeSpan s')) else .next s'
        | o => o
      | none =>
        match mendIn s s.focus.core s.focus.ctx with
        | .done s' =>
          finish s (Res.bind (closeRecord s') (fun s' => .done (retire (s'.closeSpan (s.focus.core, s.focus.ctx)))))
        | b => finishBeat s b

/-- The last MACC, MDRAIN and MZERO of a closed span have written in each of its cores (R168). -/
def State.spanWritten (s : State) (r : Retiring) : Bool := r.ready.all (fun e => decide (e.2 ≤ (s.core e.1).clock))

/-- SPAN_RETIRE (R168, R172): the oldest closed span of core `c` retires once its last results have been written: mx counts down, and the
barriers of a gang that asked for it are credited. -/
def execSpanRetire (c : Nat) (s : State) : Host.Outcome State Fault Refusal :=
  if numCores ≤ c then .fault .noSuchUnit
  else
    match (s.core c).retiring with
    | [] => notNow s
    | r :: rs =>
      if !(s.spanWritten r) then notNow s
      else
        let s := s.modCore c (fun k => { k with retiring := rs })
        let s := s.modCtx c r.ctx (fun t => { t with mx := t.mx - 1 })
        match r.gang with
        | some g =>
          if g.baren then
            happened (g.members.foldl (fun s m =>
              s.credit (pairOf m.1) g.baroff 64 0x18 0 (if g.soft.contains m.1 then fgCORRECTED else 0) 0) s)
          else happened s
        | none => happened s

/-! ## Ganged spans (R170, R171) -/

/-- FOLLOW `k` in context `x` of core `c` has a fault of R349. -/
def State.followFault (s : State) (c x k : Nat) : Option Nat :=
  let t := s.ctx c x
  if k = settIdx c || t.span.isSome || t.csr.recording then some cILLOP
  else if (s.core c).ownedByOther x then some cPERM
  else none

/-- The cores that a gang word names. -/
def gangCores (lead : Nat) (gw : Word) : List Nat :=
  ((List.range 16).filter (fun i => bit gw i)).map (fun i => 16 * settOf lead + i)

/-- MGANG's fault in context `x` of core `c` (R170, R368). -/
def State.gangFault (s : State) (c x : Nat) (shape gw : Word) : Option Nat :=
  let t := s.ctx c x
  if bits shape 63 55 ≠ 0 || t.span.isSome || bits gw 63 33 ≠ 0 || bits gw 15 0 = 0 || bit gw (settIdx c) ||
      t.csr.recording then some cILLOP
  else if (s.core c).ownedByOther x ||
      (gangCores c gw).any (fun k => !((List.range numCtxs).any (fun y => (s.ctx k y).bound && (s.ctx k y).task = t.task))) then
    some cPERM
  else none

/-- The head of the M queue of the context that core `c` issues, if it waits for nothing else. -/
def State.headBeat (s : State) (c : Nat) : Option (Nat × QOp) :=
  match (s.core c).running with
  | none => none
  | some x =>
    let t := s.ctx c x
    match t.mq with
    | [] => none
    | o :: _ =>
      if t.bound && !t.stopped && s.opReady c x o && !(s.breakAt c x o.addr 2) then some (x, o) else none

/-- The context of core `c` whose FOLLOW waits for the leader `lead` alone (R170). -/
def State.readyFollow (s : State) (lead task c : Nat) : Option (Nat × QOp) :=
  match s.headBeat c with
  | some (x, o) =>
    match o.ins with
    | .follow k =>
      if 16 * settOf c + k.toNat = lead && (s.ctx c x).task = task && (s.followFault c x k.toNat).isNone then some (x, o) else none
    | _ => none
  | none => none

/-- A member of a gang that opens: core, context, the bundle and place of its MGANG or FOLLOW. -/
abbrev Joiner := Nat × Nat × Word × Nat

/-- MGANG and its FOLLOWs issue together (R170): `own` names the member whose own operation the caller issues. -/
def State.joinGang (s : State) (lead : Joiner) (ms : List Joiner) (shape gw : Word) (own : Nat) : State :=
  let all := (List.range 16).flatMap (fun i => (lead :: ms).filter (fun m => settIdx m.1 = i))
  let g : Gang :=
    { leadCore := lead.1, leadCtx := lead.2.1, members := all.map (fun m => (m.1, m.2.1)), baren := bit gw 32,
      baroff := bits gw 31 16, soft := [] }
  let s := all.foldl (fun (s : State) m =>
    let s := s.openSpan m.1 m.2.1
      { addr := m.2.2.1, seq := m.2.2.2, shape := shape, gang := some g, beat := 0, record := none }
    let s := if m.1 = own then s else s.modCtx m.1 m.2.1 (fun t => { t with mq := t.mq.drop 1 })
    s.touchProf m.1 lead.2.2.1) s
  s.modCtx lead.1 lead.2.1 (fun t => { t with mx := t.mx + 1 })

/-- The FOLLOWs of the named cores, but for those of `known`; none while one is missing. -/
def State.follows (s : State) (lead task : Nat) (cs : List Nat) (known : List Joiner) : Option (List Joiner) :=
  match cs with
  | [] => some known
  | c :: r =>
    if known.any (fun m => m.1 = c) then s.follows lead task r known
    else
      match s.readyFollow lead task c with
      | some (x, o) => s.follows lead task r (known ++ [(c, x, o.addr, o.seq)])
      | none => none

/-- MGANG (R170, R368). -/
def execMgang (r g : BitVec 6) (s : State) : Host.Outcome State Fault Refusal :=
  finish s (
    let c := s.focus.core
    let x := s.focus.ctx
    let shape := s.sOp r
    let gw := s.sOp g
    match s.gangFault c x shape gw with
    | some e => .trap e 0 0
    | none =>
      if 2 ≤ s.fctx.mx then .wait
      else
        match s.follows c s.fctx.task (gangCores c gw) [] with
        | none => .wait
        | some ms => .done (s.joinGang (c, x, s.focus.addr, s.focus.seq) ms shape gw c))

/-- FOLLOW (R171, R349): it issues with the MGANG that waits for it and for nothing else. -/
def execFollow (k : BitVec 4) (s : State) : Host.Outcome State Fault Refusal :=
  finish s (
    let c := s.focus.core
    let x := s.focus.ctx
    let lead := 16 * settOf c + k.toNat
    match s.followFault c x k.toNat with
    | some e => .trap e 0 0
    | none =>
      match s.headBeat lead with
      | some (lx, o) =>
        match o.ins with
        | .mgang r g =>
          let shape := (o.caps.lookup (sreg r)).getD 0
          let gw := (o.caps.lookup (sreg g)).getD 0
          let t := s.ctx lead lx
          if (s.gangFault lead lx shape gw).isSome || !(bit gw (settIdx c)) || t.task ≠ s.fctx.task || decide (2 ≤ t.mx) then .wait
          else
            match s.follows lead t.task (gangCores lead gw) [(c, x, s.focus.addr, s.focus.seq)] with
            | none => .wait
            | some ms => .done (s.joinGang (lead, lx, o.addr, o.seq) ms shape gw c)
        | _ => .wait
      | none => .wait)

end Sys2Proof.Machine
end

