-- ==== Sys2Proof/Machine/Load.lean ====
section
/-! DEFINITION. The L slot but for engine commands: loads and stores, the spill store, scales, barriers, rings, watermarks, atomics,
locks, held translations, and the events by which outstanding accesses return, perform or fault (R61 to R64, R82, R117 to R124,
R175 to R182, R192 to R195, R212, R303 to R313, R391 to R395, R400 to R404, R418, R419, R431 to R434, R442 to R445). -/

namespace Sys2Proof.Machine

/-! ## Loads and stores -/

/-- SLD (R401). -/
def execSld (d : BitVec 6) (b : BitVec 4) (z : BitVec 3) (x : BitVec 1) (i : BitVec 12) (s : State) :
    Host.Outcome State Fault Refusal :=
  finish s (loadScalar s (.sld d b z x i) (s.lsPtr b i) (2 ^ z.toNat) (x = 1) (sreg d))

/-- SST (R401). -/
def execSst (v : BitVec 6) (b : BitVec 4) (z : BitVec 3) (i : BitVec 12) (s : State) : Host.Outcome State Fault Refusal :=
  finish s (storeScalar s (.sst v b z i) (s.lsPtr b i) (2 ^ z.toNat) (s.sOp v))

/-- VLD (R432). -/
def execVld (v : BitVec 6) (b : BitVec 4) (i : BitVec 16) (s : State) : Host.Outcome State Fault Refusal :=
  finish s (loadVector s (.vld v b i) (s.lvPtr b i) (s.vWin v))

/-- VST (R432). -/
def execVst (v : BitVec 6) (b : BitVec 4) (i : BitVec 16) (s : State) : Host.Outcome State Fault Refusal :=
  finish s (storeVector s (.vst v b i) (s.lvPtr b i) (s.vreg (s.vWin v)))

/-- VLDX (R434). -/
def execVldx (v : BitVec 6) (b : BitVec 4) (i : BitVec 6) (e : BitVec 2) (s : State) : Host.Outcome State Fault Refusal :=
  finish s (loadIndexed s (.vldx v b i e) (s.aOp b) (2 ^ e.toNat) (s.vreg (s.vWin i)) (s.vWin v))

/-- VSTX (R434). -/
def execVstx (v : BitVec 6) (b : BitVec 4) (i : BitVec 6) (e : BitVec 2) (s : State) : Host.Outcome State Fault Refusal :=
  finish s (storeIndexed s (.vstx v b i e) (s.aOp b) (2 ^ e.toNat) (s.vreg (s.vWin i)) (s.vreg (s.vWin v)))

/-! ## The spill store (R82, R404) -/

/-- SPL: a doubleword whose parity fails is POISON. -/
def execSpl (d : BitVec 7) (x : BitVec 10) (s : State) : Host.Outcome State Fault Refusal :=
  finish s (
    if s.fctx.spillBad.contains x.toNat then .trap cPOISON 0 0
    else .done (s.writePending d.toNat (s.fctx.spill.get x.toNat 0) 1))

/-- SPS writes the doubleword with its parity. -/
def execSps (d : BitVec 7) (x : BitVec 10) (s : State) : Host.Outcome State Fault Refusal :=
  finish s (.done (s.modF (fun t => { t with
    spill := t.spill.set x.toNat (s.opnd d.toNat), spillBad := t.spillBad.filter (fun i => i ≠ x.toNat) })))

/-! ## SCALE (R395) -/

/-- MSPAN, MGANG, FOLLOW and MEND. -/
def spanOp (i : Instr) : Bool :=
  match i with
  | .mspan _ => true
  | .mgang _ _ => true
  | .follow _ => true
  | .mend => true
  | _ => false

/-- The operations of the context's M queue that stand before the focus in program order; of its own bundle the M slot does. -/
def State.mqBefore (s : State) : List QOp := s.fctx.mq.filter (fun o => decide (o.seq ≤ s.focus.seq))

/-- SCALE (R395). The scales pending in program order are those in the queue less those that earlier MPUSHes have still to take; it appends once
these have issued, so that none of them takes a scale of its (R55, R160), and the queue has room then. It is an L-slot load of the pair store,
which a watermarked range holds (R121, R443). -/
def execScale (n : BitVec 7) (b : BitVec 4) (i : BitVec 15) (s : State) : Host.Outcome State Fault Refusal :=
  finish s (
    let p := s.lqPtr b i
    let k := n.toNat
    if !(isAp p) then .trap cALIGN p 0
    else if apBad p || decide (pairSize < apOff p + k) then .trap cAPERTURE p 0
    else if s.mqBefore.any (fun o => spanOp o.ins) then .wait
    else if s.fctx.span.isNone then .trap cILLOP 0 0
    else if 64 < s.fcore.arr.scaleq.length - (s.mqBefore.map (fun o => scalesOf o.ins)).sum + k then .trap cQIMB 0 0
    else if s.mqBefore.any (fun o => scalesOf o.ins ≠ 0) then .wait
    else
      let a := apAddr s.focus.core (apOff p)
      if s.fcore.wmHeld (vaOf p) k || s.apWaits a k then .wait
      else if s.poisonNow a k then .trap cPOISON p 0
      else
        let bs := bytesOf k (s.readNow a k)
        .done ((s.correct a k).modFCore (fun k => { k with arr := { k.arr with scaleq := k.arr.scaleq ++ bs } })))

/-! ## Barriers (R309 to R313) -/

/-- A barrier operation with its pointer check and value check; `k` acts on the pair store and the offset in units of 64 bytes. It reads and
writes the slot at its home, in the order of the context's own accesses of it (R176, R179). -/
def barrierOp (s : State) (b : BitVec 4) (bad : Bool) (k : Nat → Nat → Res) : Res :=
  let p := s.aOp b
  match apFault p 64 with
  | some e => .trap e p 0
  | none =>
    if bad then .trap cILLOP 0 0
    else if s.apWaits (apAddr s.focus.core (apOff p)) 40 then .wait
    else k (pairOf s.focus.core) (apOff p / 64)

/-- The slot `off` is one of the context's barrier objects, which its save writes (R219; notes/assumptions/42.md). -/
def Ctx.withBar (t : Ctx) (off : Nat) : Ctx := if t.bars.contains off then t else { t with bars := t.bars ++ [off] }

/-- BARINIT (R311). -/
def execBarinit (e : BitVec 6) (b : BitVec 4) (x y : BitVec 6) (s : State) : Host.Outcome State Fault Refusal :=
  finish s (barrierOp s b (bits (s.sOp e) 63 48 ≠ 0) (fun q off =>
    .done ((s.barinit q off (bits (s.sOp e) 47 0) (s.sOp x) (s.sOp y)).modF (fun t => t.withBar off))))

/-- BARARM (R311). -/
def execBararm (e : BitVec 6) (b : BitVec 4) (s : State) : Host.Outcome State Fault Refusal :=
  finish s (barrierOp s b (bits (s.sOp e) 63 48 ≠ 0) (fun q off => .done (s.bararm q off (bits (s.sOp e) 47 0))))

/-- BARARR (R311). -/
def execBararr (n : BitVec 6) (b : BitVec 4) (s : State) : Host.Outcome State Fault Refusal :=
  finish s (barrierOp s b (bits (s.sOp n) 63 48 ≠ 0) (fun q off => .done (s.credit q off (bits (s.sOp n) 47 0) 0x30 0 0 0)))

/-- BARTST (R311). -/
def execBartst (d : BitVec 6) (b : BitVec 4) (s : State) : Host.Outcome State Fault Refusal :=
  finish s (barrierOp s b false (fun q off =>
    let a := s.bar (barAddr q off)
    .done ((s.readBar q off).writePending (sreg d) (BitVec.ofNat 64 (a.status.toNat <<< 32 + bnat a.armed <<< 1 + bnat a.phase)) 6)))

/-- BARWAIT (R311): it stays at the head of the L queue until PHASE differs from the value named. -/
def execBarwait (p : BitVec 6) (b : BitVec 4) (s : State) : Host.Outcome State Fault Refusal :=
  finish s (barrierOp s b (bits (s.sOp p) 63 1 ≠ 0) (fun q off =>
    if (s.bar (barAddr q off)).phase ≠ bit (s.sOp p) 0 then .done (s.readBar q off) else .wait))

/-! ## Rings and watermarks -/

/-- RINGCFG (R122, R392). -/
def execRingcfg (b : BitVec 4) (n : BitVec 4) (s : State) : Host.Outcome State Fault Refusal :=
  finish s (ringcfg s (s.aOp b) n.toNat)

/-- RPOP (R392). -/
def execRpop (n : BitVec 4) (s : State) : Host.Outcome State Fault Refusal := finish s (rpop s n.toNat)

/-- A command of the core that advances watermark register `n` (R121, R443). -/
def Cmd.advances (k : Cmd) (n : Nat) : Bool :=
  (k.kind = .copy || k.kind = .cslice || k.kind = .stream) && bit (nth k.ccb 7) 17 && bits (nth k.ccb 7) 20 18 = n

/-- WMARK (R443): a command of another core that targets this core by multicast advances the register too, and is waited for only
if it is one of this core's own contexts. -/
def execWmark (l h : BitVec 6) (n : BitVec 4) (s : State) : Host.Outcome State Fault Refusal :=
  finish s (
    let lo := bits (s.sOp l) 55 0
    let hi := bits (s.sOp h) 55 0
    if hi < lo then .trap cILLOP 0 0
    else if s.cmds.any (fun k => k.core = s.focus.core && k.advances n.toNat) then .wait
    else .done (s.modFCore (fun k => { k with wm := k.wm.set n.toNat { lo := lo, hi := hi, mark := lo, got := [], task := s.fctx.task } })))

/-! ## Atomics (R304) -/

/-- Bytes of an atomic's word. -/
def atomBytes (z : BitVec 1) : Nat := if z = 1 then 8 else 4

def execAadd (d v : BitVec 6) (b : BitVec 4) (z : BitVec 1) (s : State) : Host.Outcome State Fault Refusal :=
  finish s (atomic s (.aadd d v b z) .add 0 (s.aOp b) (atomBytes z) (s.sOp v) 0 (sreg d))
def execAfadd (d v : BitVec 6) (b : BitVec 4) (s : State) : Host.Outcome State Fault Refusal :=
  finish s (atomic s (.afadd d v b) .fadd 0 (s.aOp b) 4 (s.sOp v) 0 (sreg d))
def execAmin (d v : BitVec 6) (b : BitVec 4) (z : BitVec 1) (o : BitVec 3) (s : State) : Host.Outcome State Fault Refusal :=
  finish s (atomic s (.amin d v b z o) .min o.toNat (s.aOp b) (atomBytes z) (s.sOp v) 0 (sreg d))
def execAmax (d v : BitVec 6) (b : BitVec 4) (z : BitVec 1) (o : BitVec 3) (s : State) : Host.Outcome State Fault Refusal :=
  finish s (atomic s (.amax d v b z o) .max o.toNat (s.aOp b) (atomBytes z) (s.sOp v) 0 (sreg d))
def execAlogic (d v : BitVec 6) (b : BitVec 4) (z : BitVec 1) (o : BitVec 3) (s : State) : Host.Outcome State Fault Refusal :=
  finish s (atomic s (.alogic d v b z o) .logic o.toNat (s.aOp b) (atomBytes z) (s.sOp v) 0 (sreg d))
def execAswp (d v : BitVec 6) (b : BitVec 4) (z : BitVec 1) (s : State) : Host.Outcome State Fault Refusal :=
  finish s (atomic s (.aswp d v b z) .swap 0 (s.aOp b) (atomBytes z) (s.sOp v) 0 (sreg d))
def execAcas (d v : BitVec 6) (b : BitVec 4) (c : BitVec 6) (z : BitVec 1) (s : State) : Host.Outcome State Fault Refusal :=
  finish s (atomic s (.acas d v b c z) .cas 0 (s.aOp b) (atomBytes z) (s.sOp v) (s.sOp c) (sreg d))

/-! ## TAGSET and XINV -/

/-- TAGSET (R418). -/
def execTagset (n : BitVec 6) (b : BitVec 4) (k : BitVec 6) (s : State) : Host.Outcome State Fault Refusal :=
  finish s (tagset s (.tagset n b k) (s.aOp b) (s.sOp n).toNat (s.sOp k))

/-- XINV all (R445). -/
def execXinvAll (s : State) : Host.Outcome State Fault Refusal := finish s (.done (s.modF (fun t => { t with tlb := [] })))

/-- XINV sV (R445): the page that holds the address. -/
def execXinvVa (v : BitVec 6) (s : State) : Host.Outcome State Fault Refusal :=
  finish s (
    let va := bits (s.sOp v) 55 0
    .done (s.modF (fun t => { t with tlb := t.tlb.filter (fun h => !(decide (h.va ≤ va) && decide (va < h.va + h.size))) })))

/-! ## Outstanding accesses -/

/-- The parts of outstanding access `o` of core `c` that part number `j` names move, every part where it is their count; nothing happens where
nothing can move. -/
def moveOf (s : State) (c : Nat) (o : Out) (j : Nat) : Host.Outcome State Fault Refusal :=
  let can (i : Nat) : Bool :=
    match o.parts[i]? with
    | some p => s.canMove c o i p
    | none => false
  if j < o.parts.length then (if can j then happened (s.movePart c o.id j) else notNow s)
  else if (List.range o.parts.length).any can then happened (s.moveParts c o j) else notNow s

/-- LOAD_VALUE_RETURN (R64, R178, R179, R304): part `a.2` of a translated load reads, and the load returns with its last part; or the old value
of an atomic returns. -/
def execLoadValueReturn (c : Nat) (a : Nat × Nat) (s : State) : Host.Outcome State Fault Refusal :=
  if numCores ≤ c then .fault .noSuchUnit
  else
    match s.out c a.1 with
    | none => notNow s
    | some o =>
      match o.kind with
      | .value => happened (s.returnValue c o)
      | .load => moveOf s c o a.2
      | _ => notNow s

/-- STORE_PERFORM (R175, R177, R179, R194, R233): part `a.2` of a store moves one buffer on or performs at its home, of a lock write or a log
write performs; an atomic performs at its home. -/
def execStorePerform (c : Nat) (a : Nat × Nat) (s : State) : Host.Outcome State Fault Refusal :=
  if numCores ≤ c then .fault .noSuchUnit
  else
    match s.out c a.1 with
    | none => notNow s
    | some o =>
      match o.kind with
      | .load => notNow s
      | .value => notNow s
      | _ => moveOf s c o a.2

/-- The oldest outstanding access of a context that meets a deferred fault where it may perform (R212): code, FINFO's fields, pointer. -/
def State.deferred (s : State) (c x : Nat) : Option (Out × Nat × Nat × Word) :=
  (s.core c).outs.foldl (fun r o =>
    match r with
    | some _ => r
    | none => if o.ctx = x then (s.outFault c o).map (fun e => (o, e)) else none) none

/-- The fault of access `o` is not taken now: its context is stopped, or the access is from before the handler it runs (R214). -/
def Ctx.leaves (t : Ctx) (o : Out) : Bool :=
  t.stopped ||
  (match t.handler with
   | some h => decide (o.op.seq < h.seq)
   | none => false)

/-- DEFERRED_FAULT (R212): the access is undone and stands in the window; the context takes the fault, unless it leaves it to the access's
replay. -/
def execDeferredFault (c x : Nat) (s : State) : Host.Outcome State Fault Refusal :=
  if numCores ≤ c || numCtxs ≤ x then .fault .noSuchUnit
  else
    match s.deferred c x with
    | none => notNow s
    | some (o, code, info, ptr) =>
      let s' := s.undoOut c o
      if (s.ctx c x).leaves o then happened s'
      else happened (s'.takeFault c x o.op.slot o.op.seq o.op.addr code ptr info true 0 false)

end Sys2Proof.Machine
end

