-- ==== Sys2Proof/Machine/Engine.lean ====
section
/-! DEFINITION. What engine commands share: acceptance at issue, the control block, tokens, barrier credits, watermarks, ring landing
and completion (R61, R62, R106, R107, R114, R115, R121, R123, R124, R312, R329). -/

namespace Sys2Proof.Machine

/-! ## The control block -/

/-- Fields of word 7 (R108). -/
def ccBaroff (ccb : List Word) : Nat := bits (nth ccb 7) 37 22
def ccWmreg (ccb : List Word) : Nat := bits (nth ccb 7) 20 18
def ccWmen (ccb : List Word) : Bool := bit (nth ccb 7) 17
def ccBaren (ccb : List Word) : Bool := bit (nth ccb 7) 16
def ccMcast (ccb : List Word) : Nat := bits (nth ccb 7) 15 0
/-- Word 7's reserved fields, and the limits of R328 on BAROFF and WMREG. -/
def word7Bad (ccb : List Word) : Bool :=
  bits (nth ccb 7) 63 38 ≠ 0 || bit (nth ccb 7) 21 || (!(ccBaren ccb) && ccBaroff ccb ≠ 0) || (!(ccWmen ccb) && ccWmreg ccb ≠ 0)

/-- The cores that a command of core `c` targets (R114). -/
def targetCores (c mcast : Nat) : List Nat :=
  if mcast = 0 then [c] else ((List.range 16).filter (fun i => mcast.testBit i)).map (fun i => 16 * settOf c + i)
/-- Their pairs, each once (R114). -/
def targetPairs (c mcast : Nat) : List Nat :=
  (targetCores c mcast).foldl (fun l k => if l.contains (pairOf k) then l else l ++ [pairOf k]) []

/-! ## Acceptance (R61, R64, R107, R329) -/

/-- The command that the focus would issue, with the context's translation as it stands (R62, R329). -/
def State.newCmd (s : State) (kind : CmdKind) (pt : BitVec 5) (ds : List (BitVec 5)) (ccb : List Word) : Cmd :=
  let t := s.fctx
  { id := s.nextCmd, kind := kind, core := s.focus.core, ctx := s.focus.ctx, task := t.task, seq := s.focus.seq, tok := pt.toNat,
    deps := (ds.filter (fun d => d ≠ 0 && d ≠ pt && bit t.tokens d.toNat)).map (fun d => (d.toNat, t.gens.get d.toNat 0)),
    ccb := ccb, aux := [], row := 0, read := false, landed := 0, buf := [], slots := [], error := none, ranges := t.ranges,
    ptbase := t.csr.ptbase, tlb := t.tlb, refS := 0, refD := 0, lands := [], bad := [], credits := [], inp := [], src := none, landing := [], early := [] }

/-- A command accepted: its token is incomplete, cp counts it; `put` gives it to its engine. -/
def State.accept (s : State) (k : Cmd) (put : State → Cmd → State) : State :=
  let s := { s with nextCmd := s.nextCmd + 1 }
  let s := s.modF (fun t =>
    let t := { t with cp := t.cp + 1 }
    if k.tok = 0 then t
    else { t with tokens := t.tokens ||| (1#32 <<< k.tok), gens := t.gens.set k.tok (t.gens.get k.tok 0 + 1) })
  put s k

/-- An engine command of the focus: stalls, the control block's pointer, its capture at the home (R190); `k` makes the further checks. -/
def engineOp (s : State) (kind : CmdKind) (pt da db dc : BitVec 5) (r : BitVec 6) (k : Cmd → Res) : Res :=
  let t := s.fctx
  if (pt ≠ 0 && bit t.tokens pt.toNat) || decide (255 ≤ t.cp) then .wait
  else
    let p := s.opnd (areg r.toNat)
    match apFault p 64 with
    | some e => .trap e p 0
    | none =>
      let a := apAddr s.focus.core (apOff p)
      if s.poisonNow a 64 then .trap cPOISON p 0
      else (k (s.newCmd kind pt [da, db, dc] (s.wordsNow a 8))).bind (fun s' => .done (s'.correct a 64))

/-- R107 item 1 for a pointer that a block names as memory: format, then the aperture. -/
def ptrFault (p : Word) : Option Nat := if badFormat p then some cALIGN else if isAp p && apBad p then some cAPERTURE else none

/-! ## Engines -/

/-- The first command of a queue whose dependency tokens are complete, and the queue without it. -/
def takeReady (s : State) (q : List Cmd) : Option (Cmd × List Cmd) :=
  match q.find? (fun k => s.depsMet k) with
  | none => none
  | some k => some (k, q.filter (fun j => j.id ≠ k.id))

def Engine.put (g : Engine) (k : Cmd) : Engine := { g with queue := g.queue ++ [k] }

/-- The issuing context's translation for a command (R329). -/
def Cmd.view (k : Cmd) : Ctx :=
  { Ctx.reset with ranges := k.ranges, csr := { Csr.reset with ptbase := k.ptbase }, tlb := k.tlb, keepTlb := false }

/-! ## Credits, watermarks, completion -/

/-- A credit to every barrier of a command (R114, R115, R330). -/
def State.creditCmd (s : State) (k : Cmd) (unit n code flags stop : Nat) : State :=
  if ccBaren k.ccb then
    (targetPairs k.core (ccMcast k.ccb)).foldl (fun s q => s.credit q (ccBaroff k.ccb) n unit code flags stop) s
  else s

/-- The pre-emption of the command's task, once its save has completed. -/
def State.savedTask (s : State) (k : Cmd) : Option BoundTask :=
  match s.task k.task with
  | none => none
  | some b =>
    match b.pre with
    | some p => if p.stage = .saved then some b else none
    | none => none

/-- Something held by Marten until the gang is restored (R218). -/
def State.holdBack (s : State) (k : Cmd) (e : List Nat) : State :=
  s.modTask k.task (fun b => { b with pre := b.pre.map (fun p => { p with held := p.held ++ [e] }) })

/-- A credit of a network command to the barrier in its issuer's pair store; held while the barrier is saved (R218). -/
def State.creditNet (s : State) (k : Cmd) (unit n code flags stop : Nat) : State :=
  if ccBaren k.ccb then
    if (s.savedTask k).isSome then s.holdBack k [pairOf k.core, ccBaroff k.ccb, n, unit, code, flags, stop]
    else s.credit (pairOf k.core) (ccBaroff k.ccb) n unit code flags stop
  else s

/-- The command is complete: its token, and cp (R61, R64, R115). -/
def State.completeCmd (s : State) (k : Cmd) : State :=
  s.endToken k.core k.ctx k.tok

/-- MARK moved over the landed runs that it meets. -/
def wmAbsorb (fuel : Nat) (w : WMark) : WMark :=
  match fuel with
  | 0 => w
  | f + 1 =>
    match w.got.find? (fun r => decide (r.1 ≤ w.mark) && decide (w.mark < r.2)) with
    | none => w
    | some r => wmAbsorb f { w with mark := min r.2 w.hi, got := w.got.filter (fun q => q ≠ r) }

/-- Bytes [a, b) landed under a watermark register (R121). -/
def WMark.land (w : WMark) (a b : Nat) : WMark :=
  let lo := max a w.lo
  let hi := min b w.hi
  if lo < hi then wmAbsorb (w.got.length + 1) { w with got := (lo, hi) :: w.got } else w

/-- The watermark registers of a command's targets changed (R121). -/
def State.modWm (s : State) (k : Cmd) (f : WMark → WMark) : State :=
  if ccWmen k.ccb then
    (targetCores k.core (ccMcast k.ccb)).foldl (fun s c => s.modCore c (fun q => { q with
      wm := q.wm.set (ccWmreg k.ccb) (f (q.wm.get (ccWmreg k.ccb) WMark.reset)) })) s
  else s

/-- MARK := HI when the token completes (R121). -/
def State.endWm (s : State) (k : Cmd) : State := s.modWm k (fun w => { w with mark := w.hi, got := [] })

/-! ## Landing in rings (R123, R124) -/

/-- What an attempt to land comes to: slots landed; a permit is missing; nothing to land; a slot lies in a retired layer (R226). -/
inductive LandRes where
  | landed (s : State) (k : Cmd)
  | blocked
  | idle
  | lost

/-- An instance that a command lands in, with the place in the stream of its next slot. -/
abbrev Target := RingInst × Nat

/-- The end in the stream of the target's next slot, `hi` being the end of the bytes that there are. -/
def slotEnd (q : Target) (hi : Nat) : Nat := min (q.2 + q.1.size) hi

/-- The bytes up to `e` of the stream that have not landed in the target enter its next slot alone, and it has the permit (R123). -/
def grants (q : Target) (e : Nat) : Bool := decide (e ≤ q.2) || (decide (e ≤ q.2 + q.1.size) && q.1.permit)

/-- The instances that a command lands in, as they stand. -/
def Cmd.targets (s : State) (k : Cmd) : List (Option Target) :=
  (k.slots.zip k.lands).map (fun q => (s.inst q.1.1 q.1.2).map (fun i => (i, q.2)))

/-- The targets whose next slot the stream bytes below `hi` fill; `final` pads the last slot. -/
def Cmd.dueSlots (s : State) (k : Cmd) (hi : Nat) (final : Bool) : List Target :=
  ((k.targets s).filterMap (fun q => q)).filter (fun q => decide (q.2 < hi) && (final || decide (q.2 + q.1.size ≤ hi)))

/-- The words of the target's next slot. -/
def Target.words (q : Target) : List Nat := (List.range (q.1.size / 8)).map (fun j => q.1.slotAddr q.1.tail / 8 + j)

/-- Another command has begun to write the target's next slot, which is its own until it has written it whole (notes/assumptions/66.md). -/
def State.slotTaken (s : State) (k : Cmd) (q : Target) : Bool :=
  s.cmds.any (fun j => j.id ≠ k.id && !j.early.isEmpty && j.slots.contains (q.1.sett, q.1.base) && q.words.any j.early.contains)

/-- The target's next slot can land: every instance grants the permit of each slot that its bytes enter (R123). -/
def Cmd.canLand (s : State) (k : Cmd) (hi : Nat) (q : Target) : Bool :=
  q.1.permit && !(s.slotTaken k q) && ((k.targets s).filterMap (fun q => q)).all (fun r => grants r (slotEnd q hi))

/-- The bytes of the target's next slot, and its poisoned bytes, by their place in it. -/
def Cmd.slotBytes (k : Cmd) (q : Target) : List Byte := (k.buf.drop q.2).take q.1.size
def Cmd.slotBad (k : Cmd) (q : Target) : List Nat :=
  (k.bad.filter (fun o => decide (q.2 ≤ o) && decide (o < q.2 + q.1.size))).map (fun o => o - q.2)

/-- One round of landing the stream bytes below `hi` of a command: the slots that can land do, whole. -/
def landRound (s : State) (k : Cmd) (hi : Nat) (final : Bool) : LandRes :=
  let due := k.dueSlots s hi final
  if due.isEmpty then .idle
  else if !(due.any (k.canLand s hi)) then .blocked
  else if due.any (fun q => k.canLand s hi q && s.lostAt (q.1.slotAddr q.1.tail)) then .lost
  else
    let go (a : State × List Nat) (q : Option Target × Nat) : State × List Nat :=
      match q.1 with
      | none => (a.1, a.2 ++ [max q.2 hi])
      | some t =>
        if due.contains t && k.canLand s hi t then (a.1.landSlot t.1 (k.slotBytes t) (k.slotBad t) k.early, a.2 ++ [t.2 + t.1.size])
        else (a.1, a.2 ++ [t.2])
    let r := ((k.targets s).zip k.lands).foldl go (s, [])
    .landed r.1 { k with lands := r.2, early := [] }

/-- The aligned 8-byte words of slots that can land, but for those that have landed already: their bytes, and whether they carry poison
(R189, R224). -/
def Cmd.earlyWords (s : State) (k : Cmd) (hi : Nat) (final : Bool) : List (Piece × Bool) :=
  ((k.dueSlots s hi final).filter (fun q => k.canLand s hi q && !(s.lostAt (q.1.slotAddr q.1.tail)))).flatMap (fun q =>
    (q.words.zipIdx.filter (fun w => !(k.early.contains w.1))).map (fun w =>
      ({ pa := 8 * w.1, len := 8, off := 0, val := natOfBytes (((k.slotBytes q).drop (8 * w.2)).take 8) },
       (k.slotBad q).any (fun o => o / 8 = w.2))))

/-- One part of a row or slot at its home: its bytes, and the poison that they carry (R224). -/
def State.landPart (s : State) (p : Piece × Bool) : State :=
  let s := s.writeMem p.1.pa p.1.len p.1.val
  if p.2 then s.markPoison (p.1.pa / 8) else s

/-- Word `i` of the slots that can land lands before the rest of its slot (R189). -/
def landEarly (s : State) (k : Cmd) (hi : Nat) (final : Bool) (i : Nat) : Option (State × Cmd) :=
  ((k.earlyWords s hi final)[i]?).map (fun p => (s.landPart p, { k with early := p.1.pa / 8 :: k.early }))

/-- A command whose next slot lies in a retired layer stops at the first row or block that has not landed (R209, R226, R227). -/
def Cmd.lost (k : Cmd) : Cmd :=
  let ix := match k.credits with
    | c :: _ => c.getD 4 0
    | [] => k.row
  { k with error := some (cLAYERLOST, flagOf cLAYERLOST, ix), credits := [], buf := [], lands := k.lands.map (fun _ => 0), early := [], read := true }

/-- Credits of rows whose stream bytes have landed in every instance: (end of the row's bytes, bytes, code, flags, row). -/
def payCredits (unit : Nat) (cs : List (List Nat)) (s : State) (k : Cmd) : State × Cmd :=
  match cs with
  | [] => (s, { k with credits := [] })
  | c :: r =>
    let low := k.lands.foldl min (k.lands.headD 0)
    if c.getD 0 0 ≤ low then
      payCredits unit r (s.creditCmd k unit (c.getD 1 0) (c.getD 2 0) (c.getD 3 0) (c.getD 4 0))
        { k with landed := k.landed + c.getD 1 0 }
    else (s, { k with credits := c :: r })

end Sys2Proof.Machine
end

