-- ==== Sys2Proof/Machine/Copy.lean ====
section
/-! DEFINITION. COPY and CSLICE, and the events of the copy engines and tile walkers that run them (R97, R107 to R116, R218, R224,
R226, R328 to R333). -/

namespace Sys2Proof.Machine

/-! ## The control block (R108) -/

def cpSesz (b : List Word) : Nat := 2 ^ bits (nth b 6) 1 0
def cpSrch (b : List Word) : Bool := bit (nth b 6) 2
def cpDsth (b : List Word) : Bool := bit (nth b 6) 3
def cpDkind (b : List Word) : Nat := bits (nth b 6) 5 4
def cpXpose (b : List Word) : Nat := bits (nth b 6) 7 6
def cpCvt (b : List Word) : Nat := bits (nth b 6) 11 8
def cpSat (b : List Word) : Bool := bit (nth b 6) 12
def cpZfill (b : List Word) : Bool := bit (nth b 6) 13
def cpScale (b : List Word) : Nat := bits (nth b 6) 63 32
def cpE (b : List Word) (n : Nat) : Nat := bits (nth b 2) (16 * n + 15) (16 * n)
/-- A signed 32-bit field. -/
def sfield (w : Word) (hi lo : Nat) : Int := (BitVec.ofNat 32 (bits w hi lo)).toInt

/-- Source and target format of a conversion code (R110); none for 0 and the reserved codes. -/
def cvtFormats (c : Nat) : Option (Fmt × Fmt) :=
  match c with
  | 1 => some (.bf16, .e4m3)
  | 2 => some (.bf16, .e5m2)
  | 3 => some (.f32, .bf16)
  | 4 => some (.f32, .e4m3)
  | 5 => some (.f32, .e5m2)
  | 6 => some (.f16, .e4m3)
  | 7 => some (.f16, .e5m2)
  | 8 => some (.f32, .f16)
  | _ => none

/-- DESZ (R109). -/
def cpDesz (b : List Word) : Nat :=
  match cvtFormats (cpCvt b) with
  | some f => f.2.bytes
  | none => cpSesz b

/-- A conversion of one element (R110, R148): the exact product, rounded once; a source NaN keeps its sign (notes/assumptions/21.md). -/
def convertEl (cvt : Nat) (sat : Bool) (scale x : Nat) : Nat :=
  match cvtFormats cvt with
  | none => x
  | some (f, g) =>
    let a := decodeF f x
    (convertVal g sat (if a.isNan then a else (mulV a (v32 scale)).1)).bits

/-! ## Sides (R109, R111) -/

/-- One side of a copy: memory through a pointer, a handle, or the byte stream of a ring or message. `steps`, `coord` and `ext` are
by dimension; with `swap`, dimensions 0 and 1 take i1 and i0. -/
inductive SideKind where
  | mem | handle | stream
  deriving DecidableEq, Repr

structure Side where
  kind : SideKind
  ap : Bool
  base : Nat
  key : BitVec 4
  steps : List Int
  esz : Nat
  entry : Nat
  coord : List Int
  ext : List Nat
  swap : Bool
  deriving DecidableEq, Repr

/-- The index list by dimension. -/
def Side.perm {α : Type} (d : Side) (is : List α) : List α :=
  match is with
  | a :: b :: r => if d.swap then b :: a :: r else is
  | _ => is

/-- The address of an element (i0, i1, i2, i3); none outside a handle. -/
def Side.addr (d : Side) (is : List Nat) : Option Int :=
  let go (acc : Option Int) (q : (Nat × Int) × (Int × Nat)) : Option Int :=
    match acc with
    | none => none
    | some v =>
      let x : Int := (q.1.1 : Int) + q.2.1
      if d.kind = .handle && (decide (x < 0) || decide ((q.2.2 : Int) ≤ x)) then none else some (v + x * q.1.2)
  (((d.perm is).zip d.steps).zip (d.coord.zip d.ext)).foldl go (some (d.base : Int))

/-- The span of first-byte addresses, and with `esz` the hull, of the elements of a box of indices (R112); none when no element is
inside. -/
def Side.hull (d : Side) (box : List (Nat × Nat)) : Option (Int × Int) :=
  let go (acc : Option (Int × Int)) (q : ((Nat × Nat) × Int) × (Int × Nat)) : Option (Int × Int) :=
    match acc with
    | none => none
    | some (lo, hi) =>
      let a0 : Int := (q.1.1.1 : Int) + q.2.1
      let b0 : Int := (q.1.1.2 : Int) + q.2.1
      let a := if d.kind = .handle then max a0 0 else a0
      let b := if d.kind = .handle then min b0 ((q.2.2 : Int) - 1) else b0
      if b < a then none
      else some (lo + min (a * q.1.2) (b * q.1.2), hi + max (a * q.1.2) (b * q.1.2))
  ((((d.perm box).zip d.steps).zip (d.coord.zip d.ext)).foldl go (some ((d.base : Int), (d.base : Int)))).map
    (fun h => (h.1, h.2 + d.esz - 1))

/-- The indices of a box that lie inside a handle, in index order; the whole box for another side. -/
def Side.inside (d : Side) (box : List (Nat × Nat)) : List (Nat × Nat) :=
  if d.kind = .handle then
    (box.zip (d.coord.zip d.ext)).map (fun q =>
      let a : Int := max ((q.1.1 : Int)) (- q.2.1)
      let b : Int := min (q.1.2 : Int) ((q.2.2 : Int) - 1 - q.2.1)
      (a.toNat, if b < a then a.toNat else b.toNat))
  else box

def noCoord : List Int := [0, 0, 0, 0]
def noExt : List Nat := [0, 0, 0, 0]

/-- A side through a pointer. -/
def memSide (p : Word) (steps : List Int) (esz : Nat) (swap : Bool) : Side :=
  { kind := .mem, ap := isAp p, base := vaOf p % (if isAp p then 2 ^ 22 else 2 ^ 56), key := keyOf p, steps := steps, esz := esz,
    entry := 0, coord := noCoord, ext := noExt, swap := swap }

/-- A side through handle entry `e` of a context (R97); its pointer has no key, so that key 0 checks its granules
(notes/assumptions/22.md). -/
def handleSide (t : Ctx) (e : Nat) (coord : List Int) (esz : Nat) (swap : Bool) : Side :=
  { kind := .handle, ap := false, base := bits (t.rng e 0) 55 0, key := 0,
    steps := [(2 ^ bits (t.rng e 3) 11 10 : Nat), bits (t.rng e 6) 31 0, bits (t.rng e 6) 63 32, bits (t.rng e 7) 31 0], esz := esz,
    entry := e, coord := coord,
    ext := [bits (t.rng e 4) 31 0, bits (t.rng e 4) 63 32, bits (t.rng e 5) 31 0, bits (t.rng e 5) 63 32], swap := swap }

/-- The strides of R109. -/
def srcSteps (b : List Word) : List Int :=
  [(cpSesz b : Int), sfield (nth b 3) 31 0, sfield (nth b 3) 63 32, sfield (nth b 4) 31 0]
def dstSteps (b : List Word) : List Int :=
  [(cpDesz b : Int), sfield (nth b 4) 63 32, sfield (nth b 5) 31 0, sfield (nth b 5) 63 32]
/-- The steps of a message: elements in element order (R130). -/
def msgSteps (b : List Word) : List Int :=
  let z := cpDesz b
  [(z : Int), (z * cpE b 0 : Nat), (z * cpE b 0 * cpE b 1 : Nat), (z * cpE b 0 * cpE b 1 * cpE b 2 : Nat)]

def Cmd.srcSide (k : Cmd) : Side :=
  let b := k.ccb
  if cpSrch b then
    handleSide k.view (bits (nth b 4) 4 0)
      [sfield (nth b 0) 31 0, sfield (nth b 0) 63 32, sfield (nth b 3) 31 0, sfield (nth b 3) 63 32] (cpSesz b) false
  else memSide (nth b 0) (srcSteps b) (cpSesz b) false

def Cmd.dstSide (k : Cmd) : Side :=
  let b := k.ccb
  let sw := cpXpose b ≠ 0
  if cpDkind b ≠ 0 then
    { kind := .stream, ap := false, base := 0, key := 0, steps := if cpDkind b = 2 then msgSteps b else dstSteps b, esz := cpDesz b,
      entry := 0, coord := noCoord, ext := noExt, swap := sw && cpDkind b ≠ 2 }
  else if cpDsth b then
    handleSide k.view (bits (nth b 4) 36 32)
      [sfield (nth b 1) 31 0, sfield (nth b 1) 63 32, sfield (nth b 5) 31 0, sfield (nth b 5) 63 32] (cpDesz b) sw
  else memSide (nth b 1) (dstSteps b) (cpDesz b) sw

/-! ## Rows (R109, R116) -/

/-- The i1 range of a command: [lo, hi), the slice of the issuer's rank for CSLICE (R116). -/
def Cmd.slice (k : Cmd) : Nat × Nat :=
  let e1 := cpE k.ccb 1
  if k.kind = .cslice then
    let m := ccMcast k.ccb
    let members := (List.range 16).filter (fun i => m.testBit i)
    let n := members.length
    let r := (members.filter (fun i => decide (i < settIdx k.core))).length
    if n = 0 then (0, e1) else (r * (e1 / n), (r + 1) * (e1 / n))
  else (0, e1)

/-- The number of rows. -/
def Cmd.rows (k : Cmd) : Nat :=
  if cpE k.ccb 0 = 0 then 0 else (k.slice.2 - k.slice.1) * cpE k.ccb 2 * cpE k.ccb 3

/-- (i1, i2, i3) of the n-th row that the command visits. -/
def Cmd.rowAt (k : Cmd) (n : Nat) : Nat × Nat × Nat :=
  let w := k.slice.2 - k.slice.1
  (k.slice.1 + n % w, n / w % cpE k.ccb 2, n / w / cpE k.ccb 2)

/-- The row's index (R109). -/
def Cmd.rowIndex (k : Cmd) (n : Nat) : Nat :=
  let r := k.rowAt n
  r.1 + cpE k.ccb 1 * (r.2.1 + cpE k.ccb 2 * r.2.2)

/-- The indices that the command visits, as a box. -/
def Cmd.box (k : Cmd) : List (Nat × Nat) :=
  [(0, cpE k.ccb 0 - 1), (k.slice.1, k.slice.2 - 1), (0, cpE k.ccb 2 - 1), (0, cpE k.ccb 3 - 1)]

/-- Bytes that the command credits (R111): every element counts. -/
def Cmd.total (k : Cmd) : Nat := k.rows * cpE k.ccb 0 * cpDesz k.ccb

/-- The lowest stream offset that rows after the n-th reach, if any. -/
def Cmd.lowAfter (k : Cmd) (n : Nat) : Option Nat :=
  let d := k.dstSide
  let e (i : Nat) : Nat := cpE k.ccb i
  let (a, b, c) := k.rowAt n
  let boxes : List (List (Nat × Nat)) :=
    (if a + 1 < k.slice.2 then [[(0, e 0 - 1), (a + 1, k.slice.2 - 1), (b, b), (c, c)]] else []) ++
    (if b + 1 < e 2 then [[(0, e 0 - 1), (k.slice.1, k.slice.2 - 1), (b + 1, e 2 - 1), (c, c)]] else []) ++
    (if c + 1 < e 3 then [[(0, e 0 - 1), (k.slice.1, k.slice.2 - 1), (0, e 2 - 1), (c + 1, e 3 - 1)]] else [])
  let lows := boxes.filterMap (fun x => (d.hull x).map (fun h => h.1.toNat))
  match lows with
  | [] => none
  | x :: r => some (r.foldl min x)

/-! ## Translation of a side (R97, R105, R112) -/

/-- The attributes that must agree over a side (R112), 0 for none: two layers may differ in LEVEL. -/
def Xl.copyAttrs (x : Xl) : Nat :=
  1 + bnat x.ecc + 2 * bnat x.disc + 4 * bnat x.tchk + 8 * bnat x.pin + 16 * bnat (decide (1 ≤ x.level) && decide (x.level ≤ 4))

/-- The parts of bytes [va, va + n) of a side that is no aperture. -/
def Side.parts (s : State) (t : Ctx) (d : Side) (va : Int) (n : Nat) : List Part :=
  if va < 0 then [{ va := 0, len := n, xl := none }]
  else
    let a := va.toNat
    if d.kind = .handle then
      if bits (t.rng d.entry 0) 55 0 ≤ a ∧ a + n ≤ bits (t.rng d.entry 1) 55 0 then
        [{ va := a, len := n, xl := some (t.viaRange d.entry a) }]
      else [{ va := a, len := n, xl := none }]
    else Ctx.cut s t (n / 4096 + 80) a (a + n)

/-- The translation of one byte of a side, its level checked (R96). -/
def Side.byteAt (s : State) (t : Ctx) (d : Side) (va : Int) : Option Xl :=
  match d.parts s t va 1 with
  | p :: _ =>
    match p.xl with
    | some x => if s.inLevel x.pa 1 x.level then some x else none
    | none => none
  | [] => none

/-- The granules of a side with these attributes are checked (R102). -/
def tagged (ref : Nat) : Bool := (ref - 1).testBit 2

/-- The locks of the granules of a part, checked when it performs: TAGKEY (R102, R103). -/
def State.locked (s : State) (ref : Nat) (key : BitVec 4) (pa n : Nat) : Bool := tagged ref && (s.lockMiss pa n key).isSome

/-- What a row's bytes on one side come to: pieces (offset in the row's buffer, physical address, length), or a fault code; locks are checked
part by part. `vas` are (offset, first va, length). The reference attributes are those of the first byte, once known. An agent that reaches no
layer meets APERTURE in one (R94). -/
def Side.find (s : State) (t : Ctx) (d : Side) (wr layers : Bool) (ref : Nat) (vas : List (Nat × Int × Nat)) :
    Except Nat (List (Nat × Nat × Nat) × Nat) :=
  let ps : List (Nat × Part) := vas.flatMap (fun v =>
    (d.parts s t v.2.1 v.2.2).map (fun p => (v.1 + (p.va - v.2.1.toNat), p)))
  let xs : List (Nat × Part × Xl) := ps.filterMap (fun q => q.2.xl.map (fun x => (q.1, q.2, x)))
  let ref' := if ref ≠ 0 then ref else
    match xs with
    | q :: _ => q.2.2.copyAttrs
    | [] => 0
  if xs.length ≠ ps.length || xs.any (fun q => !(s.inLevel q.2.2.pa q.2.1.len q.2.2.level)) then .error cXLATE
  else if xs.any (fun q => !(q.2.2.permits s (if wr then .wr else .rd))) then .error cPERM
  else if !layers && xs.any (fun q => q.2.2.level ≠ 0 && q.2.2.level ≠ 5) then .error cAPERTURE
  else if xs.any (fun q => q.2.2.copyAttrs ≠ ref') then .error cATTRSPAN
  else if xs.any (fun q => s.lostAt q.2.2.pa) then .error cLAYERLOST
  else .ok (xs.map (fun q => (q.1, q.2.2.pa, q.2.1.len)), ref')

/-- The same with the locks of every granule checked now (R102). -/
def Side.check (s : State) (t : Ctx) (d : Side) (wr layers : Bool) (ref : Nat) (vas : List (Nat × Int × Nat)) :
    Except Nat (List (Nat × Nat × Nat) × Nat) :=
  match d.find s t wr layers ref vas with
  | .error e => .error e
  | .ok (ps, r) => if ps.any (fun p => s.locked r d.key p.2.1 p.2.2) then .error cTAGKEY else .ok (ps, r)

/-- Neighbouring elements joined into runs: (offset, va, length). -/
def joinRuns (es : List (Nat × Int × Nat)) : List (Nat × Int × Nat) :=
  es.foldr (fun e acc =>
    match acc with
    | q :: r => if q.1 = e.1 + e.2.2 && q.2.1 = e.2.1 + e.2.2 then (e.1, e.2.1, e.2.2 + q.2.2) :: r else e :: acc
    | [] => [e]) []

/-! ## Issue (R107, R112, R113, R328, R332) -/

/-- R107 item 1 for one side: its pointer, and its hull in the aperture. -/
def sidePtr (p : Word) (h : Option (Int × Int)) : Option Nat :=
  match ptrFault p with
  | some e => some e
  | none =>
    match h with
    | some (lo, hi) => if isAp p && (decide (lo < 0) || decide ((pairSize : Int) ≤ hi)) then some cAPERTURE else none
    | none => none

/-- R107 item 2 for COPY and CSLICE (R109, R110, R114, R116, R130, R328, R332). -/
def copyIllegal (s : State) (k : Cmd) : Bool :=
  let b := k.ccb
  let m := ccMcast b
  let n := (targetCores k.core m).length
  let queue := 16 * towerOf k.core + bits (nth b 1) 3 0
  bits (nth b 6) 31 14 ≠ 0 || word7Bad b || decide (8 < cpCvt b) || cpXpose b = 3 || cpDkind b = 3 ||
  (cpDkind b ≠ 0 && (bits (nth b 1) 63 4 ≠ 0 || cpDsth b || ccWmen b)) ||
  (cpDkind b = 2 && (m ≠ 0 || bits (s.sendq queue).word1 1 0 = 0)) ||
  (match cvtFormats (cpCvt b) with
   | some f => f.1.bytes ≠ cpSesz b
   | none => false) ||
  (cpXpose b ≠ 0 && cpDesz b ≠ cpXpose b) ||
  (m ≠ 0 && !(cpDkind b = 1 || (!(cpDsth b) && isAp (nth b 1)))) ||
  (cpDkind b = 1 && (match (if k.rows = 0 then none else k.dstSide.hull k.box) with
    | some h => decide (h.1 < 0)
    | none => false)) ||
  (k.kind = .cslice &&
    (cpDkind b ≠ 0 || cpDsth b || m = 0 || decide (n < 2) || !(m.testBit (settIdx k.core)) || cpE b 1 % n ≠ 0))

/-- The hull of a side; none when no byte is touched. -/
def Cmd.hulls (k : Cmd) : Option (Int × Int) × Option (Int × Int) :=
  if k.rows = 0 then (none, none)
  else
    let d := k.dstSide
    let box := if cpZfill k.ccb then k.box else k.srcSide.inside k.box
    (k.srcSide.hull k.box, if d.kind = .stream then none else if (k.srcSide.hull k.box).isNone && !(cpZfill k.ccb) then none
      else d.hull box)

/-- What the endpoints of a side give: translations of the first and the last byte. -/
def Side.ends (s : State) (t : Ctx) (d : Side) (h : Option (Int × Int)) : Option Xl × Option Xl :=
  match h with
  | none => (none, none)
  | some (lo, hi) => if d.ap then (none, none) else (d.byteAt s t lo, d.byteAt s t hi)

/-- ATTRSPAN between two endpoints that translate (R112). -/
def endsDiffer (e : Option Xl × Option Xl) : Bool :=
  match e with
  | (some a, some b) => a.copyAttrs ≠ b.copyAttrs
  | _ => false

/-- The physical spans of a side whose endpoints are known, on the given pairs for an aperture side (R112). -/
def Side.phys (d : Side) (pairs : List Nat) (h : Option (Int × Int)) (e : Option Xl × Option Xl) : List (Nat × Nat) :=
  match h with
  | none => []
  | some (lo, hi) =>
    if d.ap then pairs.map (fun q => (pairAddr q + lo.toNat, pairAddr q + hi.toNat))
    else
      match e with
      | (some a, some b) => [(min a.pa b.pa, max a.pa b.pa)]
      | _ => []

def meets (a b : Nat × Nat) : Bool := decide (a.1 ≤ b.2) && decide (b.1 ≤ a.2)

/-- COPYOVL (R112): of two translated sides by virtual addresses, of any two by physical ones. An aperture hull has its addresses on every targeted
pair; two aperture hulls are compared there alone, so that a multicast of the same offsets to other pairs is none (DESIGN CHOICE,
notes/assumptions/73.md). -/
def overlap (src dst : Side) (hs hd : Option (Int × Int)) (ps pd : List (Nat × Nat)) : Bool :=
  (match hs, hd with
   | some a, some b => !src.ap && !dst.ap && decide (a.1 ≤ b.2) && decide (b.1 ≤ a.2)
   | _, _ => false) || ps.any (fun a => pd.any (meets a))

/-- A handle through an entry that may not be named (R97, R107 item 4). -/
def handleBad (t : Ctx) (e : Nat) : Bool := !(t.rngValid e && bit (t.rng e 3) 12)

/-- The copy engine of the layer that holds a physical address, by its key (`State.copyEngine`); none outside the layers. -/
def State.layerEngine (s : State) (pa : Nat) : Option Nat :=
  match s.region pa with
  | .layer t n _ => some (10 * t + n - 1)
  | .lost t n => some (10 * t + n - 1)
  | _ => none

/-- The engine of R113, by its key: that of the source's layer, of the destination's, else the tile walker of the issuer's sett router. -/
def State.copyEngineFor (s : State) (c : Nat) (src dst : Option Xl) (ring : Option RingInst) : Nat :=
  let of (pa : Option Nat) : Option Nat := pa.bind s.layerEngine
  ((of (src.map Xl.pa)).orElse (fun _ => (of (dst.map Xl.pa)).orElse (fun _ => of (ring.map RingInst.base)))).getD
    (10 * towerOf c + 4 + coreIn c / 16)

/-- The checks of R107 for COPY and CSLICE, and the engine that takes the command. -/
def copyIssue (s : State) (k : Cmd) : Res :=
  let b := k.ccb
  let t := s.fctx
  let (hs, hd) := k.hulls
  let p1 := if cpSrch b then none else (sidePtr (nth b 0) hs).map (fun e => (e, nth b 0))
  let p2 := if cpDsth b || cpDkind b ≠ 0 then none else (sidePtr (nth b 1) hd).map (fun e => (e, nth b 1))
  match (if p1.isSome then p1 else p2) with
  | some (e, p) => .trap e p 0
  | none =>
    if copyIllegal s k then .trap cILLOP 0 0
    else if (cpSrch b && handleBad t (bits (nth b 4) 4 0)) || (cpDsth b && handleBad t (bits (nth b 4) 36 32)) then .trap cXLATE 0 0
    else
      let src := k.srcSide
      let dst := k.dstSide
      let es := src.ends s t hs
      let ed := dst.ends s t hd
      if endsDiffer es || endsDiffer ed then .trap cATTRSPAN 0 0
      else if overlap src dst hs hd (src.phys [pairOf k.core] hs es) (dst.phys (targetPairs k.core (ccMcast b)) hd ed) then
        .trap cCOPYOVL 0 0
      else
        let rings := if cpDkind b = 1 then s.ringTargets k.core (bits (nth b 1) 3 0) (ccMcast b) else some []
        match rings with
        | none => .trap cRINGOVER 0 0
        | some rs =>
          let ref (x : Option Xl) : Nat := (x.map Xl.copyAttrs).getD 0
          let k := { k with slots := rs, lands := rs.map (fun _ => 0), refS := ref es.1, refD := ref ed.1 }
          if cpDkind b = 2 then
            let q := 16 * towerOf k.core + bits (nth b 1) 3 0
            .done (s.accept k (fun s k => s.setSendq q { s.sendq q with queue := (s.sendq q).queue ++ [k] }))
          else
            let e := s.copyEngineFor k.core es.1 ed.1 (match rs with
              | r :: _ => s.inst r.1 r.2
              | [] => none)
            .done (s.accept k (fun s k => s.setCopyEngine e ((s.copyEngine e).put k)))

/-- COPY (R328, R329). -/
def execCopy (p a b c : BitVec 5) (r : BitVec 6) (s : State) : Host.Outcome State Fault Refusal :=
  finish s (engineOp s .copy p a b c r (copyIssue s))

/-- CSLICE (R116, R332). -/
def execCslice (p a b c : BitVec 5) (r : BitVec 6) (s : State) : Host.Outcome State Fault Refusal :=
  finish s (engineOp s .cslice p a b c r (copyIssue s))

/-! ## Reading a row (R109 to R112, R179, R224) -/

/-- The elements of the n-th row with their source and destination addresses. -/
def Cmd.rowEls (k : Cmd) (n : Nat) : List (Nat × Option Int × Option Int) :=
  let (i1, i2, i3) := k.rowAt n
  (List.range (cpE k.ccb 0)).map (fun i => (i, k.srcSide.addr [i, i1, i2, i3], k.dstSide.addr [i, i1, i2, i3]))

/-- The element of a row is written (R111). -/
def Cmd.writes (k : Cmd) (e : Nat × Option Int × Option Int) : Bool := e.2.2.isSome && (e.2.1.isSome || cpZfill k.ccb)

/-- An aperture run as pieces, on the given pairs. -/
def apPieces (pairs : List Nat) (vas : List (Nat × Int × Nat)) : List (Nat × Nat × Nat) :=
  pairs.flatMap (fun q => vas.map (fun v => (v.1, pairAddr q + v.2.1.toNat, v.2.2)))

/-- A run (offset in the row's buffer, physical address, length) cut at the aligned 8-byte words of memory (R179). -/
def wordPieces (it : Nat × Nat × Nat) : List Piece :=
  (List.range ((it.2.1 % 8 + it.2.2 + 7) / 8)).map (fun i =>
    let a := max it.2.1 (8 * (it.2.1 / 8 + i))
    { pa := a, len := min (it.2.1 + it.2.2) (8 * (it.2.1 / 8 + i) + 8) - a, off := it.1 + (a - it.2.1), val := 0 })

/-- The next row begun: its source checked and cut into parts, or the command stopped at the row (R112, R115). -/
def beginRow (s : State) (k : Cmd) : Cmd :=
  let src := k.srcSide
  let vas := joinRuns ((k.rowEls k.row).filterMap (fun e => e.2.1.map (fun v => (e.1 * src.esz, v, src.esz))))
  match (if src.ap then .ok (apPieces [pairOf k.core] vas, 0) else src.check s k.view false true k.refS vas) with
  | .error e => { k with error := some (e, flagOf e, k.rowIndex k.row), read := true }
  | .ok (ps, ref) =>
    { k with
      src := some ((ps.flatMap wordPieces).map (fun p => { piece := p, done := false, bad := false, soft := false }))
      refS := if k.refS = 0 then ref else k.refS }

/-- One part of a row read at its home (R179, R224, R331). -/
def readRowPart (s : State) (p : RowPart) : State × RowPart :=
  if p.done then (s, p)
  else
    let q := p.piece
    let s' := s.correct q.pa q.len
    (s', { piece := { q with val := s'.readMem q.pa q.len }, done := true, bad := s'.poisoned q.pa q.len, soft := s.softAt q.pa q.len })

/-- The first `n` parts of a row that have not been read are. -/
def readFirst (n : Nat) (s : State) (ps : List RowPart) : State × List RowPart :=
  match ps with
  | [] => (s, [])
  | p :: r =>
    if p.done || n = 0 then
      let (s, r) := readFirst n s r
      (s, p :: r)
    else
      let (s, p) := readRowPart s p
      let (s, r) := readFirst (n - 1) s r
      (s, p :: r)

/-- The part that holds poison meets bytes [a, a + n) of the row's buffer. -/
def RowPart.spoils (p : RowPart) (a n : Nat) : Bool :=
  p.bad && decide (p.piece.off < a + n) && decide (a < p.piece.off + p.piece.len)

/-! ## Landing a row (R109 to R111, R114, R121, R123, R189, R224) -/

/-- A row converted: its bytes as a number, and the elements that carry poison. -/
def Cmd.convert (k : Cmd) (ps : List RowPart) : List Nat × List Nat :=
  let b := k.ccb
  let sz := k.srcSide.esz
  let raw := pieceValue (ps.map RowPart.piece) 0
  ((List.range (cpE b 0)).map (fun i => convertEl (cpCvt b) (cpSat b) (cpScale b) ((raw >>> (8 * sz * i)) % 2 ^ (8 * sz))),
   if ps.any RowPart.bad then (List.range (cpE b 0)).filter (fun i => ps.any (fun p => p.spoils (i * sz) sz)) else [])

/-- A row put into the byte stream of a ring or a message (R109, R130), with its credit. An element that is not written stands as zero bytes, in a
message as in a ring (notes/assumptions/69.md). -/
def Cmd.streamRow (k : Cmd) (els : List (Nat × Option Int × Option Int)) (outs bad : List Nat) (credit : List Nat) : Cmd :=
  let dz := k.dstSide.esz
  let place (bs : List Byte) (e : (Nat × Option Int × Option Int) × Nat) : List Byte :=
    match e.1.2.2 with
    | none => bs
    | some v =>
      let o := v.toNat
      let x := if k.writes e.1 then e.2 else 0
      let bs := bs ++ List.replicate (o + dz - bs.length) 0
      bs.take o ++ bytesOf dz x ++ bs.drop (o + dz)
  let badOff := bad.flatMap (fun i =>
    match (els.getD i (0, none, none)).2.2 with
    | some v => (List.range dz).map (fun j => v.toNat + j)
    | none => [])
  { k with buf := (els.zip outs).foldl place k.buf, bad := k.bad ++ badOff, credits := k.credits ++ [credit] }

/-- The highest stream offset that the n-th row reaches, plus one. -/
def Cmd.rowEnd (k : Cmd) (n : Nat) : Nat :=
  let (i1, i2, i3) := k.rowAt n
  match k.dstSide.hull [(0, cpE k.ccb 0 - 1), (i1, i1), (i2, i2), (i3, i3)] with
  | some h => (h.2 + 1).toNat
  | none => 0

/-- The row whose source parts `ps` have all been read goes on its way: into the stream, or to its homes once its destination is checked
(R112, R330). -/
def finishRow (s : State) (k : Cmd) (ps : List RowPart) : Cmd :=
  let n := k.row
  let ix := k.rowIndex n
  let dst := k.dstSide
  let dz := dst.esz
  let els := k.rowEls n
  let (outs, bad) := k.convert ps
  let bytes := cpE k.ccb 0 * cpDesz k.ccb
  let code := if bad.isEmpty then 0 else cPOISON
  let flags := flagOf code ||| (if ps.any RowPart.soft then fgCORRECTED else 0)
  let next : Cmd := { k with row := n + 1, read := decide (k.rows ≤ n + 1), src := none }
  if dst.kind = .stream then next.streamRow els outs bad [k.rowEnd n, bytes, code, flags, ix]
  else
    let vas := joinRuns (els.filterMap (fun e => if k.writes e then e.2.2.map (fun v => (e.1 * dz, v, dz)) else none))
    match (if dst.ap then .ok (apPieces (targetPairs k.core (ccMcast k.ccb)) vas, 0) else dst.check s k.view true true k.refD vas) with
    | .error e => { k with error := some (e, flagOf e, ix), read := true, src := none }
    | .ok (ds, ref) =>
      let row := joinNat (8 * dz) outs
      let parts : List (Piece × Bool) := (ds.flatMap wordPieces).map (fun p =>
        ({ p with val := (row >>> (8 * p.off)) % 2 ^ (8 * p.len) },
         bad.any (fun i => decide (p.off < i * dz + dz) && decide (i * dz < p.off + p.len))))
      let l : Landing :=
        { parts := parts, vas := vas.map (fun v => (v.2.1.toNat, v.2.2)), bytes := bytes, code := code, flags := flags, ix := ix }
      { next with landing := k.landing ++ [l], refD := if k.refD = 0 then ref else k.refD }

/-- Rows, blocks and packets that have landed whole, the first first: the watermark and the credit of each (R121, R330). -/
def payRows (unit : Nat) (ls : List Landing) (s : State) (k : Cmd) : State × Cmd :=
  match ls with
  | [] => (s, { k with landing := [] })
  | l :: r =>
    if l.parts.isEmpty then
      let s := l.vas.foldl (fun (s : State) v => s.modWm k (fun w => w.land v.1 (v.1 + v.2))) s
      let s := if k.kind = .recv then s.creditNet k unit l.bytes l.code l.flags l.ix else s.creditCmd k unit l.bytes l.code l.flags l.ix
      payRows unit r s { k with landed := k.landed + l.bytes }
    else (s, { k with landing := l :: r })

/-- The parts on their way, in the order of their rows: the place of each among the landings. -/
def Cmd.pending (k : Cmd) : List (Nat × Nat) :=
  k.landing.zipIdx.flatMap (fun l => (List.range l.1.parts.length).map (fun i => (l.2, i)))

/-- The key under which a command writes: that of its destination pointer; a handle has none (R97). -/
def Cmd.dstKey (k : Cmd) : BitVec 4 :=
  match k.kind with
  | .copy => k.dstSide.key
  | .cslice => k.dstSide.key
  | .recv => keyOf (nth k.ccb 0)
  | .stream => keyOf (nth k.ccb 1)
  | _ => keyOf (nth k.ccb 1)

/-- Landing `a` and those after it do not land: a granule of it is locked (R102, R103). What stands of it stays. -/
def Cmd.lockedOut (k : Cmd) (a : Nat) : Cmd :=
  let ix := (k.landing[a]?.map Landing.ix).getD 0
  { k with landing := k.landing.take a, error := some (cTAGKEY, flagOf cTAGKEY, ix), read := true, src := none }

/-- Part `i` of landing `a` lands, if its granules let it; a part waits for what goes before it to the same word. -/
def landOf (s : State) (unit : Nat) (k : Cmd) (a i : Nat) : Option (State × Cmd) :=
  match (k.landing[a]?).bind (fun l => l.parts[i]?) with
  | none => none
  | some p =>
    let before := (k.landing.take a).flatMap Landing.parts ++ ((k.landing.drop a).take 1).flatMap (fun l => l.parts.take i)
    if before.any (fun q => q.1.meets 8 p.1.pa p.1.len) then none
    else if s.locked k.refD k.dstKey p.1.pa p.1.len then some (s, k.lockedOut a)
    else
      let ls := k.landing.modify a (fun l => { l with parts := l.parts.eraseIdx i })
      some (payRows unit ls (s.landPart p) k)

/-- The first `n` parts on their way land in order. -/
def landParts (n : Nat) (s : State) (unit : Nat) (k : Cmd) : State × Cmd :=
  match n with
  | 0 => (s, k)
  | m + 1 =>
    match landOf s unit k 0 0 with
    | none => (s, k)
    | some r => landParts m r.1 unit r.2

/-- Every part on its way lands. -/
def landRows (s : State) (unit : Nat) (k : Cmd) : State × Cmd :=
  let r := payRows unit k.landing s k
  landParts k.pending.length r.1 unit r.2

/-! ## Events (R113, R115, R330) -/

/-- Copy engines and tile walkers of the module. -/
def numCopyEngines : Nat := 80

/-- The UNIT of a copy engine (R118). -/
def copyUnit (e : Nat) : Nat := if e % 10 < 4 then e % 10 + 1 else 0x28

/-- COPY_START (R62, R113, R330): an engine takes the first command of its queue whose dependency tokens are complete; a command that it runs goes
behind the queue, since two commands may interleave in any way (R113, R331). -/
def execCopyStart (e : Nat) (s : State) : Host.Outcome State Fault Refusal :=
  if numCopyEngines ≤ e then .fault .noSuchUnit
  else
    let g := s.copyEngine e
    match takeReady s g.queue with
    | none => notNow s
    | some (k, q) => happened (s.setCopyEngine e { queue := q ++ g.running.toList, running := some k })

/-- Every row has been read and converted, or the command has stopped. -/
def Cmd.gathered (k : Cmd) : Bool := k.error.isSome || decide (k.rows ≤ k.row)

/-- The stream bytes of a ring copy that no row to come writes. -/
def Cmd.safeTo (k : Cmd) : Nat :=
  if k.gathered then k.buf.length
  else
    match (if k.row = 0 then some 0 else k.lowAfter (k.row - 1)) with
    | some n => min n k.buf.length
    | none => k.buf.length

/-- The command stops at the row that it reads: a granule of its source is locked (R102, R103). -/
def Cmd.lockedIn (k : Cmd) : Cmd :=
  { k with error := some (cTAGKEY, flagOf cTAGKEY, k.rowIndex k.row), read := true, src := none }

/-- The source of the command lets it read the part. -/
def Cmd.mayRead (s : State) (k : Cmd) (p : RowPart) : Bool := p.done || !(s.locked k.refS k.srcSide.key p.piece.pa p.piece.len)

/-- At most `n` parts of the next row read, every part when `n` is 0; a row read whole goes on its way. -/
def gatherRow (s : State) (k : Cmd) (n : Nat) : State × Cmd :=
  let k := if k.src.isNone then beginRow s k else k
  match k.src with
  | none => (s, k)
  | some ps =>
    if !(ps.all (k.mayRead s)) then (s, k.lockedIn)
    else
      let (s, ps) := readFirst (if n = 0 then ps.length else n) s ps
      (s, if ps.all RowPart.done then finishRow s k ps else { k with src := some ps })

/-- The next row of a running copy moved whole, and what was on its way before it (R112, R115, R330); a fault stops the command at the row. -/
def stepRow (s : State) (unit : Nat) (k : Cmd) : State × Cmd :=
  let (s, k) := landRows s unit k
  if k.gathered then (s, k)
  else
    let (s, k) := gatherRow s k 0
    landRows s unit k

/-- Part `i` of the row that the engine reads is read; with the last part the row goes on its way. -/
def readOf (s : State) (k : Cmd) (i : Nat) : Option (State × Cmd) :=
  match k.src with
  | none => none
  | some ps =>
    match ps[i]? with
    | none => none
    | some p =>
      if p.done then none
      else if !(k.mayRead s p) then some (s, k.lockedIn)
      else
        let (s, p) := readRowPart s p
        let ps := ps.set i p
        some (s, if ps.all RowPart.done then finishRow s k ps else { k with src := some ps })

/-- The copy waits for the permit of a ring and reads no further meanwhile (R124). -/
def Cmd.waitsPermit (s : State) (k : Cmd) (hi : Nat) (final : Bool) : Bool :=
  match landRound s k hi final with
  | .blocked => true
  | _ => false

/-- One part of a running copy moves (R179, R189, R331): `j` 0 begins the next row, which goes on its way at once when it reads nothing; from 1
on it counts the parts of the row being read, those on their way, and the words of ring slots that can land. -/
def movePartOf (s : State) (unit : Nat) (k : Cmd) (j : Nat) : Option (State × Cmd) :=
  let n := (k.src.getD []).length
  if j = 0 then
    if k.gathered || k.src.isSome || k.waitsPermit s k.safeTo k.gathered then none
    else
      let k := beginRow s k
      some (s, if k.src = some [] then finishRow s k [] else k)
  else if j ≤ n then (if k.waitsPermit s k.safeTo k.gathered then none else readOf s k (j - 1))
  else
    match k.pending[j - 1 - n]? with
    | some (a, i) => landOf s unit k a i
    | none => landEarly s k k.safeTo k.gathered (j - 1 - n - k.pending.length)

/-- COPY_ROW (R109 to R114, R123, R189, R330) of engine `p.1`: with `p.2` 0 the running command lands what it may of its stream, or moves its next
row whole; otherwise part `p.2 - 1` moves. -/
def execCopyRow (p : Nat × Nat) (s : State) : Host.Outcome State Fault Refusal :=
  let e := p.1
  let j := p.2
  if numCopyEngines ≤ e then .fault .noSuchUnit
  else
    let g := s.copyEngine e
    let put (r : State × Cmd) : Host.Outcome State Fault Refusal := happened (r.1.setCopyEngine e { g with running := some r.2 })
    match g.running with
    | none => notNow s
    | some k =>
      if j ≠ 0 then
        match movePartOf s (copyUnit e) k (j - 1) with
        | none => notNow s
        | some r => put r
      else
        match landRound s k k.safeTo k.gathered with
        | .landed s' k' => put (payCredits (copyUnit e) k'.credits s' k')
        | .lost => put (s, k.lost)
        | .blocked => notNow s
        | .idle => if k.gathered && k.landing.isEmpty then notNow s else put (stepRow s (copyUnit e) k)

/-- Everything that the command gathered has landed. -/
def Cmd.flushed (k : Cmd) : Bool := k.landing.isEmpty && k.lands.all (fun n => decide (k.buf.length ≤ n))

/-- The last credit of a command that ends (R115): its fault, and the bytes not delivered. -/
def lastCredit (s : State) (unit : Nat) (k : Cmd) (total : Nat) : State :=
  match k.error with
  | some (code, flags, stop) => s.creditCmd k unit (total - k.landed) code flags stop
  | none => if total ≤ k.landed && total ≠ 0 then s else s.creditCmd k unit (total - k.landed) 0 0 0

/-- Instances that the command named and that nothing refers to now are no more. -/
def State.dropInsts (s : State) (k : Cmd) : State := k.slots.foldl (fun s q => s.dropInst q.1 q.2) s

/-- COPY_COMPLETE (R61, R115, R121): the fault if any, the bytes not delivered, the watermark, the token. -/
def execCopyComplete (e : Nat) (s : State) : Host.Outcome State Fault Refusal :=
  if numCopyEngines ≤ e then .fault .noSuchUnit
  else
    let g := s.copyEngine e
    match g.running with
    | none => notNow s
    | some k =>
      if k.gathered && k.flushed then
        let (s, k) := payCredits (copyUnit e) k.credits s k
        let s := lastCredit s (copyUnit e) k k.total
        happened ((((s.endWm k).setCopyEngine e { g with running := none }).completeCmd k).dropInsts k)
      else notNow s

end Sys2Proof.Machine
end

