-- ==== Sys2Proof/Machine/Hare.lean ====
section
/-! DEFINITION. Hare: job cards, the stages of a chain, the entropy code, and the events that run a STREAM (R125 to R129, R149, R150,
R405, R406). -/

namespace Sys2Proof.Machine

/-! ## The job card (R125) -/

def jcSrclen (b : List Word) : Nat := bits (nth b 2) 39 0
def jcFrlen (b : List Word) : Nat := bits (nth b 4) 63 48
def jcTrow (b : List Word) : Nat := bits (nth b 4) 47 32
def jcFramed (b : List Word) : Bool := bit (nth b 4) 11
def jcTgran (b : List Word) : Nat := bits (nth b 4) 10 9
def jcSat (b : List Word) : Bool := bit (nth b 4) 8
def jcCvt (b : List Word) : Nat := bits (nth b 4) 7 4
def jcMxout (b : List Word) : Bool := bit (nth b 4) 3
def jcMxfmt (b : List Word) : Nat := bits (nth b 4) 2 0

/-- The six stage codes, and the chain up to the first 0. -/
def jcCodes (b : List Word) : List Nat := (List.range 6).map (fun i => bits (nth b 3) (4 * i + 3) (4 * i))
def jcChain (b : List Word) : List Nat := (jcCodes b).takeWhile (fun c => c ≠ 0)
def jcHas (b : List Word) (c : Nat) : Bool := (jcChain b).contains c

/-- R126: whether stage `c` may follow `p` (0 at the start). MXDEC 'after ENTROPY' follows it directly: with a CHECK of blocks between them it is
JOBCARD (DESIGN CHOICE, notes/assumptions/73.md). -/
def stageOk (framed : Bool) (p c : Nat) : Bool :=
  match c with
  | 6 => p = 0
  | 1 => p = 0 || (p = 5 && framed)
  | 2 => p = 0 || p = 6 || p = 1
  | 5 => framed || p = 1
  | _ => !(p = 5 && !framed)

def chainOk (framed : Bool) (p : Nat) (cs : List Nat) : Bool :=
  match cs with
  | [] => true
  | c :: r => decide (c ≤ 6) && stageOk framed p c && !(r.contains c) && chainOk framed c r

/-- Bytes of an MX block (R149). -/
def mxBytes (f : Nat) : Nat := if f = 2 then 17 else 33

/-- JOBCARD (R107 item 3, R126, R150). -/
def jobBad (b : List Word) : Bool :=
  !(chainOk (jcFramed b) 0 (jcChain b)) || ((jcCodes b).drop (jcChain b).length).any (fun c => c ≠ 0) ||
  (jcHas b 2 && jcMxfmt b = 3 && !(jcMxout b)) ||
  ((jcChain b).head? = some 2 && jcSrclen b % mxBytes (jcMxfmt b) ≠ 0)

/-- R107 item 2 for STREAM (R110, R114, R125, R405). R328 states the limits of a ring destination, WMEN = 0 and DST[63:4] = 0, for COPY; they
are taken for STREAM too (DEDUCED, notes/assumptions/19.md). -/
def streamIllegal (b : List Word) : Bool :=
  let w4 := nth b 4
  bits (nth b 2) 63 40 ≠ 0 || bits (nth b 3) 63 24 ≠ 0 || bits w4 31 12 ≠ 0 || jcSrclen b = 0 ||
  bits (nth b 6) 31 6 ≠ 0 || bits (nth b 6) 3 2 ≠ 0 || decide (2 ≤ cpDkind b) || word7Bad b ||
  (cpDkind b = 1 && (bits (nth b 1) 63 4 ≠ 0 || ccWmen b)) ||
  (ccMcast b ≠ 0 && cpDkind b = 0 && !(isAp (nth b 1))) ||
  (decide (nth b 5 ≠ 0) != jcHas b 6) ||
  (!(jcHas b 5 && jcFramed b) && jcFrlen b ≠ 0) || (!(jcHas b 5) && jcFramed b) ||
  (!(jcHas b 4) && (jcTrow b ≠ 0 || jcTgran b ≠ 0)) || (!(jcHas b 3) && bits w4 8 4 ≠ 0) || (!(jcHas b 2) && bits w4 3 0 ≠ 0) ||
  (jcHas b 4 && (jcTgran b = 0 || jcTgran b = 3)) || (jcHas b 5 && jcFramed b && decide (jcFrlen b < 16)) ||
  (jcHas b 3 && decide (8 < jcCvt b)) || (jcHas b 2 && decide (4 ≤ jcMxfmt b)) ||
  ((jcChain b).head? = some 3 && (match cvtFormats (jcCvt b) with
    | some f => f.1.bytes ≠ cpSesz b
    | none => false))

/-! ## Stages as functions of a byte stream -/

/-- What a stage makes of the bytes it has: its output, and the unit at which it fails. -/
structure StageRes where
  out : List Byte
  fail : Option Nat

/-- Symbols of a canonical code (R127) as (length, symbol), by length and then symbol. -/
def codeSyms (lens : Nat) : List (Nat × Nat) :=
  (List.range 15).flatMap (fun l =>
    ((List.range 16).filter (fun s => (lens >>> (4 * s)) % 16 = l + 1)).map (fun s => (l + 1, s)))

/-- The codes: (length, code, symbol), the first all zeros. -/
def codeTable (prev code : Nat) (ss : List (Nat × Nat)) : List (Nat × Nat × Nat) :=
  match ss with
  | [] => []
  | (l, s) :: r =>
    let c := code <<< (l - prev)
    (l, c, s) :: codeTable l (c + 1) r

/-- Kraft sum exactly 1, or one symbol of length 1 (R127). -/
def kraftOk (ss : List (Nat × Nat)) : Bool :=
  (ss.foldl (fun n q => n + 2 ^ (15 - q.1)) 0 = 2 ^ 15) || (ss.map Prod.fst = [1])

/-- Bit `i` of a code stream: bit 7 of each byte first. -/
def codeBit (bs : List Byte) (i : Nat) : Bool := (bs.getD (i / 8) 0).getLsbD (7 - i % 8)

/-- One symbol from bit `i` on: the symbol and the next bit; none when the stream ends or no code fits. -/
def nextSym (tab : List (Nat × Nat × Nat)) (bs : List Byte) (fuel i len code : Nat) : Option (Nat × Nat) :=
  match fuel with
  | 0 => none
  | f + 1 =>
    if 8 * bs.length ≤ i then none
    else
      let code := 2 * code + bnat (codeBit bs i)
      match tab.find? (fun q => q.1 = len + 1 && q.2.1 = code) with
      | some q => some (q.2.2, i + 1)
      | none => nextSym tab bs f (i + 1) (len + 1) code

def decodeSyms (tab : List (Nat × Nat × Nat)) (bs : List Byte) (n i : Nat) : Option (List Nat × Nat) :=
  match n with
  | 0 => some ([], i)
  | k + 1 =>
    match nextSym tab bs 15 i 0 0 with
    | none => none
    | some (s, j) =>
      match decodeSyms tab bs k j with
      | none => none
      | some (ss, e) => some (s :: ss, e)

/-- Nibbles two per byte, low nibble first (R127). -/
def packNibbles (ns : List Nat) : List Byte :=
  match ns with
  | [] => []
  | [a] => [BitVec.ofNat 8 a]
  | a :: b :: r => BitVec.ofNat 8 (a + 16 * b) :: packNibbles r

/-- The decoded bytes of a block's code stream; none when it is malformed (R127, R128). -/
def decodeBlock (lens count : Nat) (bs : List Byte) : Option (List Byte) :=
  let ss := codeSyms lens
  if !(kraftOk ss) then none
  else
    match decodeSyms (codeTable 0 0 ss) bs count 0 with
    | none => none
    | some (ns, e) =>
      if (List.range (8 * bs.length - e)).any (fun i => codeBit bs (e + i)) then none else some (packNibbles ns)

/-- ENTROPY, with the CRC test of CHECK block (R127, R128). A trailing part of a block fails only when the input has ended. -/
def entropyStage (crc final : Bool) (fuel n : Nat) (bs : List Byte) : StageRes :=
  match fuel with
  | 0 => { out := [], fail := none }
  | f + 1 =>
    if bs.isEmpty then { out := [], fail := none }
    else
      let h := natOfBytes (bs.take 16)
      let clen := (h >>> 20) % 4096
      if bs.length < 16 + clen || bs.length < 16 then { out := [], fail := if final then some n else none }
      else
        let count := if (h >>> 8) % 4096 = 0 then 4096 else (h >>> 8) % 4096
        let body := (bs.drop 16).take clen
        match (if h % 256 = 0xE7 && clen ≠ 0 then decodeBlock ((h >>> 32) % 2 ^ 64) count body else none) with
        | none => { out := [], fail := some n }
        | some d =>
          if crc && crc32c d ≠ (h >>> 96) % 2 ^ 32 then { out := [], fail := some n }
          else
            let r := entropyStage crc final f (n + 1) (bs.drop (16 + clen))
            { r with out := d ++ r.out }

/-- CHECK framed (R127, R128). -/
def framesStage (fr : Nat) (final : Bool) (fuel n : Nat) (bs : List Byte) : StageRes :=
  match fuel with
  | 0 => { out := [], fail := none }
  | f + 1 =>
    if bs.isEmpty then { out := [], fail := none }
    else
      let len := if fr + 4 ≤ bs.length then fr else bs.length - 4
      if len < fr && !final then { out := [], fail := none }
      else if len = 0 then { out := [], fail := some n }
      else
        let d := bs.take len
        if crc32c d ≠ natOfBytes ((bs.drop len).take 4) then { out := [], fail := some n }
        else
          let r := framesStage fr final f (n + 1) (bs.drop (len + 4))
          { r with out := d ++ r.out }

/-- An MX element as a value (R149). -/
def mxVal (fmt x : Nat) : Val :=
  match fmt with
  | 0 => decodeF .e4m3 x
  | 1 => decodeF .e5m2 x
  | 2 =>
    let s : Bool := x.testBit 3
    let e := (x / 2) % 4
    if e = 0 then .num s (x % 2) (-1) else .num s (2 + x % 2) (e - 2)
  | _ => let i := (BitVec.ofNat 8 x).toInt; .num (decide (i < 0)) i.natAbs (-6)

/-- An MX element converted (R150). -/
def mxEl (fmt : Nat) (bf : Bool) (x : Nat) : List Byte :=
  if bf then bytesOf 2 (convertVal .bf16 false (mxVal fmt x)).bits
  else if fmt = 2 then bytesOf 1 (convertVal .e4m3 false (mxVal fmt x)).bits
  else bytesOf 1 x

/-- The FP32 of a block scale (R150). -/
def mxScale (e : Nat) : Nat := if e = 255 then 0x7FC00000 else if e = 0 then 0x00400000 else e <<< 23

/-- Whole pieces of `n` bytes. -/
def chunks (fuel n : Nat) (bs : List Byte) : List (List Byte) :=
  match fuel with
  | 0 => []
  | f + 1 => if bs.length < n then [] else bs.take n :: chunks f n (bs.drop n)

/-- MXDEC (R150): elements, then, once the input has ended or the job stops (`cut`), the gap and the scales of the whole blocks. A
trailing part of a block fails with the index of its own MX block (notes/assumptions/33.md). -/
def mxStage (id fmt : Nat) (bf final cut : Bool) (bs : List Byte) : StageRes :=
  let n := mxBytes fmt
  let blocks := chunks bs.length n bs
  let els (b : List Byte) : List Byte :=
    (b.drop 1).flatMap (fun x =>
      if fmt = 2 then mxEl fmt bf (x.toNat % 16) ++ mxEl fmt bf (x.toNat / 16) else mxEl fmt bf x.toNat)
  let out := blocks.flatMap els
  if !(final || cut) then { out := out, fail := none }
  else
    let gap := (List.range (alignUp out.length 64 - out.length)).map (fun i => Config.streamGap id (out.length + i))
    { out := out ++ gap ++ blocks.flatMap (fun b => bytesOf 4 (mxScale ((b.headD 0).toNat)))
      fail := if final && bs.length % n ≠ 0 then some blocks.length else none }

/-- CONVERT (R110). Bytes that make no whole element give nothing. -/
def convertStage (cvt : Nat) (sat : Bool) (scale : Nat) (bs : List Byte) : List Byte :=
  match cvtFormats cvt with
  | none => bs
  | some (f, g) => (chunks bs.length f.bytes bs).flatMap (fun e => bytesOf g.bytes (convertEl cvt sat scale (natOfBytes e)))

/-- TRANSPOSE: rows of `w` elements of `g` bytes become columns, once the input has ended; when the job stops (`cut`), the whole rows of the
blocks before do (R128). -/
def transposeStage (id w g : Nat) (final cut : Bool) (bs : List Byte) : List Byte :=
  if !(final || cut) then []
  else if w = 0 || (final && bs.length % (w * g) ≠ 0) then (List.range bs.length).map (Config.streamGap id)
  else
    let els := chunks bs.length g bs
    let rows := els.length / w
    (List.range w).flatMap (fun c => (List.range rows).flatMap (fun r => els.getD (r * w + c) []))

/-- The stages of a chain in turn. A stage that fails ends the stream of the later ones early; a later stage that then fails has
failed earlier in the stream. `cut` tells that the job stops here for another reason; every earlier block is delivered in full (R128). -/
def runStages (id : Nat) (b : List Word) (cs : List Nat) (final cut : Bool) (bs : List Byte) (fail : Option Nat) : StageRes :=
  match cs with
  | [] => { out := bs, fail := fail }
  | c :: r =>
    let fin := final && fail.isNone
    let cut' := cut || fail.isSome
    let res : StageRes :=
      match c with
      | 1 => entropyStage (r.head? = some 5 && !(jcFramed b)) fin (bs.length + 1) 0 bs
      | 2 => mxStage id (jcMxfmt b) (jcMxout b) fin cut' bs
      | 3 => { out := convertStage (jcCvt b) (jcSat b) (cpScale b) bs, fail := none }
      | 4 => { out := transposeStage id (jcTrow b) (jcTgran b) fin cut' bs, fail := none }
      | 5 => if jcFramed b then framesStage (jcFrlen b) fin (bs.length + 1) 0 bs else { out := bs, fail := none }
      | _ => { out := bs, fail := none }
    runStages id b r final cut res.out (if res.fail.isSome then res.fail else fail)

/-- The output of stages other than ENTROPY for `n` input bytes. -/
def chainSize (b : List Word) (cs : List Nat) (n : Nat) : Nat :=
  match cs with
  | [] => n
  | c :: r =>
    let m : Nat :=
      match c with
      | 2 =>
        let k := n / mxBytes (jcMxfmt b)
        alignUp (k * 32 * (if jcMxout b then 2 else 1)) 64 + 4 * k
      | 3 =>
        match cvtFormats (jcCvt b) with
        | none => n
        | some (f, g) => n / f.bytes * g.bytes
      | 5 =>
        let q := n / (jcFrlen b + 4)
        let rest := n % (jcFrlen b + 4)
        if jcFramed b then q * jcFrlen b + (rest - 4) else n
      | _ => n
    chainSize b r m

/-! ## Issue (R107, R405, R406) -/

/-- The last byte, plus one, of the range entry or page that translates a va (R406). -/
def runEnd (s : State) (t : Ctx) (va : Nat) : Nat :=
  match t.rangeHit va with
  | some i => bits (t.rng i 1) 55 0
  | none =>
    match t.page s va with
    | some h => h.va + h.size
    | none => va + 1

/-- The memory that a job reads at known addresses: the source, or with GATHER the index list (R405). -/
def Cmd.inSide (k : Cmd) : Side × Nat :=
  let b := k.ccb
  if jcHas b 6 then (memSide (nth b 5) [] 1 false, 4 * jcSrclen b) else (memSide (nth b 0) [] 1 false, jcSrclen b)

/-- The edge-die engine of a tower (R125). -/
def hareFor (t : Nat) : Nat := 2 * (t / 4) + t % 2

/-- The checks of R107 for STREAM. Its APERTURE for a side in a layer (R405) has no place in R107: the model tests it after JOBCARD and before
ATTRSPAN (notes/assumptions/68.md). -/
def streamIssue (s : State) (k : Cmd) : Res :=
  let b := k.ccb
  let t := s.fctx
  let (src, n) := k.inSide
  let inPtr := if jcHas b 6 then nth b 5 else nth b 0
  let p0 := (sidePtr (nth b 0) (if jcHas b 6 then none else some ((src.base : Int), src.base + n - 1))).map (fun e => (e, nth b 0))
  let p1 := if cpDkind b = 0 then (ptrFault (nth b 1)).map (fun e => (e, nth b 1)) else none
  let p2 := if jcHas b 6 then (sidePtr inPtr (some ((src.base : Int), src.base + n - 1))).map (fun e => (e, inPtr)) else none
  match ([p0, p1, p2].filterMap id).head? with
  | some (e, p) => .trap e p 0
  | none =>
    if streamIllegal b then .trap cILLOP 0 0
    else if jobBad b then .trap cJOBCARD 0 0
    else
      let hs : Option (Int × Int) := some ((src.base : Int), src.base + n - 1)
      let es := src.ends s t hs
      let layer (x : Option Xl) : Bool :=
        match x with
        | some x => 1 ≤ x.level && x.level ≤ 4
        | none => false
      if layer es.1 || layer es.2 then .trap cAPERTURE inPtr 0
      else
        let dst := memSide (nth b 1) [] 1 false
        let hd : Option (Int × Int) :=
          if cpDkind b ≠ 0 then none
          else if dst.ap then some ((dst.base : Int), (pairSize : Int) - 1)
          else some ((dst.base : Int), (runEnd s t dst.base : Int) - 1)
        let ed := dst.ends s t hd
        if endsDiffer es || endsDiffer ed then .trap cATTRSPAN 0 0
        else if overlap src dst hs hd (src.phys [pairOf k.core] hs es) (dst.phys (targetPairs k.core (ccMcast b)) hd ed) then
          .trap cCOPYOVL 0 0
        else
          match (if cpDkind b = 1 then s.ringTargets k.core (bits (nth b 1) 3 0) (ccMcast b) else some []) with
          | none => .trap cRINGOVER 0 0
          | some rs =>
            let k : Cmd := { k with
              slots := rs, lands := rs.map (fun _ => 0), refS := if jcHas b 6 then 0 else (es.1.map Xl.copyAttrs).getD 0
              refD := (ed.1.map Xl.copyAttrs).getD 0 }
            let h := hareFor (towerOf k.core)
            .done (s.accept k (fun s k => s.setHare h ((s.hare h).put k)))

/-- STREAM (R405). -/
def execStream (p a b c : BitVec 5) (r : BitVec 6) (s : State) : Host.Outcome State Fault Refusal :=
  finish s (engineOp s .stream p a b c r (streamIssue s))

/-! ## Running a job (R128, R129, R406) -/

/-- HARE_JOB_START (R62, R125). -/
def execHareJobStart (h : Nat) (s : State) : Host.Outcome State Fault Refusal :=
  if 4 ≤ h then .fault .noSuchUnit
  else
    let g := s.hare h
    match g.running with
    | some _ => notNow s
    | none =>
      match takeReady s g.queue with
      | none => notNow s
      | some (k, q) => happened (s.setHare h { queue := q, running := some k })

/-- The parts of bytes [o, o + n) of a side through a pointer, with the reference attributes; or the code that stops the job. -/
def harePieces (s : State) (k : Cmd) (d : Side) (ref o n : Nat) : Except Nat (List Piece × Nat) :=
  let va : Int := (d.base : Int) + o
  let got : Except Nat (List (Nat × Nat × Nat) × Nat) :=
    if d.ap then
      if (pairSize : Int) < va + n then .error cAPERTURE else .ok (apPieces [pairOf k.core] [(0, va, n)], 0)
    else d.find s k.view false true ref [(0, va, n)]
  match got with
  | .error e => .error e
  | .ok (ps, r) => .ok (ps.flatMap wordPieces, r)

/-- The part as the engine has read it before the rest of its block (R179, R331). -/
def Cmd.readEarly (k : Cmd) (p : Piece) : Option RowPart :=
  (k.src.getD []).find? (fun q => q.piece.pa = p.pa && q.piece.len = p.len)

/-- The parts read, those that have not been read now, each where its granules let it; or the code that stops the command. -/
def readParts (s : State) (k : Cmd) (ref : Nat) (key : BitVec 4) (ps : List Piece) : Except Nat (State × List RowPart) :=
  match ps with
  | [] => .ok (s, [])
  | p :: r =>
    match k.readEarly p with
    | some q =>
      match readParts s k ref key r with
      | .error e => .error e
      | .ok (s, qs) => .ok (s, { q with piece := { q.piece with off := p.off } } :: qs)
    | none =>
      if s.locked ref key p.pa p.len then .error cTAGKEY
      else
        let (s, q) := readRowPart s { piece := p, done := false, bad := false, soft := false }
        match readParts s k ref key r with
        | .error e => .error e
        | .ok (s, qs) => .ok (s, q :: qs)

/-- A read of `n` bytes from offset `o` of a side through a pointer: bytes, whether a corrected error was met, the reference
attributes; or the code that stops the job. -/
def hareRead (s : State) (k : Cmd) (d : Side) (ref o n : Nat) : Except Nat (State × List Byte × Bool × Nat) :=
  match harePieces s k d ref o n with
  | .error e => .error e
  | .ok (ps, r) =>
    match readParts s k r d.key ps with
    | .error e => .error e
    | .ok (s, qs) =>
      if qs.any RowPart.bad then .error cPOISON
      else .ok (s, qs.flatMap (fun q => bytesOf q.piece.len q.piece.val), qs.any RowPart.soft, r)

/-- The elements of a group of indices (GATHER). -/
def gatherEls (s : State) (k : Cmd) (ref : Nat) (ix : List Nat) : Except Nat (State × List Byte × Bool × Nat) :=
  match ix with
  | [] => .ok (s, [], false, ref)
  | i :: r =>
    match hareRead s k (memSide (nth k.ccb 0) [] 1 false) ref (i * cpSesz k.ccb) (cpSesz k.ccb) with
    | .error e => .error e
    | .ok (s, bs, f, ref) =>
      match gatherEls s k ref r with
      | .error e => .error e
      | .ok (s, cs, g, ref) => .ok (s, bs ++ cs, f || g, ref)

/-- Input bytes (or, with GATHER, indices) that the job has read: all but for GATHER the length of the input so far. -/
def Cmd.taken (k : Cmd) : Nat := if jcHas k.ccb 6 then 64 * k.row else k.inp.length

/-- The input of the next block, in the units of the chain's first stage (R128). -/
def nextUnit (s : State) (k : Cmd) : Except Nat (State × Cmd × List Byte × Bool) :=
  let b := k.ccb
  let left := jcSrclen b - k.taken
  let (d, _) := k.inSide
  match (jcChain b).headD 0 with
  | 6 =>
    let m := min 64 left
    match hareRead s k d 0 (4 * k.taken) (4 * m) with
    | .error e => .error e
    | .ok (s, bs, f, _) =>
      match gatherEls s k k.refS ((chunks bs.length 4 bs).map natOfBytes) with
      | .error e => .error e
      | .ok (s, cs, g, ref) => .ok (s, { k with refS := ref }, cs, f || g)
  | 1 =>
    match hareRead s k d k.refS k.taken (min 16 left) with
    | .error e => .error e
    | .ok (s, hd, f, ref) =>
      let n := min (left - hd.length) ((natOfBytes hd >>> 20) % 4096)
      match (if n = 0 then .ok (s, [], false, ref) else hareRead s k d ref (k.taken + hd.length) n) with
      | .error e => .error e
      | .ok (s, bs, g, ref) => .ok (s, { k with refS := ref }, hd ++ bs, f || g)
  | c =>
    let u := if c = 5 then jcFrlen b + 4 else if c = 2 then mxBytes (jcMxfmt b) else 4096
    match hareRead s k d k.refS k.taken (min u left) with
    | .error e => .error e
    | .ok (s, bs, f, ref) => .ok (s, { k with refS := ref }, bs, f)

/-- Bytes of block `block` on their way to DST + `o` of a memory destination (R406), with their credit; or the code that stops the job. -/
def sendBlock (s : State) (k : Cmd) (o : Nat) (bs : List Byte) (flags block : Nat) : Except Nat Cmd :=
  let d := memSide (nth k.ccb 1) [] 1 false
  let va : Int := (d.base : Int) + o
  let got : Except Nat (List (Nat × Nat × Nat) × Nat) :=
    if bs.isEmpty then .ok ([], 0)
    else if d.ap then
      if (pairSize : Int) < va + bs.length then .error cAPERTURE
      else .ok (apPieces (targetPairs k.core (ccMcast k.ccb)) [(0, va, bs.length)], 0)
    else d.check s k.view true true k.refD [(0, va, bs.length)]
  match got with
  | .error e => .error e
  | .ok (ps, r) =>
    let l : Landing :=
      { parts := (ps.flatMap wordPieces).map (fun p => ({ p with val := natOfBytes ((bs.drop p.off).take p.len) }, false))
        vas := if bs.isEmpty then [] else [(va.toNat, bs.length)], bytes := bs.length, code := 0, flags := flags, ix := block }
    .ok { k with landing := k.landing ++ [l], refD := if k.refD = 0 then r else k.refD, buf := k.buf ++ bs }

/-- The UNIT of a Hare engine (R118). -/
def hareUnit (h : Nat) : Nat := 8 + h

/-- What the chain has put out so far goes on its way: into the ring's stream, or to memory, where a fault stops the job at block `block`
unless it has stopped already (R128, R406). -/
def putOut (s : State) (k : Cmd) (out : List Byte) (flags block : Nat) : Cmd :=
  let new := out.drop k.buf.length
  if new.isEmpty && flags = 0 then k
  else if cpDkind k.ccb = 1 then
    { k with buf := k.buf ++ new, credits := k.credits ++ [[k.buf.length + new.length, new.length, 0, flags, block]] }
  else
    match sendBlock s k k.buf.length new flags block with
    | .ok k => k
    | .error e => if k.error.isSome then k else { k with error := some (e, flagOf e, block), read := true }

/-- A part that an engine may read, with the reference attributes and the key of its side. -/
abbrev SidePart := Piece × Nat × BitVec 4

/-- Bytes [o, o + n) of a read of the parts `ps`, where all of them have been read early. -/
def Cmd.heldBytes (k : Cmd) (ps : List SidePart) (o n : Nat) : Option (List Byte) :=
  (List.range n).mapM (fun i =>
    (ps.find? (fun p => decide (p.1.off ≤ o + i) && decide (o + i < p.1.off + p.1.len))).bind (fun p =>
      (k.readEarly p.1).map (fun q => BitVec.ofNat 8 (q.piece.val >>> (8 * (o + i - p.1.off))))))

/-- The parts of a read; none where it faults. -/
def partsOf (s : State) (k : Cmd) (d : Side) (ref o n : Nat) : List SidePart :=
  match harePieces s k d ref o n with
  | .ok (ps, r) => ps.map (fun p => (p, r, d.key))
  | .error _ => []

/-- The parts that the next block reads, as far as what has been read names them (R128): of a group of indices the elements that its indices name,
of an entropy block the body that its header counts. -/
def unitParts (s : State) (k : Cmd) : List SidePart :=
  let b := k.ccb
  let left := jcSrclen b - k.taken
  let (d, _) := k.inSide
  match (jcChain b).headD 0 with
  | 6 =>
    let m := min 64 left
    let ix := partsOf s k d 0 (4 * k.taken) (4 * m)
    ix ++ (List.range m).flatMap (fun i =>
      match k.heldBytes ix (4 * i) 4 with
      | some bs => partsOf s k (memSide (nth b 0) [] 1 false) k.refS (natOfBytes bs * cpSesz b) (cpSesz b)
      | none => [])
  | 1 =>
    let n := min 16 left
    let hd := partsOf s k d k.refS k.taken n
    hd ++ (match k.heldBytes hd 0 n, hd with
      | some bs, p :: _ => partsOf s k d p.2.1 (k.taken + n) (min (left - n) ((natOfBytes bs >>> 20) % 4096))
      | _, _ => [])
  | c =>
    let u := if c = 5 then jcFrlen b + 4 else if c = 2 then mxBytes (jcMxfmt b) else 4096
    partsOf s k d k.refS k.taken (min u left)

/-- The parts of the next block that have not been read. -/
def unread (s : State) (k : Cmd) : List SidePart :=
  if k.error.isSome || decide (jcSrclen k.ccb ≤ k.taken) then [] else (unitParts s k).filter (fun p => (k.readEarly p.1).isNone)

/-- Part `i` of those is read before the rest of its block (R331), if its granules let it. -/
def readUnread (s : State) (k : Cmd) (i : Nat) : Option (State × Cmd) :=
  match (unread s k)[i]? with
  | none => none
  | some (p, ref, key) =>
    if s.locked ref key p.pa p.len then none
    else
      let (s, q) := readRowPart s { piece := p, done := false, bad := false, soft := false }
      some (s, { k with src := some (q :: k.src.getD []) })

/-- The next block of a job: its input, the chain over all the input so far, its output on its way (R128, R406). A fault of the input stops the
job there, and the earlier blocks are delivered in full. -/
def gatherBlock (s : State) (k : Cmd) : State × Cmd :=
  let b := k.ccb
  let block := k.row
  match nextUnit s k with
  | .error e =>
    let k : Cmd := { k with error := some (e, flagOf e, block), read := true }
    (s, putOut s k (runStages k.id b (jcChain b) false true k.inp none).out 0 block)
  | .ok (s, k, bs, soft) =>
    let k : Cmd := { k with inp := k.inp ++ bs, row := block + 1, src := none }
    let ended := decide (jcSrclen b ≤ k.taken)
    let r := runStages k.id b (jcChain b) ended false k.inp none
    let k : Cmd := { k with
      read := ended || r.fail.isSome, error := r.fail.map (fun i => (cCHECKSUM, flagOf cCHECKSUM, i)) }
    (s, putOut s k r.out (if soft then fgCORRECTED else 0) block)

/-- The job has read all its input, or has stopped. -/
def Cmd.jobRead (k : Cmd) : Bool := k.error.isSome || decide (jcSrclen k.ccb ≤ k.taken)

/-- The next block of a running job moved whole, and what was on its way before it. -/
def stepBlock (s : State) (h : Nat) (k : Cmd) : State × Cmd :=
  let (s, k) := landRows s (hareUnit h) k
  if k.jobRead then (s, k)
  else
    let (s, k) := gatherBlock s k
    landRows s (hareUnit h) k

/-- A part of a running job moves (R128, R129, R189, R331): the parts on their way first, then those of the next block that have not been read,
then the words of ring slots that can land. While the ring grants no permit nothing is read. -/
def moveJob (s : State) (h : Nat) (k : Cmd) (i : Nat) : Option (State × Cmd) :=
  match k.pending[i]? with
  | some (a, j) => landOf s (hareUnit h) k a j
  | none =>
    let n := (unread s k).length
    let i := i - k.pending.length
    if i < n then (if k.waitsPermit s k.buf.length k.jobRead then none else readUnread s k i)
    else landEarly s k k.buf.length k.jobRead (i - n)

/-- HARE_BLOCK (R128, R129, R189, R406) of engine `p.1`: with `p.2` 0 a slot of the ring lands, or the next block moves whole; with 1 the next
block is read and goes on its way, unless the ring grants no permit; from 2 on it counts the single parts. -/
def execHareBlock (p : Nat × Nat) (s : State) : Host.Outcome State Fault Refusal :=
  let h := p.1
  if 4 ≤ h then .fault .noSuchUnit
  else
    let g := s.hare h
    let put (r : State × Cmd) : Host.Outcome State Fault Refusal := happened (r.1.setHare h { g with running := some r.2 })
    match g.running with
    | none => notNow s
    | some k =>
      match p.2 with
      | 0 =>
        match landRound s k k.buf.length k.jobRead with
        | .landed s' k' => put (payCredits (hareUnit h) k'.credits s' k')
        | .lost => put (s, k.lost)
        | .blocked => notNow s
        | .idle => if k.jobRead && k.landing.isEmpty then notNow s else put (stepBlock s h k)
      | 1 => if k.jobRead || k.waitsPermit s k.buf.length k.jobRead then notNow s else put (gatherBlock s k)
      | i + 2 =>
        match moveJob s h k i with
        | none => notNow s
        | some r => put r

/-- The stages of a chain after ENTROPY. -/
def afterEntropy (cs : List Nat) : List Nat :=
  match cs with
  | [] => []
  | c :: r => if c = 1 then r else afterEntropy r

/-- Byte `o` of the entropy blocks of a job, where it can be read: of the source, or of its frames without their trailers. -/
def entropyByte (s : State) (k : Cmd) (o : Nat) : Option Byte :=
  let f := jcFrlen k.ccb
  let raw := if jcHas k.ccb 5 && jcFramed k.ccb && (jcChain k.ccb).headD 0 = 5 then o / f * (f + 4) + o % f else o
  match hareRead s k k.inSide.1 k.refS raw 1 with
  | .ok (_, bs, _, _) => bs.head?
  | .error _ => none

/-- The bytes that the entropy blocks from byte `o` to byte `n` decode to, as their headers say (R127); none where a header cannot be
read or is malformed. -/
def decodedSize (fuel : Nat) (s : State) (k : Cmd) (o n : Nat) : Option Nat :=
  match fuel with
  | 0 => some 0
  | f + 1 =>
    if n ≤ o then some 0
    else
      match (List.range 16).mapM (fun i => entropyByte s k (o + i)) with
      | none => none
      | some hd =>
        let h := natOfBytes hd
        let count := if (h >>> 8) % 4096 = 0 then 4096 else (h >>> 8) % 4096
        let e := o + 16 + (h >>> 20) % 4096
        if h % 256 ≠ 0xE7 || (h >>> 20) % 4096 = 0 || decide (n < e) then none
        else (decodedSize f s k e n).map (fun m => m + (count + 1) / 2)

/-- Bytes that a stopped job has not delivered (R115): what its whole input makes but for what has landed. The entropy blocks count by
their headers, as in the run of R453; where those do not say it, the number is a free value (notes/assumptions/24.md). -/
def Cmd.notDelivered (s : State) (k : Cmd) : Nat :=
  let b := k.ccb
  if jcHas b 1 then
    let n := if (jcChain b).headD 0 = 5 then chainSize b [5] (jcSrclen b) else jcSrclen b
    match decodedSize (n / 17 + 1) s k 0 n with
    | some m => chainSize b (afterEntropy (jcChain b)) m - k.landed
    | none => Config.undelivered k.id
  else chainSize b (jcChain b) (if jcHas b 6 then jcSrclen b * cpSesz b else jcSrclen b) - k.landed

/-- HARE_JOB_END (R115, R128, R406). -/
def execHareJobEnd (h : Nat) (s : State) : Host.Outcome State Fault Refusal :=
  if 4 ≤ h then .fault .noSuchUnit
  else
    let g := s.hare h
    match g.running with
    | none => notNow s
    | some k =>
      if k.jobRead && k.flushed then
        let (s, k) := payCredits (hareUnit h) k.credits s k
        let s : State :=
          match k.error with
          | some (code, flags, stop) => s.creditCmd k (hareUnit h) (k.notDelivered s) code flags stop
          | none => s
        happened ((((s.endWm k).setHare h { g with running := none }).completeCmd k).dropInsts k)
      else notNow s

end Sys2Proof.Machine
end

