-- ==== Sys2Proof/Machine/Badger.lean ====
section
/-! DEFINITION. Badger: PLDEC, PLAND, PLOR, PLTOPK and PLFUSE, and the events that run them (R245 to R258, R381 to R383). -/

namespace Sys2Proof.Machine

/-! ## The control block (R250) -/

def bcIn0 (b : List Word) : Word := nth b 0
def bcOut (b : List Word) : Word := nth b 1
def bcIn1 (b : List Word) : Word := nth b 6
def bcLo (b : List Word) : Nat := bits (nth b 2) 31 0
def bcHi (b : List Word) : Nat := bits (nth b 2) 63 32
def bcK (b : List Word) : Nat := bits (nth b 3) 20 10
def bcFmode (b : List Word) : Nat := bits (nth b 3) 9 8
def bcNt (b : List Word) : Nat := bits (nth b 3) 3 0
def bcP0 (b : List Word) : Nat := bits (nth b 4) 31 0
def bcP1 (b : List Word) : Nat := bits (nth b 4) 63 32
def bcN0 (b : List Word) : Nat := bits (nth b 5) 31 0
def bcN1 (b : List Word) : Nat := bits (nth b 5) 63 32

/-- An FP32 word that is NaN or infinite; one that is negative (−0 counts as +0, R246). -/
def notFinite (x : Nat) : Bool := (x >>> 23) % 256 = 255
def negative (x : Nat) : Bool := x.testBit 31 && x % 2 ^ 31 ≠ 0

/-- Fields outside the limits of R250, and the parameters of R251 item 3. -/
def badgerIllegal (kind : CmdKind) (b : List Word) : Bool :=
  bits (nth b 3) 63 21 ≠ 0 || bits (nth b 3) 7 4 ≠ 0 || word7Bad b || ccMcast b ≠ 0 || ccWmen b || ccWmreg b ≠ 0 ||
  decide (65536 < bcN0 b) || decide (65536 < bcN1 b) ||
  (match kind with
   | .pldec => bcK b ≠ 0 || bcFmode b ≠ 0 || bcNt b ≠ 1 || nth b 4 ≠ 0 || bcN1 b ≠ 0 || decide (bcHi b < bcLo b)
   | .pltopk => nth b 2 ≠ 0 || bcK b ≠ 0 || bcFmode b ≠ 0 || bcNt b ≠ 0 || nth b 4 ≠ 0 || bcN1 b ≠ 0 || nth b 6 ≠ 0
   | .plfuse =>
     bcHi b ≠ 0 || bcK b = 0 || decide (1024 < bcK b) || decide (1 < bcFmode b) || bcNt b ≠ 0 || notFinite (bcP0 b) || notFinite (bcP1 b)
   | _ =>
     decide (1024 < bcK b) || bcFmode b ≠ 0 || bcNt b = 0 || decide (8 < bcNt b) || notFinite (bcP0 b) || negative (bcP0 b) ||
     bcP1 b ≠ 0 || (bcK b ≠ 0 && bcN0 b ≠ 0) || bcN1 b ≠ 0 || nth b 6 ≠ 0 || decide (bcHi b < bcLo b))

/-- R251 item 2 for one pointer. -/
def storePtr (p : Word) (al : Nat) : Option Nat :=
  if !isAp p then some cALIGN else if apBad p then some cAPERTURE else if apOff p % al ≠ 0 then some cALIGN else none

/-- The pointers of a block with their alignments, in word order. -/
def badgerPtrs (kind : CmdKind) (b : List Word) : List (Word × Nat) :=
  match kind with
  | .pldec => [(bcIn0 b, 16), (bcOut b, 16), (bcIn1 b, 1)]
  | .pltopk => [(bcIn0 b, 8), (bcOut b, 16)]
  | .plfuse => [(bcIn0 b, 8), (bcOut b, 16), (bcIn1 b, 8)]
  | _ => [(bcIn0 b, 16), (bcOut b, 16)]

/-- The pair-store regions of a command (R251 item 4), as (offset, bytes); `cap` is the capacity of a top-k object. -/
def badgerRegions (kind : CmdKind) (b : List Word) (cap : Nat) : List (Nat × Nat) :=
  let o (p : Word) : Nat := apOff p
  match kind with
  | .pldec => [(o (bcIn0 b), 16 * bcNt b), (o (bcOut b), 16 + 4 * bcN0 b), (o (bcIn1 b), bcN0 b)]
  | .pltopk => [(o (bcIn0 b), 8 * bcN0 b), (o (bcOut b), 16 + 8 * cap)]
  | .plfuse => [(o (bcIn0 b), 8 * bcN0 b), (o (bcOut b), 16 + 8 * bcK b), (o (bcIn1 b), 8 * bcN1 b)]
  | _ => [(o (bcIn0 b), 16 * bcNt b), (o (bcOut b), 16 + 8 * (if bcK b = 0 then bcN0 b else bcK b))]

/-- Two of the regions intersect. -/
def regionsMeet (rs : List (Nat × Nat)) : Bool :=
  match rs with
  | [] => false
  | a :: r => r.any (fun b => decide (0 < a.2) && decide (0 < b.2) && decide (a.1 < b.1 + b.2) && decide (b.1 < a.1 + a.2)) || regionsMeet r

/-- Fields of a result header (R252). -/
def hdK (h : List Word) : Nat := bits (nth h 0) 58 48
def hdN (h : List Word) : Nat := bits (nth h 0) 31 0

/-- A top-k object's header fails the checks of R251. -/
def topkBad (h : List Word) : Bool :=
  hdK h = 0 || decide (1024 < hdK h) || decide (hdK h < hdN h)

/-- An entry of a term table fails item 2 (its LPTR), or item 3. -/
def lptrFault (p : Word) : Option Nat := ptrFault p
def termBad (p w : Word) : Bool := bits p 3 0 ≠ 0 || notFinite (bits w 63 32) || negative (bits w 63 32)

/-- The (LPTR, word 1) pairs of a term table. -/
def termPairs (ws : List Word) : List (Word × Word) :=
  match ws with
  | p :: w :: r => (p, w) :: termPairs r
  | _ => []

/-! ## Issue (R251, R382) -/

/-- The Badger engine that serves a core (R245), by the module's number. -/
def badgerFor (c : Nat) : Nat := 2 * towerOf c + coreIn c / 16 % 2

/-- The checks of R251, and the engine that takes the command. -/
def badgerIssue (s : State) (k : Cmd) : Res :=
  let b := k.ccb
  let c := k.core
  let kind := k.kind
  match (badgerPtrs kind b).findSome? (fun p => (storePtr p.1 p.2).map (fun e => (e, p.1))) with
  | some (e, p) => .trap e p 0
  | none =>
    let out := apAddr c (apOff (bcOut b))
    let table := apAddr c (apOff (bcIn0 b))
    let head := s.wordsNow out 2
    let regions := badgerRegions kind b (hdK head)
    if regions.any (fun r => decide (pairSize < r.1 + r.2)) then .trap cAPERTURE 0 0
    else
      let nt := if kind = .pltopk || kind = .plfuse then 0 else bcNt b
      let tab := s.wordsNow table (2 * nt)
      if s.poisonNow table (16 * nt) then .trap cPOISON (bcIn0 b) 0
      else if kind = .pltopk && s.poisonNow out 16 then .trap cPOISON (bcOut b) 0
      else
        match (termPairs tab).findSome? (fun p => (lptrFault p.1).map (fun e => (e, p.1))) with
        | some (e, p) => .trap e p 0
        | none =>
          if badgerIllegal kind b || (termPairs tab).any (fun p => termBad p.1 p.2) || (kind = .pltopk && topkBad head) then
            .trap cILLOP 0 0
          else if regionsMeet regions then .trap cCOPYOVL 0 0
          else
            let s := if kind = .pltopk then s.correct out 16 else s.correct table (16 * nt)
            .done (s.accept { k with aux := tab } (fun s k => s.setBadger (badgerFor c) ((s.badger (badgerFor c)).put k)))

/-- A Badger command: the L slot stalls while the engine holds 256 commands (R245). -/
def badgerOp (s : State) (kind : CmdKind) (p a b c : BitVec 5) (r : BitVec 6) : Res :=
  if decide (256 ≤ (s.badger (badgerFor s.focus.core)).cmds.length) then .wait else engineOp s kind p a b c r (badgerIssue s)

/-- PLDEC (R254). -/
def execPldec (p a b c : BitVec 5) (r : BitVec 6) (s : State) : Host.Outcome State Fault Refusal :=
  finish s (badgerOp s .pldec p a b c r)
/-- PLAND (R255). -/
def execPland (p a b c : BitVec 5) (r : BitVec 6) (s : State) : Host.Outcome State Fault Refusal :=
  finish s (badgerOp s .pland p a b c r)
/-- PLOR (R255). -/
def execPlor (p a b c : BitVec 5) (r : BitVec 6) (s : State) : Host.Outcome State Fault Refusal :=
  finish s (badgerOp s .plor p a b c r)
/-- PLTOPK (R256). -/
def execPltopk (p a b c : BitVec 5) (r : BitVec 6) (s : State) : Host.Outcome State Fault Refusal :=
  finish s (badgerOp s .pltopk p a b c r)
/-- PLFUSE (R257). -/
def execPlfuse (p a b c : BitVec 5) (r : BitVec 6) (s : State) : Host.Outcome State Fault Refusal :=
  finish s (badgerOp s .plfuse p a b c r)

/-! ## Posting lists (R246 to R248) -/

/-- A block whose header has been read; its postings (docid, impact) once it is decoded. -/
structure PBlock where
  first : Nat
  last : Nat
  count : Nat
  width : Nat
  maxImp : Nat
  off : Nat
  blen : Nat
  lastBlk : Bool
  docs : Option (List (Nat × Nat))

/-- A list as a command has read it: the offset and index of the next block, the current block, whether the list has ended. -/
structure PList where
  ptr : Word
  weight : Nat
  lim : Nat
  off : Nat
  idx : Nat
  cur : Option PBlock
  ended : Bool

def PList.ofTerm (p : Word × Word) : PList :=
  let w := bits p.2 63 32
  { ptr := p.1, weight := if w % 2 ^ 31 = 0 then 0 else w, lim := 16 * bits p.2 31 0, off := 0, idx := 0, cur := none, ended := false }

/-- The pieces of bytes [off, off + n) of a list (R258): or XLATE, PERM, LAYERLOST, TAGKEY, POISON. Locks are checked where a part is still to be
read (R103). -/
def plRead (s : State) (k : Cmd) (p : Word) (off n : Nat) : Except Nat (List (Nat × Nat)) :=
  let bad (ps : List (Nat × Nat)) : Bool := ps.any (fun q => s.poisoned q.1 q.2)
  if isAp p then
    if pairSize < apOff p + off + n then .error cXLATE
    else
      let ps := [(apAddr k.core (apOff p + off), n)]
      if bad ps then .error cPOISON else .ok ps
  else
    let parts := Ctx.cut s k.view (n / 4096 + 80) (vaOf p + off) (vaOf p + off + n)
    let xs := parts.filterMap (fun q => q.xl.map (fun x => (q, x)))
    if xs.length ≠ parts.length || xs.any (fun q => !(s.inLevel q.2.pa q.1.len q.2.level)) then .error cXLATE
    else if xs.any (fun q => !(q.2.permits s .rd)) then .error cPERM
    else if xs.any (fun q => s.lostAt q.2.pa) then .error cLAYERLOST
    else if xs.any (fun q => q.2.tchk && (wordPieces (0, q.2.pa, q.1.len)).any (fun w =>
        (k.readEarly w).isNone && (s.lockMiss w.pa w.len (keyOf p)).isSome)) then .error cTAGKEY
    else
      let ps := xs.map (fun q => (q.2.pa, q.1.len))
      if bad ps then .error cPOISON else .ok ps

def plBytes (s : State) (ps : List (Nat × Nat)) : List Byte := ps.flatMap (fun q => bytesOf q.2 (s.readMem q.1 q.2))

/-- BLEN (R247). -/
def blockLen (count width : Nat) : Nat := alignUp (16 + (count * width + 7) / 8 + count) 16

/-- What reading a list gives: the list, the pieces read; or (code, STOPIDX). -/
abbrev ListRes := Except (Nat × Nat) (PList × List (Nat × Nat))

/-- STOPIDX of a list fault (R258). -/
def listStop (t i : Nat) : Nat := t <<< 28 + i % 2 ^ 28

/-- The next block's header, checked (R248). -/
def PList.header (s : State) (k : Cmd) (t : Nat) (l : PList) : ListRes :=
  let stop := listStop t l.idx
  if l.lim < l.off + 16 then .error (cPLFORMAT, stop)
  else
    match plRead s k l.ptr l.off 16 with
    | .error e => .error (e, stop)
    | .ok ps =>
      let h := natOfBytes (plBytes s ps)
      let f (hi lo : Nat) : Nat := (h >>> lo) % 2 ^ (hi + 1 - lo)
      let blk : PBlock :=
        { first := f 31 0, last := f 63 32, count := f 71 64, width := f 77 72, maxImp := f 87 80, off := l.off, blen := f 111 96,
          lastBlk := f 88 88 = 1, docs := none }
      let after : Bool :=
        match l.cur with
        | some b => decide (b.last < blk.first)
        | none => true
      let e := l.off + blk.blen
      let ok := decide (1 ≤ blk.count) && decide (blk.count ≤ 128) && decide (1 ≤ blk.width) && decide (blk.width ≤ 32) &&
        f 79 78 = 0 && f 95 89 = 0 && f 127 112 = 0 && blk.blen = blockLen blk.count blk.width && decide (blk.first ≤ blk.last) &&
        after && decide (e ≤ l.lim) && (blk.lastBlk || decide (e < l.lim))
      if ok then .ok ({ l with off := e, idx := l.idx + 1, cur := some blk }, ps) else .error (cPLFORMAT, stop)

/-- Headers read until the current block ends at or after `pos`, or the list has ended. -/
def PList.advance (fuel : Nat) (s : State) (k : Cmd) (t pos : Nat) (l : PList) : ListRes :=
  match fuel with
  | 0 => .ok (l, [])
  | f + 1 =>
    let next (_ : Unit) : ListRes :=
      match l.header s k t with
      | .error e => .error e
      | .ok (l, ps) =>
        match PList.advance f s k t pos l with
        | .error e => .error e
        | .ok (l, qs) => .ok (l, ps ++ qs)
    if l.ended then .ok (l, [])
    else
      match l.cur with
      | none => next ()
      | some b => if pos ≤ b.last then .ok (l, []) else if b.lastBlk then .ok ({ l with ended := true }, []) else next ()

/-- The docids of a block after its first (R247). -/
def docChain (d dv width i n : Nat) : List Nat :=
  match n with
  | 0 => []
  | m + 1 =>
    let e := d + (dv >>> (i * width)) % 2 ^ width + 1
    e :: docChain e dv width (i + 1) m

/-- The current block decoded, its body checked (R247, R248). -/
def PList.decode (s : State) (k : Cmd) (t : Nat) (l : PList) : ListRes :=
  match l.cur with
  | none => .ok (l, [])
  | some b =>
    match b.docs with
    | some _ => .ok (l, [])
    | none =>
      let stop := listStop t (l.idx - 1)
      match plRead s k l.ptr b.off b.blen with
      | .error e => .error (e, stop)
      | .ok ps =>
        let bs := plBytes s ps
        let dn := (b.count * b.width + 7) / 8
        let dv := natOfBytes ((bs.drop 16).take dn)
        let imps := ((bs.drop (16 + dn)).take b.count).map (fun x => x.toNat)
        let docs := b.first :: docChain b.first dv b.width 1 (b.count - 1)
        let last := docs.getLastD 0
        let ok := dv % 2 ^ b.width = 0 && dv >>> (b.count * b.width) = 0 && decide (last < 2 ^ 32) && last = b.last &&
          imps.foldl max 0 = b.maxImp && (bs.drop (16 + dn + b.count)).all (fun x => x = 0)
        if ok then .ok ({ l with cur := some { b with docs := some (docs.zip imps) } }, ps) else .error (cPLFORMAT, stop)

/-! ## Ranking (R252, R253) -/

/-- Ranking order of records (docid, score). -/
def ranksBefore (a b : Nat × Nat) : Bool :=
  let x := v32 a.2
  let y := v32 b.2
  match x.isNan, y.isNan with
  | true, true => decide (a.1 < b.1)
  | true, false => false
  | false, true => true
  | false, false => let c := cmpV x y; decide (0 < c) || (c = 0 && decide (a.1 < b.1))

def insertRanked (r : Nat × Nat) (l : List (Nat × Nat)) : List (Nat × Nat) :=
  match l with
  | [] => [r]
  | q :: t => if ranksBefore r q then r :: q :: t else q :: insertRanked r t

/-- Records in ranking order, the first `n`. -/
def topRanked (n : Nat) (l : List (Nat × Nat)) : List (Nat × Nat) :=
  l.foldl (fun h r => (insertRanked r h).take n) []

/-- `a ≤ b` of two FP32 words. -/
def le32 (a b : Nat) : Bool := decide (cmpV (v32 a) (v32 b) ≤ 0)

/-- WEIGHT × m + s, rounded once (R253). -/
def addTerm (w m s : Nat) : Nat := r32 (fmaV (v32 w) (valOfInt (m : Int)) (v32 s)).1

/-! ## Runs of commands (R254 to R257) -/

/-- A command as it runs: its lists, the records (or docids with impacts) found, whether more existed, the pieces read, the fault. -/
structure PRun where
  lists : List PList
  recs : List (Nat × Nat)
  trunc : Bool
  reads : List (Nat × Nat)
  err : Option (Nat × Nat)

/-- A reading step on every list in turn, until one fails. -/
def PRun.each (w : PRun) (f : Nat → PList → ListRes) : PRun :=
  w.lists.zipIdx.foldl (fun (a : PRun) q =>
    match a.err with
    | some _ => { a with lists := a.lists ++ [q.1] }
    | none =>
      match f q.2 q.1 with
      | .error e => { a with lists := a.lists ++ [q.1], err := some e }
      | .ok (l, ps) => { a with lists := a.lists ++ [l], reads := a.reads ++ ps }) { w with lists := [] }

/-- The block of a list that covers `pos`. -/
def PList.cover (l : PList) (pos : Nat) : Option PBlock :=
  if l.ended then none
  else
    match l.cur with
    | some b => if b.first ≤ pos && pos ≤ b.last then some b else none
    | none => none

/-- end_t of R255. -/
def PList.endAt (l : PList) (pos hi : Nat) : Nat :=
  if l.ended then hi
  else
    match l.cur with
    | some b => if b.first ≤ pos then b.last else b.first - 1
    | none => hi

/-- A docid put in its place, once. -/
def insertDoc (d : Nat) (l : List Nat) : List Nat :=
  match l with
  | [] => [d]
  | e :: r => if d < e then d :: e :: r else if d = e then e :: r else e :: insertDoc d r

def PBlock.posts (b : PBlock) : List (Nat × Nat) := b.docs.getD []

/-- score(d) over the covering blocks (R253). -/
def scoreOf (cs : List (Nat × PBlock)) (d : Nat) : Nat :=
  cs.foldl (fun s c =>
    match c.2.posts.lookup d with
    | some m => addTerm c.1 m s
    | none => s) 0

/-- A candidate that reaches θ (R255): its record, and whether the walk ends. -/
def PRun.emit (w : PRun) (cap outmax : Nat) (r : Nat × Nat) : PRun :=
  if w.trunc then w
  else if cap = 0 then (if w.recs.length < outmax then { w with recs := w.recs ++ [r] } else { w with trunc := true })
  else { w with recs := (insertRanked r w.recs).take cap }

/-- `walk` of R255. -/
def plWalk (fuel : Nat) (s : State) (k : Cmd) (pos : Nat) (w : PRun) : PRun :=
  match fuel with
  | 0 => w
  | f + 1 =>
    let b := k.ccb
    let hi := bcHi b
    let cap := bcK b
    if hi < pos || w.trunc then w
    else
      let w := w.each (fun t l => l.advance (l.lim / 16 + 2) s k t pos)
      if w.err.isSome || w.lists.all (fun l => l.ended) then w
      else
        let e := w.lists.foldl (fun m l => min m (l.endAt pos hi)) hi
        let cs := w.lists.filterMap (fun l => (l.cover pos).map (fun c => (l.weight, c)))
        let bound := cs.foldl (fun x c => addTerm c.1 c.2.maxImp x) 0
        let kth := (w.recs.getLastD (0, 0)).2
        let skip := cs.isEmpty || (k.kind = .pland && decide (cs.length < w.lists.length)) || !(le32 (bcP0 b) bound) ||
          (decide (1 ≤ cap) && w.recs.length = cap && le32 bound kth)
        if skip then plWalk f s k (e + 1) w
        else
          let w := w.each (fun t l => if (l.cover pos).isSome then l.decode s k t else .ok (l, []))
          if w.err.isSome then w
          else
            let cs := w.lists.filterMap (fun l => (l.cover pos).map (fun c => (l.weight, c)))
            let docs := (cs.flatMap (fun c => c.2.posts.map Prod.fst)).foldl (fun l d => insertDoc d l) []
            let cands := docs.filter (fun d => decide (pos ≤ d) && decide (d ≤ e) &&
              (k.kind ≠ .pland || cs.all (fun c => (c.2.posts.lookup d).isSome)))
            let w := cands.foldl (fun (w : PRun) d =>
              let x := scoreOf cs d
              if le32 (bcP0 b) x then w.emit cap (bcN0 b) (d, x) else w) w
            plWalk f s k (e + 1) w

/-- PLDEC (R254): docids with their impacts. -/
def plDec (fuel : Nat) (s : State) (k : Cmd) (w : PRun) : PRun :=
  match fuel with
  | 0 => w
  | f + 1 =>
    let b := k.ccb
    match w.lists with
    | [] => w
    | l :: _ =>
      if w.trunc || l.ended then w
      else
        match l.header s k 0 with
        | .error e => { w with err := some e }
        | .ok (l, ps) =>
          let w := { w with lists := [l], reads := w.reads ++ ps }
          match l.cur with
          | none => w
          | some blk =>
            if bcHi b < blk.first then w
            else
              let w :=
                if blk.last < bcLo b then w
                else
                  match l.decode s k 0 with
                  | .error e => { w with err := some e }
                  | .ok (l, ps) =>
                    let ds := ((l.cur.map PBlock.posts).getD []).filter (fun p => decide (bcLo b ≤ p.1) && decide (p.1 ≤ bcHi b))
                    ds.foldl (fun (w : PRun) p => w.emit 0 (bcN0 b) p) { w with reads := w.reads ++ ps }
              if w.err.isSome || blk.lastBlk || decide (bcHi b ≤ blk.last) then w else plDec f s k w

/-- Records of an array in the pair store, in order, with the index of the first poisoned one. -/
def readRecords (s : State) (pa n : Nat) : List (Nat × Nat) × Option Nat :=
  let rs := (List.range n).map (fun i => (s.readMem (pa + 8 * i) 4, s.readMem (pa + 8 * i + 4) 4))
  (rs, (List.range n).find? (fun i => s.poisoned (pa + 8 * i) 8))

/-- The index of the first record whose docid an earlier one has. -/
def firstTwice (rs : List (Nat × Nat)) (i : Nat) (seen : List Nat) : Option Nat :=
  match rs with
  | [] => none
  | r :: t => if seen.contains r.1 then some i else firstTwice t (i + 1) (r.1 :: seen)

/-- w / n, rounded once (R257). -/
def weightOver (w n : Nat) : Nat :=
  match v32 w with
  | .num sg m e =>
    if m = 0 then Fmt.signBit .f32 sg
    else
      let k := n.log2 + 80
      let q := (m <<< k) / n
      if q * n = m <<< k then (roundNum .f32 sg q (e - k)).bits else (roundCut .f32 sg q (e - k)).bits
  | v => r32 v

/-- A fault of a record array (R257, R258): poison or, in PLFUSE, a docid that appears twice, whichever comes first. -/
def recordFault (top : Nat) (rs : List (Nat × Nat)) (bad : Option Nat) (twice : Bool) : Option (Nat × Nat) :=
  let d := if twice then firstTwice rs 0 [] else none
  match bad, d with
  | none, none => none
  | some i, none => some (cPOISON, top <<< 31 + i)
  | none, some j => some (cPLFORMAT, top <<< 31 + j)
  | some i, some j => if i ≤ j then some (cPOISON, top <<< 31 + i) else some (cPLFORMAT, top <<< 31 + j)

/-- PLFUSE (R257): the fused records. -/
def fuseRecords (b : List Word) (lex den : List (Nat × Nat)) : List (Nat × Nat) :=
  let rl := topRanked lex.length lex
  let rd := topRanked den.length den
  let docs := ((lex ++ den).map Prod.fst).foldl (fun l d => insertDoc d l) []
  let f (d : Nat) : Nat :=
    if bcFmode b = 0 then
      let x := r32 (mulV (v32 (bcP0 b)) (v32 ((lex.lookup d).getD 0))).1
      r32 (fmaV (v32 (bcP1 b)) (v32 ((den.lookup d).getD 0)) (v32 x)).1
    else
      let t (w : Nat) (r : List (Nat × Nat)) : Option Nat :=
        (r.findIdx? (fun e => e.1 = d)).map (fun i => weightOver w (bcLo b + i + 1))
      match t (bcP0 b) rl, t (bcP1 b) rd with
      | some x, some y => (addF .f32 x y).bits
      | some x, none => x
      | none, some y => y
      | none, none => 0
  topRanked (bcK b) (docs.map (fun d => (d, f d)))

/-- A command run over the state as it stands (R254 to R257). A PLTOPK merges into the object as its start read it. -/
def badgerRun (s : State) (k : Cmd) : PRun :=
  let b := k.ccb
  let w0 : PRun := { lists := (termPairs k.aux).map PList.ofTerm, recs := [], trunc := false, reads := [], err := none }
  let fuel := w0.lists.foldl (fun n l => n + 2 * (l.lim / 16) + 4) 4
  let in0 := apAddr k.core (apOff (bcIn0 b))
  match k.error with
  | some (code, _, stop) => { w0 with err := some (code, stop) }
  | none =>
    match k.kind with
    | .pldec => plDec fuel s k w0
    | .pltopk =>
      let (rs, bad) := readRecords s in0 (bcN0 b)
      match recordFault 0 rs bad false with
      | some e => { w0 with err := some e }
      | none =>
        let old := (k.aux.drop 2).map (fun w => (bits w 31 0, bits w 63 32))
        { w0 with lists := [], recs := topRanked (hdK k.aux) (old ++ rs), reads := [(in0, 8 * bcN0 b)] }
    | .plfuse =>
      let in1 := apAddr k.core (apOff (bcIn1 b))
      let (lex, bl) := readRecords s in0 (bcN0 b)
      let (den, bd) := readRecords s in1 (bcN1 b)
      match recordFault 0 lex bl true with
      | some e => { w0 with err := some e }
      | none =>
        match recordFault 1 den bd true with
        | some e => { w0 with err := some e }
        | none => { w0 with recs := fuseRecords b lex den, reads := [(in0, 8 * bcN0 b), (in1, 8 * bcN1 b)] }
    | _ => plWalk fuel s k (bcLo b) w0

/-! ## Results and events (R252, R258, R383) -/

/-- The capacity in a result header. -/
def Cmd.resultK (k : Cmd) : Nat :=
  match k.kind with
  | .pltopk => hdK k.aux
  | _ => bcK k.ccb

/-- θ, or +0. -/
def Cmd.theta (k : Cmd) : Nat :=
  match k.kind with
  | .pland => bcP0 k.ccb
  | .plor => bcP0 k.ccb
  | _ => 0

/-- Bytes that a command writes, by their address. -/
abbrev Written := List (Nat × List Byte)

/-- The records at OUT + 16 (docids for PLDEC, whose impacts go to IN1). -/
def Cmd.recordBytes (k : Cmd) (rs : List (Nat × Nat)) : Written :=
  let out := apAddr k.core (apOff (bcOut k.ccb)) + 16
  if k.kind = .pldec then
    [(out, rs.flatMap (fun r => bytesOf 4 r.1)),
     (apAddr k.core (apOff (bcIn1 k.ccb)), rs.map (fun r => BitVec.ofNat 8 r.2))]
  else [(out, rs.flatMap (fun r => bytesOf 4 r.1 ++ bytesOf 4 r.2))]

/-- The result header (R252). -/
def Cmd.headerBytes (k : Cmd) (n theta : Nat) (trunc : Bool) : Written :=
  [(apAddr k.core (apOff (bcOut k.ccb)),
    wordsBytes [BitVec.ofNat 64 (k.resultK <<< 48 + bnat trunc <<< 32 + n), BitVec.ofNat 64 theta])]

/-- What a finished run leaves in memory (R252, R258). -/
def Cmd.results (k : Cmd) (w : PRun) : Written :=
  match w.err with
  | some _ =>
    if k.kind = .pltopk then []
    else k.recordBytes (w.recs.take (Config.partialRecs k.id)) ++ k.headerBytes 0 k.theta false
  | none =>
    let n := w.recs.length
    let theta := if n = k.resultK && n ≠ 0 then (w.recs.getLastD (0, 0)).2 else k.theta
    k.recordBytes w.recs ++ k.headerBytes n theta w.trunc

/-- Those bytes written. -/
def State.putResult (s : State) (k : Cmd) (w : PRun) : State :=
  (k.results w).foldl (fun (s : State) b => s.writeBytes b.1 b.2) s

/-- Badger engines of the module. -/
def numBadgers : Nat := 16

/-- The words of `n` bytes from an address read by an engine, each at its home (R223). -/
def readWords (s : State) (pa n : Nat) : State × List RowPart :=
  let ps : List RowPart := (wordPieces (0, pa, n)).map (fun p => { piece := p, done := false, bad := false, soft := false })
  readFirst ps.length s ps

/-- A PLTOPK reads its object afresh (R383); a header that fails R251, or poison, stops it. Corrected errors are kept for its credit (R223). -/
def startTopk (s : State) (k : Cmd) : State × Cmd :=
  let b := k.ccb
  let pa := apAddr k.core (apOff (bcOut b))
  let (s, hd) := readWords s pa 16
  let h := s.words pa 2
  let regions := badgerRegions .pltopk b (hdK h)
  let k : Cmd := { k with src := some hd }
  if s.poisoned pa 16 then (s, { k with error := some (cPOISON, fgPOISON, 2 ^ 31) })
  else if topkBad h || regions.any (fun r => decide (pairSize < r.1 + r.2)) || regionsMeet regions then
    (s, { k with error := some (cPLFORMAT, 0, 0) })
  else
    let (s, rs) := readWords s (pa + 16) (8 * hdN h)
    let k : Cmd := { k with src := some (hd ++ rs) }
    match (readRecords s (pa + 16) (hdN h)).2 with
    | some i => (s, { k with error := some (cPOISON, fgPOISON, 2 ^ 31 + i) })
    | none => (s, { k with aux := h ++ s.words (pa + 16) (hdN h) })

/-- BADGER_START (R245, R383): an idle engine takes its oldest ready command. -/
def execBadgerStart (b : Nat) (s : State) : Host.Outcome State Fault Refusal :=
  if numBadgers ≤ b then .fault .noSuchUnit
  else
    let g := s.badger b
    match g.running with
    | some _ => notNow s
    | none =>
      match takeReady s g.queue with
      | none => notNow s
      | some (k, q) =>
        let (s, k) := if k.kind = .pltopk then startTopk s k else (s, k)
        happened (s.setBadger b { queue := q, running := some k })

/-- Memory as a running command reads it: the parts that it has read hold what they held then (R331), and an error that check columns do not
correct is poison (R28, R223). -/
def Cmd.sees (k : Cmd) (s : State) : State :=
  (k.src.getD []).foldl (fun (s : State) p =>
    let s := s.writeMem p.piece.pa p.piece.len p.piece.val
    if p.bad then s.markPoison (p.piece.pa / 8) else s) (s.correctBy (fun w => s.detectOnly (8 * w)))

/-- The run of the command as memory stands, with what it has read already. -/
def Cmd.run (s : State) (k : Cmd) : PRun := badgerRun (k.sees s) k

/-- What the command reaches next and has not read: the parts of the first read of its run of which one is missing (R383). -/
def Cmd.reaches (s : State) (k : Cmd) : List Piece :=
  let missing (q : Nat × Nat) : List Piece := (wordPieces (0, q.1, q.2)).filter (fun p => (k.readEarly p).isNone)
  (((k.run s).reads.map missing).find? (fun ps => !ps.isEmpty)).getD []

/-- The results of the run on their way (R189), with the credit that follows them (R258): 64 bytes, the code, the flags, STOPIDX. What the run
had still to read is read. -/
def finishRun (s : State) (k : Cmd) : State × Cmd :=
  let w := k.run s
  let late := (w.reads.flatMap (fun q => wordPieces (0, q.1, q.2))).filter (fun p => (k.readEarly p).isNone)
  let soft := if (k.src.getD []).any RowPart.soft || late.any (fun p => s.softAt p.pa p.len) then fgCORRECTED else 0
  let (code, stop) := w.err.getD (0, 0)
  let parts : List (Piece × Bool) := (k.results w).flatMap (fun b =>
    (wordPieces (0, b.1, b.2.length)).map (fun p => ({ p with val := natOfBytes ((b.2.drop p.off).take p.len) }, false)))
  (late.foldl (fun (s : State) p => s.correct p.pa p.len) s,
   { k with read := true, src := none,
            landing := [{ parts := parts, vas := [], bytes := 64, code := code, flags := flagOf code ||| soft, ix := stop }] })

/-- Command `k` of engine `b` after a move: complete once its results have landed and its credit is made (R258). -/
def putBadger (s : State) (b : Nat) (k : Cmd) : State :=
  let g := s.badger b
  if k.read && k.landing.isEmpty then (s.setBadger b { g with running := none }).completeCmd k
  else s.setBadger b { g with running := some k }

/-- How many of the results on their way, which stand in order, may land now: the two words of the header only behind the records (R252). -/
def Cmd.mayLand (k : Cmd) : Nat :=
  let n := (k.landing.map (fun l => l.parts.length)).sum
  if n ≤ 2 then n else n - 2

/-- BADGER_COMPLETE (R189, R258, R383) of engine `a.1`: with `a.2` 0 the running command runs to its end: the results, the credit of 64 bytes, the
token; with 1 its run ends and the results are on their way; from 2 on `a.2` counts a part that moves: a result that lands, the header behind the
records (R252), or before the end of the run one of those that it reaches next, which is read. -/
def execBadgerComplete (a : Nat × Nat) (s : State) : Host.Outcome State Fault Refusal :=
  let b := a.1
  let unit := 0x20 + b % 2
  if numBadgers ≤ b then .fault .noSuchUnit
  else
    match (s.badger b).running with
    | none => notNow s
    | some k =>
      match a.2 with
      | 0 =>
        let (s, k) := if k.read then (s, k) else finishRun s k
        let (s, k) := landRows s unit k
        happened (putBadger s b k)
      | 1 =>
        if k.read then notNow s
        else
          let (s, k) := finishRun s k
          let (s, k) := payRows unit k.landing s k
          happened (putBadger s b k)
      | i + 2 =>
        if k.read then
          match (if i < k.mayLand then landOf s unit k 0 i else none) with
          | none => notNow s
          | some (s, k) => happened (putBadger s b k)
        else
          match (k.reaches s)[i]? with
          | none => notNow s
          | some p =>
            let (s, q) := readRowPart s { piece := p, done := false, bad := false, soft := false }
            happened (putBadger s b { k with src := some (q :: k.src.getD []) })

end Sys2Proof.Machine
end

