-- ==== Sys2Proof/Machine/Egress.lean ====
section
/-! DEFINITION. The egress release queues: EGQ, RELEASE, VETO, the records that leave, stream resets, and the rings that the device
fills and the host empties (R264 to R268, R272, R273, R343, R386, R387). -/

namespace Sys2Proof.Machine

/-! ## Rings in LPDDR6 (R273) -/

/-- An alarm raised: 0 THERMAL, 1 LAUNCHQ, 2 HOSTREF, 3 RINGERR (R272). -/
def State.alarm (s : State) (n : Nat) : State := s.modMgmt (fun m => { m with alarms := m.alarms ||| (1#4 <<< n) })

/-- Records waiting in a ring whose indices count modulo `m`. -/
def HostRing.used (r : HostRing) (m : Nat) : Nat := (r.tail.toNat + m - r.head.toNat % m) % m

/-- The values of a ring of records of `size` bytes are valid. -/
def HostRing.valid (r : HostRing) (size m : Nat) : Bool :=
  r.base.toNat % size = 0 && decide (2 ≤ r.slots.toNat) && decide (r.slots.toNat ≤ 65535) &&
  inLpddr r.base.toNat (r.slots.toNat * size) && decide (r.used m ≤ r.slots.toNat)

/-- The ring has room. -/
def HostRing.room (r : HostRing) (m : Nat) : Bool := decide (r.used m < r.slots.toNat)

/-- Where the next record goes. -/
def HostRing.next (r : HostRing) (size : Nat) : Nat := r.base.toNat + r.tail.toNat % r.slots.toNat * size

/-- The tail advanced. -/
def HostRing.advance (r : HostRing) (m : Nat) : HostRing := { r with tail := BitVec.ofNat 64 ((r.tail.toNat + 1) % m) }

/-! ## EGQ (R265, R343) -/

def eqPayload (b : List Word) : Word := nth b 0
def eqPlen (b : List Word) : Nat := bits (nth b 1) 38 32
def eqMen (b : List Word) : Bool := bit (nth b 1) 13
def eqDie (b : List Word) : Nat := bits (nth b 1) 12 12
def eqStream (b : List Word) : Nat := bits (nth b 1) 11 0
def eqSeq (b : List Word) : Nat := bits (nth b 2) 31 0
def eqRing (b : List Word) : Nat := bits (nth b 3) 3 0

/-- R107 item 2 for EGQ. -/
def egqIllegal (b : List Word) : Bool :=
  bits (nth b 1) 63 39 ≠ 0 || bits (nth b 1) 31 14 ≠ 0 || bits (nth b 2) 63 32 ≠ 0 || bits (nth b 3) 63 4 ≠ 0 || nth b 4 ≠ 0 ||
  nth b 5 ≠ 0 || nth b 6 ≠ 0 || word7Bad b || ccWmen b || eqPlen b = 0 || decide (64 < eqPlen b) || eqPlen b % 8 ≠ 0 ||
  !(isAp (eqPayload b)) || apOff (eqPayload b) % 8 ≠ 0

/-- The checks of R107 for EGQ, and its queue. -/
def egqIssue (s : State) (k : Cmd) : Res :=
  let b := k.ccb
  let lo : Int := (apOff (eqPayload b) : Int)
  match sidePtr (eqPayload b) (if eqPlen b = 0 then none else some (lo, lo + eqPlen b - 1)) with
  | some e => .trap e (eqPayload b) 0
  | none =>
    if egqIllegal b then .trap cILLOP 0 0
    else
      match (if eqMen b then s.ringTargets k.core (eqRing b) (ccMcast b) else some []) with
      | none => .trap cRINGOVER 0 0
      | some rs =>
        .done (s.accept { k with slots := rs, lands := rs.map (fun _ => 0) }
          (fun s k => s.setEgr (eqDie b) { s.egr (eqDie b) with queue := (s.egr (eqDie b)).queue ++ [k] }))

/-- EGQ (R265, R343). -/
def execEgq (p a b c : BitVec 5) (r : BitVec 6) (s : State) : Host.Outcome State Fault Refusal :=
  finish s (engineOp s .egq p a b c r (egqIssue s))

/-! ## The queue (R264, R265) -/

def Egress.stream (e : Egress) (n : Nat) : EgStream := e.streams.get n EgStream.reset
def Egress.setStream (e : Egress) (n : Nat) (v : EgStream) : Egress := { e with streams := e.streams.set n v }

/-- Entries that the queue holds. -/
def Egress.held (e : Egress) : Nat := (e.items.filter (fun i => !i.veto)).length

/-- The mirror record of an entry. -/
def mirrorBytes (b : List Word) (payload : List Byte) : List Byte :=
  bytesOf 4 (eqSeq b) ++ bytesOf 2 (eqDie b <<< 12 + eqStream b) ++ bytesOf 1 (eqPlen b) ++ List.replicate 9 0 ++ payload

/-- The instances that a mirror record lands in. -/
def State.mirrors (s : State) (k : Cmd) : List RingInst := k.slots.filterMap (fun q => s.inst q.1 q.2)

/-- An EGQ that ends: its credit, its token. -/
def endEgq (s : State) (d : Nat) (k : Cmd) (code flags stop : Nat) : State :=
  let s := s.creditCmd k (0x38 + d) 64 code flags stop
  let s := s.setEgr d { s.egr d with queue := (s.egr d).queue.filter (fun j => j.id ≠ k.id) }
  (s.completeCmd k).dropInsts k

/-- The end of an EGQ whose entry is enqueued: its mirror record lands in every targeted instance at once, none while one grants no permit
or another command has begun to write its next slot. Poison and corrected errors of the payload are reported as a copy reports them (R224), a slot in a retired layer with LAYERLOST (R209). -/
def egqMirror (s : State) (d : Nat) (k : Cmd) : Option State :=
  let is := s.mirrors k
  let lost := is.any (fun i => s.lostAt (i.slotAddr i.tail))
  if is.any (fun i => !i.permit || s.slotTaken k (i, 0)) then none
  else
    let code := if lost then cLAYERLOST else if k.bad.isEmpty then 0 else cPOISON
    let s := if lost then s else is.foldl (fun (s : State) i => s.landSlot i (mirrorBytes k.ccb k.buf) k.bad k.early) s
    some (endEgq s d k code (flagOf code ||| (if k.read then fgCORRECTED else 0)) 0)

/-- An EGQ of the queue replaced by the command as it stands. -/
def Egress.put (e : Egress) (k : Cmd) : Egress := { e with queue := e.queue.map (fun j => if j.id = k.id then k else j) }

/-- The first stage of `egq_run` of R265: the payload is read. -/
def egqRead (s : State) (d : Nat) (k : Cmd) : State :=
  let n := eqPlen k.ccb
  let pa := apAddr k.core (apOff (eqPayload k.ccb))
  let soft := s.softAt pa n
  let s := s.correct pa n
  let bad := ((List.range n).filter (fun i => s.poisoned (pa + i) 1)).map (fun i => 16 + i)
  s.setEgr d ((s.egr d).put { k with row := 1, buf := bytesOf n (s.readMem pa n), bad := bad, read := soft })

/-- The second: with a free entry, the sequence number is checked and the entry enqueued. -/
def egqEnter (s : State) (d : Nat) (k : Cmd) : Option State :=
  let b := k.ccb
  let e := s.egr d
  let st := e.stream (eqStream b)
  if 65536 ≤ e.held then none
  else if eqSeq b ≠ st.next || st.next = 0xFFFFFFFF then some (endEgq s d k cILLOP 0 (eqSeq b))
  else
    let item : EgItem :=
      { stream := eqStream b, seq := eqSeq b, last := eqSeq b, veto := false, plen := eqPlen b, payload := k.buf, released := false }
    let e := (e.setStream (eqStream b) { st with next := st.next + 1 }).put { k with row := 2 }
    let s := s.setEgr d { e with items := e.items ++ [item] }
    some ((egqMirror s d { k with row := 2 }).getD s)

/-- `egq_run` of R265 for a command at its turn; none while it waits for a free entry or a permit. `row` counts the stages behind it. -/
def egqRun (s : State) (d : Nat) (k : Cmd) : Option State :=
  match k.row with
  | 0 => some (egqRead s d k)
  | 1 => egqEnter s d k
  | _ => egqMirror s d k

/-- The words of the mirror record that can land, each with its command: an entered command whose record waits for no permit (R189). -/
def State.mirrorWords (s : State) (d : Nat) : List (Cmd × Piece × Bool) :=
  ((s.egr d).queue.filter (fun k => k.row = 2 && (s.mirrors k).all (fun i => i.permit))).flatMap (fun k =>
    let bs := mirrorBytes k.ccb k.buf
    ({ k with buf := bs }.earlyWords s bs.length true).map (fun w => (k, w)))

/-- Word `i` of the mirror records that can land lands before the rest of its record (R189). -/
def State.mirrorEarly (s : State) (d i : Nat) : Option State :=
  ((s.mirrorWords d)[i]?).map (fun w =>
    let s := s.landPart w.2
    s.setEgr d ((s.egr d).put { w.1 with early := w.2.1.pa / 8 :: w.1.early }))

/-- The commands of the queue of edge die `d` whose edges are met: no order holds among them (R265). -/
def State.egqReady (s : State) (d : Nat) : List Cmd := (s.egr d).queue.filter (fun k => s.depsMet k)

/-- EGQ_RUN (R62, R265): a command of the queue that is ready reads its payload, enters the queue or ends: the first that can go on (part 0), or the
`j`-th of them (the parts behind the words below); or word `i` of the mirror records that can land lands before the rest of its record (part
`i + 1`, R189). -/
def execEgqRun (a : Nat × Nat) (s : State) : Host.Outcome State Fault Refusal :=
  if 2 ≤ a.1 then .fault .noSuchUnit
  else
    let n := (s.mirrorWords a.1).length
    let r := match a.2 with
      | 0 => (s.egqReady a.1).findSome? (fun k => egqRun s a.1 k)
      | i + 1 => if i < n then s.mirrorEarly a.1 i else ((s.egqReady a.1)[i - n]?).bind (fun k => egqRun s a.1 k)
    match r with
    | some s' => happened s'
    | none => notNow s

/-! ## RELEASE and VETO (R266, R386, R387) -/

/-- RELEASE and VETO: the question goes to the queue, dispatch is held, the answer ends it. -/
def releaseOp (s : State) (veto : Bool) (ss sq : BitVec 6) : Host.Outcome State Fault Refusal :=
  let s0 := s.modF (fun t => { t with hold := .none })
  match s.fctx.hold with
  | .answered ahead => finish s0 (if ahead then .trap cEGAHEAD 0 0 else .done s0)
  | .asked => finish s .wait
  | _ =>
    match realigning s [sreg ss, sreg sq] .done with
    | .done s' =>
      let a := s'.sOp ss
      let q := s'.sOp sq
      if bits a 63 13 ≠ 0 || bits q 63 32 ≠ 0 then finish s (.trap cILLOP 0 0)
      else
        let d := bits a 12 12
        let ask : EgAsk := { core := s.focus.core, ctx := s.focus.ctx, veto := veto, stream := bits a 11 0, q := q.toNat }
        .next { (s'.setEgr d { s'.egr d with asks := (s'.egr d).asks ++ [ask] }).modF (fun t => { t with hold := .asked }) with
          last := .waits }
    | r => finish s r

def execRelease (ss sq : BitVec 6) (s : State) : Host.Outcome State Fault Refusal := releaseOp s false ss sq
def execVeto (ss sq : BitVec 6) (s : State) : Host.Outcome State Fault Refusal := releaseOp s true ss sq

/-- The entries [lo, hi] of a stream replaced by one veto record. -/
def vetoItems (n lo hi : Nat) (put : Bool) (is : List EgItem) : List EgItem :=
  match is with
  | [] => []
  | i :: r =>
    if i.stream = n && !i.veto && !i.released && decide (lo ≤ i.seq) && decide (i.seq ≤ hi) then
      if put then vetoItems n lo hi put r
      else { stream := n, seq := lo, last := hi, veto := true, plen := 0, payload := [], released := true } :: vetoItems n lo hi true r
    else i :: vetoItems n lo hi put r

/-- `release` and `veto` of R266 at the queue: none is EGAHEAD. -/
def Egress.answer (e : Egress) (a : EgAsk) : Option Egress :=
  let st := e.stream a.stream
  if st.next ≤ a.q then none
  else if a.q < st.setl then some e
  else
    let items :=
      if a.veto then vetoItems a.stream st.setl a.q false e.items
      else e.items.map (fun i =>
        if i.stream = a.stream && !i.veto && decide (st.setl ≤ i.seq) && decide (i.seq ≤ a.q) then { i with released := true } else i)
    some ({ e with items := items }.setStream a.stream { st with setl := a.q + 1 })

/-- EGRESS_ANSWER (R266): the queue answers the RELEASE or VETO of context `x` of core `c`. -/
def execEgressAnswer (c : Nat) (x : Nat) (s : State) : Host.Outcome State Fault Refusal :=
  if numCores ≤ c || numCtxs ≤ x then .fault .noSuchUnit
  else
    match [0, 1].findSome? (fun d => ((s.egr d).asks.find? (fun a => a.core = c && a.ctx = x)).map (fun a => (d, a))) with
    | none => notNow s
    | some (d, a) =>
      let e := { s.egr d with asks := (s.egr d).asks.filter (fun b => !(b.core = c && b.ctx = x)) }
      let hold (b : Bool) (s : State) : State := s.modCtx c x (fun t => { t with hold := .answered b })
      match e.answer a with
      | none => happened (hold true (s.setEgr d e))
      | some e' => happened (hold false (s.setEgr d e'))

/-! ## Records to the host (R267) -/

/-- The 16 words of an item's record. -/
def EgItem.record (i : EgItem) (d : Nat) : List Word :=
  let w (n : Nat) : Word := BitVec.ofNat 64 n
  [w (i.last <<< 32 + i.seq), w (i.plen <<< 24 + bnat i.veto <<< 16 + d <<< 12 + i.stream)] ++
    (List.range 8).map (fun j => w (natOfBytes ((i.payload.drop (8 * j)).take 8))) ++ List.replicate 6 0

/-- The items that may leave, each with the rest of the list: released, and the first of its stream. -/
def outItems (seen : List Nat) (is : List EgItem) : List (EgItem × List EgItem) :=
  match is with
  | [] => []
  | i :: r =>
    (if i.released && !(seen.contains i.stream) then [(i, r)] else []) ++
      (outItems (i.stream :: seen) r).map (fun q => (q.1, i :: q.2))

/-- EGRESS_RECORD_OUT (R267, R273): an item is written to the host egress ring of edge die `d`. Streams have no order: of several whose items may
leave, any comes next. -/
def execEgressRecordOut (d : Nat) (s : State) : Host.Outcome State Fault Refusal :=
  if 2 ≤ d then .fault .noSuchUnit
  else
    let items := outItems [] (s.egr d).items
    let (n, s1) := s.turn items.length
    match items[n]? with
    | none => notNow s
    | some (i, rest) =>
      let g := s.mgmt.egrings.get d HostRing.reset
      if !(g.valid 128 (2 ^ 64)) then (if s.mgmt.alarms.getLsbD 3 then notNow s else happened (s.alarm 3))
      else if !(g.room (2 ^ 64)) then notNow s
      else
        let s := (s1.setEgr d { s1.egr d with items := rest }).writeWords (g.next 128) (i.record d)
        happened (s.modMgmt (fun m => { m with egrings := m.egrings.set d (g.advance (2 ^ 64)) }))

/-- A write to EGRST (R264, R268, R272): the stream's entries that have not been released are discarded, NEXT and SETL are 0. -/
def State.streamReset (s : State) (v : Word) : State :=
  let d := bits v 12 12
  let n := bits v 11 0
  let e := s.egr d
  let e := { e with items := e.items.filter (fun i => i.stream ≠ n || i.released) }.setStream n EgStream.reset
  (s.setEgr d e).modMgmt (fun m => { m with egrst := v &&& 0x1FFF })

/-- EGRESS_STREAM_RESET (R272). -/
def execEgressStreamReset (v : BitVec 64) (s : State) : Host.Outcome State Fault Refusal := fromHost s (s.streamReset v)

end Sys2Proof.Machine
end

