-- ==== Sys2Proof/Machine/Launch.lean ====
section
/-! DEFINITION. From a launch queue to a placed task: host launch queues, graph and task descriptors, records, the ready queue, aging,
configuration images, placement (R39, R41, R42, R47, R196 to R207, R215, R273). -/

namespace Sys2Proof.Machine

/-! ## Host launch queues (R196) -/

/-- The launch-queue alarm for queue `i` (R272). -/
def State.launchAlarm (s : State) (i : Nat) : State := (s.alarm 1).modMgmt (fun m => { m with lqnum := BitVec.ofNat 4 i })

/-- The header of host queue `i`. -/
def State.lqHeader (s : State) (i : Nat) : List Word := s.words (s.mgmt.lqtab.toNat + 64 * i) 4

/-- Descriptors that wait in a queue. -/
def lqWaiting (h : List Word) : Nat := (bits (nth h 3) 31 0 + 2 ^ 32 - bits (nth h 2) 31 0) % 2 ^ 32

/-- A header for which the queue is skipped. -/
def lqBad (h : List Word) : Bool :=
  let base := (nth h 0).toNat
  let slots := bits (nth h 1) 16 0
  base % 64 ≠ 0 || decide (slots < 2) || decide (65536 < slots) || !(inLpddr base (64 * slots)) || bits (nth h 1) 63 17 ≠ 0 ||
    bits (nth h 2) 63 32 ≠ 0 || bits (nth h 3) 63 32 ≠ 0 || decide (slots < lqWaiting h)

/-- Queue `i` is served no further until its next doorbell. -/
def State.lqDone (s : State) (i : Nat) : State :=
  s.modMgmt (fun m => { m with doorbells := m.doorbells.filter (fun j => j ≠ i) })

/-- One descriptor of queue `i` taken, delivered, and HEAD + 1 written (R196). -/
def State.lqTake (s : State) (i : Nat) (h : List Word) : State :=
  let head := bits (nth h 2) 31 0
  let at_ := (nth h 0).toNat + head % bits (nth h 1) 16 0 * 64
  let d := s.words at_ 8
  let s := s.correct at_ 64
  let l : Launch := { desc := d, host := some i, core := 0, ctx := 0, task := 0, tower := 0, graph := 0, fires := [] }
  let s := s.modMarten (gTower d) (fun m => { m with arrivals := m.arrivals ++ [l] })
  let s := s.writeWords (s.mgmt.lqtab.toNat + 64 * i + 16) [BitVec.ofNat 64 ((head + 1) % 2 ^ 32)]
  if lqWaiting h = 1 then s.lqDone i else s

/-- LAUNCH_READ (R196): the next queue in round-robin order gives one descriptor, or is skipped with the alarm. -/
def execLaunchRead (s : State) : Host.Outcome State Fault Refusal :=
  let turn := (List.range 16).map (fun k => (s.mgmt.lqnext + k) % 16)
  match turn.find? (fun i => s.mgmt.doorbells.contains i) with
  | none => notNow s
  | some i =>
    let s := s.modMgmt (fun m => { m with lqnext := (i + 1) % 16 })
    if !(inLpddr s.mgmt.lqtab.toNat 1024) then happened ((s.lqDone i).launchAlarm 0)
    else
      let h := s.lqHeader i
      let s := s.correct (s.mgmt.lqtab.toNat + 64 * i) 32
      if lqBad h then happened ((s.lqDone i).launchAlarm i)
      else if lqWaiting h = 0 then happened (s.lqDone i)
      else happened (s.lqTake i h)

/-! ## Descriptors (R39, R198 to R200) -/

/-- R200, record check. -/
def recordBad (d : List Word) : Bool :=
  gCrec d % 64 ≠ 0 || !(inLpOrPair (gCrec d) (64 + (if gTrec d then 16 * gNtask d else 0)))

/-- R200, graph check. -/
def graphBad (d : List Word) : Bool :=
  gNtask d = 0 || decide (65536 < gNtask d) || bits (nth d 2) 63 36 ≠ 0 || bits (nth d 3) 63 17 ≠ 0 || nth d 4 ≠ 0 || nth d 5 ≠ 0 ||
    nth d 6 ≠ 0 || nth d 7 ≠ 0 || gTtab d % 64 ≠ 0 || !(inLpOrPair (gTtab d) (64 * gNtask d))

/-- A size and packing of R39. -/
def shapeOk (n pack : Nat) : Bool :=
  decide (1 ≤ n) && decide (n ≤ 96) &&
  (match pack with
   | 0 => true
   | 1 => n % 2 = 0
   | 2 => decide (n ≤ 16)
   | _ => n % 16 = 0)

/-- R200, validation of one task descriptor of a graph of `n` tasks. -/
def taskBad (d : List Word) (n : Nat) : Bool :=
  !(shapeOk (dGsize d) (dPack d)) || decide (8 < dNsucc d) || (List.range (min (dNsucc d) 8)).any (fun k => decide (n ≤ dSucc d k)) ||
    bits (nth d 0) 3 0 ≠ 0 || bits (nth d 3) 23 16 ≠ 0 || (List.range 4).any (fun k => (barField d k >>> 22) % 512 ≠ 0)

/-- The descriptor of task `i`, at its home, and its reading (R223). -/
def State.taskDesc (s : State) (g : List Word) (i : Nat) : List Word := s.words (gTtab g + 64 * i) 8
def State.readDesc (s : State) (g : List Word) (i : Nat) : State := s.correct (gTtab g + 64 * i) 64

/-! ## Records (R201, R202) -/

/-- The words of a graph's completion record. -/
def Graph.record (g : Graph) : List Word :=
  [BitVec.ofNat 64 (g.ftask <<< 48 + bnat g.torndown <<< 43 + bnat g.abandoned <<< 42 + bnat g.rejected <<< 41 + 1 <<< 40 +
      g.code <<< 32 + gGid g.desc),
   BitVec.ofNat 64 (g.dlaunch <<< 48 + g.retired), 0, 0, 0, 0, 0, 0]

/-- The graph record written, word 0 last. -/
def State.writeRecord (s : State) (g : Graph) : State :=
  (s.writeWords (gCrec g.desc + 8) (g.record.drop 1)).writeWords (gCrec g.desc) (g.record.take 1)

/-- Every task of a graph has retired, or the graph is stopped and none of its tasks holds a context (R201). A task whose gang is saved, and which
holds none, still counts as running: an abandoned graph waits for it to resume and end (DESIGN CHOICE, notes/assumptions/73.md). -/
def Graph.complete (g : Graph) : Bool :=
  g.retired = gNtask g.desc ||
    ((g.abandoned || g.torndown) && g.tasks.all (fun e => e.2.stage ≠ .placing && e.2.stage ≠ .running))

/-! ## The ready queue (R204) -/

/-- A task of the ready queue: graph, index, state. -/
structure Ready where
  graph : Graph
  idx : Nat
  task : TaskSt
  deriving DecidableEq, Repr

/-- The keys that follow priority: the cycle in which it became runnable, the launch order of its graph, its index. -/
def Ready.older (a b : Ready) : Bool :=
  decide (a.task.order < b.task.order) ||
  (a.task.order = b.task.order &&
    (decide (a.graph.order < b.graph.order) || (a.graph.order = b.graph.order && decide (a.idx < b.idx))))

/-- Queue order (R204). -/
def Ready.before (a b : Ready) : Bool := decide (b.task.prio < a.task.prio) || (a.task.prio = b.task.prio && a.older b)

/-- An entry put in its place in a sorted list. -/
def insertReady (lt : Ready → Ready → Bool) (a : Ready) (l : List Ready) : List Ready :=
  match l with
  | [] => [a]
  | b :: r => if lt a b then a :: b :: r else b :: insertReady lt a r

/-- The runnable tasks of a Marten that satisfy `p`, in the order `lt`. -/
def Marten.ready (m : Marten) (p : TaskSt → Bool) (lt : Ready → Ready → Bool) : List Ready :=
  (m.graphs.flatMap (fun g =>
    (g.tasks.filter (fun e => e.2.stage = .runnable && p e.2)).map (fun e => { graph := g, idx := e.1, task := e.2 }))).foldr
    (insertReady lt) []

/-- Task `i` of the graph with launch order `o` changed. -/
def Marten.modTask (m : Marten) (o i : Nat) (f : TaskSt → TaskSt) : Marten :=
  m.modGraph o (fun m g =>
    match g.tasks.find i with
    | none => (m, g)
    | some t => (m, { g with tasks := g.tasks.set i (f t) }))

/-- Runnable tasks outside the queue enter it as entries free, in the order in which they became runnable (R204). -/
def Marten.refill (m : Marten) : Marten :=
  let waiting := m.ready (fun t => !t.queued) Ready.older
  let n := m.graphs.foldl (fun n g => n + g.queued) 0
  (waiting.take (4096 - n)).foldl (fun m r => m.modTask r.graph.order r.idx (fun t => { t with queued := true })) m

/-- The graph with launch order `o` of tower `t` completes if it can: its record is written, its counters are free (R200, R201). -/
def State.finishGraph (s : State) (t o : Nat) : State :=
  match (s.marten t).graphs.find? (fun g => g.order = o) with
  | none => s
  | some g =>
    if g.complete then
      (s.writeRecord g).modMarten t (fun m => Marten.refill { m with
        graphs := m.graphs.filter (fun h => h.order ≠ o)
        counters := m.counters.filter (fun e => !(decide (g.base ≤ e.1) && decide (e.1 < g.base + gNtask g.desc))) })
    else s

/-- The graph is abandoned (R204): its runnable tasks leave the queue, its running ones go on to END. A task placed and not bound yet counts as
running: it binds and runs to its END (DESIGN CHOICE, notes/assumptions/73.md). -/
def State.abandon (s : State) (t o code task : Nat) : State :=
  (s.modMarten t (fun m => Marten.refill (m.modGraph o (fun m g =>
    let g := g.note code task
    (m, { g with
      abandoned := true
      tasks := g.tasks.mapV (fun k => if k.stage = .runnable then { k with stage := .waiting, queued := false } else k) }))))).finishGraph
    t o

/-! ## GRAPH_LAUNCH (R200) -/

/-- Counters `[c, c + n)` are free. -/
def Marten.freeAt (m : Marten) (c n : Nat) : Bool :=
  decide (c + n ≤ 65536) && m.graphs.all (fun g => decide (g.base + gNtask g.desc ≤ c) || decide (c + n ≤ g.base))

/-- The lowest free run of `n` counters: it starts at 0 or where an allocated run ends. -/
def Marten.freeRun (m : Marten) (n : Nat) : Option Nat :=
  ((0 :: m.graphs.map (fun g => g.base + gNtask g.desc)).filter (fun c => m.freeAt c n)).foldl
    (fun b c =>
      match b with
      | none => some c
      | some d => some (min c d)) none

/-- A discarded launch (R200): the alarm for a host queue, DLAUNCH for a context. -/
def State.discard (s : State) (l : Launch) : State :=
  match l.host with
  | some i => s.launchAlarm i
  | none => s.discardLaunch l.tower l.graph

/-- A graph as it enters its Marten, which the firings `fires` have reached since its launch did (R41). -/
def newGraph (order base : Nat) (d : List Word) (tasks : List (List Word)) (fires : List (Nat × Nat)) : Graph :=
  { order := order, desc := d, base := base, code := 0, ftask := 0, rejected := false, abandoned := false, torndown := false,
    dlaunch := 0, retired := 0,
    tasks := (List.range tasks.length).zip (tasks.map (fun w =>
      { desc := w, stage := TaskStage.waiting, order := 0, queued := false, prio := dPrio w, passed := false, fails := 0,
        fired := firedOf w fires })) }

/-- The counters of a new graph, and its tasks tested against R41 in index order; the next graph has the next number. -/
def Marten.addGraph (m : Marten) (g : Graph) : Marten :=
  let cs := g.tasks.filter (fun e => dNpred e.2.desc ≠ 0)
  let m := { m with counters := cs.foldl (fun (c : Tab Nat) (e : Nat × TaskSt) => c.set (g.base + e.1) (dNpred e.2.desc)) m.counters,
                     graphs := m.graphs ++ [g], orders := m.orders + 1 }
  m.modGraph g.order (fun m g => g.tasks.foldl (fun (a : Marten × Graph) (e : Nat × TaskSt) => Marten.test a.1 a.2 e.1) (m, g))

/-- GRAPH_LAUNCH (R200): the oldest launch at the Marten of tower `t` is discarded, rejected, or accepted; it waits while no run of
counters is free. -/
def execGraphLaunch (t : Nat) (s : State) : Host.Outcome State Fault Refusal :=
  if numTowers ≤ t then .fault .noSuchUnit
  else
    match (s.marten t).arrivals with
    | [] => notNow s
    | l :: r =>
      let d := l.desc
      let s' := s.modMarten t (fun m => { m with arrivals := r })
      let order := (s.marten t).orders
      let rejected (s : State) (i : Nat) : State :=
        s.writeRecord { newGraph order 0 d [] [] with code := cILLOP, ftask := i, rejected := true }
      if recordBad d then happened (s'.discard l)
      else if graphBad d then happened (rejected s' 0)
      else
        match (s.marten t).freeRun (gNtask d) with
        | none => notNow s
        | some base =>
          let tasks := (List.range (gNtask d)).map (fun i => s.taskDesc d i)
          let s' := s'.correct (gTtab d) (64 * gNtask d)
          match tasks.findIdx? (fun w => taskBad w (gNtask d)) with
          | some i => happened (rejected s' i)
          | none => happened (s'.modMarten t (fun m => m.addGraph (newGraph order base d tasks l.fires)))

/-! ## Configuration images (R206, R207) -/

/-- The 43 lines of an image, each as the number of its 64 bytes. -/
def State.image (s : State) (cfg : Nat) : List Nat := (List.range 43).map (fun i => s.readMem (cfg + 64 * i) 64)

/-- The lines read (R223). -/
def State.readImage (s : State) (cfg : Nat) : State := s.correct cfg (43 * 64)

/-- The CRC of a line holds. -/
def lineOk (l : Nat) : Bool := crc32c (bytesOf 60 l) = (l >>> 480) % 2 ^ 32

/-- Word `j` of line `i`, and of a line of 60 bytes word 7 [31:0]. -/
def imgWord (ls : List Nat) (i j : Nat) : Word := BitVec.ofNat 64 ((ls.getD i 0 % 2 ^ 480) >>> (64 * j))

/-- Fields of line 0. -/
def imgPsimg (ls : List Nat) : Nat := (imgWord ls 0 5).toNat
def imgPslen (ls : List Nat) : Nat := bits (imgWord ls 0 6) 31 0
def imgPsoff (ls : List Nat) : Nat := bits (imgWord ls 0 6) 63 32

/-- Bytes 0 to 59 of every line as a plane holds them. -/
def planeOf (ls : List Nat) : Tab (BitVec 480) :=
  ((List.range ls.length).zip ls).filterMap (fun e => if e.2 % 2 ^ 480 = 0 then none else some (e.1, BitVec.ofNat 480 e.2))

/-- Barrier line `k` (R206): V, offset, EXPECTED, BIND0, BIND1. -/
def imgBarrier (ls : List Nat) (k : Nat) : Option (Nat × Nat × Word × Word) :=
  let w := imgWord ls (39 + k) 0
  if bit w 16 then some (bits w 15 0, bits (imgWord ls (39 + k) 1) 47 0, imgWord ls (39 + k) 2, imgWord ls (39 + k) 3) else none

/-- A line of an image differs from the resident one of a context: in its bytes, or in its CRC, which is that of its bytes in a plane (R206). -/
def Ctx.differs (t : Ctx) (ls : List Nat) (i : Nat) : Bool := t.active.get i 0 ≠ (planeOf ls).get i 0 || !(lineOk (ls.getD i 0))

/-- The lines that a placement broadcasts (R206): those that differ in any member, and the barriers with V = 1. -/
def State.linesSent (s : State) (ls : List Nat) (ms : List (Nat × Nat)) : List Nat :=
  (List.range 43).filter (fun i =>
    ms.any (fun m => (s.ctx m.1 m.2).differs ls i) || (decide (39 ≤ i) && (imgBarrier ls (i - 39)).isSome))

/-- The cycles from placement to binding (R206, R207). -/
def State.bindTime (s : State) (d : List Word) (ms : List (Nat × Nat)) : Nat :=
  let ls := s.image (nth d 2).toNat
  (s.linesSent ls ms).length + 2 + (imgPslen ls + 255) / 256

/-! ## Placement (R42, R204, R205) -/

/-- The lowest-numbered free context of a core; a placement under way keeps its contexts (R42). -/
def State.freeCtx (s : State) (c : Nat) : Option Nat :=
  let kept := (s.marten (towerOf c)).placing.flatMap (fun p => p.members)
  (List.range numCtxs).find? (fun x => !(s.ctx c x).bound && !(kept.contains (c, x)))

/-- The rule of ANY and PAIRS: `n` units, `per` units to a sett. -/
def pickUnits (units : List Nat) (per n : Nat) : Option (List Nat) :=
  let inSett := (List.range 6).map (fun g => units.filter (fun u => u / per = g))
  match (if n ≤ per then inSett.find? (fun us => decide (n ≤ us.length)) else none) with
  | some us => some (us.take n)
  | none => if n ≤ units.length then some (units.take n) else none

/-- The cores within the tower that R205 chooses for `n` members, given the eligible ones in ascending order. -/
def chooseCores (el : List Nat) (pack n : Nat) : Option (List Nat) :=
  match pack with
  | 0 => pickUnits el 16 n
  | 1 =>
    let pairs := (List.range 48).filter (fun p => el.contains (2 * p) && el.contains (2 * p + 1))
    (pickUnits pairs 8 (n / 2)).map (fun ps => ps.flatMap (fun p => [2 * p, 2 * p + 1]))
  | 2 =>
    (((List.range 6).map (fun g => el.filter (fun u => u / 16 = g))).find? (fun us => decide (n ≤ us.length))).map
      (fun us => us.take n)
  | _ =>
    let setts := (List.range 6).filter (fun g => (el.filter (fun u => u / 16 = g)).length = 16)
    if n / 16 ≤ setts.length then
      some ((setts.take (n / 16)).flatMap (fun g => (List.range 16).map (fun i => 16 * g + i)))
    else none

/-- The members of a placement of descriptor `d` in tower `t`, if it fits now. No task of an image that is being invalidated is
placed (R45). -/
def State.fit (s : State) (t : Nat) (d : List Word) : Option (List (Nat × Nat)) :=
  if s.mgmt.imgpend.contains (dImage d) then none
  else
    let el := (List.range 96).filter (fun u => (s.freeCtx (96 * t + u)).isSome)
    (chooseCores el (dPack d) (dGsize d)).map (fun us => us.map (fun u => (96 * t + u, (s.freeCtx (96 * t + u)).getD 0)))

/-- The scan of the ready queue (R204): `behind` holds the priority-7 tasks passed so far. A task whose descriptor has become bad
abandons its graph. -/
def placeScan (s : State) (t : Nat) (q : List Ready) (behind : List Ready) : Option State :=
  match q with
  | [] => none
  | r :: q =>
    let d := s.taskDesc r.graph.desc r.idx
    let s := s.readDesc r.graph.desc r.idx
    if taskBad d (gNtask r.graph.desc) then some (s.abandon t r.graph.order cILLOP r.idx)
    else
      match s.fit t d with
      | some ms =>
        some (s.modMarten t (fun m =>
          let m := behind.foldl (fun m b => m.modTask b.graph.order b.idx (fun k => { k with passed := true })) m
          let m := m.modTask r.graph.order r.idx (fun k => { k with stage := .placing, queued := false, passed := false })
          Marten.refill { m with placed := true, placing := m.placing ++
            [{ graph := r.graph.order, idx := r.idx, desc := d, members := ms, due := m.cycle + s.bindTime d ms }] }))
      | none =>
        if r.task.prio = 7 then
          if r.task.passed then none else placeScan s t q (behind ++ [r])
        else placeScan s t q behind

/-- The tasks of the ready queue that can be placed in this cycle: from the one after that in which they became runnable (R204). -/
def Marten.placeable (m : Marten) : List Ready := m.ready (fun k => k.queued && decide (k.order < m.cycle)) Ready.before

/-- TASK_PLACE (R204): at most one task in a cycle, the first in queue order that fits. -/
def execTaskPlace (t : Nat) (s : State) : Host.Outcome State Fault Refusal :=
  if numTowers ≤ t then .fault .noSuchUnit
  else if (s.marten t).placed then notNow s
  else
    match placeScan s t (s.marten t).placeable [] with
    | none => notNow s
    | some s => happened s

/-- AGING_TICK (R47): a waiting task of tower `t` has waited another 2²⁰ cycles. Which one and when is a choice, since a cycle of
the model's Marten has no fixed share in the cycles of the module (notes/assumptions/39.md). -/
def execAgingTick (t : Nat) (s : State) : Host.Outcome State Fault Refusal :=
  if numTowers ≤ t then .fault .noSuchUnit
  else
    match (s.marten t).ready (fun k => decide (k.prio < 7)) Ready.older with
    | [] => notNow s
    | r :: q =>
      let (n, s) := s.choose (q.length + 1)
      let e := (r :: q).getD n r
      happened (s.modMarten t (fun m => m.modTask e.graph.order e.idx (fun k => { k with prio := k.prio + 1 })))

/-! ## Fault-queue records (R215, R273) -/

/-- FAULT_QUEUE_WRITE (R215, R273): the Marten of tower `t` writes its oldest record, when the fault queue has room; a queue with
invalid values counts as full and raises RINGERR. -/
def execFaultQueueWrite (t : Nat) (s : State) : Host.Outcome State Fault Refusal :=
  if numTowers ≤ t then .fault .noSuchUnit
  else
    match (s.marten t).records with
    | [] => notNow s
    | w :: r =>
      let q := s.mgmt.fqs.get t HostRing.reset
      if !(q.valid 64 65536) then
        if s.mgmt.alarms.getLsbD 3 then notNow s else happened (s.alarm 3)
      else if !(q.room 65536) then notNow s
      else
        let s := (s.modMarten t (fun m => { m with records := r })).writeWords (q.next 64) w
        happened (s.modMgmt (fun m => { m with fqs := m.fqs.set t (q.advance 65536) }))

end Sys2Proof.Machine
end

