-- ==== Sys2Proof/Machine/Bind.lean ====
section
/-! DEFINITION. The life of a task's contexts: configuration planes and binding, release and retirement, tear-down (R32, R38, R43, R44,
R85, R123, R200 to R203, R206, R207, R213, R461). -/

namespace Sys2Proof.Machine

/-! ## Configuration images (R85, R206, R207) -/

/-- The configuration plane refuses the image (R85, R207). A bad range entry is no refusal: R95 has the plane treat it as invalid, and the
refusals that R206 counts with R95 name no case (DEDUCED, notes/assumptions/62.md). -/
def imgRefused (ls : List Nat) : Bool :=
  decide (12288 < bits (imgWord ls 0 1) 13 0 + bits (imgWord ls 0 1) 27 14) || imgPsimg ls % 64 ≠ 0 ||
    !(inLpddr (imgPsimg ls) (max 1 (imgPslen ls))) || decide (pairSize < imgPsoff ls + imgPslen ls)

/-- What the members' pair store `q` takes: the pair-store image before the members are bound (R207), then barriers with V = 1 (R206). -/
def State.preparePair (s : State) (ls : List Nat) (q : Nat) : State :=
  let s : State :=
    if imgPslen ls = 0 then s
    else (s.correct (imgPsimg ls) (imgPslen ls)).writeMem (pairAddr q + imgPsoff ls) (imgPslen ls) (s.readMem (imgPsimg ls) (imgPslen ls))
  (List.range 4).foldl (fun (s : State) k =>
    match imgBarrier ls k with
    | some (off, e, b0, b1) => s.barinit q off e b0 b1
    | none => s) s

/-- The offsets of the barriers that the image makes. -/
def imgBars (ls : List Nat) : List Nat := (List.range 4).filterMap (fun k => (imgBarrier ls k).map (fun b => b.1))

/-- The ring descriptors of lines 33 to 38: ring, descriptor; COUNT 0 leaves a ring unconfigured. -/
def imgRings (ls : List Nat) : List (Nat × RingDesc) :=
  ((List.range 16).map (fun q =>
    (q, ({ w0 := imgWord ls (33 + q / 3) (2 * (q % 3)), w1 := imgWord ls (33 + q / 3) (2 * (q % 3) + 1) } : RingDesc)))).filter
    (fun e => e.2.count ≠ 0)

/-- The registers that line 0 gives a context (R83, R206). Of the VWB word the plane loads BASE alone: ABSS and ABSD are 0 at binding, the
reset value that R85 gives them where it gives BASE the plane (DEDUCED, notes/assumptions/62.md). -/
def imgCsr (ls : List Nat) : Csr :=
  { Csr.reset with
    vwbBase := BitVec.ofNat 10 (bits (imgWord ls 0 0) 9 0)
    awbBase := BitVec.ofNat 14 (bits (imgWord ls 0 1) 13 0)
    awbLen := BitVec.ofNat 14 (bits (imgWord ls 0 1) 27 14)
    ptbase := mergeBits 0 (imgWord ls 0 2) 55 12
    logptr := mergeBits 0 (imgWord ls 0 3) 59 6
    loglim := mergeBits 0 (imgWord ls 0 4) 55 4 }

/-- Word `j` of range entry `i` as the configuration plane takes it from raw words: reserved bits read 0 (R8), and an entry that R95 treats as
invalid shows V = 0 (DEDUCED, notes/assumptions/62.md). -/
def planeRange (raw : Nat → Word) (j : Nat) : Word :=
  let top (w : Word) : Bool := bits w 63 56 ≠ 0
  let base := bits (raw 0) 55 0
  let bad : Bool :=
    top (raw 0) || top (raw 1) || top (raw 2) || bits (raw 3) 63 13 ≠ 0 || bits (raw 7) 63 32 ≠ 0 ||
      decide (6 ≤ bits (raw 3) 2 0) || decide (bits (raw 1) 55 0 ≤ base)
  match j with
  | 0 => mergeBits 0 (raw 0) 55 0
  | 1 => mergeBits 0 (raw 1) 55 0
  | 2 => mergeBits 0 (raw 2) 55 0
  | 3 => if bad then mergeBits 0 (raw 3) 12 0 &&& ~~~8#64 else mergeBits 0 (raw 3) 12 0
  | 7 => mergeBits 0 (raw 7) 31 0
  | _ => raw j

/-- The range entries of a context from their raw words, word `j` of entry `i` at 8i + j. -/
def planeRanges (raw : Nat → Word) : Tab Word :=
  ((List.range 256).map (fun n => (n, planeRange (fun j => raw (n / 8 * 8 + j)) (n % 8)))).filter (fun e => e.2 ≠ 0)

/-- The range entries that an image gives a context (R95, R206). -/
def imgRanges (ls : List Nat) : Tab Word := planeRanges (fun n => imgWord ls (1 + n / 8) (n % 8))

/-! ## Binding (R32, R213) -/

/-- Where word 0 of the argument buffer is read (R213): through the context's own translation, every part of it checked (R105); nowhere when a check
fails. Marten reaches no layer (R94). -/
def Ctx.hvecParts (s : State) (t : Ctx) (args : Word) : List (Nat × Nat) :=
  if isAp args || badFormat args || args.toNat % 8 ≠ 0 then []
  else
    match t.check s args 8 .rd false with
    | .error _ => []
    | .ok k => if (tagMiss s k.gran (keyOf args)).isSome then [] else k.items

/-- HVEC (R213): that word; 0 where it cannot be read, and where there is no handler. -/
def Ctx.readHvec (s : State) (t : Ctx) (args : Word) : Word :=
  let ps := t.hvecParts s args
  if ps.any (fun q => s.poisoned q.1 q.2) then 0
  else
    let v : Word := BitVec.ofNat 64 (natOfBytes (ps.flatMap (fun q => bytesOf q.2 (s.readMem q.1 q.2))))
    if bits v 3 0 ≠ 0 then 0 else v

/-- A free context keeps its planes (R206). -/
def Ctx.freed (t : Ctx) : Ctx := { Ctx.reset with active := t.active, shadow := t.shadow, keepTlb := t.keepTlb }

/-- Register or row `n`, numbered as in R55, lies in the windows. -/
def Csr.holds (v : Csr) (n : Nat) : Bool :=
  if n < 1024 then decide ((n + 1024 - v.vwbBase.toNat) % 1024 < 64)
  else decide (v.awbBase.toNat + 2048 ≤ n) && decide (n < v.awbBase.toNat + 2048 + v.awbLen.toNat)

/-- Writes on their way to marked registers and rows (R32): until they land zero is read, and each lays its bytes over what landed before. -/
def clearAir (v : Csr) (es : List Air) (made : Tab Nat) : List Air :=
  match es with
  | [] => []
  | e :: r =>
    if v.holds e.res then
      let n := if e.res < 1024 then coverOver e.cover (made.get e.res 0) e.val else e.val
      { e with old := 0, val := n } :: clearAir v r (made.set e.res n)
    else e :: clearAir v r made

/-- The registers and rows of the windows of context `x`, marked cleared (R32). A write that is still on its way to one, of whatever context,
removes the mark when it lands. -/
def Core.clearWindows (k : Core) (x : Nat) (v : Csr) : Core :=
  let air := (clearAir v k.air []).map (fun e => if e.ctx = x then { e with ctx := numCtxs } else e)
  (air.filter (fun e => v.holds e.res)).foldl (fun k e => k.setRes e.res e.val)
    { k with
      vregs := k.vregs.filter (fun e => !(v.holds e.1))
      acc := k.acc.filter (fun e => !(v.holds (2048 + e.1)))
      air := air }

/-- One member bound (R32): context `m`, member index `i` of the gang of `n` of bound task `key`. -/
def State.bindMember (s : State) (ls : List Nat) (d : List Word) (key idx gid n i : Nat) (m : Nat × Nat) : State :=
  let old := s.ctx m.1 m.2
  let t : Ctx := { old.freed with
    bound := true, task := key, member := i, image := BitVec.ofNat 24 (dImage d), pc := nth d 0, active := planeOf ls,
    shadow := old.active, csr := imgCsr ls, ranges := imgRanges ls, bars := imgBars ls
    regs := [(0, BitVec.ofNat 64 i), (1, BitVec.ofNat 64 n), (2, BitVec.ofNat 64 idx), (3, BitVec.ofNat 64 gid), (64, nth d 1)] }
  let s := ((s.correctAll (t.hvecParts s (nth d 1))).setCtx m.1 m.2 { t with hvec := t.readHvec s (nth d 1) }).modCore m.1 (fun k =>
    k.clearWindows m.2 t.csr)
  (imgRings ls).foldl (fun (s : State) e =>
    match formRing s m.1 m.2 e.1 e.2 with
    | .ok s' => s'
    | .error _ => s) s

/-- Every member of a placement bound in one step (R38), and the task running. -/
def State.bindTask (s : State) (t : Nat) (p : Placing) (gid : Nat) (ls : List Nat) : State :=
  let key := s.nextTask
  let pairs := (p.members.map (fun m => pairOf m.1)).foldl (fun l q => if l.contains q then l else l ++ [q]) []
  let s := pairs.foldl (fun (s : State) q => s.preparePair ls q) s
  let b : BoundTask :=
    { tower := t, graph := p.graph, idx := p.idx, desc := p.desc, members := p.members, freed := [], arrived := [], pre := none }
  let s := { s with nextTask := key + 1, tasks := s.tasks.set key b }
  let s := ((List.range p.members.length).zip p.members).foldl (fun (s : State) e =>
    s.bindMember ls p.desc key p.idx gid p.members.length e.1 e.2) s
  s.modMarten t (fun m => m.modTask p.graph p.idx (fun k => { k with stage := .running }))

/-- CFGCRC (R206): the shadow planes hold what they received, the contexts are free, and the task is back in the queue with its
order; the third failure abandons the graph. -/
def State.bindFails (s : State) (t : Nat) (p : Placing) (ls : List Nat) : State :=
  let s := p.members.foldl (fun (s : State) m => s.modCtx m.1 m.2 (fun c => { c with shadow := planeOf ls })) s
  let fails := ((s.marten t).graphs.find? (fun g => g.order = p.graph)).bind (fun g => (g.tasks.find p.idx).map TaskSt.fails)
  let s := s.modMarten t (fun m => m.modGraph p.graph (fun m g =>
    match g.tasks.find p.idx with
    | none => (m, g)
    | some k =>
      let stop := g.abandoned || g.torndown
      (m, { g with tasks := g.tasks.set p.idx { k with
        fails := k.fails + 1
        stage := if stop then .waiting else .runnable
        queued := !stop && decide (m.queued g < 4096) } })))
  if decide (2 ≤ fails.getD 0) then s.abandon t p.graph cCFGCRC p.idx else s.finishGraph t p.graph

/-- CONTEXT_BIND (R206, R207): a placement of tower `t` whose lines and pair-store image have been received is bound, or refused. Which one, when
several have, is a choice. -/
def execContextBind (t : Nat) (s : State) : Host.Outcome State Fault Refusal :=
  if numTowers ≤ t then .fault .noSuchUnit
  else
    match (s.marten t).placing.filter (fun p => decide (p.due ≤ (s.marten t).cycle)) with
    | [] => notNow s
    | p :: r =>
      let (n, s) := s.choose (r.length + 1)
      let p := (p :: r).getD n p
      let s := s.modMarten t (fun m => { m with placing := m.placing.filter (fun q => q.graph ≠ p.graph || q.idx ≠ p.idx) })
      match (s.marten t).graphs.find? (fun g => g.order = p.graph) with
      | none => happened s
      | some g =>
        let ls := s.image (nth p.desc 2).toNat
        let s := s.readImage (nth p.desc 2).toNat
        if ls.all lineOk && !(imgRefused ls) then happened (s.bindTask t p (gGid g.desc) ls)
        else happened (s.bindFails t p ls)

/-! ## Release and retirement (R44, R123, R201 to R203) -/

/-- Context `x` of core `c` is free (R44): its rings are released. -/
def State.freeContext (s : State) (c x : Nat) : State := (s.releaseRings c x).modCtx c x Ctx.freed

/-- Everything of an ended context has drained (R43, R44). Its EGQs in an egress release queue, which R44 does not name, count too: cp counts them
(DESIGN CHOICE, notes/assumptions/73.md). -/
def State.mayFree (s : State) (c x : Nat) : Bool :=
  let t := s.ctx c x
  t.bound && t.ended && t.drained && t.ld = 0 && t.st = 0 && t.cp = 0 && t.mx = 0 && (s.cmdsOf c x).isEmpty &&
    (s.core c).retiring.all (fun r => r.ctx ≠ x) && (s.core c).outs.all (fun o => o.ctx ≠ x)

/-- Bound task `key` has retired with its member on core `c` (R44, R203): its successors are decremented in list order, then its records are
written. -/
def State.retire (s : State) (c key : Nat) (b : BoundTask) : State :=
  let s := { s with tasks := s.tasks.erase key }
  let succs := (List.range (min (dNsucc b.desc) 8)).map (dSucc b.desc)
  let s := s.modMarten b.tower (fun m =>
    let m := (m.source (srcRetire c)).modGraph b.graph (fun m g =>
      match g.tasks.find b.idx with
      | none => (m, g)
      | some k => (m, { g with retired := g.retired + 1, tasks := g.tasks.set b.idx { k with stage := .retired } }))
    succs.foldl (fun (m : Marten) i => m.decrement b.graph i) m)
  let s : State :=
    match s.graphOf b with
    | some g =>
      if gTrec g.desc then s.writeWords (gCrec g.desc + 64 + 16 * b.idx) [BitVec.ofNat 64 b.idx, 1] else s
    | none => s
  s.finishGraph b.tower b.graph

/-- CONTEXT_FREE (R44): an ended context is freed once it has drained; with its last member a task retires. -/
def execContextFree (c x : Nat) (s : State) : Host.Outcome State Fault Refusal :=
  if numCores ≤ c || numCtxs ≤ x then .fault .noSuchUnit
  else if !(s.mayFree c x) then notNow s
  else
    let t := s.ctx c x
    let s := (s.giveUp c x).freeContext c x
    let s := s.modTask t.task (fun b => { b with freed := b.freed ++ [t.member] })
    match s.task t.task with
    | none => happened s
    | some b => if b.freed.length = b.members.length then happened (s.retire c t.task b) else happened s

/-! ## Tear-down (R197, R201, R215, R461) -/

/-- The commands that satisfy `p` leave every engine: those of a context that is torn down land and credit no more (notes/assumptions/41.md). -/
def Engine.without (e : Engine) (p : Cmd → Bool) : Engine :=
  { queue := e.queue.filter (fun k => !(p k)), running := e.running.filter (fun k => !(p k)) }
def SendQ.without (q : SendQ) (p : Cmd → Bool) : SendQ :=
  { q with queue := q.queue.filter (fun k => !(p k)), sends := q.sends.filter (fun k => !(p k)),
           recvs := q.recvs.filter (fun k => !(p k)) }
def Tower.without (w : Tower) (p : Cmd → Bool) : Tower :=
  { w with copyEng := w.copyEng.mapV (Engine.without · p), walkers := w.walkers.mapV (Engine.without · p),
           badgers := w.badgers.mapV (Engine.without · p), sendq := w.sendq.mapV (SendQ.without · p) }
def Egress.without (e : Egress) (p : Cmd → Bool) : Egress := { e with queue := e.queue.filter (fun k => !(p k)) }
def State.withoutCmds (s : State) (p : Cmd → Bool) : State :=
  let s : State := { s with
    towers := s.towers.mapV (Tower.without · p), hares := s.hares.mapV (Engine.without · p)
    egress := s.egress.mapV (Egress.without · p) }
  s.insts.foldl (fun (s : State) i => s.dropInst i.sett i.base) s

/-- The kind of access writes and gives no value back. -/
def OutKind.writes (k : OutKind) : Bool := k = .store || k = .tagset || k = .log

/-- The accesses of a context that is torn down: its issued writes reach their homes unless a check stops them, the rest is gone. -/
def State.dropOuts (s : State) (c x : Nat) : State :=
  ((s.core c).outs.filter (fun o => o.ctx = x)).foldl (fun (s : State) o =>
    let s := if o.kind.writes then (List.range o.parts.length).foldl (fun s j => forcePart forceFuel s (c, o.id, j)) s else s
    s.dropOut c o.id) s

/-- Context `x` of core `c` is torn down (R461): an array that it owns has no owner and holds nothing in flight, no barrier is
credited, its rings are released. A span that has closed and not retired goes with it (notes/assumptions/41.md). -/
def State.tearContext (s : State) (c x : Nat) : State :=
  let s := s.modCore c (fun k => { k with
    retiring := k.retiring.filter (fun r => r.ctx ≠ x)
    arr := if k.arr.owner = some x then { k.arr with owner := none, inflight := [], latch := [], scaleq := [] } else k.arr })
  let drop (e : Egress) : Egress := { e with asks := e.asks.filter (fun a => !(a.core = c && a.ctx = x)) }
  let s : State := { s with egress := s.egress.mapV drop }
  let task := (s.ctx c x).task
  (((s.dropOuts c x).withoutCmds (fun k => k.core = c && k.ctx = x && k.task = task)).giveUp c x).freeContext c x

/-- The bound tasks of a graph, with their keys. -/
def State.tasksOf (s : State) (t g : Nat) : List (Nat × BoundTask) :=
  s.tasks.filter (fun e => e.2.tower = t && e.2.graph = g)

/-- The members of a task that hold a context, or did when their gang was saved. -/
def BoundTask.live (b : BoundTask) : List (Nat × (Nat × Nat)) :=
  ((List.range b.members.length).zip b.members).filter (fun e => !(b.freed.contains e.1))

/-- A launch on its way from a member of one of the bound tasks `ts` that has not ended: the tear-down of its context comes first (R197).
A member of a saved gang, which holds no context, counts among them (DESIGN CHOICE, notes/assumptions/73.md). -/
def Launch.fromTasks (l : Launch) (ts : List (Nat × BoundTask)) : Bool :=
  l.host.isNone && ts.any (fun e => e.1 = l.task && e.2.live.any (fun m => m.2.1 = l.core))

/-- The commands of a saved task, which its contexts no longer hold, and the contexts that still hold one. -/
def State.tearTask (s : State) (e : Nat × BoundTask) : State :=
  let ms := e.2.members.filter (fun m => (s.ctx m.1 m.2).bound && (s.ctx m.1 m.2).task = e.1)
  let s := ms.foldl (fun (s : State) m => s.tearContext m.1 m.2) (s.withoutCmds (fun k => k.task = e.1))
  { s with tasks := s.tasks.erase e.1 }

/-- GRAPH_TEARDOWN (R201, R461): the graph with launch order `g` of tower `t` ends; its contexts are free, launches on their way from
it are discarded and counted, its record is written with TORNDOWN. -/
def execGraphTeardown (t g : Nat) (s : State) : Host.Outcome State Fault Refusal :=
  if numTowers ≤ t then .fault .noSuchUnit
  else
    match (s.marten t).graphs.find? (fun h => h.order = g) with
    | none => notNow s
    | some _ =>
      let ks := s.tasksOf t g
      let n := (List.range numTowers).foldl (fun n k =>
        n + ((s.marten k).inflight.filter (fun l => l.fromTasks ks)).length) 0
      let s := ks.foldl State.tearTask s
      let late (w : Tower) : Tower :=
        { w with marten := { w.marten with inflight := w.marten.inflight.filter (fun l => !(l.fromTasks ks)) } }
      let s : State := { s with towers := s.towers.mapV late }
      let s := s.modMarten t (fun m =>
        let m := { m with placing := m.placing.filter (fun p => p.graph ≠ g) }
        m.modGraph g (fun m h =>
          (m, { h with
            torndown := true, dlaunch := min (h.dlaunch + n) 65535
            tasks := h.tasks.mapV (fun k => if k.stage = .retired then k else { k with stage := .waiting, queued := false }) })))
      happened ((s.modMarten t Marten.refill).finishGraph t g)

end Sys2Proof.Machine
end

