-- ==== Sys2Proof/Machine/Net.lean ====
section
/-! DEFINITION. The network send queues: NPOST, their bindings, and the events of the transport (R130, R131, R218, R262, R263, R330,
R377 to R379). -/

namespace Sys2Proof.Machine

/-! ## The end of a command that runs on while its gang is saved (R218) -/

/-- The completion of a network command; held, as (member, token), while its context's tokens are saved (R218). -/
def State.completeNet (s : State) (k : Cmd) : State :=
  match s.savedTask k with
  | none => s.completeCmd k
  | some b => s.holdBack k [b.members.findIdx (fun m => m = (k.core, k.ctx)), k.tok]

/-! ## NPOST (R377, R378) -/

def npBuf (b : List Word) : Word := nth b 0
def npRecv (b : List Word) : Bool := bit (nth b 1) 4
def npQueue (b : List Word) : Nat := bits (nth b 1) 3 0
def npLen (b : List Word) : Nat := bits (nth b 2) 39 0

/-- The local buffer. -/
def npSide (b : List Word) : Side := memSide (npBuf b) [] 1 false

/-- The send queue of a command (R130): that of word 1 of an NPOST, of DST of a COPY. -/
def Cmd.sendQueue (k : Cmd) : Nat :=
  16 * towerOf k.core + (if k.kind = .copy then bits (nth k.ccb 1) 3 0 else npQueue k.ccb)

/-- R107 item 2 for NPOST (R328, R377, R378). -/
def npostIllegal (s : State) (k : Cmd) : Bool :=
  let b := k.ccb
  bits (nth b 1) 63 5 ≠ 0 || bits (nth b 2) 63 40 ≠ 0 || nth b 3 ≠ 0 || nth b 4 ≠ 0 || nth b 5 ≠ 0 || nth b 6 ≠ 0 || word7Bad b ||
  npLen b = 0 || ccMcast b ≠ 0 || ccWmen b || ccWmreg b ≠ 0 || bits (s.sendq k.sendQueue).word1 1 0 = 0

/-- The checks of R107 for NPOST, and its queue (R378). -/
def npostIssue (s : State) (k : Cmd) : Res :=
  let b := k.ccb
  let d := npSide b
  let h : Option (Int × Int) := some ((d.base : Int), d.base + npLen b - 1)
  match sidePtr (npBuf b) h with
  | some e => .trap e (npBuf b) 0
  | none =>
    if npostIllegal s k then .trap cILLOP 0 0
    else
      let e := d.ends s s.fctx h
      let layer (x : Option Xl) : Bool :=
        match x with
        | some x => 1 ≤ x.level && x.level ≤ 4
        | none => false
      if endsDiffer e then .trap cATTRSPAN 0 0
      else if layer e.1 || layer e.2 then .trap cAPERTURE (npBuf b) 0
      else
        let k : Cmd := { k with
          kind := if npRecv b then .recv else .send, refS := (e.1.map Xl.copyAttrs).getD 0
          refD := (e.1.map Xl.copyAttrs).getD 0 }
        .done (s.accept k (fun s k => s.setSendq k.sendQueue { s.sendq k.sendQueue with queue := (s.sendq k.sendQueue).queue ++ [k] }))

/-- NPOST (R378). -/
def execNpost (p a b c : BitVec 5) (r : BitVec 6) (s : State) : Host.Outcome State Fault Refusal :=
  finish s (engineOp s .send p a b c r (npostIssue s))

/-! ## Sending (R130, R330, R379) -/

/-- The send queues of the module. -/
def numSendQueues : Nat := 128

/-- The pieces of bytes [o, o + n) of a local buffer, with the reference attributes; or the code that stops the command. NPOST reaches no layer
(R94). The locks of a send are checked at its read, those of a receive as each part lands (R103). -/
def bufPieces (s : State) (k : Cmd) (wr : Bool) (ref o n : Nat) : Except Nat (List (Nat × Nat × Nat) × Nat) :=
  let d := npSide k.ccb
  let va : Int := (d.base : Int) + o
  if d.ap then .ok (apPieces [pairOf k.core] [(0, va, n)], 0) 
  else if wr then d.find s k.view true false ref [(0, va, n)]
  else d.check s k.view false false ref [(0, va, n)]

/-- The one credit of an NPOST send with `n` more bytes in it, their code and flags. -/
def addCredit (cs : List (List Nat)) (n code flags : Nat) : List (List Nat) :=
  match cs with
  | c :: _ => [[0, c.getD 1 0 + n, if c.getD 2 0 = 0 then code else c.getD 2 0, c.getD 3 0 ||| flags, 0]]
  | [] => [[0, n, code, flags, 0]]

/-- Bytes that a packet carries at most (R261). -/
def packetMax : Nat := 4096

/-- Bytes of a send that have left. -/
def Cmd.sent (k : Cmd) : Nat := k.lands.headD 0

/-- The next bytes of the buffer of an NPOST send read (R378, R379): up to the end of `words` aligned 8-byte parts, or with `words` 0 of those
that the next packet takes. Poison is reported as a copy reports it (R224), with one credit at the end. -/
def readSend (s : State) (k : Cmd) (words : Nat) : State × Cmd :=
  let at_ := k.buf.length
  let va := (npSide k.ccb).base + at_
  let stop := if words = 0 then alignUp (va + (packetMax - (at_ - k.sent))) 8 else va / 8 * 8 + 8 * words
  let n := min (npLen k.ccb - at_) (stop - va)
  match bufPieces s k false k.refS at_ n with
  | .error e => (s, { k with error := some (e, flagOf e, 0), read := true, credits := [] })
  | .ok (ps, _) =>
    let soft := if ps.any (fun it => s.softAt it.2.1 it.2.2) then fgCORRECTED else 0
    let s := ps.foldl (fun (s : State) it => s.correct it.2.1 it.2.2) s
    let code := if ps.any (fun it => s.poisoned it.2.1 it.2.2) then cPOISON else 0
    (s, { k with buf := k.buf ++ ps.flatMap (fun it => bytesOf it.2.2 (s.readMem it.2.1 it.2.2))
                 read := decide (npLen k.ccb ≤ at_ + n), credits := addCredit k.credits n code (flagOf code ||| soft) })

/-- The bytes that a send credits in all. -/
def Cmd.sendTotal (k : Cmd) : Nat := if k.kind = .copy then k.total else npLen k.ccb

/-- The credits that a send has put by, each applied (R330, R378). -/
def payNet (cs : List (List Nat)) (s : State) (k : Cmd) : State × Nat :=
  match cs with
  | [] => (s, 0)
  | c :: r =>
    let n := c.getD 1 0
    let (s, m) := payNet r (s.creditNet k 0x11 n (c.getD 2 0) (c.getD 3 0) (c.getD 4 0)) k
    (s, n + m)

/-- A send that the transport has acknowledged, or that has nothing to send: its credits, the fault that stopped it with the bytes
that it did not deliver (R115), the credit of zero bytes of a copy of none (R109), its token. -/
def endSend (s : State) (k : Cmd) : State :=
  let (s, n) := payNet k.credits s k
  let s : State :=
    match k.error with
    | some (code, flags, stop) => s.creditNet k 0x11 (k.sendTotal - n) code flags stop
    | none => if k.credits.isEmpty then s.creditNet k 0x11 0 0 0 0 else s
  s.completeNet k

/-- A packet of the send can leave: a full one, or what is left at the end. -/
def Cmd.packetReady (k : Cmd) : Bool := decide (packetMax ≤ k.buf.length - k.sent) || (k.read && decide (k.sent < k.buf.length))

/-- Every packet of the send has left. -/
def Cmd.out (k : Cmd) : Bool := k.read && decide (k.buf.length ≤ k.sent)

/-- The send with this number replaced, or with `none` removed. -/
def SendQ.putSend (v : SendQ) (id : Nat) (k : Option Cmd) : SendQ :=
  match k with
  | some k => { v with sends := v.sends.map (fun j => if j.id = id then k else j) }
  | none => { v with sends := v.sends.filter (fun j => j.id ≠ id) }

/-- The edge die of a send queue's tower, whose ports its packets leave by (R22). -/
def sendDie (q : Nat) : Nat := q / 64

/-- The next packet of send `k` leaves by `port` of its die (R22, R261, R379): under ROD the messages leave in their start order, by the queue's one
port. -/
def sendPacket (s : State) (q : Nat) (k : Cmd) (port : Nat) : Host.Outcome State Fault Refusal :=
  let v := s.sendq q
  let rod := bits v.word1 1 0 = 1
  if port / 6 ≠ sendDie q then notNow s
  else if rod && (v.port.any (fun p => p ≠ port) || (v.sends.takeWhile (fun j => j.id ≠ k.id)).any (fun j => !j.out)) then notNow s
  else
    let dat := (k.buf.drop k.sent).take packetMax
    let v := { v.putSend k.id (some { k with lands := [k.sent + dat.length] }) with port := if rod then some port else v.port }
    happened { s.setSendq q v with netOut := s.netOut ++ [(q, port, dat)] }

/-- The next part of send `k` read; one that has nothing to send ends. -/
def sendRead (s : State) (q : Nat) (k : Cmd) (words : Nat) : State :=
  let (s, k) := if k.kind = .copy then gatherRow s k words else readSend s k words
  if k.read && k.buf.isEmpty then endSend (s.setSendq q ((s.sendq q).putSend k.id none)) k
  else s.setSendq q ((s.sendq q).putSend k.id (some k))

/-- SEND_QUEUE_START (R62, R261, R378, R379) of queue `q`, where `a` is (q, n, port, words): with `n` 0 the first command of a queue whose
dependency tokens are complete starts, and a send of no byte ends; otherwise send number `n - 1` goes on: a packet leaves by `port`, one of the
six of its die (0 to 5 on die 0, 6 to 11 on die 1), or the next `words` parts of its data are read. -/
def execSendQueueStart (a : Nat × Nat × Nat × Nat) (s : State) : Host.Outcome State Fault Refusal :=
  let q := a.1
  let n := a.2.1
  let port := a.2.2.1
  let words := a.2.2.2
  if numSendQueues ≤ q || decide (12 ≤ port) then .fault .noSuchUnit
  else
    let v := s.sendq q
    if n = 0 then
      match takeReady s v.queue with
      | none => notNow s
      | some (k, r) =>
        let s := s.setSendq q { v with queue := r }
        if k.kind = .recv then happened (s.setSendq q { v with queue := r, recvs := v.recvs ++ [k] })
        else if k.sendTotal = 0 then happened (endSend s { k with read := true })
        else happened (s.setSendq q { v with queue := r, sends := v.sends ++ [k] })
    else
      match v.sends[n - 1]? with
      | none => notNow s
      | some k =>
        if k.packetReady then sendPacket s q k port
        else if k.read then notNow s
        else happened (sendRead s q k words)

/-- NPOST_SEND_COMPLETE (R130, R330, R378): the transport acknowledges the last packet of the oldest send whose packets have all left. -/
def execNpostSendComplete (q : Nat) (s : State) : Host.Outcome State Fault Refusal :=
  if numSendQueues ≤ q then .fault .noSuchUnit
  else
    match (s.sendq q).sends.find? Cmd.out with
    | none => notNow s
    | some k => happened (endSend (s.setSendq q ((s.sendq q).putSend k.id none)) k)

/-- NET_SEND_ABANDON (R263): the oldest send ends with `sent` of its bytes delivered; the others are credited with ABORT and no code,
and the queue and its peer are logged. -/
def execNetSendAbandon (q : Nat) (sent : Nat) (s : State) : Host.Outcome State Fault Refusal :=
  if numSendQueues ≤ q then .fault .noSuchUnit
  else
    match (s.sendq q).sends with
    | [] => notNow s
    | k :: r =>
      if k.sendTotal < sent then notNow s
      else
        let s := (s.setSendq q { s.sendq q with sends := r }).logError (.sendAbandoned q (s.sendq q).peer)
        happened ((s.creditNet k 0x11 (k.sendTotal - sent) 0 fgABORT 0).completeNet k)

/-! ## Receiving (R130, R378, R379) -/

/-- Whether bytes [a, b) meet a run. -/
def meetsRun (rs : List (Nat × Nat)) (a b : Nat) : Bool := rs.any (fun r => decide (a < r.2) && decide (r.1 < b))

/-- Bytes that a receive credits once what is on its way has landed. -/
def Cmd.coming (k : Cmd) : Nat := k.landed + k.landing.foldl (fun n l => n + l.bytes) 0

/-- A packet of a message of `len` bytes, from byte `off` of it, arrived at a receive: its bytes are on their way into the buffer, in parts of 8
bytes (R179, R189), or a fault of the buffer stops the receive. Bytes past the posted length are discarded; the credit of the last byte tells of
them. -/
def takePacket (s : State) (k : Cmd) (off : Nat) (dat : List Byte) (len : Nat) : Cmd :=
  let bs := dat.take (npLen k.ccb - off)
  let row := k.row + dat.length
  let k : Cmd := { k with row := row, slots := (off, off + dat.length) :: k.slots, aux := [BitVec.ofNat 64 len], read := decide (len ≤ row) }
  if bs.isEmpty then k
  else
    match bufPieces s k true k.refD off bs.length with
    | .error e => { k with error := some (e, flagOf e, 0), read := true }
    | .ok (ps, r) =>
      let whole : Bool := k.coming + bs.length = npLen k.ccb
      let l : Landing :=
        { parts := (ps.flatMap wordPieces).map (fun p => ({ p with val := natOfBytes ((bs.drop p.off).take p.len) }, false))
          vas := [], bytes := bs.length, code := 0, flags := if whole && decide (npLen k.ccb < len) then fgABORT else 0, ix := 0 }
      { k with landing := k.landing ++ [l], refD := if k.refD = 0 then r else k.refD, read := k.read || whole }

/-- The receive that takes the packets now: the oldest whose message has not wholly arrived. -/
def SendQ.active (v : SendQ) : Option Cmd := v.recvs.find? (fun k => !k.read)

/-- A receive replaced, or with `none` removed. -/
def SendQ.putRecv (v : SendQ) (id : Nat) (k : Option Cmd) : SendQ :=
  match k with
  | some k => { v with recvs := v.recvs.map (fun j => if j.id = id then k else j) }
  | none => { v with recvs := v.recvs.filter (fun j => j.id ≠ id) }

/-- The receive takes no more of its message: its buffer is full, or a fault has stopped it. -/
def Cmd.full (k : Cmd) : Bool := k.error.isSome || k.coming = npLen k.ccb

/-- Receive `k` of queue `q` after a move, `old` before it: what is still to come of a message that it takes no more of is discarded (R379). It
ends once its last byte has landed, or once a fault has stopped it and what went before has landed (R115, R378). -/
def putReceive (s : State) (q : Nat) (old k : Cmd) : State :=
  let v := s.sendq q
  let v := if k.full && !old.full then { v with skip := v.skip + ((nth k.aux 0).toNat - k.row) } else v
  if k.landed = npLen k.ccb || (k.error.isSome && k.landing.isEmpty) then
    let s : State :=
      match k.error with
      | some (code, flags, stop) => s.creditNet k 0x10 (npLen k.ccb - k.landed) code flags stop
      | none => s
    (s.setSendq q (v.putRecv k.id none)).completeNet k
  else s.setSendq q (v.putRecv k.id (some k))

/-- The parts on their way into the receives of a queue, in their order: the receive, and the part of it. -/
def SendQ.arriving (v : SendQ) : List (Cmd × Nat × Nat) := v.recvs.flatMap (fun k => k.pending.map (fun p => (k, p)))

/-- A part on its way into a receive of queue `q` lands. -/
def landReceive (s : State) (q i : Nat) : Host.Outcome State Fault Refusal :=
  match ((s.sendq q).arriving)[i]? with
  | none => notNow s
  | some (k, a, j) =>
    match landOf s 0x10 k a j with
    | none => notNow s
    | some (s', k') => happened (putReceive s' q k k')

/-- NET_PACKET_RECEIVE (R130, R189, R261, R378, R379) of queue `a.1`: `dat`, at most 4,096 bytes, is the part from byte `off` of a message of `len`
bytes. Under ROD packets come in order; no byte comes twice; with no receive posted the transport holds the packet. With `a.2` 0 it lands at once,
with 1 its parts are on their way, and from 2 on `a.2` counts a part that lands now. -/
def execNetPacketReceive (a : Nat × Nat) (off : Nat) (dat : List (BitVec 8)) (len : Nat) (s : State) :
    Host.Outcome State Fault Refusal :=
  let q := a.1
  if numSendQueues ≤ q then .fault .noSuchUnit
  else if 2 ≤ a.2 then landReceive s q (a.2 - 2)
  else
    let v := s.sendq q
    if dat.isEmpty || decide (packetMax < dat.length) || decide (len < off + dat.length) || bits v.word1 1 0 = 0 then notNow s
    else if v.skip ≠ 0 then
      if v.skip < dat.length then notNow s else happened (s.setSendq q { v with skip := v.skip - dat.length })
    else
      match v.active with
      | none => notNow s
      | some k =>
        if (bits v.word1 1 0 = 1 && decide (off ≠ k.row)) || meetsRun k.slots off (off + dat.length) then notNow s
        else
          let k' := takePacket s k off dat len
          let r := if a.2 = 0 then landRows s 0x10 k' else (s, k')
          happened (putReceive r.1 q k r.2)

/-! ## Bindings and links -/

/-- The queue holds a command (R262). -/
def SendQ.busy (v : SendQ) : Bool := !(v.cmds.isEmpty)

/-- Word `w` of the binding register of queue `q` written (R262); a queue that holds a command keeps its binding. -/
def State.nqWrite (s : State) (q w : Nat) (x : Word) : State :=
  let v := s.sendq q
  if v.busy then s else s.setSendq q (if w = 0 then { v with peer := x } else { v with word1 := x &&& 0xFE3, port := none })

/-- NQ_BIND (R262). -/
def execNqBind (q : Nat) (w : Nat) (x : BitVec 64) (s : State) : Host.Outcome State Fault Refusal :=
  if numSendQueues ≤ q || decide (2 ≤ w) then .fault .noSuchUnit else fromHost s (s.nqWrite q w x)

/-- BRIDGE_REPLAY (R131): a replay on a bridge keeps every order and shows in no status word. -/
def execBridgeReplay (t : Nat) (_seq : Nat) (s : State) : Host.Outcome State Fault Refusal :=
  if numTowers ≤ t then .fault .noSuchUnit else happened s

end Sys2Proof.Machine
end

