-- ==== Sys2Proof/Machine/Preempt.lean ====
section
/-! DEFINITION. Pre-emption and resumption of a gang: request, landing, halt, the save areas, restore (R169, R211, R216 to R221, R244). -/

namespace Sys2Proof.Machine

/-! ## Landing (R216, R217, R221) -/

def State.modPre (s : State) (k : Nat) (f : Preempt → Preempt) : State := s.modTask k (fun b => { b with pre := b.pre.map f })

/-- The bundle that a stop which is no fault reports: the oldest of the window, else the next one. -/
def Ctx.stopAddr (t : Ctx) : Word :=
  match (t.vq ++ t.mq ++ t.lq).foldr insertOp [] with
  | o :: _ => o.addr
  | [] => t.pc

/-- The KIND 2 record of a forced precise stop (R279): the record has no number for this kind, so the number is a free value
(notes/assumptions/60.md). -/
def State.traceForced (s : State) (c x : Nat) : State :=
  { s.traceStop c x (s.ctx c x).stopAddr 0 0 (Config.stopKind s.free).toNat with free := s.free + 1 }

/-- Member `i` of bound task `k`, context `x` of core `c`, makes its landing stop (R210, R216), `forced` or at a landing point; a deferred fault
found on the way is taken first, and a handler that it enters has still to land (R221). A stopped context that Owl had resumed for one operation
gives its core up. -/
def State.landOne (s : State) (forced : Bool) (k i c x : Nat) : State :=
  let mark (s : State) : State := s.modPre k (fun p => { p with landed := p.landed ++ [i] })
  let t := s.ctx c x
  if t.stopped then mark (s.giveUp c x)
  else
    match s.stopPick c x 4 t.seq with
    | some d =>
      let s := s.takeFault c x d.op.slot d.op.seq d.op.addr d.code d.faddr d.info true 0 false
      if (s.ctx c x).stopped then mark s else s
    | none =>
      let stop (u : Ctx) : Ctx :=
        let u := { u with
          csr := { u.csr with done := u.oldestDone }
          hold := if u.hold = .switching then .none else u.hold }
        if t.ended && u.drained then { u with ended := true, hold := .none } else u
      let s := (s.quiesce c x).1.modCtx c x stop
      mark ((if forced then s.traceForced c x else s).halt c x 0)

/-- Member `i` lands; the members of a ganged span land with its leader, and only so (R216). -/
def State.land (s : State) (forced : Bool) (k : Nat) (b : BoundTask) (i : Nat) : State :=
  match b.members[i]? with
  | none => s
  | some m =>
    match (s.ctx m.1 m.2).span.bind Span.gang with
    | none => s.landOne forced k i m.1 m.2
    | some g =>
      if m = (g.leadCore, g.leadCtx) then
        g.members.foldl (fun (s : State) n => s.landOne forced k (b.members.findIdx (fun q => q = n)) n.1 n.2) s
      else s

/-- The members of a gang that have still to land. -/
def BoundTask.toLand (b : BoundTask) : List Nat :=
  match b.pre with
  | none => []
  | some p => (List.range b.members.length).filter (fun i => !(p.landed.contains i) && !(b.freed.contains i))

/-- A landing point of context `x` of core `c` (R216): `point` says that a YIELD or END bundle or a bundle at the top loop entry's end
has issued; a context that does not hold its core lands at its present point. -/
def State.landHere (s : State) (c x : Nat) (point : Bool) : State :=
  let t := s.ctx c x
  match s.task t.task with
  | none => s
  | some b =>
    match b.pre with
    | none => s
    | some p =>
      if t.bound && p.stage = .requested && b.toLand.contains t.member && (point || t.stopped || (s.core c).running ≠ some x) then
        s.land false t.task b t.member
      else s

/-- A save area of R216: 64 KiB aligned, 1 to 65,535 units, in LPDDR6. -/
def areaOk (a : Nat × Nat) : Bool :=
  a.1 % 65536 = 0 && decide (1 ≤ a.2) && decide (a.2 ≤ 65535) && inLpddr a.1 (a.2 * 65536)

/-- PREEMPT_REQUEST (R216, R219): the request reaches every member of bound task `k`, and names one save area for each; a member that
does not hold its core, or is stopped, lands at once. After a save that did not fit it names larger areas. -/
def execPreemptRequest (k : Nat) (areas : List (Nat × Nat)) (live : List (Nat × Nat × Nat)) (s : State) :
    Host.Outcome State Fault Refusal :=
  match s.task k with
  | none => notNow s
  | some b =>
    if areas.length ≠ b.members.length || !(areas.all areaOk) then notNow s
    else
      match b.pre with
      | none =>
        let p : Preempt := { areas := areas, live := live, landed := [], stage := .requested, recorded := [], held := [], saved := [] }
        let s := s.modTask k (fun b => { b with pre := some p })
        happened (b.members.foldl (fun (s : State) m => s.landHere m.1 m.2 false) s)
      | some p =>
        if p.stage = .unfit then happened (s.modPre k (fun p => { p with areas := areas, live := live, stage := .halted }))
        else notNow s

/-- PREEMPT_FORCED_STOP (R216): the members that have not landed make a forced precise stop. -/
def execPreemptForcedStop (k : Nat) (s : State) : Host.Outcome State Fault Refusal :=
  match s.task k with
  | none => notNow s
  | some b =>
    if (b.pre.map Preempt.stage) ≠ some .requested || b.toLand.isEmpty then notNow s
    else happened (b.toLand.foldl (fun (s : State) i => s.land true k b i) s)

/-- PREEMPT_HALT (R217): every member has landed, and with it every operation that it issued but engine commands and stores. -/
def execPreemptHalt (k : Nat) (s : State) : Host.Outcome State Fault Refusal :=
  match s.task k with
  | none => notNow s
  | some b =>
    if (b.pre.map Preempt.stage) ≠ some .requested || !b.toLand.isEmpty then notNow s
    else happened (s.modPre k (fun p => { p with stage := .halted }))

/-! ## The save areas (R219) -/

/-- Contents of a section: pieces of so many bytes, each as a little-endian number. -/
abbrev Blob := List (Nat × Nat)

def Blob.len (b : Blob) : Nat := b.foldl (fun n p => n + p.1) 0
def bw (w : Word) : Nat × Nat := (8, w.toNat)
def bn (n : Nat) : Nat × Nat := (8, n % 2 ^ 64)

/-- A section with its header. -/
def sectionOf (kind : Nat) (body : Blob) : Blob := bn (kind + (16 + body.len) <<< 32) :: bn 0 :: body

/-- A section that is left out when it would be empty. -/
def optional (kind : Nat) (body : Blob) : Blob := if body.isEmpty then [] else sectionOf kind body

/-- The bundles of a window in program order. -/
def windowSeqs (q : List QOp) : List Nat :=
  q.foldl (fun l o => if l.contains o.seq then l else l ++ [o.seq]) []

/-- The operations of a window, oldest bundle first and slots in order. -/
def windowOps (vq mq lq : List QOp) : List QOp := (vq ++ mq ++ lq).foldr insertOp []

/-- The entry of one bundle (KIND 5): address, done mask with ABSD and ABSS, 14 words of captured operands. -/
def windowEntry (q : List QOp) (n : Nat) : Blob :=
  let os := q.filter (fun o => o.seq = n)
  let done := os.foldl (fun d o => d - 1 <<< o.slot) 15
  let absd := os.any QOp.absd
  let abss := os.any QOp.abss
  let caps := os.flatMap (fun o => o.caps.map (fun e => bw e.2))
  let caps := (caps ++ List.replicate 14 (bn 0)).take 14
  (match os with
   | o :: _ => bw o.addr
   | [] => bn 0) :: bn (done + bnat absd <<< 4 + bnat abss <<< 5) :: caps

/-- The window of a context and the one that handler state sets aside. -/
def Ctx.windows (t : Ctx) : List (List QOp) :=
  windowOps t.vq t.mq t.lq :: (match t.handler with
    | some h => [windowOps h.vq h.mq h.lq]
    | none => [])

def LoopEntry.blob (e : LoopEntry) : Blob := [bw e.start, bw e.stop, bw e.count]

/-- A ring of the core (KIND 8): number, descriptor, cursor, ROFF, slot 0, live slots, and the contents of each. -/
def State.ringBlob (s : State) (c : Nat) (e : Nat × Ring) : Blob :=
  match s.inst (settOf c) e.2.inst with
  | none => []
  | some i =>
    let mine := (countsFrom i.head i.tail).filter (fun n => (i.bits n).getLsbD (settIdx c))
    [bn (e.1 + mine.length <<< 32), bn i.field,
     bn (i.tail.toNat <<< 48 + i.head.toNat <<< 32 + i.cmask.toNat <<< 16 + i.loc <<< 13 + i.count <<< 4 + i.slotsz),
     bn e.2.cursor.toNat, bn e.2.roff, bn i.base] ++
      mine.flatMap (fun n => [bn n.toNat, (i.size, s.readMem (i.slotAddr n) i.size)])

/-- A plane of the array as bytes. -/
def planeBlob (p : Tab (BitVec 2688)) : Blob := (List.range 64).map (fun n => (336, (p.get n 0).toNat))

/-- The array state of an open span (R169, R244): shape, tags, queues, ROFF values, planes, and the append offset: 8 bytes
a beat and the data so far (notes/assumptions/70.md). -/
def State.spanBlob (s : State) (c x : Nat) : Blob :=
  match (s.ctx c x).span with
  | none => []
  | some sp =>
    let a := (s.core c).arr
    let off : Nat :=
      match sp.record with
      | some r => 8 * r.beats.length + r.data.length
      | none => 0
    [bw sp.shape, bn (a.tag0 + a.tag1 <<< 8 + bnat a.flip <<< 16 + a.latch.length <<< 32 + a.scaleq.length <<< 48), bn off] ++
      (List.range 16).map (fun q =>
        bn (match (s.core c).rings.find q with
          | some r => r.roff
          | none => 0)) ++
      planeBlob a.p0 ++ planeBlob a.p1 ++ a.latch.flatMap (fun r => [bn (bnat r.isInt), (256, r.row.toNat)]) ++
      a.scaleq.map (fun b => (8, b.toNat))

/-- A recorded command (KIND 11): token fields, resume row or block, control block. -/
def cmdBlob (k : Cmd) : Blob :=
  [bn (k.deps.foldl (fun n d => n * 256 + d.1) 0 * 256 + k.tok), bn k.row] ++ (k.ccb.take 8).map bw

/-- The sections of member `m`, without the end. -/
def State.sections (s : State) (p : Preempt) (m : Nat × Nat) : Blob :=
  let c := m.1
  let t := s.ctx c m.2
  let h := t.handler
  let hl := (h.map SetAside.loops).getD []
  let hm := (h.map SetAside.masks).getD []
  let csrs := (List.range 24).map (fun n => bw ((s.csr c m.2 n).getD 0))
  let of (kind : Nat) : List (Nat × Nat) := (p.live.filter (fun e => e.1 = kind)).map (fun e => e.2)
  let recs := (p.recorded.filter (fun e => e.2.2.core = c && e.2.2.ctx = m.2)).map (fun e => e.2.2)
  let bars := t.bars
  sectionOf 1 ([bw t.pc, bw t.csr.fpc, bn (bnat h.isSome), bn t.stopReason] ++ csrs) ++
  sectionOf 2 ((List.range 80).map (fun r => bw (t.reg r))) ++
  sectionOf 3 ([bn t.loops.length, bn hl.length] ++ (t.loops ++ hl).flatMap LoopEntry.blob) ++
  sectionOf 4 ([bn t.tokens.toNat, bn t.masks.length, bn hm.length] ++ (t.masks ++ hm).map (fun k => (512, k.toNat))) ++
  optional 5 (t.windows.flatMap (fun q => (windowSeqs q).flatMap (windowEntry q))) ++
  optional 6 ((of 0).flatMap (fun r => [bn r.1, bn r.2] ++
    (List.range r.2).map (fun j => (4096, ((s.core c).vreg (t.vphys (BitVec.ofNat 6 (r.1 + j)))).toNat)))) ++
  optional 7 ((of 1).flatMap (fun r => [bn r.1, bn r.2] ++
    (List.range r.2).map (fun j =>
      (256, match t.accRow (r.1 + j) with
        | some a => ((s.core c).accAt a).toNat
        | none => 0)))) ++
  optional 8 (((s.core c).rings.filter (fun e => e.2.ctx = m.2)).flatMap (s.ringBlob c)) ++
  optional 9 (if bars.isEmpty && (of 2).isEmpty then [] else
    bn bars.length :: bars.flatMap (fun o => [bn o, (64, s.readMem (apAddr c (64 * o)) 64)]) ++
    bn (of 2).length :: (of 2).flatMap (fun r => [bn r.1, bn r.2, (alignUp r.2 8, s.readMem (apAddr c r.1) r.2)])) ++
  optional 10 (s.spanBlob c m.2) ++
  optional 11 (if recs.isEmpty then [] else bn recs.length :: recs.flatMap cmdBlob) ++
  sectionOf 12 ((List.range 1024).map (fun n => bw (t.spill.get n 0))) ++
  sectionOf 13 ((List.range 256).map (fun n => bw (t.ranges.get n 0)))

/-- Where those sections read the pair store and the rings (KIND 8 and 9), as (address, bytes) runs. -/
def State.savedRuns (s : State) (p : Preempt) (m : Nat × Nat) : List (Nat × Nat) :=
  let c := m.1
  let t := s.ctx c m.2
  let slots : List (Nat × Nat) := ((s.core c).rings.filter (fun e => e.2.ctx = m.2)).flatMap (fun e =>
    match s.inst (settOf c) e.2.inst with
    | none => []
    | some i => ((countsFrom i.head i.tail).filter (fun n => (i.bits n).getLsbD (settIdx c))).map (fun n => (i.slotAddr n, i.size)))
  slots ++ t.bars.map (fun o => (apAddr c (64 * o), 64)) ++
    (p.live.filter (fun e => e.1 = 2)).map (fun e => (apAddr c e.2.1, e.2.2))

/-- A blob stored from a physical address. -/
def State.writeBlob (s : State) (a : Nat) (b : Blob) : State :=
  (b.foldl (fun (r : State × Nat) p => (r.1.writeMem r.2 p.1 p.2, r.2 + p.1)) (s, a)).1

/-- The commands of a task that can be withdrawn or stopped at a boundary, with their engines (R218): of a send queue, those that have not
started and the copies whose rows have not all been read. -/
def State.engineCmds (s : State) (k : Nat) : List (Nat × Nat × Cmd) :=
  let mine (l : List Cmd) : List Cmd := l.filter (fun c => c.task = k)
  (List.range 80).flatMap (fun e => (mine (s.copyEngine e).cmds).map (fun c => (0, e, c))) ++
  (List.range 4).flatMap (fun e => (mine (s.hare e).cmds).map (fun c => (1, e, c))) ++
  (List.range 128).flatMap (fun e =>
    (mine ((s.sendq e).sends.filter (fun c => c.kind = .copy && !c.read) ++ (s.sendq e).queue)).map (fun c => (2, e, c))) ++
  (List.range 16).flatMap (fun e => (mine (s.badger e).queue).map (fun c => (3, e, c))) ++
  (List.range 2).flatMap (fun e => (mine (s.egr e).queue).map (fun c => (4, e, c)))

/-- A command in its place by program order. -/
def insertCmd (r : Nat × Nat × Cmd) (l : List (Nat × Nat × Cmd)) : List (Nat × Nat × Cmd) :=
  match l with
  | [] => [r]
  | q :: t => if r.2.2.seq < q.2.2.seq then r :: q :: t else q :: insertCmd r t

/-- A command stopped at its next row or block boundary (R218): what is on its way lands and is credited, a row begun is read again. -/
def State.stopCmd (s : State) (r : Nat × Nat × Cmd) : State × (Nat × Nat × Cmd) :=
  let (s, k) := landRows s (if r.1 = 0 then copyUnit r.2.1 else hareUnit r.2.1) r.2.2
  (s, r.1, r.2.1, { k with src := none, early := [] })

/-- The engine commands recorded in program order, and gone from their engines (R218). -/
def State.record (s : State) (k : Nat) : State :=
  let (s, rs) := (s.engineCmds k).foldl (fun (a : State × List (Nat × Nat × Cmd)) r =>
    let (s, r) := a.1.stopCmd r
    (s, insertCmd r a.2)) (s, [])
  let s := s.withoutCmds (fun c => rs.any (fun r => r.2.2.id = c.id))
  s.modPre k (fun p => { p with recorded := p.recorded ++ rs })

/-- What has to end before the save: Badger commands that run, stores on their way, spans that have not retired (R217, R218). -/
def State.maySave (s : State) (k : Nat) (b : BoundTask) : Bool :=
  (List.range 16).all (fun e =>
    match (s.badger e).running with
    | some c => c.task ≠ k
    | none => true) &&
  b.live.all (fun e => (s.core e.2.1).outs.all (fun o => o.ctx ≠ e.2.2) && (s.core e.2.1).retiring.all (fun r => r.ctx ≠ e.2.2))

/-- A saved member's context becomes free: its rings are released, an array that it owns has no owner, and the watermark registers that its task
bound on the core are released (R443). -/
def State.vacate (s : State) (m : Nat × Nat) : State :=
  let key := (s.ctx m.1 m.2).task
  (s.modCore m.1 (fun k => { k with
    wm := k.wm.filter (fun e => e.2.task ≠ key)
    arr := if k.arr.owner = some m.2 then { k.arr with owner := none, inflight := [], latch := [], scaleq := [] } else k.arr
    running := if k.running = some m.2 then none else k.running })).freeContext m.1 m.2

/-- PREEMPT_SAVE (R218, R219): the commands of the gang are recorded, and every member is saved and its context free; or, when one
area is too small, nothing is written and a record reports each such member. -/
def execPreemptSave (k : Nat) (s : State) : Host.Outcome State Fault Refusal :=
  match s.task k with
  | none => notNow s
  | some b =>
    if (b.pre.map Preempt.stage) ≠ some .halted || !(s.maySave k b) then notNow s
    else
      let s := s.record k
      match (s.task k).bind BoundTask.pre with
      | none => notNow s
      | some p =>
        let plan := b.live.map (fun e => (e.2, p.areas.getD e.1 (0, 0), s.sections p e.2 ++ [bn (16 <<< 32), bn 0]))
        let small := plan.filter (fun e => decide (e.2.1.2 * 65536 < Blob.len e.2.2))
        if small.isEmpty then
          let saved := b.members.map (fun m => s.ctx m.1 m.2)
          let s := b.live.foldl (fun (s : State) e => s.correctAll (s.savedRuns p e.2)) s
          let s := plan.foldl (fun (s : State) e => s.writeBlob e.2.1.1 e.2.2) s
          let s := b.live.foldl (fun (s : State) e => s.vacate e.2) s
          happened (s.modPre k (fun p => { p with stage := .saved, saved := saved }))
        else
          let s := small.foldl (fun (s : State) e =>
            let r := s.faultRecord e.1.1 e.1.2 false true (Blob.len e.2.2)
            s.postRecord b.tower (r.set 3 (BitVec.ofNat 64 ((nth r 3).toNat / 256 * 256)))) s
          happened (s.modPre k (fun p => { p with stage := .unfit }))

/-! ## Resumption (R211, R218, R220, R244) -/

/-- The body of the section of a kind in a save area. -/
def State.section (s : State) (fuel a kind : Nat) : Option Nat :=
  match fuel with
  | 0 => none
  | n + 1 =>
    let w := s.word a
    let len := bits w 63 32
    if bits w 15 0 = kind then some (a + 16)
    else if bits w 15 0 = 0 || len < 16 then none
    else s.section n (a + len) kind

/-- The bytes of the sections of a save area up to its end. -/
def State.areaLen (s : State) (fuel a : Nat) : Nat :=
  match fuel with
  | 0 => 0
  | n + 1 =>
    let w := s.word a
    let len := bits w 63 32
    if bits w 15 0 = 0 || len < 16 then 16 else len + s.areaLen n (a + len)

/-- The control registers of KIND 1, at `a`; reserved fields read 0 whatever the area holds (R8). -/
def State.savedCsr (s : State) (old : Csr) (a : Nat) : Csr :=
  let w (n : Nat) : Word := s.word (a + 32 + 8 * n)
  { old with
    vwbBase := BitVec.ofNat 10 (bits (w 1) 9 0), abss := bit (w 1) 11, absd := bit (w 1) 10
    awbBase := BitVec.ofNat 14 (bits (w 2) 13 0), awbLen := BitVec.ofNat 14 (bits (w 2) 27 14)
    rev := bit (w 3) 6, recording := bit (w 3) 5, disc := bit (w 3) 4, done := BitVec.ofNat 4 (bits (w 3) 3 0)
    fpcsr := BitVec.ofNat 6 (bits (w 4) 5 0), logptr := mergeBits (w 5 &&& 1) (w 5) 59 6, loglim := mergeBits 0 (w 6) 55 4
    revcur := mergeBits 0 (w 7) 55 6, fpc := mergeBits 0 (w 8) 63 4, finfo := mergeBits 0 (w 9) 31 0, faddr := w 10
    ptbase := mergeBits 0 (w 11) 55 12 }

/-- `n` loop entries at `a`. -/
def State.savedLoops (s : State) (a n : Nat) : List LoopEntry :=
  (List.range n).map (fun j => { start := s.word (a + 24 * j), stop := s.word (a + 24 * j + 8), count := s.word (a + 24 * j + 16) })

/-- The operations of one window entry at `a`: those whose done bits are 0, with the recorded operands (R211). -/
def State.savedOps (s : State) (a : Nat) (os : List QOp) : List QOp :=
  let w := s.word (a + 8)
  let r := os.foldl (fun (r : List QOp × Nat) o =>
    let caps := ((List.range o.caps.length).zip o.caps).map (fun e =>
      (e.2.1, if r.2 + e.1 < 14 then s.word (a + 16 + 8 * (r.2 + e.1)) else e.2.2))
    (r.1 ++ [{ o with caps := caps, absd := bit w 4, abss := bit w 5 }], r.2 + o.caps.length)) ([], 0)
  r.1.filter (fun o => !(bit w o.slot))

/-- A window with its entries from `a`; the number of entries. -/
def State.savedWindow (s : State) (a : Nat) (q : List QOp) : List QOp :=
  let ns := windowSeqs q
  ((List.range ns.length).zip ns).flatMap (fun e => s.savedOps (a + 128 * e.1) (q.filter (fun o => o.seq = e.2)))

/-- The registers, stacks, window, spill partition and range entries of a member restored from its area (R220). -/
def State.restoreCtx (s : State) (t : Ctx) (area : Nat) : Ctx :=
  let sec (k : Nat) : Option Nat := s.section 16 area k
  let t : Ctx :=
    match sec 1 with
    | some a =>
      { t with pc := s.word a, csr := { s.savedCsr t.csr a with resumed := true },
               handler := if bit (s.word (a + 16)) 0 then t.handler else none }
    | none => t
  let t : Ctx :=
    match sec 2 with
    | some a => { t with regs := ((List.range 80).map (fun r => (r, s.word (a + 8 * r)))).filter (fun e => e.2 ≠ 0) }
    | none => t
  let t : Ctx :=
    match sec 3 with
    | some a =>
      let n := min (s.word a).toNat 6
      let h := min (s.word (a + 8)).toNat 6
      { t with loops := s.savedLoops (a + 16) n, handler := t.handler.map (fun z => { z with loops := s.savedLoops (a + 16 + 24 * n) h }) }
    | none => t
  let t : Ctx :=
    match sec 4 with
    | some a =>
      let n := min (s.word (a + 8)).toNat 16
      let h := min (s.word (a + 16)).toNat 16
      let ms (j n : Nat) : List Mask := (List.range n).map (fun i => BitVec.ofNat 4096 (s.readMem (a + 24 + 512 * (j + i)) 512))
      { t with tokens := BitVec.ofNat 32 (s.word a).toNat, masks := ms 0 n, handler := t.handler.map (fun z => { z with masks := ms n h }) }
    | none => t
  let t : Ctx :=
    match sec 5 with
    | some a =>
      let q := windowOps t.vq t.mq t.lq
      let r := s.savedWindow a q
      let b := a + 128 * (windowSeqs q).length
      { t with
        vq := r.filter (fun o => o.slot = 1), mq := r.filter (fun o => o.slot = 2), lq := r.filter (fun o => o.slot = 3)
        handler := t.handler.map (fun z =>
          let r := s.savedWindow b (windowOps z.vq z.mq z.lq)
          { z with vq := r.filter (fun o => o.slot = 1), mq := r.filter (fun o => o.slot = 2), lq := r.filter (fun o => o.slot = 3) }) }
    | none => t
  let t : Ctx :=
    match sec 12 with
    | some a => { t with spill := ((List.range 1024).map (fun n => (n, s.word (a + 8 * n)))).filter (fun e => e.2 ≠ 0), spillBad := [] }
    | none => t
  let t : Ctx :=
    match sec 13 with
    | some a => { t with ranges := planeRanges (fun n => s.word (a + 8 * n)) }
    | none => t
  { t with tlb := [], prods := [], supplied := [], stopped := false, stopReason := 0,
           csr := { t.csr with disc := t.csr.disc || t.rngList.any (fun i => bit (t.rng i 3) 7) } }

/-- Live registers or rows of a section from `a` to `e`: `put` stores element `j`, of `size` bytes. -/
def restoreLive (size : Nat) (put : State → Nat → Nat → State) (e fuel a : Nat) (s : State) : State :=
  match fuel with
  | 0 => s
  | f + 1 =>
    if e ≤ a then s
    else
      let first := (s.word a).toNat
      let count := min (s.word (a + 8)).toNat 12288
      let s := (List.range count).foldl (fun (s : State) j => put s (first + j) (s.readMem (a + 16 + size * j) size)) s
      restoreLive size put e f (a + 16 + size * count) s

/-- KIND 2 bindings that name a saved member name its new context (R220). -/
def rebind (moved : List (Nat × Nat × Nat)) (tower : Nat) (w : Nat) : Nat :=
  if w % 8 = 2 then
    match moved.find? (fun e => e.1 = 96 * tower + (w >>> 3) % 128 && e.2.1 = (w >>> 10) % 8) with
    | some e => w - ((w >>> 10) % 8) <<< 10 + e.2.2 <<< 10
    | none => w
  else w

/-- Barrier objects at `a`, `n` of them. -/
def restoreBars (moved : List (Nat × Nat × Nat)) (c : Nat) (n a : Nat) (s : State) : State :=
  match n with
  | 0 => s
  | k + 1 =>
    let off := (s.word a).toNat % 65536
    let v := s.readMem (a + 8) 64
    let b0 := rebind moved (towerOf c) ((v >>> 128) % 2 ^ 64)
    let b1 := rebind moved (towerOf c) ((v >>> 192) % 2 ^ 64)
    let v := v % 2 ^ 128 + b0 <<< 128 + b1 <<< 192 + (v >>> 256) <<< 256
    restoreBars moved c k (a + 72) (s.writeMem (apAddr c (64 * off)) 64 v)

/-- Pair-store regions at `a`, `n` of them. -/
def restoreRegions (c : Nat) (n a : Nat) (s : State) : State :=
  match n with
  | 0 => s
  | k + 1 =>
    let off := (s.word a).toNat
    let len := (s.word (a + 8)).toNat
    let s := if off + len ≤ pairSize then s.writeMem (apAddr c off) len (s.readMem (a + 16) len) else s
    restoreRegions c k (a + 16 + alignUp len 8) s

/-- The live slots of a ring: contents and live bits of core `c`. -/
def restoreSlots (c : Nat) (i : RingInst) (n a : Nat) (s : State) : State × RingInst × Nat :=
  match n with
  | 0 => (s, i, a)
  | k + 1 =>
    let m : BitVec 16 := BitVec.ofNat 16 (s.word a).toNat
    let s := if s.lostAt (i.slotAddr m) then s else s.writeMem (i.slotAddr m) i.size (s.readMem (a + 8) i.size)
    restoreSlots c (if decide ((m - i.head).toNat < i.filled) then i.mark c [m] else i) k (a + 8 + i.size) s

/-- The rings of a member (KIND 8) from `a` to `e`; each instance is formed again if it is no more. The list tells where slot 0 of
each was and is. -/
def restoreRings (fuel c x a e : Nat) (s : State) (moves : List (Nat × Nat × Nat)) : State × List (Nat × Nat × Nat) :=
  match fuel with
  | 0 => (s, moves)
  | f + 1 =>
    if e ≤ a then (s, moves)
    else
      let h := s.word a
      let d : RingDesc := { w0 := s.word (a + 8), w1 := s.word (a + 16) }
      let n := bits h 63 32
      let place : Option Nat :=
        if d.loc = 0 then some (apAddr c d.field) else (ringVa s (s.ctx c x) d.field (d.count * d.size) d.loc).map (fun p => p.1)
      let next := a + 48 + n * (8 + d.size)
      match place with
      | none => restoreRings f c x next e s moves
      | some base =>
        let g := settOf c
        let fresh : RingInst :=
          { sett := g, base := base, field := d.field, loc := d.loc, count := d.count, slotsz := d.slotsz, cmask := d.cmask,
            head := d.head, tail := d.tail, live := [] }
        let s : State := if (s.inst g base).isSome then s else { s with insts := s.insts ++ [fresh] }
        let i := (s.inst g base).getD fresh
        let (s, i, _) := restoreSlots c i n (a + 48) s
        let s := (s.setInst i).modCore c (fun k => { k with
          rings := k.rings.set (bits h 3 0)
            { inst := base, cursor := BitVec.ofNat 16 (bits (s.word (a + 24)) 15 0), roff := bits (s.word (a + 32)) 31 0, ctx := x, present := [] } })
        restoreRings f c x next e s (moves ++ [(g, (s.word (a + 40)).toNat, base)])

/-- The array state of an open span (KIND 10) at `a` (R169), put back once no context owns the array (`State.mayResume`;
notes/assumptions/67.md). -/
def State.restoreSpan (s : State) (c x a : Nat) : State :=
  let w := s.word (a + 8)
  let plane (b : Nat) : Tab (BitVec 2688) :=
    ((List.range 64).map (fun n => (n, BitVec.ofNat 2688 (s.readMem (b + 336 * n) 336)))).filter (fun e => e.2 ≠ 0)
  let p := a + 24 + 128
  let q := p + 2 * 21504
  let latch := (List.range (bits w 47 32)).map (fun n =>
    ({ isInt := bit (s.word (q + 264 * n)) 0, row := BitVec.ofNat 2048 (s.readMem (q + 264 * n + 8) 256) } : LatchRow))
  let r := q + 264 * bits w 47 32
  let arr : Arr :=
    { p0 := plane p, p1 := plane (p + 21504), tag0 := bits w 7 0, tag1 := bits w 15 8, flip := bit w 16, inflight := [],
      latch := latch, owner := some x
      scaleq := (List.range (bits w 63 48)).map (fun n => BitVec.ofNat 8 (s.word (r + 8 * n)).toNat) }
  (s.modCore c (fun k => { k with arr := arr })).modCtx c x (fun t => { t with
    span := t.span.map (fun sp => { sp with shape := s.word a }) })

/-- Bytes of a discardable range read as zero (R220). -/
def State.clearRange (s : State) (t : Ctx) (i : Nat) : State :=
  let lo := (bits (t.rng i 0) 55 0 + bits (t.rng i 2) 55 0) % 2 ^ 56
  let hi := lo + (bits (t.rng i 1) 55 0 - bits (t.rng i 0) 55 0)
  { s with mem := Memory.clear s.mem lo hi, poison := s.poison.filter (fun w => !(wordInside lo (hi - lo) w)),
           soft := s.soft.filter (fun w => !(wordInside lo (hi - lo) w)) }

/-- The members of a gang after the move. -/
def Gang.moved (g : Gang) (moved : List (Nat × Nat × Nat)) : Gang :=
  let seat (m : Nat × Nat) : Nat × Nat :=
    match moved.find? (fun e => e.1 = m.1 && e.2.1 = m.2) with
    | some e => (m.1, e.2.2)
    | none => m
  { g with leadCtx := (seat (g.leadCore, g.leadCtx)).2, members := g.members.map seat }

/-- A member restored: its saved context `t`, its save area, its new context `x` of core `c`. -/
def State.restoreMember (s : State) (moved : List (Nat × Nat × Nat)) (t : Ctx) (area c x : Nat)
    (moves : List (Nat × Nat × Nat)) : State × List (Nat × Nat × Nat) :=
  let sec (k : Nat) : Option Nat := s.section 16 area k
  let old := s.ctx c x
  let t := s.restoreCtx { t with
    active := old.active, shadow := old.shadow, keepTlb := old.keepTlb
    span := t.span.map (fun sp => { sp with gang := sp.gang.map (fun g => g.moved moved) }) } area
  let s := (s.setCtx c x t).modCore c (fun k => k.clearWindows x t.csr)
  let runs (k : Nat) : Nat :=
    match sec k with
    | some a => bits (s.word (a - 16)) 63 32
    | none => 0
  let live (kind size : Nat) (put : State → Nat → Nat → State) (s : State) : State :=
    match sec kind with
    | some a => restoreLive size put (a + runs kind - 16) 64 a s
    | none => s
  let s := live 6 4096 (fun s n v => s.modCore c (fun k => { k with vregs := k.vregs.set (t.vphys (BitVec.ofNat 6 n)) (BitVec.ofNat 32768 v) })) s
  let s := live 7 256 (fun s n v =>
    match t.accRow n with
    | some r => s.modCore c (fun k => { k with acc := k.acc.set r (BitVec.ofNat 2048 v) })
    | none => s) s
  let (s, moves) : State × List (Nat × Nat × Nat) :=
    match sec 8 with
    | some a => restoreRings 16 c x a (a + runs 8 - 16) s moves
    | none => (s, moves)
  let s : State :=
    match sec 9 with
    | some a =>
      let n := min (s.word a).toNat 65536
      let b := a + 8 + 72 * n
      restoreBars moved c n (a + 8) (restoreRegions c (min (s.word b).toNat 65536) (b + 8) s)
    | none => s
  let s : State :=
    match sec 10 with
    | some a => s.restoreSpan c x a
    | none => s
  ((t.rngList.filter (fun i => bit (t.rng i 3) 7)).foldl (fun (s : State) i => s.clearRange t i) s, moves)

/-- A recorded command as its section of the save area gives it, at `a`, for the context `x` that it now belongs to (R218, R220). -/
def State.savedCmd (s : State) (x a : Nat) (moves : List (Nat × Nat × Nat)) (k : Cmd) : Cmd :=
  let t := s.ctx k.core x
  let seat (q : Nat × Nat) : Nat × Nat :=
    match moves.find? (fun m => m.1 = q.1 && m.2.1 = q.2) with
    | some m => (q.1, m.2.2)
    | none => q
  { k with ctx := x, row := (s.word (a + 8)).toNat, ccb := s.words (a + 16) 8, ranges := t.ranges, ptbase := t.csr.ptbase, tlb := [],
           slots := k.slots.map seat }

/-- A command back in the queue of its engine. -/
def State.putBack (s : State) (class_ e : Nat) (k : Cmd) : State :=
  match class_ with
  | 0 => s.setCopyEngine e ((s.copyEngine e).put k)
  | 1 => s.setHare e ((s.hare e).put k)
  | 2 => s.setSendq e { s.sendq e with queue := (s.sendq e).queue ++ [k] }
  | 3 => s.setBadger e ((s.badger e).put k)
  | _ => s.setEgr e { s.egr e with queue := (s.egr e).queue ++ [k] }

/-- The recorded commands of a member re-issued in program order (R218). -/
def State.reissue (s : State) (rs : List (Nat × Nat × Cmd)) (area x : Nat) (moves : List (Nat × Nat × Nat)) : State :=
  match s.section 16 area 11 with
  | none => s
  | some a =>
    (((List.range rs.length).zip rs).take (s.word a).toNat).foldl (fun (s : State) e =>
      s.putBack e.2.1 e.2.2.1 (s.savedCmd x (a + 8 + 80 * e.1) moves e.2.2.2)) s

/-- The network commands that ran on belong to the new contexts. -/
def State.moveCmds (s : State) (k : Nat) (moved : List (Nat × Nat × Nat)) : State :=
  let seat (c : Cmd) : Cmd :=
    if c.task = k then
      match moved.find? (fun e => e.1 = c.core && e.2.1 = c.ctx) with
      | some e => { c with ctx := e.2.2 }
      | none => c
    else c
  let q (v : SendQ) : SendQ := { v with sends := v.sends.map seat, recvs := v.recvs.map seat }
  { s with towers := s.towers.mapV (fun w => { w with sendq := w.sendq.mapV q }) }

/-- What Marten held for the restore (R218): a credit, or the completion of a member's token. -/
def State.applyHeld (s : State) (ms : List (Nat × Nat)) (e : List Nat) : State :=
  match e with
  | [q, off, n, unit, code, flags, stop] => s.credit q off n unit code flags stop
  | [i, tok] =>
    let m := ms.getD i (0, 0)
    s.endToken m.1 m.2 tok
  | _ => s

/-- The contexts that `slots` names are free, on the cores that the gang held (R220), and where a member was saved inside a span its core's array
has no owner: the restore waits for it (notes/assumptions/67.md). -/
def State.mayResume (s : State) (b : BoundTask) (slots : List Nat) : Bool :=
  slots.length = b.members.length &&
  b.live.all (fun e =>
    let x := slots.getD e.1 0
    let kept := (s.marten b.tower).placing.flatMap (fun p => p.members)
    let open_ : Bool := ((b.pre.bind (fun p => p.saved[e.1]?)).bind Ctx.span).isSome
    decide (x < numCtxs) && !(s.ctx e.2.1 x).bound && !(kept.contains (e.2.1, x)) && !(open_ && (s.core e.2.1).arr.owner.isSome))

/-- GANG_RESUME (R218, R220): the saved gang of bound task `k` is restored in the free contexts `slots` of its cores, one for each
member; its recorded commands are re-issued first, and what was held for it is applied. -/
def execGangResume (k : Nat) (slots : List Nat) (s : State) : Host.Outcome State Fault Refusal :=
  match s.task k with
  | none => notNow s
  | some b =>
    match b.pre with
    | none => notNow s
    | some p =>
      if p.stage ≠ .saved || !(s.mayResume b slots) then notNow s
      else
        let moved := b.live.map (fun e => (e.2.1, e.2.2, slots.getD e.1 0))
        let area (i : Nat) : Nat := (p.areas.getD i (0, 0)).1
        let s := b.live.foldl (fun (s : State) e => s.correct (area e.1) (s.areaLen 16 (area e.1))) s
        let (s, moves) := b.live.foldl (fun (r : State × List (Nat × Nat × Nat)) e =>
          r.1.restoreMember moved (p.saved.getD e.1 Ctx.reset) (area e.1) e.2.1 (slots.getD e.1 0) r.2) (s, [])
        let s := moves.foldl (fun (s : State) m =>
          match s.inst m.1 m.2.2 with
          | some i => s.setInst i.free
          | none => s) s
        let members := ((List.range b.members.length).zip b.members).map (fun e =>
          if b.freed.contains e.1 then e.2 else (e.2.1, slots.getD e.1 0))
        let s := s.modTask k (fun b => { b with members := members, pre := none })
        let s := b.live.foldl (fun (s : State) e =>
          s.reissue (p.recorded.filter (fun r => r.2.2.core = e.2.1 && r.2.2.ctx = e.2.2)) (area e.1) (slots.getD e.1 0) moves) s
        happened (p.held.foldl (fun (s : State) h => s.applyHeld members h) (s.moveCmds k moved))

end Sys2Proof.Machine
end

