-- ==== Sys2Proof/Machine/Layers.lean ====
section
/-! DEFINITION. Clock, modes and layers: throttle windows, power level, timing mode, scrubbing, failing banks and lanes, recovery
points, layer retirement and protection modes (R18, R21, R24 to R30, R100, R101, R223, R225, R226). -/

namespace Sys2Proof.Machine

/-- THROTTLE_WINDOW (R24, R26, R29): a window boundary of tower `t`: `n` pulses are withheld from here on, and a power level that was
requested takes effect in it. `n` above 32 says that the limit cannot be held: 32 stays, and with every tower there the alarm is raised. -/
def execThrottleWindow (t n : Nat) (s : State) : Host.Outcome State Fault Refusal :=
  if numTowers ≤ t then .fault .noSuchUnit
  else
    let s := s.modTower t (fun w => { w with throt := min n 32, plevel := w.nextPlevel.getD w.plevel, nextPlevel := none })
    if 32 < n && (List.range numTowers).all (fun k => (s.tower k).throt = 32) then happened (s.alarm 0) else happened s

/-- A context of tower `t` is bound. -/
def State.boundIn (s : State) (t : Nat) (p : Ctx → Bool) : Bool :=
  s.cores.any (fun e => towerOf e.1 = t && e.2.ctxs.any (fun x => x.2.bound && p x.2))

/-- TIMING_MODE_APPLY (R26): no task runs in the tower. -/
def execTimingModeApply (t : Nat) (s : State) : Host.Outcome State Fault Refusal :=
  if numTowers ≤ t then .fault .noSuchUnit
  else
    match (s.tower t).nextTmode with
    | none => notNow s
    | some b =>
      if s.boundIn t (fun _ => true) then notNow s
      else happened (s.modTower t (fun w => { w with tmode := b, nextTmode := none }))

/-- SCRUB_VISIT (R223): the word at physical address 8w is read: a correctable error is corrected and logged; in a detect-only layer it
is poisoned (R28). -/
def execScrubVisit (w : Nat) (s : State) : Host.Outcome State Fault Refusal :=
  match s.region (8 * w) with
  | .layer _ _ _ => happened (s.correct (8 * w) 8)
  | _ => notNow s

/-- Spare banks of layer `n` (R18): one for every 32 banks. -/
def spareBanks (n : Nat) : Nat :=
  match n with
  | 1 => 32
  | 2 => 16
  | _ => 8

/-- BANK_FAILING (R225): a bank of a layer of tower `t`, given as (layer, bank), is failing. -/
def execBankFailing (t : Nat) (bank : Nat × Nat) (s : State) : Host.Outcome State Fault Refusal :=
  let n := bank.1
  let b := bank.2
  if numTowers ≤ t || n = 0 || 4 < n || 32 * spareBanks n ≤ b then .fault .noSuchUnit
  else if (s.layer t n).retired.isSome || (s.layer t n).banks.contains b then notNow s
  else happened (s.modLayer t n (fun l => { l with banks := l.banks ++ [b] }))

/-- FAILING_TSV_LANE (R225): one more lane of the layer's bus groups is failing. -/
def execFailingTsvLane (t n : Nat) (s : State) : Host.Outcome State Fault Refusal :=
  if numTowers ≤ t || n = 0 || 4 < n then .fault .noSuchUnit
  else if (s.layer t n).retired.isSome then notNow s
  else happened (s.modLayer t n (fun l => { l with badLanes := l.badLanes ++ [l.badLanes.length] }))

/-- Something waits for a recovery point of the layer; a retired layer has no banks or lanes to replace. -/
def Layer.needs (l : Layer) : Bool :=
  (l.retired.isNone && !(l.banks.isEmpty && l.badLanes.isEmpty)) || l.nextDetect.isSome

/-- Context `c` holds a valid range entry on layer `n` (R225). -/
def Ctx.onLayer (n : Nat) (c : Ctx) : Bool := c.rngList.any (fun i => bits (c.rng i 3) 2 0 = n)

/-- The running tasks of tower `t` that hold a valid range entry on layer `n` and for which no pre-emption has been asked (R225). -/
def State.tasksOn (s : State) (t n : Nat) : List Nat :=
  (s.tasks.filter (fun e => e.2.pre.isNone && e.2.members.any (fun m =>
    let k := s.ctx m.1 m.2
    towerOf m.1 = t && k.bound && k.task = e.1 && k.onLayer n))).map (fun e => e.1)

/-- A pre-emption request of the list: the task, the save areas, the live runs. -/
def State.askPreempt (s : State) (r : Nat × List (Nat × Nat) × List (Nat × Nat × Nat)) : State :=
  match execPreemptRequest r.1 r.2.1 r.2.2 s with
  | .next u => u
  | _ => s

/-- RECOVERY_DELAY_EXPIRE (R225): no natural point has come; the controller requests the forced pre-emption of every task on the layer, with
the save areas that `reqs` names (R216). -/
def execRecoveryDelayExpire (l : Nat × Nat) (reqs : List (Nat × List (Nat × Nat) × List (Nat × Nat × Nat))) (s : State) :
    Host.Outcome State Fault Refusal :=
  let t := l.1
  let n := l.2
  if numTowers ≤ t || n = 0 || 4 < n then .fault .noSuchUnit
  else if (s.layer t n).needs && !(s.layer t n).forced then
    let u := reqs.foldl State.askPreempt s
    if (u.tasksOn t n).isEmpty then happened (u.modLayer t n (fun l => { l with forced := true })) else notNow s
  else notNow s

/-- The bytes, locks and marks of layer `n` of tower `t` are gone. -/
def State.wipeLayer (s : State) (t n : Nat) : State :=
  let lo := layerAddr t n
  let hi := lo + 0x4000000000
  { s with
    mem := Memory.clear s.mem lo hi, locks := s.locks.filter (fun e => !(decide (lo ≤ 32 * e.1) && decide (32 * e.1 < hi)))
    lockBy := s.lockBy.filter (fun e => !(decide (lo ≤ 32 * e.1) && decide (32 * e.1 < hi)))
    poison := s.poison.filter (fun w => !(wordInside lo (hi - lo) w)), soft := s.soft.filter (fun w => !(wordInside lo (hi - lo) w)) }

/-- The retirement record of a layer (R226): CODE LAYERLOST, TOWER, the layer number in TASK. -/
def retirementRecord (t n : Nat) : List Word :=
  [0, 0, 0, BitVec.ofNat 64 cLAYERLOST, BitVec.ofNat 64 (n <<< 32), BitVec.ofNat 64 (t <<< 10), 0, 0]

/-- The layer is retired (R226): its extent is fixed as it stands, its contents are lost. -/
def State.retireLayer (s : State) (t n : Nat) : State :=
  let l := s.layer t n
  ((s.wipeLayer t n).modLayer t n (fun l' => { l' with retired := some (l.cap n * 1024) })).postRecord t (retirementRecord t n)

/-- A requested protection mode takes effect (R28): every byte and lock of the layer reads as zero. -/
def State.applyProtection (s : State) (t n : Nat) : State :=
  match (s.layer t n).nextDetect with
  | none => s
  | some b => (s.wipeLayer t n).modLayer t n (fun l => { l with detect := b, nextDetect := none })

/-- The banks in `bs` of layer `n` of tower `t` copied to spare ones: what can be corrected is, and marks stay (R101, R225). -/
def State.copyBanks (s : State) (t n : Nat) (bs : List Nat) : State :=
  s.correctBy (fun w =>
    match s.region (8 * w) with
    | .layer u m _ => u = t && m = n && bs.contains (Config.bankOf (8 * w))
    | _ => false)

/-- Failing banks and lanes replaced by spares (R225); `laneOk` tells whether the lanes' bus groups have spare ones left. The layer
retires if a bank or a lane finds no spare (R226). -/
def State.repair (s : State) (t n : Nat) (laneOk : Bool) : State :=
  let l := s.layer t n
  let k := min l.banks.length (spareBanks n - l.spares)
  let s := (s.copyBanks t n (l.banks.take k)).modLayer t n (fun l => { l with
    spares := l.spares + k, banks := l.banks.drop k, forced := false
    lanes := if laneOk then l.lanes + l.badLanes.length else l.lanes
    badLanes := if laneOk then [] else l.badLanes })
  if k < l.banks.length || (!laneOk && !l.badLanes.isEmpty) then s.retireLayer t n else s

/-- RECOVERY_POINT (R26, R28, R225, R226): no running task of tower `t` holds a valid range entry on layer `n`. Whether a failing lane
finds a spare in its bus group is a choice: the spec does not number the groups. -/
def execRecoveryPoint (t n : Nat) (s : State) : Host.Outcome State Fault Refusal :=
  if numTowers ≤ t || n = 0 || 4 < n then .fault .noSuchUnit
  else if !((s.layer t n).needs) || s.boundIn t (Ctx.onLayer n) then notNow s
  else
    let (k, s) := if (s.layer t n).badLanes.isEmpty then (0, s) else s.choose 2
    let s := if (s.layer t n).retired.isSome then s else s.repair t n (k = 0)
    happened (s.applyProtection t n)

end Sys2Proof.Machine
end

