-- ==== Sys2Proof/Machine/Owl.lean ====
section
/-! DEFINITION. Owl: its registers, commands, traces and injected errors (R222, R274 to R282). -/

namespace Sys2Proof.Machine

/-! ## Registers (R274, R275, R278, R281) -/

/-- A breakpoint's register number. -/
def Owl.bp (o : Owl) (n : Nat) : Breakpoint := o.bps.get n Breakpoint.reset

/-- Owl's register at an offset of its block; an offset that names none reads as zero (R271). -/
def Owl.read (o : Owl) (off : Nat) : Word :=
  if off = 0x000 then o.cmd
  else if off = 0x008 then o.data
  else if off = 0x010 then BitVec.ofNat 64 (o.result <<< 1 + bnat o.pend)
  else if off = 0x018 then o.trbase
  else if off = 0x020 then BitVec.ofNat 64 (o.wptr.toNat <<< 32 + o.trctl.toNat % 2 ^ 32)
  else if off = 0x028 then o.errctl
  else if off = 0x030 then o.erradr
  else if decide (0x040 ≤ off) && decide (off < 0x0C0) then
    let b := o.bp ((off - 0x040) / 16)
    if off % 16 = 0 then b.addr else b.ctl
  else 0

/-- A correctable error or a poison mark put into the word at `pa` (R281). A layer in detect-only mode corrects nothing (R28): the word
is poisoned. -/
def State.inject (s : State) (pa : Nat) (poison : Bool) : State :=
  let detect : Bool :=
    match s.region pa with
    | .layer t n _ => (s.layer t n).detect
    | _ => false
  match s.region pa with
  | .hole => s
  | .lost _ _ => s
  | _ =>
    if poison || detect then s.markPoison (pa / 8)
    else if s.soft.contains (pa / 8) then s
    else { s with soft := (pa / 8) :: s.soft }

/-- A write to ERRINJCTL (R281): EVENT 0 injects at once; EVENT 3 refuses ARM. -/
def State.errinj (s : State) (t : Nat) (v : Word) : State :=
  let v := v &&& 0x0000FFFF00FFE303
  let ev := bits v 9 8
  let s' (c : Word) : State := s.modOwl t (fun o => { o with errctl := c, errseen := 0 })
  if bit v 0 then
    if ev = 0 then (s' (v - 1)).inject (s.owl t).erradr.toNat (bit v 1)
    else if ev = 3 then s' (v - 1)
    else s' v
  else s' v

/-- A write to a register of Owl `t`. OWLCMD ignores it while PEND = 1 (R276). -/
def State.owlWrite (s : State) (t off : Nat) (v : Word) : State :=
  let put (f : Owl → Owl) : State := s.modOwl t f
  if off = 0x000 then
    if (s.owl t).pend then s else put (fun o => { o with cmd := v &&& 0xFFFFFFFF00003FFF, pend := true })
  else if off = 0x008 then put (fun o => { o with data := v })
  else if off = 0x018 then put (fun o => { o with trbase := putBits v 0 12 0 })
  else if off = 0x020 then put (fun o => { o with trctl := v &&& 0xFFFF0F07 })
  else if off = 0x028 then s.errinj t v
  else if off = 0x030 then put (fun o => { o with erradr := putBits v 0 3 0 })
  else if decide (0x040 ≤ off) && decide (off < 0x0C0) then
    put (fun o =>
      let n := (off - 0x040) / 16
      let b := o.bp n
      { o with bps := o.bps.set n (if off % 16 = 0 then { b with addr := putBits v 0 4 0 } else { b with ctl := v &&& 0xFFFF8000 }) })
  else s

/-- ERROR_INJECT_ARM (R281): a write to ERRINJCTL of tower `t`. -/
def execErrorInjectArm (t : Nat) (v : BitVec 64) (s : State) : Host.Outcome State Fault Refusal :=
  if numTowers ≤ t then .fault .noSuchUnit else fromHost s (s.errinj t v)

/-! ## Commands (R276) -/

def owlOp (o : Owl) : Nat := bits o.cmd 3 0
def owlCore (t : Nat) (o : Owl) : Nat := 96 * t + bits o.cmd 10 4
def owlCtx (o : Owl) : Nat := bits o.cmd 13 11
def owlArg (o : Owl) : Nat := bits o.cmd 63 32

def rsDONE : Nat := 0
def rsBUSY : Nat := 1
def rsNOTBOUND : Nat := 2
def rsBADREG : Nat := 3
def rsBADCMD : Nat := 4

/-- The command ends with a result. -/
def State.owlEnd (s : State) (t r : Nat) : State :=
  s.modOwl t (fun o => { o with result := r, pend := false, settling := false, stepping := false })

/-- An event of Owl `t` that carries out its pending command `op`, which names a bound context; `k` has its core, context and ARG. -/
def owlRun (s : State) (t op : Nat) (k : Nat → Nat → Nat → State) : Host.Outcome State Fault Refusal :=
  if numTowers ≤ t then .fault .noSuchUnit
  else
    let o := s.owl t
    if !o.pend || owlOp o ≠ op || o.settling || o.stepping then notNow s
    else if 96 ≤ bits o.cmd 10 4 || !(s.ctx (owlCore t o) (owlCtx o)).bound then happened (s.owlEnd t rsNOTBOUND)
    else happened (k (owlCore t o) (owlCtx o) (owlArg o))

/-- The context is halted for a pre-emption, which alone may start it again. -/
def State.haltedForPre (s : State) (c x : Nat) : Bool :=
  let t := s.ctx c x
  match (s.task t.task).bind BoundTask.pre with
  | some p => p.landed.contains t.member
  | none => false

/-- OWL_STOP (R276): a precise stop, and a deferred fault that it meets is taken (R212); a stopped or ended context is unchanged. -/
def execOwlStop (t : Nat) (s : State) : Host.Outcome State Fault Refusal :=
  owlRun s t 1 (fun c x _ =>
    let k := s.ctx c x
    if k.stopped || k.ended then s.owlEnd t rsDONE
    else ((s.owlHalt c x 0 k.stopAddr).landHere c x false).owlEnd t rsDONE)

/-- A stopped context goes on (R211), through its handler first when the stop was a fault and it has one (R213). -/
def Ctx.resume (t : Ctx) : Ctx :=
  let u := { t with stopped := false, stopReason := 0 }
  if t.stopReason = 1 && t.hvec ≠ 0 && t.handler.isNone then u.enterHandler else u

/-- OWL_RESUME (R276). -/
def execOwlResume (t : Nat) (s : State) : Host.Outcome State Fault Refusal :=
  owlRun s t 2 (fun c x _ =>
    if !(s.ctx c x).stopped || s.haltedForPre c x then s.owlEnd t rsBUSY
    else (s.modCtx c x Ctx.resume).owlEnd t rsDONE)

/-- OWL_STEP (R277): the command is accepted, and the context is ready for one operation, which ends it. It ends, too, when the context is no
longer bound or stopped. -/
def execOwlStep (t : Nat) (s : State) : Host.Outcome State Fault Refusal :=
  if numTowers ≤ t then .fault .noSuchUnit
  else
    let o := s.owl t
    let k := s.ctx (owlCore t o) (owlCtx o)
    if o.pend && o.stepping then
      if !k.bound then happened (s.owlEnd t rsNOTBOUND)
      else if !k.stopped || s.haltedForPre (owlCore t o) (owlCtx o) then
        happened ((s.giveUp (owlCore t o) (owlCtx o)).owlEnd t rsBUSY)
      else notNow s
    else
      owlRun s t 3 (fun c x _ =>
        if !(s.ctx c x).stopped || s.haltedForPre c x then s.owlEnd t rsBUSY
        else s.modOwl t (fun o => { o with stepping := true }))

/-- OWL_SETTLE (R222): it ends when the context's counters are zero. -/
def execOwlSettle (t : Nat) (s : State) : Host.Outcome State Fault Refusal :=
  owlRun s t 4 (fun _ _ _ => s.modOwl t (fun o => { o with settling := true }))

/-- OWL_SETTLE_DONE (R222): ld, st and cp are zero. -/
def execOwlSettleDone (t : Nat) (s : State) : Host.Outcome State Fault Refusal :=
  if numTowers ≤ t then .fault .noSuchUnit
  else
    let o := s.owl t
    let k := s.ctx (owlCore t o) (owlCtx o)
    if o.settling && (!k.bound || (k.ld = 0 && k.st = 0 && k.cp = 0)) then
      happened (s.owlEnd t (if k.bound then rsDONE else rsNOTBOUND))
    else notNow s

/-- The register code of ARG 0x400 + n and 0x440 + n. -/
def argReg (a : Nat) : Option Nat :=
  if 0x400 ≤ a ∧ a < 0x440 then some (a - 0x400) else if 0x440 ≤ a ∧ a < 0x450 then some (64 + (a - 0x440)) else none

/-- OWL_RDREG (R276). -/
def execOwlRdreg (t : Nat) (s : State) : Host.Outcome State Fault Refusal :=
  owlRun s t 5 (fun c x a =>
    let k := s.ctx c x
    let v : Option Word :=
      match argReg a with
      | some r => some (k.reg r)
      | none => if a < 0x300 then s.csr c x a else none
    if !k.stopped then s.owlEnd t rsBUSY
    else
      match v with
      | none => s.owlEnd t rsBADREG
      | some v => (s.modOwl t (fun o => { o with data := v })).owlEnd t rsDONE)

/-- OWL_WRREG (R222, R276): refused while the register is the destination of an outstanding access or a pending write.
A control register holds the value from then on: the delay of R335 is that of CSRW. -/
def execOwlWrreg (t : Nat) (s : State) : Host.Outcome State Fault Refusal :=
  owlRun s t 6 (fun c x a =>
    let k := s.ctx c x
    let v := (s.owl t).data
    if !k.stopped then s.owlEnd t rsBUSY
    else
      match argReg a with
      | some r =>
        if k.pend.any (fun p => p.reg = r) then s.owlEnd t rsBUSY
        else (s.setCtx c x { k with regs := k.regs.set r v }).owlEnd t rsDONE
      | none =>
        match (if a < 0x300 then s.csrWrite c x a v else none) with
        | none => s.owlEnd t rsBADREG
        | some s => (s.modCtx c x (fun u => { u with absLag := [] })).owlEnd t rsDONE)

/-- OWL_FLUSH (R280): the span table of the named core and its unspanned set as KIND 3 records, and both cleared. -/
def execOwlFlush (t : Nat) (s : State) : Host.Outcome State Fault Refusal :=
  owlRun s t 7 (fun c _ _ =>
    let k := s.core c
    let s := k.prof.foldl (fun (s : State) e => s.profRecord c e 2) s
    ((s.profRecord c k.unspanned 0).modCore c (fun k => { k with prof := [], unspanned := ProfEntry.reset })).owlEnd t rsDONE)

/-- OWL_TAGDUMP (R282): the tag-assignment trace, oldest first, as KIND 4 records; TAGSET stands in slot 3. -/
def execOwlTagdump (t : Nat) (s : State) : Host.Outcome State Fault Refusal :=
  owlRun s t 8 (fun _ _ _ =>
    ((s.tower t).trace.reverse.foldl (fun (s : State) e =>
      s.traceRecord t (mergeBits 3 e.addr 63 4) (BitVec.ofNat 64 (e.ctx <<< 23 + coreIn e.core <<< 16 + 4))
        [BitVec.ofNat 64 e.lo, BitVec.ofNat 64 e.hi, BitVec.ofNat 64 e.lock.toNat]) s).owlEnd t rsDONE)

/-- OWL_BAD_COMMAND (R276): an OP that is not assigned. -/
def execOwlBadCommand (t : Nat) (s : State) : Host.Outcome State Fault Refusal :=
  if numTowers ≤ t then .fault .noSuchUnit
  else
    let o := s.owl t
    if o.pend && (owlOp o = 0 || decide (8 < owlOp o)) then happened (s.owlEnd t rsBADCMD) else notNow s

/-- A sample of core `c` (R279): its class, and the oldest unissued operation of the issuing context, or its last dispatched bundle with SLOT 0. A
core that no context holds is without command, but for a member of an open ganged span, which has its leader's class (R174). -/
def State.sample (s : State) (t c : Nat) : State :=
  let k := s.core c
  if (List.range numCtxs).any (fun x => (k.ctx x).bound) then
    let x := k.running.getD k.lastSwitch
    let u := k.ctx x
    let ganged : Bool := ((s.ctx c (k.arr.owner.getD x)).span.bind Span.gang).isSome
    let cls := if k.running.isNone && !ganged then 4 else if k.running.isSome && u.reversing then 0 else s.arrayClass c x
    let w0 : Word :=
      match windowOps u.vq u.mq u.lq with
      | o :: _ => mergeBits (BitVec.ofNat 64 o.slot) o.addr 63 4
      | [] => mergeBits 0 u.lastAddr 63 4
    s.traceRecord t w0 (BitVec.ofNat 64 (x <<< 23 + coreIn c <<< 16 + 1)) [BitVec.ofNat 64 cls]
  else s

/-- TRACE_SAMPLE (R279): a sample period of tower `t` ends. -/
def execTraceSample (t : Nat) (s : State) : Host.Outcome State Fault Refusal :=
  if numTowers ≤ t then .fault .noSuchUnit
  else if !(bit (s.owl t).trctl 1) then notNow s
  else happened ((List.range 96).foldl (fun (s : State) c => s.sample t (96 * t + c)) s)

end Sys2Proof.Machine
end

