-- ==== Sys2Proof/Machine/Sha3.lean ====
section
/-! DEFINITION. SHA3-256 (FIPS 202), which module reset and attestation name (R269, R270), over numbers: the sponge holds 1,600 bits, its
lane in column `x` of plane `y` being the 64 bits from 64 · (x + 5y). -/

namespace Sys2Proof.Machine

/-- The lane in column `x` of plane `y`, both taken modulo 5. -/
def spongeLane (v x y : Nat) : Nat := (v >>> (64 * (x % 5 + 5 * (y % 5)))) % 2 ^ 64

/-- The sponge whose lanes are given by column and plane. -/
def spongeOf (f : Nat → Nat → Nat) : Nat := joinNat 64 ((List.range 25).map (fun i => f (i % 5) (i / 5)))

/-- A lane turned left by `n` bits. -/
def turn (n v : Nat) : Nat := (v <<< (n % 64)) % 2 ^ 64 + v >>> (64 - n % 64)

/-- The parity of a column. -/
def parity (v x : Nat) : Nat := (List.range 5).foldl (fun p y => p ^^^ spongeLane v x y) 0

/-- How far ρ turns lane (`x`, `y`): the walk of FIPS 202 from (1, 0) through (y, 2x + 3y) reaches it with its `t`-th step. -/
def turnOf (x y fuel t i j : Nat) : Nat :=
  match fuel with
  | 0 => 0
  | f + 1 => if i = x ∧ j = y then (t + 1) * (t + 2) / 2 else turnOf x y f (t + 1) j ((2 * i + 3 * j) % 5)

/-- The register of the round constants after `n` steps; its bit 0 is the output. -/
def lfsr (n : Nat) : Nat := n.repeat (fun r => if r < 128 then 2 * r else (2 * r) ^^^ 0x171) 1

/-- The constant that ι adds in round `k`: bit 2^j − 1 is output j + 7k of the register. -/
def iota (k : Nat) : Nat := (List.range 7).foldl (fun c j => c + (lfsr (j + 7 * k) % 2) <<< (2 ^ j - 1)) 0

/-- θ, then ρ and π together, then χ and ι of round `k`. -/
def spongeRound (v k : Nat) : Nat :=
  let v := spongeOf (fun x y => spongeLane v x y ^^^ parity v (x + 4) ^^^ turn 1 (parity v (x + 1)))
  let v := spongeOf (fun x y => turn (turnOf ((x + 3 * y) % 5) x 24 0 1 0) (spongeLane v (x + 3 * y) x))
  spongeOf (fun x y => spongeLane v x y ^^^ ((2 ^ 64 - 1 - spongeLane v (x + 1) y) &&& spongeLane v (x + 2) y)) ^^^ iota k

/-- The 24 rounds. -/
def permute (v : Nat) : Nat := (List.range 24).foldl spongeRound v

/-- SHA3-256 of a message; byte 0 of the digest is bits [7:0]. Blocks have 1,088 bits; the message ends with 01 and the padding 1 0…0 1. -/
def sha3 (m : List Byte) : BitVec 256 :=
  let blocks := m.length / 136 + 1
  let padded := natOfBytes m + 6 <<< (8 * m.length) + 1 <<< (1088 * blocks - 1)
  BitVec.ofNat 256 ((List.range blocks).foldl (fun v i => permute (v ^^^ ((padded >>> (1088 * i)) % 2 ^ 1088))) 0)

end Sys2Proof.Machine
end

