-- ==== Sys2Proof/Machine/Mgmt.lean ====
section
/-! DEFINITION. The management registers, launch doorbell, image invalidation, mode requests, attestation and module reset (R26, R45,
R196, R262, R269 to R274). -/

namespace Sys2Proof.Machine

/-! ## Reading (R271, R272) -/

/-- The register at a word offset of the management window; an offset that names none reads as zero. -/
def State.mgmtRead (s : State) (off : Nat) : Word :=
  let m := s.mgmt
  if off = 0x0000 then 0x0E080100
  else if off = 0x0008 then Config.mgstat m.failedStage
  else if off = 0x0010 then m.ldoorbell
  else if off = 0x0018 then m.lqtab
  else if off = 0x0020 then BitVec.ofNat 64 (m.lqnum.toNat <<< 16 + m.alarms.toNat)
  else if off = 0x0028 then m.modeset
  else if off = 0x0030 then m.errbase
  else if off = 0x0038 then m.errsize
  else if decide (0x0040 ≤ off) && decide (off < 0x00C0) then
    let q := m.fqs.get ((off - 0x0040) / 16) HostRing.reset
    if off % 16 = 0 then q.base
    else BitVec.ofNat 64 (q.slots.toNat % 65536 + (q.head.toNat % 65536) <<< 32 + (q.tail.toNat % 65536) <<< 48)
  else if decide (0x0100 ≤ off) && decide (off < 0x0140) then
    let q := m.egrings.get ((off - 0x0100) / 32) HostRing.reset
    match off % 32 with
    | 0 => q.base
    | 8 => q.slots
    | 16 => q.head
    | _ => q.tail
  else if off = 0x0140 then m.egrst
  else if off = 0x0148 then BitVec.ofNat 64 (m.imginv.toNat + bnat (!m.imgpend.isEmpty) <<< 31)
  else if decide (0x0200 ≤ off) && decide (off < 0x0220) then m.nonce.get ((off - 0x0200) / 8) 0
  else if off = 0x0220 then BitVec.ofNat 64 (bnat m.attreq)
  else if decide (0x0800 ≤ off) && decide (off < 0x1000) then
    let v := s.sendq ((off - 0x0800) / 16)
    if off % 16 = 0 then v.peer else v.word1
  else if decide (0x1000 ≤ off) && decide (off < 0x3000) then BitVec.ofNat 64 (natOfBytes ((m.attwin.drop (off - 0x1000)).take 8))
  else if decide (0x4000 ≤ off) && decide (off < 0x6000) then (s.owl ((off - 0x4000) / 0x400)).read ((off - 0x4000) % 0x400)
  else 0

/-! ## Writes that do something (R26, R45, R196, R270) -/

/-- A write to LDOORBELL (R196): the queue has a new TAIL; a queue that would be skipped raises the alarm. -/
def State.doorbell (s : State) (v : Word) : State :=
  let i := bits v 3 0
  let s := s.modMgmt (fun m => { m with ldoorbell := BitVec.ofNat 64 i })
  if !(inLpddr s.mgmt.lqtab.toNat 1024) then s.launchAlarm 0
  else if lqBad (s.lqHeader i) then s.launchAlarm i
  else if s.mgmt.doorbells.contains i then s
  else s.modMgmt (fun m => { m with doorbells := m.doorbells ++ [i] })

/-- LAUNCH_DOORBELL (R196). -/
def execLaunchDoorbell (v : BitVec 64) (s : State) : Host.Outcome State Fault Refusal := fromHost s (s.doorbell v)

/-- A write to IMGINV (R45): PEND is set, and every line of the image is invalidated in every pair. -/
def State.imageInvalidate (s : State) (v : Word) : State :=
  let i := bits v 23 0
  let s := s.modMgmt (fun m => { m with
    imginv := BitVec.ofNat 24 i, imgpend := if m.imgpend.contains i then m.imgpend else m.imgpend ++ [i] })
  { s with icaches := s.icaches.mapV (fun ls => ls.filter (fun l => l.image.toNat ≠ i)) }

/-- IMAGE_INVALIDATE (R45). -/
def execImageInvalidate (v : BitVec 64) (s : State) : Host.Outcome State Fault Refusal := fromHost s (s.imageInvalidate v)

/-- IMGINV_DONE (R45): every tower has invalidated; PEND clears, and tasks of the image may be placed. -/
def execImginvDone (s : State) : Host.Outcome State Fault Refusal :=
  if s.mgmt.imgpend.isEmpty then notNow s else happened (s.modMgmt (fun m => { m with imgpend := [] }))

/-- A request that is none when it asks for what is in force. -/
def asked [BEq α] (v now : α) : Option α := if v == now then none else some v

/-- MODESET written (R26): of each mode a later setting replaces one that has not taken effect. The power level waits in every tower for
that tower's own window boundary. -/
def State.modeset (s : State) (v : Word) : State :=
  (List.range numTowers).foldl (fun (s : State) t =>
    let s := s.modTower t (fun w => { w with nextTmode := asked (bit v t) w.tmode, nextPlevel := asked (bits v 41 40) w.plevel })
    (List.range 4).foldl (fun (s : State) k =>
      s.modLayer t (k + 1) (fun l => { l with nextDetect := asked (bit v (8 + 4 * t + k)) l.detect })) s)
    (s.modMgmt (fun m => { m with modeset := v &&& 0x3FFFFFFFFFF }))

/-- MODESET_WRITE (R26, R271): firmware's request. -/
def execModesetWrite (v : BitVec 64) (s : State) : Host.Outcome State Fault Refusal := happened (s.modeset v)

/-- ATTESTATION_REQUEST (R270): a write to ATTREQ. -/
def State.attest (s : State) (v : Word) : State := if bit v 0 then s.modMgmt (fun m => { m with attreq := true }) else s
def execAttestationRequest (v : BitVec 64) (s : State) : Host.Outcome State Fault Refusal := fromHost s (s.attest v)

/-- The report up to its signature (R270): nonce, M, each stage's digest and version, the public key. -/
def Mgmt.reportBody (m : Mgmt) : List Byte :=
  (List.range 4).flatMap (fun k => bytesOf 8 (m.nonce.get k 0).toNat) ++ bytesOf 32 m.measure.toNat ++
  ((List.range m.digests.length).zip m.digests).flatMap (fun e =>
    bytesOf 32 e.2.toNat ++ bytesOf 8 (Config.stageVersion e.1).toNat) ++ bytesOf 1312 Config.attestPublicKey.toNat

/-- ATTESTATION_REPORT (R270): the report stands in the attestation window, and ATTREQ is clear. -/
def execAttestationReport (s : State) : Host.Outcome State Fault Refusal :=
  if s.mgmt.attreq then
    let b := s.mgmt.reportBody
    happened (s.modMgmt (fun m => { m with
      attreq := false, attwin := b ++ bytesOf 2420 (Config.attestSignature (sha3 b)).toNat }))
  else notNow s

/-! ## Every register (R271) -/

/-- A write to a register of the management block at a word offset: RO and missing registers ignore it. A head of a ring has one writer, the host
(R273), whose writes `State.hostMgmtWrite` makes. -/
def State.mgmtWrite (s : State) (off : Nat) (v : Word) : State :=
  if off = 0x0010 then s.doorbell v
  else if off = 0x0018 then s.modMgmt (fun m => { m with lqtab := putBits v 0 6 0 })
  else if off = 0x0020 then s.modMgmt (fun m => { m with alarms := m.alarms &&& ~~~(BitVec.ofNat 4 (bits v 3 0)) })
  else if off = 0x0028 then s.modeset v
  else if off = 0x0030 then s.modMgmt (fun m => { m with errbase := v })
  else if off = 0x0038 then s.modMgmt (fun m => { m with errsize := v })
  else if decide (0x0040 ≤ off) && decide (off < 0x00C0) then
    s.modMgmt (fun m =>
      let t := (off - 0x0040) / 16
      let q := m.fqs.get t HostRing.reset
      let q : HostRing :=
        if off % 16 = 0 then { q with base := v }
        else { q with slots := BitVec.ofNat 64 (bits v 15 0) }
      { m with fqs := m.fqs.set t q })
  else if decide (0x0100 ≤ off) && decide (off < 0x0140) then
    s.modMgmt (fun m =>
      let d := (off - 0x0100) / 32
      let q := m.egrings.get d HostRing.reset
      let q : HostRing :=
        match off % 32 with
        | 0 => { q with base := v }
        | 8 => { q with slots := v }
        | _ => q
      { m with egrings := m.egrings.set d q })
  else if off = 0x0140 then s.streamReset v
  else if off = 0x0148 then s.imageInvalidate v
  else if decide (0x0200 ≤ off) && decide (off < 0x0220) then s.modMgmt (fun m => { m with nonce := m.nonce.set ((off - 0x0200) / 8) v })
  else if off = 0x0220 then s.attest v
  else if decide (0x0800 ≤ off) && decide (off < 0x1000) then s.nqWrite ((off - 0x0800) / 16) (off % 16 / 8) v
  else if decide (0x4000 ≤ off) && decide (off < 0x6000) then s.owlWrite ((off - 0x4000) / 0x400) ((off - 0x4000) % 0x400) v
  else s

/-- A write by the host (R271, R273): MODESET and ERRLOG ignore it, and of a fault queue it writes the head only, since firmware writes
base and slot count; of an egress ring it writes the head too. -/
def State.hostMgmtWrite (s : State) (off : Nat) (v : Word) : State :=
  if off = 0x0028 || off = 0x0030 || off = 0x0038 then s
  else if decide (0x0040 ≤ off) && decide (off < 0x00C0) then
    if off % 16 = 8 then
      s.modMgmt (fun m =>
        let t := (off - 0x0040) / 16
        { m with fqs := m.fqs.set t { m.fqs.get t HostRing.reset with head := BitVec.ofNat 64 (bits v 47 32) } })
    else s
  else if decide (0x0100 ≤ off) && decide (off < 0x0140) && decide (off % 32 = 16) then
    s.modMgmt (fun m =>
      let d := (off - 0x0100) / 32
      { m with egrings := m.egrings.set d { m.egrings.get d HostRing.reset with head := v } })
  else s.mgmtWrite off v

/-- MGMT_REGISTER_WRITE (R271): a write of the register at the offset `p.2`, a multiple of 8, by the host where `p.1` says so, whose write
waits while the link retrains (R259), or by firmware; any other offset names no register. -/
def execMgmtRegisterWrite (p : Bool × Nat) (v : BitVec 64) (s : State) : Host.Outcome State Fault Refusal :=
  let host := p.1
  let off := p.2
  if off % 8 ≠ 0 then (if host then fromHost s s else happened s)
  else if host then fromHost s (s.hostMgmtWrite off v)
  else happened (s.mgmtWrite off v)

/-! ## Module reset (R269) -/

/-- The firmware stages verified in order: each verified one extends the measurement, the first that fails does not run. -/
def Mgmt.verify (m : Mgmt) (k : Nat) (stages : List (BitVec 256 × Bool)) : Mgmt :=
  match stages with
  | [] => m
  | (d, ok) :: r =>
    if ok then
      Mgmt.verify { m with measure := sha3 (bytesOf 32 m.measure.toNat ++ bytesOf 32 d.toNat), digests := m.digests ++ [d] } (k + 1) r
    else { m with failedStage := some k }

/-- MODULE_RESET (R269): every register and memory is as after module reset; `stages` gives each stage's digest and whether its
signature holds. The model's own fields go on. -/
def execModuleReset (stages : List (BitVec 256 × Bool)) (s : State) : Host.Outcome State Fault Refusal :=
  let r := State.reset
  happened { r with mgmt := r.mgmt.verify 0 stages, netOut := s.netOut, hostOut := s.hostOut, inputs := s.inputs, sched := s.sched,
                    free := s.free }

end Sys2Proof.Machine
end

