-- ==== Sys2Proof/Machine/Link.lean ====
section
/-! DEFINITION. The Aflan link and the host's accesses: flits, replay, retraining, host reads and writes (R259, R260). -/

namespace Sys2Proof.Machine

/-! ## Flits (R259) -/

/-- One bit of a CRC-64 with the ECMA-182 polynomial, most significant bit first, from zero and without a final XOR
(notes/assumptions/26.md). -/
def crc64Bit (c : Nat) : Nat := (if c.testBit 63 then (2 * c) ^^^ 0x42F0E1EBA9EA3693 else 2 * c) % 2 ^ 64
def crc64Byte (c : Nat) (b : Byte) : Nat :=
  let c := c ^^^ (b.toNat <<< 56)
  crc64Bit (crc64Bit (crc64Bit (crc64Bit (crc64Bit (crc64Bit (crc64Bit (crc64Bit c)))))))
def crc64 (bs : List Byte) : Nat := bs.foldl crc64Byte 0

/-- Flit types. -/
def ftIDLE : Nat := 0
def ftDATA : Nat := 1
def ftACK : Nat := 2
def ftNAK : Nat := 3

/-- A flit: sequence number, type, acknowledgement, payload, CRC. -/
def flit (seq kind ack : Nat) (payload : List Byte) : List Byte :=
  let b := bytesOf 2 (seq % 4096 + kind <<< 12) ++ bytesOf 2 (ack % 4096) ++ payload
  b ++ bytesOf 8 (crc64 b)

def flitSeq (f : List Byte) : Nat := natOfBytes (f.take 2) % 4096
def flitType (f : List Byte) : Nat := natOfBytes (f.take 2) / 4096
def flitAck (f : List Byte) : Nat := natOfBytes ((f.drop 2).take 2) % 4096
def flitGood (f : List Byte) : Bool := f.length = 256 && natOfBytes (f.drop 248) = crc64 (f.take 248)

/-- Sequence number of the last good flit received. -/
def Link.lastGood (l : Link) : Nat := (l.rxSeq - 1).toNat

/-- A flit without payload that answers. -/
def Link.answer (l : Link) (kind : Nat) : Link :=
  { l with sent := l.sent ++ [flit l.txSeq.toNat kind l.lastGood (List.replicate 244 0)] }

/-- A data flit sent and kept for replay. -/
def Link.send (l : Link) (payload : List Byte) : Link :=
  let f := flit l.txSeq.toNat ftDATA l.lastGood payload
  { l with txSeq := l.txSeq + 1, replay := l.replay ++ [f], sent := l.sent ++ [f] }

/-- Flits up to an acknowledged sequence number leave the replay buffer, and their count of refusals goes. -/
def Link.ack (l : Link) (a : Nat) : Link :=
  let acked (q : Nat) : Bool := decide ((a + 4096 - q) % 4096 < 2048)
  { l with replay := l.replay.filter (fun f => !(acked (flitSeq f))), naks := l.naks.filter (fun e => !(acked e.1)) }

/-- Flit `q` of the replay buffer refused (R131, R259): it and every later one are replayed in order, until its eighth replay, which follows
the eighth refusal, has failed too. -/
def Link.refused (l : Link) (q : Nat) : Link :=
  let n := l.naks.get q 0
  if !(l.replay.any (fun f => flitSeq f = q)) || 8 < n then l
  else
    let l := { l with naks := l.naks.set q (n + 1) }
    if n < 8 then { l with sent := l.sent ++ l.replay.filter (fun f => decide ((flitSeq f + 4096 - q) % 4096 < 2048)) } else l

/-- Eight replays of one flit have failed (R259). -/
def Link.failed (l : Link) : Bool := l.naks.any (fun e => decide (8 < e.2))

/-- A flit received (R259): a bad one is answered with a negative acknowledgement; of good data flits the next in sequence is accepted
and acknowledged; a negative acknowledgement has the flits after its ACK replayed. -/
def Link.receive (l : Link) (dat : List Byte) : Link :=
  if !(flitGood dat) then l.answer ftNAK
  else
    let l := l.ack (flitAck dat)
    if flitType dat = ftDATA then
      if flitSeq dat = l.rxSeq.toNat then
        Link.answer { l with rxSeq := l.rxSeq + 1, accepted := l.accepted ++ [(dat.drop 4).take 244] } ftACK
      else l
    else if flitType dat = ftNAK then l.refused ((flitAck dat + 1) % 4096)
    else l

/-- FLIT_RECEIVE (R259). -/
def execFlitReceive (dat : List (BitVec 8)) (s : State) : Host.Outcome State Fault Refusal :=
  if s.link.retraining then notNow s else happened { s with link := s.link.receive dat }

/-- FLIT_NAK (R259): flit `q` is refused by the other end. -/
def execFlitNak (q : Nat) (s : State) : Host.Outcome State Fault Refusal :=
  if s.link.retraining || s.link.failed || !(s.link.replay.any (fun f => flitSeq f = q % 4096)) then notNow s
  else happened { s with link := s.link.refused (q % 4096) }

/-- LINK_RETRAIN (R259): eight replays of one flit have failed. -/
def execLinkRetrain (s : State) : Host.Outcome State Fault Refusal :=
  if s.link.retraining || !s.link.failed then notNow s else happened { s with link := { s.link with retraining := true } }

/-- LINK_RETRAINED (R259): what was not acknowledged is sent again, and the transactions that waited move. -/
def execLinkRetrained (s : State) : Host.Outcome State Fault Refusal :=
  if s.link.retraining then
    happened { s with link := { s.link with retraining := false, naks := [], sent := s.link.sent ++ s.link.replay } }
  else notNow s

/-! ## Host accesses (R260) -/

/-- The management window as the host addresses it here: offset `off` at 2⁵⁶ + off, above every physical address. -/
def mgmtBase : Nat := 2 ^ 56

/-- `[pa, pa + n)` lies in LPDDR6 or in pair stores, and the part runs its firmware. -/
def State.hostMay (s : State) (pa n : Nat) : Bool :=
  s.mgmt.failedStage.isNone && (inLpddr pa n || (decide (pairBase ≤ pa) && decide (pa + n ≤ pairBase + numPairs * pairSize)))

/-- A refused access: its entry in the error log, and HOSTREF. -/
def State.refuseHost (s : State) (pa : Nat) (write : Bool) : State := (s.logError (.hostRefused pa write)).alarm 2

/-- A read completion to the host. -/
def State.answerHost (s : State) (refused : Bool) (bs : List Byte) : State :=
  { s with hostOut := s.hostOut ++ [(refused, bs)], free := s.free + 1
           link := s.link.send (bytesOf 244 (Config.flitPayload s.free).toNat) }

/-- `n` bytes of the management window from an offset. -/
def State.windowBytes (s : State) (off n : Nat) : List Byte :=
  (List.range n).map (fun i => BitVec.ofNat 8 ((s.mgmtRead ((off + i) / 8 * 8)).toNat >>> (8 * ((off + i) % 8))))

/-- HOST_READ (R260): a home answers, or the adapter refuses with all-ones data. It waits while the link retrains or its replay
buffer of 256 flits is full. -/
def execHostRead (pa len : Nat) (s : State) : Host.Outcome State Fault Refusal :=
  if s.link.retraining || 256 ≤ s.link.replay.length then notNow s
  else if mgmtBase ≤ pa then happened (s.answerHost false (s.windowBytes (pa - mgmtBase) len))
  else if s.hostMay pa len then happened ((s.correct pa len).answerHost false (bytesOf len (s.readMem pa len)))
  else happened ((s.refuseHost pa false).answerHost true (List.replicate len 0xFF))

/-- HOST_WRITE (R260): it performs at its home, or is refused and discarded. A whole register of the management window takes its
write (R271). -/
def execHostWrite (pa : Nat) (dat : List (BitVec 8)) (s : State) : Host.Outcome State Fault Refusal :=
  fromHost s (
    if mgmtBase ≤ pa then
      if pa % 8 = 0 && dat.length = 8 then s.hostMgmtWrite (pa - mgmtBase) (BitVec.ofNat 64 (natOfBytes dat)) else s
    else if s.hostMay pa dat.length then s.writeBytes pa dat
    else s.refuseHost pa true)

end Sys2Proof.Machine
end

