-- ==== Sys2Proof/Machine/Vector.lean ====
section
/-! DEFINITION. The vector family and the mask stack (R74, R81, R145 to R148, R354, R355, R408 to R411, R421 to R430, R435 to
R440). Every operation reads all its sources before it writes (R410). -/

namespace Sys2Proof.Machine

/-! ## Lanes -/

/-- The elements of `w` bytes of a register (R408). -/
def lanes (v : VReg) (w : Nat) : List Nat := splitNat (8 * w) (4096 / w) v.toNat
/-- The register that holds the elements `xs` of `w` bytes. -/
def ofLanes (w : Nat) (xs : List Nat) : VReg := BitVec.ofNat 32768 (joinNat (8 * w) xs)
/-- Element `i` of `w` bytes is enabled (R409). -/
def gated (m : Mask) (w i : Nat) : Bool := m.getLsbD (i * w)

/-- Results laid over the old elements from element `i`: disabled elements and those beyond the results keep their bits and raise
nothing (R408, R409). -/
def mergeLanes (m : Mask) (w i : Nat) (old : List Nat) (new : List FRes) : List Nat × Fl :=
  match old, new with
  | [], _ => ([], 0)
  | os, [] => (os, 0)
  | o :: os, r :: rs =>
    let (xs, f) := mergeLanes m w (i + 1) os rs
    if gated m w i then (r.bits :: xs, r.fl ||| f) else (o :: xs, f)

/-- A result without flags. -/
def plain (x : Nat) : FRes := { bits := x, fl := 0 }

/-- The bytes of the first `n` elements of `w` bytes that the mask of the focus enables (R81); none for a whole register. -/
def State.enables (s : State) (w n : Nat) : Option Mask :=
  if s.fctx.masks.isEmpty && decide (4096 ≤ w * n) then none
  else
    some ((List.range n).foldl (fun (c : Mask) i =>
      if gated s.mask w i then c ||| (BitVec.ofNat 4096 (2 ^ w - 1) <<< (i * w)) else c) 0)


/-- Results written to elements of `w` bytes of physical register `d` under the mask, with their flags after `lat` cycles. -/
def State.laneWrite (s : State) (d w lat : Nat) (rs : List FRes) : State :=
  let (xs, f) := mergeLanes s.mask w 0 (lanes (s.vreg d) w) rs
  ((s.setVreg d (ofLanes w xs)).raiseFlags lat f).covers (s.enables w rs.length)

/-! ## Float operations (R421, R422) -/

/-- A unary float operation of format TYPE. -/
def unaryF (s : State) (d a : BitVec 6) (t : BitVec 3) (lat : Nat) (f : Fmt → Nat → FRes) : Res :=
  match fmtOfType t.toNat with
  | none => .trap cILLOP 0 0
  | some k => .done (s.laneWrite (s.vDst d) k.bytes lat ((lanes (s.vreg (s.vSrc a)) k.bytes).map (f k)))

/-- A binary float operation. -/
def binaryF (s : State) (d a b : BitVec 6) (t : BitVec 3) (f : Fmt → Nat → Nat → FRes) : Res :=
  match fmtOfType t.toNat with
  | none => .trap cILLOP 0 0
  | some k =>
    .done (s.laneWrite (s.vDst d) k.bytes latFloat
      (List.zipWith (f k) (lanes (s.vreg (s.vSrc a)) k.bytes) (lanes (s.vreg (s.vWin b)) k.bytes)))

/-- VFMA and VFMS: VD is the third source (R410). -/
def ternaryF (s : State) (d a b : BitVec 6) (t : BitVec 3) (neg : Bool) : Res :=
  match fmtOfType t.toNat with
  | none => .trap cILLOP 0 0
  | some k =>
    .done (s.laneWrite (s.vDst d) k.bytes latFloat
      (List.zipWith (fun f c => f c)
        (List.zipWith (fun x y c => fmaF k neg x y c) (lanes (s.vreg (s.vSrc a)) k.bytes) (lanes (s.vreg (s.vWin b)) k.bytes))
        (lanes (s.vreg (s.vDst d)) k.bytes)))

/-- VADD (R422). -/
def execVadd (d a b : BitVec 6) (t : BitVec 3) (s : State) : Host.Outcome State Fault Refusal :=
  finish s (binaryF s d a b t addF)
/-- VSUB (R422). -/
def execVsub (d a b : BitVec 6) (t : BitVec 3) (s : State) : Host.Outcome State Fault Refusal :=
  finish s (binaryF s d a b t subF)
/-- VMUL (R422). -/
def execVmul (d a b : BitVec 6) (t : BitVec 3) (s : State) : Host.Outcome State Fault Refusal :=
  finish s (binaryF s d a b t mulF)
/-- VFMA (R422). -/
def execVfma (d a b : BitVec 6) (t : BitVec 3) (s : State) : Host.Outcome State Fault Refusal :=
  finish s (ternaryF s d a b t false)
/-- VFMS (R422). -/
def execVfms (d a b : BitVec 6) (t : BitVec 3) (s : State) : Host.Outcome State Fault Refusal :=
  finish s (ternaryF s d a b t true)
/-- VMAX (R422). -/
def execVmax (d a b : BitVec 6) (t : BitVec 3) (s : State) : Host.Outcome State Fault Refusal :=
  finish s (binaryF s d a b t (fun k => minMaxF k true))
/-- VMIN (R422). -/
def execVmin (d a b : BitVec 6) (t : BitVec 3) (s : State) : Host.Outcome State Fault Refusal :=
  finish s (binaryF s d a b t (fun k => minMaxF k false))
/-- VABS (R421). -/
def execVabs (d a : BitVec 6) (t : BitVec 3) (s : State) : Host.Outcome State Fault Refusal :=
  finish s (unaryF s d a t latFloat absF)
/-- VNEG (R421). -/
def execVneg (d a : BitVec 6) (t : BitVec 3) (s : State) : Host.Outcome State Fault Refusal :=
  finish s (unaryF s d a t latFloat negF)
/-- VRCP (R147, R421). -/
def execVrcp (d a : BitVec 6) (t : BitVec 3) (s : State) : Host.Outcome State Fault Refusal :=
  finish s (unaryF s d a t latTrans (fun k x => rcpV k (decodeF k x)))
/-- VRSQ (R147, R421). -/
def execVrsq (d a : BitVec 6) (t : BitVec 3) (s : State) : Host.Outcome State Fault Refusal :=
  finish s (unaryF s d a t latTrans (fun k x => rsqV k (decodeF k x)))
/-- VSQRT (R147, R421). -/
def execVsqrt (d a : BitVec 6) (t : BitVec 3) (s : State) : Host.Outcome State Fault Refusal :=
  finish s (unaryF s d a t latTrans (fun k x => sqrtV k (decodeF k x)))
/-- VEXP2 (R147, R421). -/
def execVexp2 (d a : BitVec 6) (t : BitVec 3) (s : State) : Host.Outcome State Fault Refusal :=
  finish s (unaryF s d a t latTrans (fun k x => exp2V k (decodeF k x)))
/-- VLOG2 (R147, R421). -/
def execVlog2 (d a : BitVec 6) (t : BitVec 3) (s : State) : Host.Outcome State Fault Refusal :=
  finish s (unaryF s d a t latTrans (fun k x => log2V k (decodeF k x)))
/-- VTANH (R147, R421). -/
def execVtanh (d a : BitVec 6) (t : BitVec 3) (s : State) : Host.Outcome State Fault Refusal :=
  finish s (unaryF s d a t latTrans (fun k x => tanhV k (decodeF k x)))

/-! ## Integer and bitwise operations (R423) -/

/-- A binary operation on elements as numbers of `w` bytes. -/
def binaryI (s : State) (d a b : BitVec 6) (t : BitVec 3) (f : Nat → Nat → Nat → Nat) : Res :=
  let w := typeBytes t.toNat
  .done (s.laneWrite (s.vDst d) w 0
    (List.zipWith (fun x y => plain (f (8 * w) x y)) (lanes (s.vreg (s.vSrc a)) w) (lanes (s.vreg (s.vWin b)) w)))

/-- The right shift with copies of the sign (R423). -/
def sraLane (n a k : Nat) : Nat := (BitVec.sshiftRight (BitVec.ofNat n a) k).toNat

/-- VIADD (R423). -/
def execViadd (d a b : BitVec 6) (t : BitVec 3) (s : State) : Host.Outcome State Fault Refusal :=
  finish s (binaryI s d a b t (fun n x y => (x + y) % 2 ^ n))
/-- VISUB (R423). -/
def execVisub (d a b : BitVec 6) (t : BitVec 3) (s : State) : Host.Outcome State Fault Refusal :=
  finish s (binaryI s d a b t (fun n x y => (x + 2 ^ n - y) % 2 ^ n))
/-- VIMUL (R423). -/
def execVimul (d a b : BitVec 6) (t : BitVec 3) (s : State) : Host.Outcome State Fault Refusal :=
  finish s (binaryI s d a b t (fun n x y => x * y % 2 ^ n))
/-- VAND (R423). -/
def execVand (d a b : BitVec 6) (t : BitVec 3) (s : State) : Host.Outcome State Fault Refusal :=
  finish s (binaryI s d a b t (fun _ x y => x &&& y))
/-- VOR (R423). -/
def execVor (d a b : BitVec 6) (t : BitVec 3) (s : State) : Host.Outcome State Fault Refusal :=
  finish s (binaryI s d a b t (fun _ x y => x ||| y))
/-- VXOR (R423). -/
def execVxor (d a b : BitVec 6) (t : BitVec 3) (s : State) : Host.Outcome State Fault Refusal :=
  finish s (binaryI s d a b t (fun _ x y => x ^^^ y))
/-- VSHL (R423). -/
def execVshl (d a b : BitVec 6) (t : BitVec 3) (s : State) : Host.Outcome State Fault Refusal :=
  finish s (binaryI s d a b t (fun n x y => (x <<< (y % n)) % 2 ^ n))
/-- VSHR (R423). -/
def execVshr (d a b : BitVec 6) (t : BitVec 3) (s : State) : Host.Outcome State Fault Refusal :=
  finish s (binaryI s d a b t (fun n x y => x >>> (y % n)))
/-- VSRA (R423). -/
def execVsra (d a b : BitVec 6) (t : BitVec 3) (s : State) : Host.Outcome State Fault Refusal :=
  finish s (binaryI s d a b t (fun n x y => sraLane n x (y % n)))

/-! ## Masks (R74, R355, R426) -/

/-- A mask with the bits of each element of `w` bytes set as `bs` says. -/
def maskOf (w : Nat) (bs : List Bool) : Mask :=
  BitVec.ofNat 4096 (joinNat w (bs.map (fun b => if b then 2 ^ w - 1 else 0)))

/-- A push onto the mask stack; onto 16 entries, set-aside ones counted, it is ILLOP (R74, R213). -/
def pushMask (s : State) (m : Mask) : Res :=
  if 16 ≤ s.fctx.maskDepth then .trap cILLOP 0 0 else .done (s.modF (fun t => { t with masks := m :: t.masks }))

/-- A float relation (R426): −0 equals +0; a NaN makes every relation but ne false. -/
def relF (r : Nat) (a b : Val) : Bool :=
  if a.isNan || b.isNan then r = 1
  else
    let c := cmpV a b
    match r with
    | 0 => c = 0
    | 1 => c ≠ 0
    | 2 => decide (c < 0)
    | 3 => decide (c ≤ 0)
    | 4 => decide (0 < c)
    | _ => decide (0 ≤ c)

/-- An integer relation on elements of `n` bits (R426). -/
def relI (r n : Nat) (uns : Bool) (a b : Nat) : Bool :=
  let x : Int := if uns then a else (BitVec.ofNat n a).toInt
  let y : Int := if uns then b else (BitVec.ofNat n b).toInt
  match r with
  | 0 => x = y
  | 1 => x ≠ y
  | 2 => decide (x < y)
  | 3 => decide (x ≤ y)
  | 4 => decide (y < x)
  | _ => decide (y ≤ x)

/-- The flags of the enabled elements of a comparison. -/
def gatedFlags (m : Mask) (w i : Nat) (fs : List Fl) : Fl :=
  match fs with
  | [] => 0
  | f :: r => if gated m w i then f ||| gatedFlags m w (i + 1) r else gatedFlags m w (i + 1) r

/-- VCMP (R426). -/
def execVcmp (a b : BitVec 6) (t : BitVec 3) (u : BitVec 1) (r : BitVec 3) (s : State) :
    Host.Outcome State Fault Refusal :=
  finish s (
    let w := typeBytes t.toNat
    let xs := lanes (s.vreg (s.vSrc a)) w
    let ys := lanes (s.vreg (s.vWin b)) w
    match fmtOfType t.toNat with
    | some k =>
      let vs := List.zipWith (fun x y => (decodeF k x, decodeF k y)) xs ys
      let m := maskOf w (vs.map (fun p => relF r.toNat p.1 p.2))
      let f := gatedFlags s.mask w 0 (vs.map (fun p => cmpFlags r.toNat p.1 p.2))
      (pushMask s (m &&& s.mask)).bind (fun s => .done (s.raiseFlags latFloat f))
    | none => pushMask s (maskOf w (List.zipWith (relI r.toNat (8 * w) (u = 1)) xs ys) &&& s.mask))

/-- KPUSH (R355): elements that are not zero bit for bit. -/
def execKpush (a : BitVec 6) (t : BitVec 3) (s : State) : Host.Outcome State Fault Refusal :=
  finish s (
    let w := typeBytes t.toNat
    pushMask s (maskOf w ((lanes (s.vreg (s.vSrc a)) w).map (fun x => x ≠ 0)) &&& s.mask))

/-- KINV (R74): the inverse of the top and the entry beneath. -/
def execKinv (s : State) : Host.Outcome State Fault Refusal :=
  finish s (
    match s.fctx.masks with
    | [] => .trap cILLOP 0 0
    | [m] => .done (s.modF (fun t => { t with masks := [~~~m] }))
    | m :: n :: r => .done (s.modF (fun t => { t with masks := (~~~m &&& n) :: n :: r })))

/-- KPOP (R74). -/
def execKpop (s : State) : Host.Outcome State Fault Refusal :=
  finish s (
    match s.fctx.masks with
    | [] => .trap cILLOP 0 0
    | _ :: r => .done (s.modF (fun t => { t with masks := r })))

/-- KMOV.to (R355): not gated. -/
def execKmovTo (d : BitVec 6) (s : State) : Host.Outcome State Fault Refusal :=
  finish s (.done (s.setVreg (s.vDst d) (s.mask.setWidth 32768)))

/-- KMOV.from (R355): pushed unchanged. -/
def execKmovFrom (a : BitVec 6) (s : State) : Host.Outcome State Fault Refusal :=
  finish s (pushMask s ((s.vreg (s.vSrc a)).setWidth 4096))

/-! ## Selection, conversion, movement -/

/-- VSEL (R438): the mask selects, and every element is written. -/
def execVsel (d a b : BitVec 6) (t : BitVec 3) (s : State) : Host.Outcome State Fault Refusal :=
  finish s (
    let w := typeBytes t.toNat
    let xs := List.zip (lanes (s.vreg (s.vSrc a)) w) (lanes (s.vreg (s.vWin b)) w)
    .done (s.setVreg (s.vDst d) (ofLanes w (xs.mapIdx (fun i p => if gated s.mask w i then p.1 else p.2)))))

/-- One element of VCVT (R148, R428): TYPE codes of the source and the destination. -/
def convertLane (src dst : Nat) (sat uns : Bool) (x : Nat) : FRes :=
  let n := 8 * typeBytes dst
  let v : Int := (BitVec.ofNat (8 * typeBytes src) x).toInt
  match fmtOfType src, fmtOfType dst with
  | some f, some g => convertVal g sat (decodeF f x)
  | some f, none => toIntF n uns (decodeF f x)
  | none, some g => ofIntF g sat v
  | none, none =>
    if sat then
      let c := if uns then satUint n v else satInt n v
      { bits := (BitVec.ofInt n c).toNat, fl := clampFlags (c ≠ v) }
    else plain (BitVec.ofInt n v).toNat

/-- VCVT (R428). -/
def execVcvt (d a : BitVec 6) (t o : BitVec 3) (z u : BitVec 1) (s : State) : Host.Outcome State Fault Refusal :=
  finish s (
    let wa := typeBytes t.toNat
    let wd := typeBytes o.toNat
    .done (s.laneWrite (s.vDst d) wd latFloat
      (((lanes (s.vreg (s.vSrc a)) wa).take (4096 / max wa wd)).map (convertLane t.toNat o.toNat (z = 1) (u = 1)))))

/-- VSCL (R437). -/
def execVscl (d a n : BitVec 6) (t : BitVec 3) (s : State) : Host.Outcome State Fault Refusal :=
  finish s (unaryF s d a t latFloat (fun k x => scaleF k x (s.sOp n).toInt))

/-- VBCST (R424). -/
def execVbcst (d a : BitVec 6) (t : BitVec 3) (s : State) : Host.Outcome State Fault Refusal :=
  finish s (
    let w := typeBytes t.toNat
    .done (s.laneWrite (s.vDst d) w 0 (List.replicate (4096 / w) (plain ((s.sOp a).toNat % 2 ^ (8 * w))))))

/-- One step of VRED (R436). -/
def redStep (o t : Nat) (x y : FRes) : FRes :=
  let n := 8 * typeBytes t
  let r : FRes :=
    match fmtOfType t with
    | some f => if o = 0 then addF f x.bits y.bits else minMaxF f (o = 1) x.bits y.bits
    | none =>
      let a := (BitVec.ofNat n x.bits).toInt
      let b := (BitVec.ofNat n y.bits).toInt
      if o = 0 then plain ((x.bits + y.bits) % 2 ^ n)
      else if o = 1 then (if a < b then y else x)
      else (if b < a then y else x)
  { bits := r.bits, fl := x.fl ||| r.fl }

/-- VRED's result (R146, R436): the enabled elements folded in ascending index, a lone NaN made canonical; with none enabled +0, and for
float max and min the canonical quiet NaN. -/
def reduce (o t : Nat) (xs : List Nat) : FRes :=
  match xs with
  | [] =>
    match fmtOfType t with
    | some f => if o = 0 then plain 0 else plain f.qnan
    | none => plain 0
  | [x] =>
    match fmtOfType t with
    | some f => if (decodeF f x).isNan then qnanRes f (decodeF f x).isSnan else plain x
    | none => plain x
  | x :: r => r.foldl (fun a y => redStep o t a (plain y)) (plain x)

/-- VRED (R436). -/
def execVred (d a : BitVec 6) (t : BitVec 3) (o : BitVec 2) (s : State) : Host.Outcome State Fault Refusal :=
  finish s (
    let w := typeBytes t.toNat
    let xs := (lanes (s.vreg (s.vSrc a)) w).mapIdx (fun i x => (gated s.mask w i, x))
    let r := reduce o.toNat t.toNat ((xs.filter (fun p => p.1)).map (fun p => p.2))
    .done ((s.setVreg (s.vDst d) (BitVec.ofNat 32768 r.bits)).raiseFlags latRed r.fl))

/-- VPERM (R435). -/
def execVperm (d a b : BitVec 6) (t : BitVec 3) (s : State) : Host.Outcome State Fault Refusal :=
  finish s (
    let w := typeBytes t.toNat
    let n := 4096 / w
    let v := s.vreg (s.vSrc a)
    let ix := (lanes (s.vreg (s.vWin b)) 2).take n
    .done (s.laneWrite (s.vDst d) w 0 (ix.map (fun k => plain (vElem v w (k % n))))))

/-- VSLIDE (R439): `up` is FN 1. -/
def execVslide (d a k : BitVec 6) (t : BitVec 3) (r : BitVec 1) (s : State) : Host.Outcome State Fault Refusal :=
  finish s (
    let w := typeBytes t.toNat
    let n := 4096 / w
    let v := s.vreg (s.vSrc a)
    let h := (s.sOp k).toNat
    .done (s.laneWrite (s.vDst d) w 0 ((List.range n).map (fun i => plain (
      if r = 1 then (if h ≤ i then vElem v w (i - h) else 0)
      else (if i + h < n then vElem v w (i + h) else 0))))))

/-- VZIP (R440). -/
def execVzip (d a b : BitVec 6) (t : BitVec 3) (s : State) : Host.Outcome State Fault Refusal :=
  finish s (
    let w := typeBytes t.toNat
    let x := s.vreg (s.vSrc a)
    let y := s.vreg (s.vWin b)
    .done (s.laneWrite (s.vDst d) w 0 ((List.range (4096 / w)).map (fun i => plain (
      if i % 2 = 0 then vElem x w (i / 2) else vElem y w (i / 2))))))

/-- VUNZIP (R440): the even elements of VA followed by VB. -/
def execVunzip (d a b : BitVec 6) (t : BitVec 3) (s : State) : Host.Outcome State Fault Refusal :=
  finish s (
    let w := typeBytes t.toNat
    let n := 4096 / w
    let x := s.vreg (s.vSrc a)
    let y := s.vreg (s.vWin b)
    .done (s.laneWrite (s.vDst d) w 0 ((List.range n).map (fun i => plain (
      if 2 * i < n then vElem x w (2 * i) else vElem y w (2 * i - n))))))

/-- VIOTA (R430). -/
def execViota (d : BitVec 6) (t : BitVec 3) (s : State) : Host.Outcome State Fault Refusal :=
  finish s (
    let w := typeBytes t.toNat
    .done (s.laneWrite (s.vDst d) w 0 ((List.range (4096 / w)).map (fun i => plain (i % 2 ^ (8 * w))))))

/-- VMOVS (R429): not gated; sign-extended for the integer types. -/
def execVmovs (d a n : BitVec 6) (t : BitVec 3) (s : State) : Host.Outcome State Fault Refusal :=
  finish s (
    let w := typeBytes t.toNat
    let k := (s.sOp n).toNat % (4096 / w)
    .done (s.writePending (sreg d) (extend w (decide (5 ≤ t.toNat)) (vElem (s.vreg (s.vSrc a)) w k)) 8))

/-- VINS (R429): element `k` of VD, when the mask enables it. -/
def execVins (d a n : BitVec 6) (t : BitVec 3) (s : State) : Host.Outcome State Fault Refusal :=
  finish s (
    let w := typeBytes t.toNat
    let k := (s.sOp n).toNat % (4096 / w)
    let p := s.vDst d
    if gated s.mask w k then
      .done ((s.setVreg p (putBytes (s.vreg p) (k * w) w (s.sOp a).toNat)).covers (some (BitVec.ofNat 4096 (2 ^ w - 1) <<< (k * w))))
    else .done (s.covers (some 0)))

end Sys2Proof.Machine
end

