-- ==== Sys2Proof/Machine/Tile.lean ====
section
/-! DEFINITION. The tile operations (R151, R408 to R416). Inputs convert exactly to FP32, every step is one correctly rounded FP32
primitive, and the result passes through the output format's rounding. -/

namespace Sys2Proof.Machine

/-! ## Formats -/

/-- The output format of OFMT and whether it saturates (R412). -/
def outFmt (o : Nat) : Fmt × Bool :=
  match o with
  | 0 => (.f32, false)
  | 1 => (.bf16, false)
  | 2 => (.f16, false)
  | 3 => (.e4m3, false)
  | 4 => (.e4m3, true)
  | 5 => (.e5m2, false)
  | _ => (.e5m2, true)

/-- The input format of IFMT or FP. -/
def inFmt (k : Nat) : Fmt := (fmtOfType k).getD .f32

/-- An input element as FP32 bits: exact, and a signalling NaN stays one (R151). -/
def to32 (f : Fmt) (x : Nat) : Nat :=
  match decodeF f x with
  | .nan true _ => 0x7FA00000
  | v => r32 v

/-- An exact result through `round_out` (R151). -/
def roundOut (o : Fmt × Bool) (x : Exact) : FRes :=
  let r := convertVal o.1 o.2 x.1
  { bits := r.bits, fl := r.fl ||| (if x.2 then flNV else 0) }

/-- A result with the flags of the steps before it. -/
def withFlags (fs : List Fl) (r : FRes) : FRes := { bits := r.bits, fl := r.fl ||| orFlags fs }

/-! ## The compositions (R151), elements as FP32 bits -/

def tAdd (o : Fmt × Bool) (a b : Nat) : FRes := roundOut o (addV (v32 a) (v32 b))
def tMul (o : Fmt × Bool) (a b : Nat) : FRes := roundOut o (mulV (v32 a) (v32 b))

/-- TRELU: maximumNumber(a, +0); a NaN gives the canonical quiet NaN (R414). -/
def tRelu (o : Fmt × Bool) (a : Nat) : FRes :=
  match v32 a with
  | .nan g _ => roundOut o (qv, g)
  | v => roundOut o (if ltTotal (.num false 0 0) v then v else .num false 0 0, false)

def tGelu (o : Fmt × Bool) (a : Nat) : FRes :=
  let t1 := mulF .f32 a a
  let t2 := fmaF .f32 false cK t1.bits one32
  let t3 := mulF .f32 a t2.bits
  let t4 := mulF .f32 t3.bits cG
  let t5 := tanhV .f32 (v32 t4.bits)
  let t6 := addF .f32 t5.bits one32
  let h := mulF .f32 a half32
  withFlags [t1.fl, t2.fl, t3.fl, t4.fl, t5.fl, t6.fl, h.fl] (tMul o h.bits t6.bits)

def tSilu (o : Fmt × Bool) (a : Nat) : FRes :=
  let t1 := mulF .f32 a cE
  let t2 := exp2V .f32 (v32 t1.bits).neg
  let t3 := addF .f32 t2.bits one32
  let t4 := rcpV .f32 (v32 t3.bits)
  withFlags [t1.fl, t2.fl, t3.fl, t4.fl] (tMul o a t4.bits)

/-- TEXP: exp2 is correctly rounded into the output format. -/
def tExp (o : Fmt × Bool) (a : Nat) : FRes :=
  let t := mulF .f32 a cE
  let r := exp2V o.1 (v32 t.bits)
  let ov : Bool := r.fl &&& flOF ≠ 0
  let inf : Bool := v32 t.bits = .inf false
  if o.2 && (ov || inf) then { bits := o.1.maxMag, fl := t.fl ||| flSAT ||| flNX }
  else if !o.1.hasInf && inf then { bits := o.1.infMag, fl := t.fl ||| flNV }
  else withFlags [t.fl] r

/-- One row of TSOFTMAX: its enabled elements in ascending column order. -/
def tSoftmax (o : Fmt × Bool) (row : List Nat) : List FRes :=
  match row with
  | [] => []
  | x :: r =>
    let m := r.foldl (fun (a : FRes) y => let q := minMaxF .f32 true a.bits y; { bits := q.bits, fl := a.fl ||| q.fl }) (plain x)
    let ts := row.map (fun a =>
      let d := subF .f32 a m.bits
      let e := mulF .f32 d.bits cE
      withFlags [d.fl, e.fl] (exp2V .f32 (v32 e.bits)))
    let z := ts.foldl (fun (a : FRes) t => withFlags [a.fl, t.fl] (addF .f32 a.bits t.bits)) (plain 0)
    let p := rcpV .f32 (v32 z.bits)
    ts.map (fun t => withFlags [m.fl, z.fl, p.fl] (tMul o t.bits p.bits))

/-- r_n for the 64 columns of a row: 2⁻⁶ (R414). -/
def rn64 : Nat := 0x3C800000

/-- One row of TRMSN: (a, g) of its enabled elements. -/
def tRmsn (o : Fmt × Bool) (eps : Nat) (row : List (Nat × Nat)) : List FRes :=
  let q := row.foldl (fun (a : FRes) e => withFlags [a.fl] (fmaF .f32 false e.1 e.1 a.bits)) (plain 0)
  let m := mulF .f32 q.bits rn64
  let z := addF .f32 m.bits eps
  let p := rsqV .f32 (v32 z.bits)
  row.map (fun e =>
    let t := mulF .f32 e.1 p.bits
    withFlags [q.fl, m.fl, z.fl, p.fl, t.fl] (tMul o t.bits e.2))

/-- A row operation on the enabled elements of each row of 64: disabled elements get a value that is not written. -/
def byRows {α : Type} (m : Mask) (w : Nat) (xs : List α) (f : List α → List FRes) : List FRes :=
  let rows := (List.range (xs.length / 64)).map (fun r => (xs.drop (64 * r)).take 64)
  let spread (r : Nat) (row : List α) : List FRes :=
    let on := (List.range 64).map (fun j => gated m w (64 * r + j))
    let ys := f (((List.zip on row).filter (fun p => p.1)).map (fun p => p.2))
    (on.foldl (fun (acc : List FRes × List FRes) b =>
      if b then (acc.1 ++ [acc.2.headD (plain 0)], acc.2.tail) else (acc.1 ++ [plain 0], acc.2)) ([], ys)).1
  (rows.mapIdx spread).flatten

/-! ## The operation -/

/-- The formats of a tile operation: input, and output with its saturation (R412); none for any other operation. -/
def tileFmts (ins : Instr) : Option (Fmt × (Fmt × Bool)) :=
  let vt (i o : BitVec 3) : Option (Fmt × (Fmt × Bool)) := some (inFmt i.toNat, outFmt o.toNat)
  let fp (f : BitVec 2) : Option (Fmt × (Fmt × Bool)) := some (inFmt f.toNat, (inFmt f.toNat, false))
  match ins with
  | .tadd _ _ _ i o => vt i o
  | .tmul _ _ _ i o => vt i o
  | .tscale _ _ _ i o => vt i o
  | .tbias _ _ _ i o => vt i o
  | .trelu _ _ i o => vt i o
  | .tgelu _ _ i o => vt i o
  | .tsilu _ _ i o => vt i o
  | .texp _ _ i o => vt i o
  | .tsoftmax _ _ i o => vt i o
  | .trmsn _ _ _ _ f => fp f
  | .tmask _ _ _ _ f => fp f
  | .ttrans _ _ i _ => some (inFmt i.toNat, (inFmt i.toNat, false))
  | .tcvt _ _ i o => vt i o
  | _ => none

/-- The results of a tile operation (R151, R414), by output element: from its first and second vector operands, its mask and
its scalar operand (s of TSCALE, ε of TRMSN, the fill value of TMASK). -/
def tileRun (ins : Instr) (va vb : VReg) (m : Mask) (scal : Word) : List FRes :=
  match tileFmts ins with
  | none => []
  | some (fi, fo) =>
    let x32 := bits scal 31 0
    let xs := (lanes va fi.bytes).take (4096 / max fi.bytes fo.1.bytes)
    let each (f : Nat → Nat → FRes) : List FRes := xs.mapIdx (fun k x => f k (to32 fi x))
    let second (k : Nat) : Nat := to32 fi (vElem vb fi.bytes k)
    match ins with
    | .tadd _ _ _ _ _ => each (fun k x => tAdd fo x (second k))
    | .tmul _ _ _ _ _ => each (fun k x => tMul fo x (second k))
    | .tscale _ _ _ _ _ => each (fun _ x => tMul fo x x32)
    | .tbias _ _ _ _ _ => each (fun k x => tAdd fo x (vElem vb 4 (k % 64)))
    | .trelu _ _ _ _ => each (fun _ x => tRelu fo x)
    | .tgelu _ _ _ _ => each (fun _ x => tGelu fo x)
    | .tsilu _ _ _ _ => each (fun _ x => tSilu fo x)
    | .texp _ _ _ _ => each (fun _ x => tExp fo x)
    | .tsoftmax _ _ _ _ => byRows m fo.1.bytes (xs.map (to32 fi)) (tSoftmax fo)
    | .trmsn _ _ _ _ _ =>
      byRows m fi.bytes (xs.mapIdx (fun k x => (to32 fi x, vElem vb 4 (k % 64)))) (tRmsn fo x32)
    | .tmask _ _ _ _ _ => xs.mapIdx (fun k x => plain (if vb.getLsbD k then x else scal.toNat))
    | .ttrans _ _ _ _ =>
      let q := xs.length / 64
      (List.range xs.length).map (fun k => plain (vElem va fi.bytes (k % q * 64 + k / q)))
    | .tcvt _ _ _ _ => xs.map (fun x => convertVal fo.1 fo.2 (decodeF fi x))
    | _ => []

/-- A tile operation: its results written under the mask, and its record in record mode. With an open recorded span it is ILLOP (R228). -/
def tileOp (s : State) (ins : Instr) (d a : BitVec 6) (b : Option (BitVec 6)) (needs lat : Nat) (scal : Word) : Res :=
  match tileFmts ins with
  | none => .done s
  | some (fi, fo) =>
    let k : TileRec :=
      { d := s.vDst d, a := s.vSrc a, b := b.map s.vWin, needs := needs, scal := scal, full := decide (fi.bytes ≤ fo.1.bytes) }
    let vb : VReg := (k.b.map s.vreg).getD 0
    let s' := s.laneWrite k.d fo.1.bytes lat (tileRun ins (s.vreg k.a) vb s.mask scal)
    if s.fctx.recSpan.isSome then .trap cILLOP 0 0 else recordTile s s' ins k

/-- TADD (R151, R414). -/
def execTadd (d a b : BitVec 6) (i o : BitVec 3) (s : State) : Host.Outcome State Fault Refusal :=
  finish s (tileOp s (.tadd d a b i o) d a (some b) 0 latTile 0)
/-- TMUL (R151, R414): its adjoint needs A and B. -/
def execTmul (d a b : BitVec 6) (i o : BitVec 3) (s : State) : Host.Outcome State Fault Refusal :=
  finish s (tileOp s (.tmul d a b i o) d a (some b) 6 latTile 0)
/-- TSCALE: s is the FP32 of sS[31:0]. -/
def execTscale (d a b : BitVec 6) (i o : BitVec 3) (s : State) : Host.Outcome State Fault Refusal :=
  finish s (tileOp s (.tscale d a b i o) d a none 0 latTile (BitVec.ofNat 64 (bits (s.sOp b) 31 0)))
/-- TBIAS: β of column j is the FP32 at byte 4j of VB. -/
def execTbias (d a b : BitVec 6) (i o : BitVec 3) (s : State) : Host.Outcome State Fault Refusal :=
  finish s (tileOp s (.tbias d a b i o) d a (some b) 0 latTile 0)
/-- TRELU: its adjoint needs A. -/
def execTrelu (d a : BitVec 6) (i o : BitVec 3) (s : State) : Host.Outcome State Fault Refusal :=
  finish s (tileOp s (.trelu d a i o) d a none 2 latTile 0)
/-- TGELU: its adjoint needs A. -/
def execTgelu (d a : BitVec 6) (i o : BitVec 3) (s : State) : Host.Outcome State Fault Refusal :=
  finish s (tileOp s (.tgelu d a i o) d a none 2 latTgelu 0)
/-- TSILU: its adjoint needs A. -/
def execTsilu (d a : BitVec 6) (i o : BitVec 3) (s : State) : Host.Outcome State Fault Refusal :=
  finish s (tileOp s (.tsilu d a i o) d a none 2 latTsilu 0)
/-- TEXP: its adjoint needs D. -/
def execTexp (d a : BitVec 6) (i o : BitVec 3) (s : State) : Host.Outcome State Fault Refusal :=
  finish s (tileOp s (.texp d a i o) d a none 1 latTexp 0)

/-- TSOFTMAX: reduces over the enabled elements of each row; its adjoint needs D. -/
def execTsoftmax (d a : BitVec 6) (i o : BitVec 3) (s : State) : Host.Outcome State Fault Refusal :=
  finish s (tileOp s (.tsoftmax d a i o) d a none 1 latTrow 0)

/-- TRMSN: reduces over the enabled elements of each row; its adjoint needs A and the gain. -/
def execTrmsn (d a g c : BitVec 6) (f : BitVec 2) (s : State) : Host.Outcome State Fault Refusal :=
  finish s (tileOp s (.trmsn d a g c f) d a (some g) 6 latTrow (BitVec.ofNat 64 (bits (s.sOp c) 31 0)))

/-- TMASK: bits moved unchanged, no flag; its adjoint needs the mask operand. -/
def execTmask (d a m c : BitVec 6) (f : BitVec 2) (s : State) : Host.Outcome State Fault Refusal :=
  finish s (tileOp s (.tmask d a m c f) d a (some m) 4 latTile (BitVec.ofNat 64 ((s.sOp c).toNat % 2 ^ (inFmt f.toNat).width)))

/-- TTRANS: input element (r, c) lands at output element c × Q + r, Q rows; bits moved unchanged. -/
def execTtrans (d a : BitVec 6) (i o : BitVec 3) (s : State) : Host.Outcome State Fault Refusal :=
  finish s (tileOp s (.ttrans d a i o) d a none 0 14 0)

/-- TCVT: R148 with its flags. -/
def execTcvt (d a : BitVec 6) (i o : BitVec 3) (s : State) : Host.Outcome State Fault Refusal :=
  finish s (tileOp s (.tcvt d a i o) d a none 0 latTile 0)

end Sys2Proof.Machine
end

