-- ==== Sys2Proof/Machine/Reverse.lean ====
section
/-! DEFINITION. REVERSE: the gradient table, the adjoints of tile and span records, the walk (R239 to R244, R389, R390). -/

namespace Sys2Proof.Machine

/-- A computation over the record being reversed: it reads and changes a working state, or ends in a fault (code, FINFO fields) that
commits nothing (R243). Code 0 is no fault: an access of it has to wait, and the record is reversed anew later. -/
abbrev Rev (α : Type) := StateT State (Except (Nat × Nat)) α

/-- The fault of a computation. -/
def Rev.fail {α : Type} (code info : Nat) : Rev α := fun _ => .error (code, info)

/-- Nothing, or a fault. -/
def Rev.need (b : Bool) (code : Nat) : Rev Unit := if b then pure () else Rev.fail code 0

/-! ## Reading (R233, R239, R243) -/

/-- A lock write of the context of the focus is on its way to a granule of the pieces (R103). -/
def State.lockComes (s : State) (ps : List (Nat × Nat)) : Bool :=
  s.fcore.outs.any (fun o => o.ctx = s.focus.ctx && o.kind = .tagset && o.parts.any (fun p =>
    !p.done && p.pieces.any (fun g => ps.any (fun q => g.meets 32 q.1 q.2))))

/-- The pieces of `n` bytes at a pointer, all checks made: an aperture access passes no end of the pair store; a translated one takes
the checks of R105, the tag check, LAYERLOST; both refuse poison. The access is made at the home, so it comes after the context's own lock writes
(R103), its own accesses of the words and the stores that it has read there (R179). -/
def revPieces (c : Nat) (t : Ctx) (p : Word) (n : Nat) (a : Acc) : Rev (List (Nat × Nat)) := do
  let s ← get
  let ps ←
    (if isAp p then
      if apBad p || decide (pairSize < apOff p + n) then Rev.fail cAPERTURE 0 else pure [(apAddr c (apOff p), n)]
    else
      match t.check s p n a true with
      | .error e => Rev.fail e 0
      | .ok k =>
        if k.tchk && s.lockComes k.items then Rev.fail 0 0
        else
        match (if k.tchk then tagMiss s k.items (keyOf p) else none) with
        | some (pa, lock) => Rev.fail cTAGKEY (tagInfo s (towerOf c) pa lock (keyOf p))
        | none => if k.items.any (fun q => s.lostAt q.1) then Rev.fail cLAYERLOST 0 else pure k.items)
  Rev.need (!(ps.any (fun q => s.apWaits q.1 q.2))) 0
  Rev.need (!(ps.any (fun q => s.poisoned q.1 q.2))) cPOISON
  set (ps.foldl (fun (s : State) q => s.correct q.1 q.2) s)
  pure ps

/-- Bytes at pieces. -/
def piecesBytes (s : State) (ps : List (Nat × Nat)) : List Byte := ps.flatMap (fun q => bytesOf q.2 (s.readMem q.1 q.2))

/-- `n` bytes of the log from address `a`, read in parts of 64. -/
def logRead (c : Nat) (t : Ctx) (fuel a n : Nat) : Rev (List Byte) := do
  match fuel with
  | 0 => pure []
  | f + 1 =>
    if n = 0 then pure []
    else
      let m := min n 64
      let ps ← revPieces c t (t.logPtr a) m .rd
      let s ← get
      let r ← logRead c t f (a + 64) (n - m)
      pure (piecesBytes s ps ++ r)

/-- The words of bytes. -/
def bytesWords (bs : List Byte) (n : Nat) : List Word := (List.range n).map (fun i => BitVec.ofNat 64 (natOfBytes ((bs.drop (8 * i)).take 8)))

/-! ## The gradient table (R239) -/

/-- An entry: GPTR, RSTR, GLEN, KEY, GKIND. -/
structure GEnt where
  gptr : Word
  rstr : Nat
  glen : Nat
  key : Nat
  kind : Nat

def GEnt.ofWords (p w : Word) : GEnt :=
  { gptr := p, rstr := bits w 51 44, glen := bits w 43 12, key := bits w 11 2, kind := bits w 1 0 }

/-- A reserved code or bit of an entry. -/
def entBad (w : Word) : Bool := bits w 63 52 ≠ 0 || bits w 1 0 = 3 || (bits w 1 0 ≠ 0 && bits w 11 6 ≠ 0)

/-- Two entries with the same GKIND and KEY. -/
def entTwice (es : List GEnt) : Bool :=
  match es with
  | [] => false
  | e :: r => r.any (fun f => f.kind = e.kind && f.key = e.key) || entTwice r

/-- The table at pointer `p`, read anew. -/
def gradTable (c : Nat) (t : Ctx) (p : Word) : Rev (List GEnt) := do
  let ps ← revPieces c t p 16 .rd
  let s ← get
  let h := bytesWords (piecesBytes s ps) 2
  let n := bits (nth h 0) 6 0
  Rev.need (bits (nth h 0) 63 7 = 0 && nth h 1 = 0 && decide (1 ≤ n) && decide (n ≤ 64)) cILLOP
  let ps ← revPieces c t (p + 16) (16 * n) .rd
  let s ← get
  let ws := bytesWords (piecesBytes s ps) (2 * n)
  let es := (List.range n).map (fun i => GEnt.ofWords (nth ws (2 * i)) (nth ws (2 * i + 1)))
  Rev.need (!((List.range n).any (fun i => entBad (nth ws (2 * i + 1)))) && !(entTwice es)) cILLOP
  pure es

/-- What the adjoints of a record work with: the core, the context, the gradient table. -/
structure Walk where
  c : Nat
  t : Ctx
  es : List GEnt

/-- The pointer of a gradient element; none when no entry covers it. `r` is 0 for a vector register. -/
def Walk.gptr (w : Walk) (kind key r e : Nat) : Option Word :=
  match w.es.find? (fun g => g.kind = kind && g.key = key) with
  | none => none
  | some g =>
    let i := if kind = 0 then e else r * g.rstr + e
    if i < g.glen && (kind = 0 || e < g.rstr) then some (addPtr g.gptr (4 * i : Nat)) else none

/-- Bytes laid over pieces in order. -/
def layBytes (s : State) (ps : List (Nat × Nat)) (bs : List Byte) : State :=
  match ps with
  | [] => s
  | q :: r => layBytes (s.writeBytes q.1 (bs.take q.2)) r (bs.drop q.2)

/-- A gradient element changed from its FP32 bits; read for both RD and WR. One that nothing covers reads as +0 and drops the rest. -/
def Walk.grad (w : Walk) (kind key r e : Nat) (f : Nat → Nat) : Rev Nat := do
  match w.gptr kind key r e with
  | none => pure 0
  | some p =>
    let ps ← revPieces w.c w.t p 4 .rw
    let s ← get
    let g := natOfBytes (piecesBytes s ps)
    set (layBytes s ps (bytesOf 4 (f g)))
    pure g

/-- FP32 primitives on bits (R151, R241). -/
def fadd (a b : Nat) : Nat := (addF .f32 a b).bits
def fsub (a b : Nat) : Nat := (subF .f32 a b).bits
def fmul (a b : Nat) : Nat := (mulF .f32 a b).bits
def ffma (a b c : Nat) : Nat := (fmaF .f32 false a b c).bits
def fneg (a : Nat) : Nat := (negF .f32 a).bits

/-- g := round_rne(g + x) (R240). -/
def Walk.addGrad (w : Walk) (kind key r e x : Nat) : Rev Unit := do
  let _ ← w.grad kind key r e (fun g => fadd g x)
/-- An element read and set to +0. -/
def Walk.takeGrad (w : Walk) (kind key r e : Nat) : Rev Nat := w.grad kind key r e (fun _ => 0)

/-- Updates in turn. -/
def Walk.addAll (w : Walk) (kind key r : Nat) (xs : List (Nat × Nat)) : Rev Unit :=
  match xs with
  | [] => pure ()
  | (e, x) :: q => do
    w.addGrad kind key r e x
    w.addAll kind key r q

/-- Elements read and zeroed in turn. -/
def Walk.takeAll (w : Walk) (kind key r : Nat) (is : List Nat) : Rev (List Nat) :=
  match is with
  | [] => pure []
  | e :: q => do
    let g ← w.takeGrad kind key r e
    let gs ← w.takeAll kind key r q
    pure (g :: gs)

/-! ## Records as read (R232, R234, R235) -/

/-- A record's header, checked (R243). -/
structure RecHdr where
  addr : Nat
  ws : List Word

def RecHdr.kind (h : RecHdr) : Nat := bits (nth h.ws 0) 3 0
def RecHdr.len (h : RecHdr) : Nat := bits (nth h.ws 1) 63 32
def RecHdr.masked (h : RecHdr) : Bool := bit (nth h.ws 0) 5

def readHeader (c : Nat) (t : Ctx) (a : Nat) : Rev RecHdr := do
  let bs ← logRead c t 1 a 64
  let h : RecHdr := { addr := a, ws := bytesWords bs 8 }
  Rev.need ((h.kind = 1 || h.kind = 2) && h.len ≠ 0 && h.len % 64 = 0) cLOGMISMATCH
  pure h

/-- Flag and physical register of operand `k` of a tile record: 0 D, 1 A, 2 B, 3 C. -/
def RecHdr.flag (h : RecHdr) (k : Nat) : Nat := bits (nth h.ws 2) (41 + 2 * k) (40 + 2 * k)
def RecHdr.preg (h : RecHdr) (k : Nat) : Nat := bits (nth h.ws 2) (10 * k + 9) (10 * k)

/-- Bytes of an operand in the body. -/
def flagSize (f : Nat) : Nat := if f = 1 then 4096 else if f = 2 then 64 else 0

/-- Where operand `k` lies in a tile record. -/
def RecHdr.bodyAt (h : RecHdr) (k : Nat) : Nat := (List.range k).foldl (fun n j => n + flagSize (h.flag j)) 64

/-- The tile operation of a record; LOGMISMATCH for any other, or when LEN is too small. -/
def tileHeader (h : RecHdr) : Rev Instr := do
  match decodeSlot 1 (BitVec.ofNat 32 (bits (nth h.ws 1) 31 0)) with
  | .error _ => Rev.fail cLOGMISMATCH 0
  | .ok i =>
    Rev.need ((tileFmts i).isSome && decide (h.bodyAt 4 + (if h.masked then 512 else 0) ≤ h.len)) cLOGMISMATCH
    pure i

/-- The mask of a tile record. -/
def tileMask (c : Nat) (t : Ctx) (h : RecHdr) : Rev Mask := do
  if h.masked then
    let bs ← logRead c t 9 (h.addr + h.bodyAt 4) 512
    pure (BitVec.ofNat 4096 (natOfBytes bs))
  else pure (BitVec.allOnes 4096)

/-- A free register for an operand that no record holds. -/
def unsavedReg (k : Nat) : Rev VReg := fun s => .ok (Config.unsaved s.free k, { s with free := s.free + 1 })

/-- A beat of a span record: its instruction, resolved row, physical register; for a row its ROWIX, scales and bytes; for a MACC its
super scales. -/
structure SBeat where
  ins : Instr
  x : Nat
  preg : Nat
  rowix : Nat
  scales : List (BitVec 8)
  row : Nat
  sup : Option VReg

/-- Bytes of the row that a beat reads, 0 for a beat that reads none. -/
def beatRow (i : Instr) : Nat :=
  match i with
  | .mpush _ _ f _ _ _ => rowBytes f.toNat
  | .mshift _ _ _ => 128
  | _ => 0

/-- Bytes of a beat's item in the data area. -/
def itemSize (rflag : Nat) (i : Instr) : Nat :=
  match i with
  | .macc _ _ _ => 256
  | _ => if beatRow i = 0 then 0 else 16 + (if rflag = 2 then 8 else beatRow i)

/-- The entries of a span record; LOGMISMATCH for a word that is no beat. -/
def spanEntries (es : List Word) : Rev (List (Instr × Nat × Nat)) :=
  match es with
  | [] => pure []
  | e :: r =>
    match decodeSlot 2 (BitVec.ofNat 32 (bits e 31 0)) with
    | .error _ => Rev.fail cLOGMISMATCH 0
    | .ok i => do
      Rev.need (isBeat i) cLOGMISMATCH
      let q ← spanEntries r
      pure ((i, bits e 45 32, bits e 55 46) :: q)

/-- A kept row at its physical address, its CRC checked (R243), behind what the context has under way there (R179). -/
def keptRow (pa n crc : Nat) : Rev Nat := do
  let s ← get
  Rev.need (!(s.lostAt pa)) cLAYERLOST
  Rev.need (!(s.apWaits pa n)) 0
  Rev.need (!(s.poisoned pa n)) cPOISON
  let s := s.correct pa n
  set s
  let v := s.readMem pa n
  Rev.need (crc32c (bytesOf n v) = crc) cLOGMISMATCH
  pure v

/-- The beats with their data, the next item at log address `a`. -/
def spanItems (c : Nat) (t : Ctx) (rflag a : Nat) (es : List (Instr × Nat × Nat)) : Rev (List SBeat) :=
  match es with
  | [] => pure []
  | (i, x, p) :: r => do
    let n := itemSize rflag i
    let bs ← logRead c t 5 a n
    let ws := bytesWords bs 3
    let m := beatRow i
    let row ←
      (if m = 0 then pure 0
      else if rflag = 2 then keptRow (nth ws 1).toNat m (bits (nth ws 2) 31 0)
      else pure (natOfBytes (bs.drop 16)))
    let sup : Option VReg :=
      match i with
      | .macc _ _ _ => some (BitVec.ofNat 32768 (natOfBytes bs))
      | _ => none
    let b : SBeat :=
      { ins := i, x := x, preg := p, rowix := if m = 0 then 0 else bits (nth ws 0) 31 0,
        scales := [BitVec.ofNat 8 (bits (nth ws 0) 39 32), BitVec.ofNat 8 (bits (nth ws 0) 47 40)], row := row, sup := sup }
    let q ← spanItems c t rflag (a + n) r
    pure (b :: q)

/-- The beats of a span record. -/
def readSpan (c : Nat) (t : Ctx) (h : RecHdr) : Rev (List SBeat) := do
  let n := bits (nth h.ws 3) 15 0
  let rflag := bits (nth h.ws 3) 17 16
  Rev.need (rflag ≠ 0 && rflag ≠ 3) cLOGMISMATCH
  let ents := alignUp (8 * n) 64
  Rev.need (decide (64 + ents ≤ h.len)) cLOGMISMATCH
  let bs ← logRead c t (ents / 64 + 1) (h.addr + 64) (8 * n)
  let es ← spanEntries (bytesWords bs n)
  Rev.need (decide (64 + ents + es.foldl (fun m e => m + itemSize rflag e.1) 0 ≤ h.len)) cLOGMISMATCH
  spanItems c t rflag (h.addr + 64 + ents) es

/-- KTAIL of a span record's shape. -/
def RecHdr.ktail (h : RecHdr) : Nat := bits (nth h.ws 2) 54 48

/-- The elements that a recorded push writes. -/
def SBeat.push (b : SBeat) (ktail : Nat) : List (Nat × Nat × ArrEl) :=
  match b.ins with
  | .mpush _ i f tr _ p => pushEls f.toNat i.toNat (tr = 1) (if p = 1 then ktail else 0) b.scales b.row
  | _ => []

def SBeat.fmt (b : SBeat) : Nat :=
  match b.ins with
  | .mpush _ _ f _ _ _ => f.toNat
  | .mshift _ f _ => f.toNat
  | _ => 0

def SBeat.ring (b : SBeat) : Nat :=
  match b.ins with
  | .mpush q _ _ _ _ _ => q.toNat
  | .mshift q _ _ => q.toNat
  | _ => 0

/-! ## Executing a record forward (R243) -/

/-- A span executed forward: array, accumulator rows by index, and the register in question. -/
structure Fwd where
  arr : Arr
  acc : Tab AccRow
  out : VReg

/-- One beat of it. `base` gives the accumulator rows that the span did not zero; `p` is the register wanted. -/
def Fwd.beat (ktail p : Nat) (base : AccRow) (f : Fwd) (b : SBeat) : Fwd :=
  let rowOf (x : Nat) : AccRow := f.acc.get x base
  let macc (x : Nat) (sup : Option VReg) : Fwd :=
    match f.arr.latch with
    | [] => f
    | e :: es => { f with arr := { f.arr with latch := es }, acc := f.acc.set x (accumulate (rowOf x) e sup) }
  match b.ins with
  | .mpush _ _ _ _ _ _ => { f with arr := f.arr.push b.fmt (b.push ktail) }
  | .mflip => { f with arr := { f.arr with flip := !f.arr.flip } }
  | .mshift _ _ _ => { f with arr := { f.arr with latch := f.arr.latch ++ [f.arr.shift b.fmt b.row] } }
  | .macc _ _ _ => macc b.x b.sup
  | .maccU _ _ => macc b.x none
  | .mzero _ _ m => { f with acc := (List.range (m.toNat + 1)).foldl (fun a j => a.set (b.x + j) 0) f.acc }
  | .mdrain _ _ _ l o =>
    if b.preg = p then
      let w := drainWidth o
      let lanes := (List.range 64).map (fun j => (drainLane o.toNat (laneOf (rowOf b.x) j)).bits)
      { f with out := putBytes f.out (l.toNat * 64 * w) (64 * w) (joinNat (8 * w) lanes) }
    else f
  | _ => f

/-- Physical register `p` as the record at `a` left it, by executing the record forward. Chains of records are followed `fuel` deep. The
planes of a span start as +0 (notes/assumptions/71.md). -/
def forward (c : Nat) (t : Ctx) (fuel a p : Nat) : Rev VReg := do
  match fuel with
  | 0 => Rev.fail cLOGMISMATCH 0
  | n + 1 =>
    let h ← readHeader c t a
    let base ← unsavedReg 0
    if h.kind = 1 then
      let bs ← readSpan c t h
      let acc ← unsavedReg 1
      pure (bs.foldl (Fwd.beat h.ktail p (acc.setWidth 2048)) { arr := Arr.reset, acc := [], out := base }).out
    else
      let i ← tileHeader h
      let m ← tileMask c t h
      let operand (k : Nat) : Rev VReg := do
        match h.flag k with
        | 1 =>
          let bs ← logRead c t 65 (a + h.bodyAt k) 4096
          pure (BitVec.ofNat 32768 (natOfBytes bs))
        | 2 =>
          let bs ← logRead c t 1 (a + h.bodyAt k) 8
          let s ← get
          let v := (s.core c).vreg (h.preg k)
          Rev.need (crc32c (vregBytes v) = natOfBytes (bs.take 4)) cLOGMISMATCH
          pure v
        | 3 => forward c t n (bits (nth h.ws (4 + k)) 55 0) (h.preg k)
        | _ => unsavedReg (k + 1)
      let va ← operand 1
      let vb ← operand 2
      match tileFmts i with
      | none => Rev.fail cLOGMISMATCH 0
      | some (_, fo) =>
        let w := fo.1.bytes
        pure (ofLanes w (mergeLanes m w 0 (lanes base w) (tileRun i va vb m (nth h.ws 3))).1)

/-- How deep a chain of producers is followed; chains that record mode makes are at most four deep (R236). -/
def chainFuel : Nat := 4096

/-! ## Tile adjoints (R241) -/

/-- An operand that an adjoint needs: D 0, A 1, B 2. A record that lacks it is not well formed. -/
def Walk.operand (w : Walk) (h : RecHdr) (k : Nat) : Rev VReg := do
  match h.flag k with
  | 1 =>
    let bs ← logRead w.c w.t 65 (h.addr + h.bodyAt k) 4096
    pure (BitVec.ofNat 32768 (natOfBytes bs))
  | 2 =>
    let bs ← logRead w.c w.t 1 (h.addr + h.bodyAt k) 8
    let s ← get
    let v := (s.core w.c).vreg (h.preg k)
    Rev.need (crc32c (vregBytes v) = natOfBytes (bs.take 4)) cLOGMISMATCH
    pure v
  | 3 => if k = 0 then Rev.fail cLOGMISMATCH 0 else forward w.c w.t chainFuel (bits (nth h.ws (4 + k)) 55 0) (h.preg k)
  | _ => Rev.fail cLOGMISMATCH 0

/-- Which of D, A, B (bits 0, 1, 2) the adjoint of an operation needs (R241). -/
def adjointNeeds (i : Instr) : Nat :=
  match i with
  | .tmul _ _ _ _ _ => 6
  | .trelu _ _ _ _ => 2
  | .tgelu _ _ _ _ => 2
  | .tsilu _ _ _ _ => 2
  | .texp _ _ _ _ => 1
  | .tsoftmax _ _ _ _ => 1
  | .trmsn _ _ _ _ _ => 6
  | .tmask _ _ _ _ _ => 4
  | _ => 0

/-- dA of TGELU. -/
def adjGelu (a dy : Nat) : Nat :=
  let w := fmul a a
  let u := fmul (fmul a (ffma cK w one32)) cG
  let T := (tanhV .f32 (v32 u)).bits
  let h := fmul (fadd T one32) half32
  let q := ffma (fneg T) T one32
  let v := fmul (ffma c3 w one32) cG
  let v := fmul (fmul a (fmul q v)) half32
  fmul dy (fadd h v)

/-- dA of TSILU. -/
def adjSilu (a dy : Nat) : Nat :=
  let t := (exp2V .f32 (v32 (fmul a cE)).neg).bits
  let sg := (rcpV .f32 (v32 (fadd t one32))).bits
  let m := ffma a (fsub one32 sg) one32
  fmul dy (fmul sg m)

/-- dA of TRELU. -/
def adjRelu (a dy : Nat) : Nat :=
  let v := v32 a
  if v.isNan then Fmt.qnan .f32 else if cmpV v (.num false 0 0) > 0 then dy else 0

/-- dA of one row of TSOFTMAX: (y, dy) of its enabled elements. -/
def adjSoftmax (row : List (Nat × Nat)) : List Nat :=
  let s := row.foldl (fun s e => ffma e.1 e.2 s) 0
  row.map (fun e => fmul e.1 (fsub e.2 s))

/-- (dA, dgain) of one row of TRMSN: (a, g, dy) of its enabled elements. -/
def adjRmsn (eps : Nat) (row : List (Nat × Nat × Nat)) : List (Nat × Nat) :=
  let q := row.foldl (fun q e => ffma e.1 e.1 q) 0
  let rho := (rsqV .f32 (v32 (fadd (fmul q rn64) eps))).bits
  let ts := row.map (fun e => (e.1, fmul e.2.2 e.2.1, e.2.2))
  let s := ts.foldl (fun s e => ffma e.2.1 e.1 s) 0
  let kap := fmul (fmul s (fmul (fmul rho rho) rho)) rn64
  ts.map (fun e => (fsub (fmul e.2.1 rho) (fmul kap e.1), fmul (fmul e.2.2 e.1) rho))

/-- The contributions of a tile record to A and to B, as (element, value), from (element, dy) of its enabled output elements. -/
def tileAdjoint (i : Instr) (fi : Fmt) (fo : Fmt) (n : Nat) (vd va vb : VReg) (scal : Word) (dys : List (Nat × Nat)) :
    List (Nat × Nat) × List (Nat × Nat) :=
  let a (k : Nat) : Nat := to32 fi (vElem va fi.bytes k)
  let b (k : Nat) : Nat := to32 fi (vElem vb fi.bytes k)
  let y (k : Nat) : Nat := to32 fo (vElem vd fo.bytes k)
  let col (k : Nat) : Nat := k % 64
  let rows := (List.range (n / 64)).map (fun r => dys.filter (fun e => e.1 / 64 = r))
  let one (f : Nat → Nat → Nat) : List (Nat × Nat) := dys.map (fun e => (e.1, f e.1 e.2))
  match i with
  | .tadd _ _ _ _ _ => (dys, dys)
  | .tmul _ _ _ _ _ => (one (fun k d => fmul d (b k)), one (fun k d => fmul d (a k)))
  | .tscale _ _ _ _ _ => (one (fun _ d => fmul d (bits scal 31 0)), [])
  | .tbias _ _ _ _ _ => (dys, dys.map (fun e => (col e.1, e.2)))
  | .trelu _ _ _ _ => (one (fun k d => adjRelu (a k) d), [])
  | .tgelu _ _ _ _ => (one (fun k d => adjGelu (a k) d), [])
  | .tsilu _ _ _ _ => (one (fun k d => adjSilu (a k) d), [])
  | .texp _ _ _ _ => (one (fun k d => fmul d (y k)), [])
  | .tsoftmax _ _ _ _ =>
    (rows.flatMap (fun r => (r.map Prod.fst).zip (adjSoftmax (r.map (fun e => (y e.1, e.2))))), [])
  | .trmsn _ _ _ _ _ =>
    let rs := rows.flatMap (fun r =>
      (r.map Prod.fst).zip (adjRmsn (bits scal 31 0) (r.map (fun e => (a e.1, vElem vb 4 (col e.1), e.2)))))
    (rs.map (fun e => (e.1, e.2.1)), rs.map (fun e => (col e.1, e.2.2)))
  | .tmask _ _ _ _ _ => (one (fun k d => if vb.getLsbD k then d else 0), [])
  | .ttrans _ _ _ _ =>
    let q := n / 64
    ((List.range n).filterMap (fun k => (dys.find? (fun e => e.1 = k % 64 * q + k / 64)).map (fun e => (k, e.2))), [])
  | _ => (dys, [])

/-- A tile record reversed (R240, R241). -/
def Walk.tile (w : Walk) (h : RecHdr) : Rev Unit := do
  let i ← tileHeader h
  match tileFmts i with
  | none => Rev.fail cLOGMISMATCH 0
  | some (fi, fo) =>
    let m ← tileMask w.c w.t h
    let needs := adjointNeeds i
    let vd ← (if needs.testBit 0 then w.operand h 0 else pure 0)
    let va ← (if needs.testBit 1 then w.operand h 1 else pure 0)
    let vb ← (if needs.testBit 2 then w.operand h 2 else pure 0)
    let n := 4096 / max fi.bytes fo.1.bytes
    let on := (List.range n).filter (fun k => gated m fo.1.bytes k)
    let gs ← w.takeAll 0 (h.preg 0) 0 on
    let (da, db) := tileAdjoint i fi fo.1 n vd va vb (nth h.ws 3) (on.zip gs)
    w.addAll 0 (h.preg 1) 0 da
    w.addAll 0 (h.preg 2) 0 db

/-! ## Span adjoints (R242) -/

/-- A plane of the passes: by 64 k + n, the value pushed, the push and the element that wrote it. -/
abbrev RPlane := Tab (ArrEl × Nat × Nat)

/-- A shift of a record: ring, ROWIX, the A row in the array format, its plane. -/
structure RShift where
  ring : Nat
  rowix : Nat
  els : List ArrEl
  plane : RPlane

/-- A push of a record: ring, ROWIX, the (element, k, n) that receive a gradient. -/
structure RPush where
  ring : Nat
  rowix : Nat
  els : List (Nat × Nat × Nat)

/-- The shifts and pushes of a record in order, the planes as they go. -/
structure RScan where
  active : RPlane
  shadow : RPlane
  tagA : Option Nat
  tagS : Option Nat
  shifts : List RShift
  pushes : List RPush

/-- Whether element `e` of a push lands as itself: pads do not, nor the entries at or past KTAIL, which a push of no pads holds at +0
(notes/assumptions/71.md). -/
def keepsEl (b : SBeat) (ktail e : Nat) (v : ArrEl) : Bool :=
  match b.ins with
  | .mpush _ _ _ _ _ p => !(v.getLsbD 0) && !(p = 1 && ktail ≠ 0 && decide (ktail ≤ e))
  | _ => false

def RScan.beat (ktail : Nat) (z : RScan) (b : SBeat) : RScan :=
  match b.ins with
  | .mflip => { z with active := z.shadow, shadow := z.active, tagA := z.tagS, tagS := z.tagA }
  | .mpush _ _ _ _ _ _ =>
    let els := (b.push ktail).zipIdx
    let plane := if z.tagS = some b.fmt then z.shadow else []
    let kept := els.filter (fun q => keepsEl b ktail q.2 q.1.2.2)
    let plain := els.filter (fun q => !(q.1.2.2.getLsbD 0))
    let plane := els.foldl (fun (p : RPlane) q => p.erase (64 * q.1.1 + q.1.2.1)) plane
    { z with
      shadow := plain.foldl (fun (p : RPlane) q => p.set (64 * q.1.1 + q.1.2.1) (q.1.2.2, z.pushes.length, q.2)) plane
      tagS := some b.fmt
      pushes := z.pushes ++ [{ ring := b.ring, rowix := b.rowix, els := kept.map (fun q => (q.2, q.1.1, q.1.2.1)) }] }
  | .mshift _ _ _ =>
    let f := b.fmt
    let els := (List.range (elCount f)).map (fun k => arrEl f 0 ((b.row >>> (elBits f * k)) % 2 ^ elBits f))
    { z with shifts := z.shifts ++ [{ ring := b.ring, rowix := b.rowix, els := els, plane := z.active }] }
  | _ => z

/-- The first pass, last beat first: dacc by accumulator index, and de of each MACC, the last one first in `des`. -/
def Walk.pass1 (w : Walk) (bs : List SBeat) (dacc : Tab (List Nat)) (des : List (List Nat)) : Rev (List (List Nat)) :=
  match bs with
  | [] => pure des
  | b :: r =>
    let zero : List Nat := List.replicate 64 0
    let row := dacc.get b.x zero
    match b.ins with
    | .mdrain _ _ _ l _ => do
      let gs ← w.takeAll 0 b.preg 0 ((List.range 64).map (fun j => l.toNat * 64 + j))
      w.pass1 r (dacc.set b.x ((row.zip gs).map (fun q => fadd q.1 q.2))) des
    | .mzero _ _ m => w.pass1 r ((List.range (m.toNat + 1)).foldl (fun (t : Tab (List Nat)) j => t.set (b.x + j) zero) dacc) des
    | .macc _ _ _ =>
      let s (n : Nat) : Nat := vElem (b.sup.getD 0) 4 n
      w.pass1 r dacc (row.mapIdx (fun n d => fmul d (s n)) :: des)
    | .maccU _ _ => w.pass1 r dacc (row.map (fun d => fmul d one32) :: des)
    | _ => w.pass1 r dacc des

/-- Element k of the ring gradient of a shift: R141's sum over n. An entry that the span did not push contributes nothing. -/
def shiftGrad (p : RPlane) (de : List Nat) (k : Nat) : Nat :=
  r32 (columnSum ((List.range 64).map (fun n =>
    match p.find (64 * k + n) with
    | some (v, _, _) => (mulV (v32 (de.getD n 0)) (valOfArr v)).1
    | none => .num false 0 0)))

/-- The gradient of an element that push `p` wrote at (k, n). -/
def pushGrad (js : List (RShift × List Nat)) (p e k n : Nat) : Nat :=
  js.foldl (fun g j =>
    match j.1.plane.find (64 * k + n) with
    | some (_, p', e') =>
      if p' = p && e' = e && decide (k < j.1.els.length) then
        r32 (fmaV (valOfArr (j.1.els.getD k 0)) (v32 (j.2.getD n 0)) (v32 g)).1
      else g
    | none => g) 0

/-- The second pass. -/
def Walk.pass2 (w : Walk) (js : List (RShift × List Nat)) : Rev Unit :=
  match js with
  | [] => pure ()
  | j :: r => do
    w.addAll 1 j.1.ring j.1.rowix ((List.range j.1.els.length).map (fun k => (k, shiftGrad j.1.plane j.2 k)))
    w.pass2 r

/-- The third pass. -/
def Walk.pass3 (w : Walk) (js : List (RShift × List Nat)) (ps : List (RPush × Nat)) : Rev Unit :=
  match ps with
  | [] => pure ()
  | p :: r => do
    w.addAll 2 p.1.ring p.1.rowix (p.1.els.map (fun e => (e.1, pushGrad js p.2 e.1 e.2.1 e.2.2)))
    w.pass3 js r

/-- A span record reversed (R240, R242): MACC j popped the row of shift j. -/
def Walk.span (w : Walk) (h : RecHdr) : Rev Unit := do
  let bs ← readSpan w.c w.t h
  let z := bs.foldl (RScan.beat h.ktail)
    { active := [], shadow := [], tagA := none, tagS := none, shifts := [], pushes := [] }
  let des ← w.pass1 bs.reverse [] []
  let js := z.shifts.zip des
  w.pass2 js
  w.pass3 js z.pushes.zipIdx

/-! ## The walk (R240, R243, R244, R389, R390) -/

/-- One record: its header, the table read anew, the adjoint's updates, the next REVCUR. -/
def reverseOne (c : Nat) (t : Ctx) (tab : Word) : Rev Nat := do
  let a := t.revAddr
  let h ← readHeader c t a
  let es ← gradTable c t tab
  let w : Walk := { c := c, t := t, es := es }
  if h.kind = 1 then w.span h else w.tile h
  let back := bits (nth h.ws 0) 63 8
  pure (if bit (nth h.ws 0) 4 then back else (a + 2 ^ 56 - back) % 2 ^ 56)

/-- The walk of context `x` of core `c` has ended: CTXSTAT.REV is clear, and the array is left empty (R240). -/
def State.endWalk (s : State) (c x : Nat) : State :=
  (s.freeArray c x).modCtx c x (fun t => { t with hold := .walked, csr := { t.csr with rev := false } })

/-- Context `x` of core `c` in focus, behind all that it has issued. -/
def State.walker (s : State) (c x : Nat) : State := { s with focus := { s.focus with core := c, ctx := x, seq := (s.ctx c x).seq } }

/-- REVERSE_RECORD (R240, R243): the record at REVCUR of a walking context is reversed and committed; or its fault is noted, nothing of
the record being committed; or, while one of its accesses has to wait, nothing happens. -/
def execReverseRecord (c : Nat) (x : Nat) (s : State) : Host.Outcome State Fault Refusal :=
  if numCores ≤ c || numCtxs ≤ x then .fault .noSuchUnit
  else
    let t := s.ctx c x
    match t.hold with
    | .walk tab =>
      match (reverseOne c t tab) (s.walker c x) with
      | .error (0, _) => notNow s
      | .error (e, i) => happened ((s.freeArray c x).modCtx c x (fun t => { t with hold := .walkFault e i }))
      | .ok (n, u) =>
        let s' := { u with focus := s.focus }
        let cur : Word := BitVec.ofNat 64 (n / 64 * 64)
        let s' := s'.modCtx c x (fun t => { t with csr := { t.csr with revcur := cur } })
        happened (if cur = 0 then s'.endWalk c x else s')
    | _ => notNow s

/-- The planes, the latch queue and the scale queue as a walk leaves them (R240). -/
def Arr.walked (a : Arr) (x : Nat) : Arr :=
  { a with p0 := [], p1 := [], tag0 := 0, tag1 := 0, inflight := [], latch := [], scaleq := [], owner := some x }

/-- REVERSE (R240, R389, R390): holds dispatch until the walk ends; a fault of the walk is precise at its bundle, FADDR the record's
address. -/
def execReverse (g : BitVec 6) (s : State) : Host.Outcome State Fault Refusal :=
  let s0 := s.modF (fun t => { t with hold := .none })
  match s.fctx.hold with
  | .walk _ => finish s .wait
  | .walked => finish s0 (.done s0)
  | .walkFault e i => finish s0 (.trap e (s.fctx.logPtr s.fctx.revAddr) i)
  | _ =>
    match realigning s [sreg g] .done with
    | .done s' =>
      let p := s'.sOp g
      let t := s'.fctx
      match apFault p 64 with
      | some e => finish s (.trap e p 0)
      | none =>
        if t.csr.recording || t.handler.isSome || t.span.isSome then finish s (.trap cILLOP 0 0)
        else if s'.fcore.ownedByOther s.focus.ctx then finish s (.trap cPERM 0 0)
        else if t.revAddr = 0 then finish s (.done (s'.modF (fun t => { t with csr := { t.csr with rev := false } })))
        else
          .next { (s'.modFCore (fun k => { k with arr := k.arr.walked s.focus.ctx })).modF
            (fun t => { t with hold := .walk p, csr := { t.csr with rev := true } }) with last := .waits }
    | r => finish s r

end Sys2Proof.Machine
end

