-- ==== Sys2Proof/Machine/Dispatch.lean ====
section
/-! DEFINITION. What an operation or an event does: one arm per constructor of `Instr`, each one call of its meaning. -/

namespace Sys2Proof.Machine

def exec (i : Instr) (s : State) : Host.Outcome State Fault Refusal :=
  match i with
  | .nop => Sys2Proof.Machine.execNop s
  | .hdr fa fb fc fd fe ff fg => Sys2Proof.Machine.execHdr fa fb fc fd fe ff fg s
  | .addReg fa fb fc => Sys2Proof.Machine.execAddReg fa fb fc s
  | .addImm fa fb fc => Sys2Proof.Machine.execAddImm fa fb fc s
  | .subReg fa fb fc => Sys2Proof.Machine.execSubReg fa fb fc s
  | .subImm fa fb fc => Sys2Proof.Machine.execSubImm fa fb fc s
  | .mulReg fa fb fc => Sys2Proof.Machine.execMulReg fa fb fc s
  | .mulImm fa fb fc => Sys2Proof.Machine.execMulImm fa fb fc s
  | .mulhReg fa fb fc fd => Sys2Proof.Machine.execMulhReg fa fb fc fd s
  | .mulhImm fa fb fc fd => Sys2Proof.Machine.execMulhImm fa fb fc fd s
  | .divReg fa fb fc fd => Sys2Proof.Machine.execDivReg fa fb fc fd s
  | .divImm fa fb fc fd => Sys2Proof.Machine.execDivImm fa fb fc fd s
  | .remReg fa fb fc fd => Sys2Proof.Machine.execRemReg fa fb fc fd s
  | .remImm fa fb fc fd => Sys2Proof.Machine.execRemImm fa fb fc fd s
  | .andReg fa fb fc => Sys2Proof.Machine.execAndReg fa fb fc s
  | .andImm fa fb fc => Sys2Proof.Machine.execAndImm fa fb fc s
  | .orReg fa fb fc => Sys2Proof.Machine.execOrReg fa fb fc s
  | .orImm fa fb fc => Sys2Proof.Machine.execOrImm fa fb fc s
  | .xorReg fa fb fc => Sys2Proof.Machine.execXorReg fa fb fc s
  | .xorImm fa fb fc => Sys2Proof.Machine.execXorImm fa fb fc s
  | .shlReg fa fb fc => Sys2Proof.Machine.execShlReg fa fb fc s
  | .shlImm fa fb fc => Sys2Proof.Machine.execShlImm fa fb fc s
  | .shrReg fa fb fc => Sys2Proof.Machine.execShrReg fa fb fc s
  | .shrImm fa fb fc => Sys2Proof.Machine.execShrImm fa fb fc s
  | .sraReg fa fb fc => Sys2Proof.Machine.execSraReg fa fb fc s
  | .sraImm fa fb fc => Sys2Proof.Machine.execSraImm fa fb fc s
  | .minReg fa fb fc fd => Sys2Proof.Machine.execMinReg fa fb fc fd s
  | .minImm fa fb fc fd => Sys2Proof.Machine.execMinImm fa fb fc fd s
  | .maxReg fa fb fc fd => Sys2Proof.Machine.execMaxReg fa fb fc fd s
  | .maxImm fa fb fc fd => Sys2Proof.Machine.execMaxImm fa fb fc fd s
  | .cmpReg fa fb fc fd => Sys2Proof.Machine.execCmpReg fa fb fc fd s
  | .cmpImm fa fb fc fd => Sys2Proof.Machine.execCmpImm fa fb fc fd s
  | .sel fa fb fc fd => Sys2Proof.Machine.execSel fa fb fc fd s
  | .li fa fb => Sys2Proof.Machine.execLi fa fb s
  | .lih fa fb fc => Sys2Proof.Machine.execLih fa fb fc s
  | .mov fa fb => Sys2Proof.Machine.execMov fa fb s
  | .bitc fa fb fc => Sys2Proof.Machine.execBitc fa fb fc s
  | .bfx fa fb fc fd fe => Sys2Proof.Machine.execBfx fa fb fc fd fe s
  | .bfi fa fb fc fd => Sys2Proof.Machine.execBfi fa fb fc fd s
  | .br fa fb fc fd => Sys2Proof.Machine.execBr fa fb fc fd s
  | .jmpRel fa => Sys2Proof.Machine.execJmpRel fa s
  | .jmpReg fa => Sys2Proof.Machine.execJmpReg fa s
  | .callRel fa => Sys2Proof.Machine.execCallRel fa s
  | .callReg fa => Sys2Proof.Machine.execCallReg fa s
  | .ret fa => Sys2Proof.Machine.execRet fa s
  | .loopImm fa fb => Sys2Proof.Machine.execLoopImm fa fb s
  | .loopReg fa fb => Sys2Proof.Machine.execLoopReg fa fb s
  | .breakOp fa => Sys2Proof.Machine.execBreakOp fa s
  | .brkm fa => Sys2Proof.Machine.execBrkm fa s
  | .eret => Sys2Proof.Machine.execEret s
  | .yield => Sys2Proof.Machine.execYield s
  | .endOp => Sys2Proof.Machine.execEndOp s
  | .trap fa => Sys2Proof.Machine.execTrap fa s
  | .dbgbrk => Sys2Proof.Machine.execDbgbrk s
  | .wait fa fb fc fd => Sys2Proof.Machine.execWait fa fb fc fd s
  | .csrr fa fb => Sys2Proof.Machine.execCsrr fa fb s
  | .csrw fa fb => Sys2Proof.Machine.execCsrw fa fb s
  | .gsync => Sys2Proof.Machine.execGsync s
  | .gsyncRelease fa => Sys2Proof.Machine.execGsyncRelease fa s
  | .signal fa => Sys2Proof.Machine.execSignal fa s
  | .signalDecrement fa => Sys2Proof.Machine.execSignalDecrement fa s
  | .launch fa => Sys2Proof.Machine.execLaunch fa s
  | .deviceLaunchArrive fa => Sys2Proof.Machine.execDeviceLaunchArrive fa s
  | .fence fa fb fc => Sys2Proof.Machine.execFence fa fb fc s
  | .drain fa => Sys2Proof.Machine.execDrain fa s
  | .recon fa fb fc => Sys2Proof.Machine.execRecon fa fb fc s
  | .recoff => Sys2Proof.Machine.execRecoff s
  | .reverse fa => Sys2Proof.Machine.execReverse fa s
  | .reverseRecord fa fb => Sys2Proof.Machine.execReverseRecord fa fb s
  | .release fa fb => Sys2Proof.Machine.execRelease fa fb s
  | .veto fa fb => Sys2Proof.Machine.execVeto fa fb s
  | .egressAnswer fa fb => Sys2Proof.Machine.execEgressAnswer fa fb s
  | .vadd fa fb fc fd => Sys2Proof.Machine.execVadd fa fb fc fd s
  | .vsub fa fb fc fd => Sys2Proof.Machine.execVsub fa fb fc fd s
  | .vmul fa fb fc fd => Sys2Proof.Machine.execVmul fa fb fc fd s
  | .vfma fa fb fc fd => Sys2Proof.Machine.execVfma fa fb fc fd s
  | .vfms fa fb fc fd => Sys2Proof.Machine.execVfms fa fb fc fd s
  | .vmax fa fb fc fd => Sys2Proof.Machine.execVmax fa fb fc fd s
  | .vmin fa fb fc fd => Sys2Proof.Machine.execVmin fa fb fc fd s
  | .vabs fa fb fc => Sys2Proof.Machine.execVabs fa fb fc s
  | .vneg fa fb fc => Sys2Proof.Machine.execVneg fa fb fc s
  | .vrcp fa fb fc => Sys2Proof.Machine.execVrcp fa fb fc s
  | .vrsq fa fb fc => Sys2Proof.Machine.execVrsq fa fb fc s
  | .vsqrt fa fb fc => Sys2Proof.Machine.execVsqrt fa fb fc s
  | .vexp2 fa fb fc => Sys2Proof.Machine.execVexp2 fa fb fc s
  | .vlog2 fa fb fc => Sys2Proof.Machine.execVlog2 fa fb fc s
  | .vtanh fa fb fc => Sys2Proof.Machine.execVtanh fa fb fc s
  | .viadd fa fb fc fd => Sys2Proof.Machine.execViadd fa fb fc fd s
  | .visub fa fb fc fd => Sys2Proof.Machine.execVisub fa fb fc fd s
  | .vimul fa fb fc fd => Sys2Proof.Machine.execVimul fa fb fc fd s
  | .vand fa fb fc fd => Sys2Proof.Machine.execVand fa fb fc fd s
  | .vor fa fb fc fd => Sys2Proof.Machine.execVor fa fb fc fd s
  | .vxor fa fb fc fd => Sys2Proof.Machine.execVxor fa fb fc fd s
  | .vshl fa fb fc fd => Sys2Proof.Machine.execVshl fa fb fc fd s
  | .vshr fa fb fc fd => Sys2Proof.Machine.execVshr fa fb fc fd s
  | .vsra fa fb fc fd => Sys2Proof.Machine.execVsra fa fb fc fd s
  | .vcmp fa fb fc fd fe => Sys2Proof.Machine.execVcmp fa fb fc fd fe s
  | .vsel fa fb fc fd => Sys2Proof.Machine.execVsel fa fb fc fd s
  | .vcvt fa fb fc fd fe ff => Sys2Proof.Machine.execVcvt fa fb fc fd fe ff s
  | .vscl fa fb fc fd => Sys2Proof.Machine.execVscl fa fb fc fd s
  | .vbcst fa fb fc => Sys2Proof.Machine.execVbcst fa fb fc s
  | .vred fa fb fc fd => Sys2Proof.Machine.execVred fa fb fc fd s
  | .vperm fa fb fc fd => Sys2Proof.Machine.execVperm fa fb fc fd s
  | .vslide fa fb fc fd fe => Sys2Proof.Machine.execVslide fa fb fc fd fe s
  | .vzip fa fb fc fd => Sys2Proof.Machine.execVzip fa fb fc fd s
  | .vunzip fa fb fc fd => Sys2Proof.Machine.execVunzip fa fb fc fd s
  | .viota fa fb => Sys2Proof.Machine.execViota fa fb s
  | .vmovs fa fb fc fd => Sys2Proof.Machine.execVmovs fa fb fc fd s
  | .vins fa fb fc fd => Sys2Proof.Machine.execVins fa fb fc fd s
  | .kpush fa fb => Sys2Proof.Machine.execKpush fa fb s
  | .kinv => Sys2Proof.Machine.execKinv s
  | .kpop => Sys2Proof.Machine.execKpop s
  | .kmovTo fa => Sys2Proof.Machine.execKmovTo fa s
  | .kmovFrom fa => Sys2Proof.Machine.execKmovFrom fa s
  | .tadd fa fb fc fd fe => Sys2Proof.Machine.execTadd fa fb fc fd fe s
  | .tmul fa fb fc fd fe => Sys2Proof.Machine.execTmul fa fb fc fd fe s
  | .tscale fa fb fc fd fe => Sys2Proof.Machine.execTscale fa fb fc fd fe s
  | .tbias fa fb fc fd fe => Sys2Proof.Machine.execTbias fa fb fc fd fe s
  | .trelu fa fb fc fd => Sys2Proof.Machine.execTrelu fa fb fc fd s
  | .tgelu fa fb fc fd => Sys2Proof.Machine.execTgelu fa fb fc fd s
  | .tsilu fa fb fc fd => Sys2Proof.Machine.execTsilu fa fb fc fd s
  | .texp fa fb fc fd => Sys2Proof.Machine.execTexp fa fb fc fd s
  | .tsoftmax fa fb fc fd => Sys2Proof.Machine.execTsoftmax fa fb fc fd s
  | .trmsn fa fb fc fd fe => Sys2Proof.Machine.execTrmsn fa fb fc fd fe s
  | .tmask fa fb fc fd fe => Sys2Proof.Machine.execTmask fa fb fc fd fe s
  | .ttrans fa fb fc fd => Sys2Proof.Machine.execTtrans fa fb fc fd s
  | .tcvt fa fb fc fd => Sys2Proof.Machine.execTcvt fa fb fc fd s
  | .mnop => Sys2Proof.Machine.execMnop s
  | .mpush fa fb fc fd fe ff => Sys2Proof.Machine.execMpush fa fb fc fd fe ff s
  | .mflip => Sys2Proof.Machine.execMflip s
  | .mshift fa fb fc => Sys2Proof.Machine.execMshift fa fb fc s
  | .rowEmerge fa => Sys2Proof.Machine.execRowEmerge fa s
  | .macc fa fb fc => Sys2Proof.Machine.execMacc fa fb fc s
  | .maccU fa fb => Sys2Proof.Machine.execMaccU fa fb s
  | .mdrain fa fb fc fd fe => Sys2Proof.Machine.execMdrain fa fb fc fd fe s
  | .mzero fa fb fc => Sys2Proof.Machine.execMzero fa fb fc s
  | .mspan fa => Sys2Proof.Machine.execMspan fa s
  | .mend => Sys2Proof.Machine.execMend s
  | .spanRetire fa => Sys2Proof.Machine.execSpanRetire fa s
  | .mgang fa fb => Sys2Proof.Machine.execMgang fa fb s
  | .follow fa => Sys2Proof.Machine.execFollow fa s
  | .sld fa fb fc fd fe => Sys2Proof.Machine.execSld fa fb fc fd fe s
  | .sst fa fb fc fd => Sys2Proof.Machine.execSst fa fb fc fd s
  | .vld fa fb fc => Sys2Proof.Machine.execVld fa fb fc s
  | .vst fa fb fc => Sys2Proof.Machine.execVst fa fb fc s
  | .vldx fa fb fc fd => Sys2Proof.Machine.execVldx fa fb fc fd s
  | .vstx fa fb fc fd => Sys2Proof.Machine.execVstx fa fb fc fd s
  | .spl fa fb => Sys2Proof.Machine.execSpl fa fb s
  | .sps fa fb => Sys2Proof.Machine.execSps fa fb s
  | .scale fa fb fc => Sys2Proof.Machine.execScale fa fb fc s
  | .barinit fa fb fc fd => Sys2Proof.Machine.execBarinit fa fb fc fd s
  | .bararm fa fb => Sys2Proof.Machine.execBararm fa fb s
  | .bararr fa fb => Sys2Proof.Machine.execBararr fa fb s
  | .bartst fa fb => Sys2Proof.Machine.execBartst fa fb s
  | .barwait fa fb => Sys2Proof.Machine.execBarwait fa fb s
  | .ringcfg fa fb => Sys2Proof.Machine.execRingcfg fa fb s
  | .rpop fa => Sys2Proof.Machine.execRpop fa s
  | .wmark fa fb fc => Sys2Proof.Machine.execWmark fa fb fc s
  | .aadd fa fb fc fd => Sys2Proof.Machine.execAadd fa fb fc fd s
  | .afadd fa fb fc => Sys2Proof.Machine.execAfadd fa fb fc s
  | .amin fa fb fc fd fe => Sys2Proof.Machine.execAmin fa fb fc fd fe s
  | .amax fa fb fc fd fe => Sys2Proof.Machine.execAmax fa fb fc fd fe s
  | .alogic fa fb fc fd fe => Sys2Proof.Machine.execAlogic fa fb fc fd fe s
  | .aswp fa fb fc fd => Sys2Proof.Machine.execAswp fa fb fc fd s
  | .acas fa fb fc fd fe => Sys2Proof.Machine.execAcas fa fb fc fd fe s
  | .copy fa fb fc fd fe => Sys2Proof.Machine.execCopy fa fb fc fd fe s
  | .cslice fa fb fc fd fe => Sys2Proof.Machine.execCslice fa fb fc fd fe s
  | .stream fa fb fc fd fe => Sys2Proof.Machine.execStream fa fb fc fd fe s
  | .npost fa fb fc fd fe => Sys2Proof.Machine.execNpost fa fb fc fd fe s
  | .pldec fa fb fc fd fe => Sys2Proof.Machine.execPldec fa fb fc fd fe s
  | .pland fa fb fc fd fe => Sys2Proof.Machine.execPland fa fb fc fd fe s
  | .plor fa fb fc fd fe => Sys2Proof.Machine.execPlor fa fb fc fd fe s
  | .pltopk fa fb fc fd fe => Sys2Proof.Machine.execPltopk fa fb fc fd fe s
  | .plfuse fa fb fc fd fe => Sys2Proof.Machine.execPlfuse fa fb fc fd fe s
  | .egq fa fb fc fd fe => Sys2Proof.Machine.execEgq fa fb fc fd fe s
  | .tagset fa fb fc => Sys2Proof.Machine.execTagset fa fb fc s
  | .xinvAll => Sys2Proof.Machine.execXinvAll s
  | .xinvVa fa => Sys2Proof.Machine.execXinvVa fa s
  | .icacheFill => Sys2Proof.Machine.execIcacheFill s
  | .loadValueReturn fa fb => Sys2Proof.Machine.execLoadValueReturn fa fb s
  | .storePerform fa fb => Sys2Proof.Machine.execStorePerform fa fb s
  | .deferredFault fa fb => Sys2Proof.Machine.execDeferredFault fa fb s
  | .copyStart fa => Sys2Proof.Machine.execCopyStart fa s
  | .copyRow fa => Sys2Proof.Machine.execCopyRow fa s
  | .copyComplete fa => Sys2Proof.Machine.execCopyComplete fa s
  | .hareJobStart fa => Sys2Proof.Machine.execHareJobStart fa s
  | .hareBlock fa => Sys2Proof.Machine.execHareBlock fa s
  | .hareJobEnd fa => Sys2Proof.Machine.execHareJobEnd fa s
  | .badgerStart fa => Sys2Proof.Machine.execBadgerStart fa s
  | .badgerComplete fa => Sys2Proof.Machine.execBadgerComplete fa s
  | .npostSendComplete fa => Sys2Proof.Machine.execNpostSendComplete fa s
  | .netPacketReceive fa fb fc fd => Sys2Proof.Machine.execNetPacketReceive fa fb fc fd s
  | .netSendAbandon fa fb => Sys2Proof.Machine.execNetSendAbandon fa fb s
  | .egqRun fa => Sys2Proof.Machine.execEgqRun fa s
  | .egressRecordOut fa => Sys2Proof.Machine.execEgressRecordOut fa s
  | .launchRead => Sys2Proof.Machine.execLaunchRead s
  | .graphLaunch fa => Sys2Proof.Machine.execGraphLaunch fa s
  | .taskPlace fa => Sys2Proof.Machine.execTaskPlace fa s
  | .contextBind fa => Sys2Proof.Machine.execContextBind fa s
  | .agingTick fa => Sys2Proof.Machine.execAgingTick fa s
  | .contextFree fa fb => Sys2Proof.Machine.execContextFree fa fb s
  | .graphTeardown fa fb => Sys2Proof.Machine.execGraphTeardown fa fb s
  | .faultQueueWrite fa => Sys2Proof.Machine.execFaultQueueWrite fa s
  | .preemptRequest fa fb fc => Sys2Proof.Machine.execPreemptRequest fa fb fc s
  | .preemptForcedStop fa => Sys2Proof.Machine.execPreemptForcedStop fa s
  | .preemptHalt fa => Sys2Proof.Machine.execPreemptHalt fa s
  | .preemptSave fa => Sys2Proof.Machine.execPreemptSave fa s
  | .gangResume fa fb => Sys2Proof.Machine.execGangResume fa fb s
  | .moduleReset fa => Sys2Proof.Machine.execModuleReset fa s
  | .throttleWindow fa fb => Sys2Proof.Machine.execThrottleWindow fa fb s
  | .timingModeApply fa => Sys2Proof.Machine.execTimingModeApply fa s
  | .scrubVisit fa => Sys2Proof.Machine.execScrubVisit fa s
  | .bankFailing fa fb => Sys2Proof.Machine.execBankFailing fa fb s
  | .recoveryDelayExpire fa fb => Sys2Proof.Machine.execRecoveryDelayExpire fa fb s
  | .recoveryPoint fa fb => Sys2Proof.Machine.execRecoveryPoint fa fb s
  | .hostRead fa fb => Sys2Proof.Machine.execHostRead fa fb s
  | .hostWrite fa fb => Sys2Proof.Machine.execHostWrite fa fb s
  | .flitReceive fa => Sys2Proof.Machine.execFlitReceive fa s
  | .flitNak fa => Sys2Proof.Machine.execFlitNak fa s
  | .linkRetrain => Sys2Proof.Machine.execLinkRetrain s
  | .launchDoorbell fa => Sys2Proof.Machine.execLaunchDoorbell fa s
  | .imageInvalidate fa => Sys2Proof.Machine.execImageInvalidate fa s
  | .imginvDone => Sys2Proof.Machine.execImginvDone s
  | .egressStreamReset fa => Sys2Proof.Machine.execEgressStreamReset fa s
  | .modesetWrite fa => Sys2Proof.Machine.execModesetWrite fa s
  | .nqBind fa fb fc => Sys2Proof.Machine.execNqBind fa fb fc s
  | .attestationRequest fa => Sys2Proof.Machine.execAttestationRequest fa s
  | .attestationReport => Sys2Proof.Machine.execAttestationReport s
  | .mgmtRegisterWrite fa fb => Sys2Proof.Machine.execMgmtRegisterWrite fa fb s
  | .owlStop fa => Sys2Proof.Machine.execOwlStop fa s
  | .owlResume fa => Sys2Proof.Machine.execOwlResume fa s
  | .owlStep fa => Sys2Proof.Machine.execOwlStep fa s
  | .owlSettle fa => Sys2Proof.Machine.execOwlSettle fa s
  | .owlSettleDone fa => Sys2Proof.Machine.execOwlSettleDone fa s
  | .owlRdreg fa => Sys2Proof.Machine.execOwlRdreg fa s
  | .owlWrreg fa => Sys2Proof.Machine.execOwlWrreg fa s
  | .owlFlush fa => Sys2Proof.Machine.execOwlFlush fa s
  | .owlTagdump fa => Sys2Proof.Machine.execOwlTagdump fa s
  | .owlBadCommand fa => Sys2Proof.Machine.execOwlBadCommand fa s
  | .errorInjectArm fa fb => Sys2Proof.Machine.execErrorInjectArm fa fb s
  | .traceSample fa => Sys2Proof.Machine.execTraceSample fa s
  | .encodingFault fa => Sys2Proof.Machine.execEncodingFault fa s
  | .sendQueueStart fa => Sys2Proof.Machine.execSendQueueStart fa s
  | .linkRetrained => Sys2Proof.Machine.execLinkRetrained s
  | .bridgeReplay fa fb => Sys2Proof.Machine.execBridgeReplay fa fb s
  | .failingTsvLane fa fb => Sys2Proof.Machine.execFailingTsvLane fa fb s

end Sys2Proof.Machine
end

