-- ==== Sys2Proof/Machine/Issue.lean ====
section
/-! DEFINITION. A core's moves: fetching and dispatching a bundle, capturing operands, issuing from the slot queues, control flow,
choosing a context, and Owl's STEP (R33 to R36, R43, R51 to R60, R66 to R73, R174, R210 to R214, R275, R277, R283). -/

namespace Sys2Proof.Machine

/-- The result of one meaning continued. -/
def andThen (o : Host.Outcome State Fault Refusal) (k : State → Host.Outcome State Fault Refusal) :
    Host.Outcome State Fault Refusal :=
  match o with
  | .next s => k s
  | .fault e => .fault e
  | .refused r => .refused r

/-! ## Bundles (R51, R52, R283) -/

/-- A decoded bundle: an operation for each slot, NOP and MNOP for none, and the lent bits. -/
structure Bundle where
  x : Instr
  v : Instr
  m : Instr
  l : Instr
  hdr : Bool
  lentV : Nat
  lentM : Nat
  lentL : Nat
  deriving DecidableEq, Repr

/-- The word of a slot (R51). -/
def slotWord (b : BundleWord) (k : Nat) : SlotWord := BitVec.ofNat 32 (b.toNat >>> (32 * k))

/-- The slots of a bundle that hold something: the all-zero word is NOP or MNOP (R369, R376). -/
def presentOf (b : BundleWord) : BitVec 4 :=
  BitVec.ofNat 4 ((List.range 4).foldl (fun n k => if slotWord b k = 0 then n else n + 1 <<< k) 0)

/-- The slots of a bundle that hold an operation: a header is none (R52, R283). -/
def operationsOf (b : BundleWord) : BitVec 4 :=
  if bits (slotWord b 0) 31 26 = 63 then presentOf b &&& 0b1110#4 else presentOf b

/-- Nothing stands in the slot. -/
def isNop (i : Instr) : Bool :=
  match i with
  | .nop => true
  | .mnop => true
  | _ => false

/-- The LS format, the only one of the L slot that uses lent bits (R292). -/
def usesLentL (i : Instr) : Bool :=
  match i with
  | .sld _ _ _ _ _ => true
  | .sst _ _ _ _ => true
  | _ => false

/-- The V-slot operation as it would stand in its queue, with lent bits `n`, in a bundle with a header. -/
def lentProbe (i : Instr) (absd abss : Bool) (n : Nat) : QOp :=
  { seq := 0, addr := 0, slot := 1, ins := i, lent := n, hdr := true, absd := absd, abss := abss, caps := [], links := [] }

/-- The V-slot operation has an absolute register that the lent bits extend (R80). -/
def usesLentV (t : Ctx) (i : Instr) (absd abss : Bool) : Bool :=
  let a := lentProbe i absd abss 0
  let b := lentProbe i absd abss 1
  a.reads t ≠ b.reads t || a.writes t ≠ b.writes t

/-- The operation that a V-slot word's opcode names, whatever the word's other fields hold. -/
def namedV (w : SlotWord) : Option Instr :=
  let k := bits w 31 26 <<< 26
  match decodeSlot 1 (BitVec.ofNat 32 k), decodeSlot 1 (BitVec.ofNat 32 (k + 5 <<< 5)) with
  | .ok i, _ => some i
  | _, .ok i => some i
  | _, _ => none

/-- The lent bits `n` of the V slot are in use (R52). The opcode of an undecodable word tells which operation stands in the slot
(notes/assumptions/63.md). -/
def lentVUsed (t : Ctx) (w : SlotWord) (absd abss : Bool) (n : Nat) : Bool :=
  n = 0 ||
  (match decodeSlot 1 w with
   | .ok i => usesLentV t i absd abss
   | .error _ => (namedV w).any (fun i => usesLentV t i absd abss))

/-- The lent bits `n` of the L slot are in use (R292), likewise: SLD and SST have opcodes 1 and 2. -/
def lentLUsed (w : SlotWord) (n : Nat) : Bool :=
  n = 0 ||
  (match decodeSlot 3 w with
   | .ok i => usesLentL i
   | .error _ => bits w 31 26 = 1 || bits w 31 26 = 2)

/-- The bundle decoded, or the slot that an encoding fault reports, the lowest that faults (R283): lent bits that no operation uses fault slot
0 (R52). -/
def decodeBundle (t : Ctx) (b : BundleWord) (absd abss : Bool) : Except Nat Bundle :=
  let w0 := slotWord b 0
  let hdr : Bool := bits w0 31 26 = 63
  let lent (hi lo : Nat) : Nat := if hdr then bits w0 hi lo else 0
  match decodeSlot 0 w0, decodeSlot 1 (slotWord b 1), decodeSlot 2 (slotWord b 2), decodeSlot 3 (slotWord b 3) with
  | .error _, _, _, _ => .error 0
  | .ok x, v, m, l =>
    if !(lentVUsed t (slotWord b 1) absd abss (lent 13 10)) || lent 9 5 ≠ 0 || !(lentLUsed (slotWord b 3) (lent 4 0)) then .error 0
    else
      match v, m, l with
      | .error _, _, _ => .error 1
      | _, .error _, _ => .error 2
      | _, _, .error _ => .error 3
      | .ok v, .ok m, .ok l =>
        .ok { x := x, v := v, m := m, l := l, hdr := hdr, lentV := lent 13 10, lentM := lent 9 5, lentL := lent 4 0 }

/-! ## Operands at dispatch (R56, R57, R60) -/

/-- The scalar or address register that a V, M or L operation writes, by code. -/
def scalarDst (i : Instr) : Option Nat :=
  match i with
  | .sld d _ _ _ _ => some (sreg d)
  | .spl d _ => some d.toNat
  | .bartst d _ => some (sreg d)
  | .vmovs d _ _ _ => some (sreg d)
  | .aadd d _ _ _ => some (sreg d)
  | .afadd d _ _ => some (sreg d)
  | .amin d _ _ _ _ => some (sreg d)
  | .amax d _ _ _ _ => some (sreg d)
  | .alogic d _ _ _ _ => some (sreg d)
  | .aswp d _ _ _ => some (sreg d)
  | .acas d _ _ _ _ => some (sreg d)
  | _ => none

/-- The slot queue of a context. -/
def Ctx.queue (t : Ctx) (slot : Nat) : List QOp :=
  match slot with
  | 1 => t.vq
  | 2 => t.mq
  | _ => t.lq

def Ctx.setQueue (t : Ctx) (slot : Nat) (q : List QOp) : Ctx :=
  match slot with
  | 1 => { t with vq := q }
  | 2 => { t with mq := q }
  | _ => { t with lq := q }

/-- The latest operation of the slot whose write of register `r` an operation dispatched now sees (R56): queued, or a pending write
that no X-slot operation has overtaken since its release (R60). -/
def Ctx.producer (t : Ctx) (slot r : Nat) : Option Nat :=
  match ((t.queue slot).filter (fun o => scalarDst o.ins = some r)).getLast? with
  | some o => some o.seq
  | none =>
    match (t.pend.filter (fun p => p.slot = slot && p.reg = r)).getLast? with
    | some p => if p.released && decide (p.seq < t.xw.get r 0) then none else some p.seq
    | none => none

/-- A V, M or L operation as it enters its queue in cycle `now` (R53, R57). -/
def Ctx.capture (t : Ctx) (now seq : Nat) (addr : Word) (slot : Nat) (i : Instr) (lent : Nat) (hdr absd abss : Bool) : QOp :=
  let rs := scalarSrcs i
  { seq := seq, addr := addr, slot := slot, ins := i, lent := lent, hdr := hdr, absd := absd, abss := abss
    caps := rs.map (fun r => (r, t.view r now))
    links := rs.filterMap (fun r => (t.producer slot r).map (fun q => (r, q))) }

/-- The operations of a bundle for the three queues. -/
def Ctx.captureAll (t : Ctx) (now seq : Nat) (addr : Word) (b : Bundle) (absd abss : Bool) : List QOp :=
  [(1, b.v, b.lentV), (2, b.m, b.lentM), (3, b.l, b.lentL)].filterMap (fun e =>
    if isNop e.2.1 then none else some (t.capture now seq addr e.1 e.2.1 e.2.2 b.hdr absd abss))

def Ctx.enqueue (t : Ctx) (o : QOp) : Ctx := t.setQueue o.slot (t.queue o.slot ++ [o])

/-! ## Control flow (R66, R68 to R71) -/

/-- The bundle at `a` stands at the end of the top loop entry (R71, R216). -/
def Ctx.atLoopEnd (t : Ctx) (a : Word) : Bool :=
  match t.loops with
  | e :: _ => e.stop = a
  | [] => false

/-- The test of the top loop entry after the bundle at `a` (R71): the start bundle when it iterates. -/
def Ctx.loopTest (t : Ctx) (a : Word) : Ctx × Option Word :=
  match t.loops with
  | e :: r =>
    if e.stop ≠ a then (t, none)
    else if 1 < e.count.toNat then ({ t with loops := { e with count := e.count - 1 } :: r }, some e.start)
    else ({ t with loops := r }, none)
  | [] => (t, none)

/-- The next bundle after the one at `a`, dispatched in cycle `now`; `old` is the transfer whose delay slot the bundle was. After a transfer
the two bundles that follow it in memory come first (R66). A bundle that fetch did not expect comes 5 cycles late (R68). The flag
tells that the target of a transfer has been reached. -/
def Ctx.follow (t : Ctx) (a : Word) (old : Option Delay) (now : Nat) : Ctx × Bool :=
  let (t, start) := t.loopTest a
  let on : Word := start.getD (a + 16)
  let d :=
    match old with
    | some d => some { d with left := d.left - 1 }
    | none => t.delay
  match d with
  | none => ({ t with pc := on }, false)
  | some d =>
    if d.left ≠ 0 || d.eret then ({ t with pc := a + 16, delay := some d }, false)
    else
      let t := { t with delay := none, fetchAt := if d.late then now + 6 else t.fetchAt }
      match d.target with
      | some p => ({ t with pc := p }, old.isSome)
      | none => ({ t with pc := on }, false)

/-- A bundle has dispatched: its operations are queued and the context goes on. A target that is not aligned is an ALIGN fault of the
transfer, whose delay slots have executed (R69). -/
def State.advance (s : State) (c x : Nat) (a : Word) (ops : List QOp) (old : Option Delay) (step : Bool) : State :=
  let t := ops.foldl Ctx.enqueue (s.ctx c x)
  let (t, jumped) := Ctx.follow { t with seq := t.seq + 1, lastAddr := a } a old (s.core c).clock
  let s := s.setCtx c x t
  if jumped && bits t.pc 3 0 ≠ 0 then
    { s.takeFault c x 0 (t.seq - 3) (a - 32) cALIGN t.pc 0 true 0 step with last := .trapped }
  else s

/-! ## Issuing (R54, R210, R212, R275) -/

/-- The class of the cycle that core `c` is in (R174), once the head of its owner's M queue has one; with no owner the context that runs
counts (notes/assumptions/54.md). -/
def State.noteClass (s : State) (c x k : Nat) : State :=
  s.modCore c (fun q => if q.cls = 4 && (q.arr.owner = none || q.arr.owner = some x) then { q with cls := k } else q)

/-- The beat `i` takes scales, and a SCALE of context `x` of core `c` has issued and has not appended yet (R76, R160). -/
def State.scaleComes (s : State) (c x : Nat) (i : Instr) : Bool := scalesOf i ≠ 0 && !((s.core c).free (resOf x rScale))

/-- The MPUSH `o` waits for a SCALE that comes before it: one that has not issued, or one that has and has not appended yet (R160, R174). -/
def State.scalePends (s : State) (c x : Nat) (o : QOp) : Bool :=
  (decide ((s.core c).arr.scaleq.length < scalesOf o.ins) && (s.ctx c x).lq.any (fun p => isScale p.ins && decide (p.seq < o.seq))) ||
    s.scaleComes c x o.ins

/-- The class of a cycle in which the head `o` waits before its own meaning is tried: for a SCALE (R160), or for its row (R163). -/
def State.heldClass (s : State) (c x : Nat) (o : QOp) : Nat :=
  if s.scalePends c x o then 1 else if sums o.ins && s.opClear c x o then 3 else 4

/-- The class of a cycle in which the beat `ins` of the focus waits in its own meaning (R174): of a member that waits for scales on their way its
own; without command where a member's earlier operations hold it (R55), or the gang has aborted; otherwise its ring, its scales or its row keep it. -/
def State.beatClass (s : State) (ins : Instr) : Nat :=
  match s.gang with
  | some g =>
    let others := g.members.filter (fun m => m ≠ (s.focus.core, s.focus.ctx))
    if others.any (fun m => s.scaleComes m.1 m.2 ins) || others.all (fun m => s.memberClear ins m.1 m.2) then waitsClass ins else 4
  | none => if s.fctx.mdiscard then 4 else waitsClass ins

/-- A queued operation leaves its queue. -/
def Ctx.unqueue (t : Ctx) (o : QOp) : Ctx := t.setQueue o.slot ((t.queue o.slot).filter (fun p => p.seq ≠ o.seq))

/-- An operation that has issued leaves its queue; its unit and its results take their time (R76), and what it writes lands when they have
(R181). A discarded beat has not issued: it takes no time, and its cycle is none of its class (R173, R174). `old` is the core before. -/
def State.popOp (s : State) (c x : Nat) (o : QOp) (old : Core) : State :=
  let s := s.modCtx c x (fun t => t.unqueue o)
  if (old.ctx x).discards o.ins then s else (((s.occupyBy c x o).noteWrite c x o).launchBy c x o old).noteClass c x (issuesClass o.ins)

/-- The focus of a queued operation. -/
def State.opFocus (s : State) (c x : Nat) (o : QOp) (step : Bool) : Focus :=
  { core := c, ctx := x, slot := o.slot, seq := o.seq, addr := o.addr, caps := (s.ctx c x).operands o, lent := o.lent, hdr := o.hdr,
    absd := o.absd, abss := o.abss, present := 0, step := step, cover := none }

/-- A queued operation runs; it leaves its queue when it has issued. A breakpoint stops an operation that is about to issue; a discarded beat never
is (R173, R275). -/
def issueOp (s : State) (c x : Nat) (o : QOp) (step : Bool) : Host.Outcome State Fault Refusal :=
  andThen (exec o.ins { s with focus := s.opFocus c x o step }) (fun s' =>
    match s'.last with
    | .waits => .next (s'.noteClass c x (s'.beatClass o.ins))
    | _ =>
      if !step && s.breakAt c x o.addr o.slot && !((s.ctx c x).discards o.ins) then stoppedAt (s.breakStop c x o.slot o.seq o.addr)
      else if s'.last = .issued then .next (s'.popOp c x o (s.core c))
      else .next s')

/-- The head of a slot queue issues if it can. -/
def issueHead (s : State) (c x slot : Nat) : Host.Outcome State Fault Refusal :=
  if (s.core c).running ≠ some x then .next s
  else
    match (s.ctx c x).queue slot with
    | [] => .next s
    | o :: _ => if s.opReady c x o then issueOp s c x o false else .next (s.noteClass c x (s.heldClass c x o))

/-- The heads of the three slot queues in program order. -/
def Ctx.heads (t : Ctx) : List QOp := ((t.vq.take 1) ++ (t.mq.take 1) ++ (t.lq.take 1)).foldr insertOp []

/-- One operation of each of the queues `ks`; nothing issues after a fault. -/
def issueSlots (ks : List Nat) (s : State) (c x : Nat) : Host.Outcome State Fault Refusal :=
  match ks with
  | [] => .next s
  | k :: r => andThen (issueHead { s with last := .idle } c x k) (fun u => if u.last = .trapped then .next u else issueSlots r u c x)

/-- One operation of each slot queue, the oldest first: of operations that fault in one cycle the oldest bundle's, and in it the lowest
slot's, is taken (R212). -/
def issueAll (s : State) (c x : Nat) : Host.Outcome State Fault Refusal := issueSlots ((s.ctx c x).heads.map QOp.slot) s c x

/-! ## Dispatch (R53, R54, R58, R59) -/

/-- The X-slot operation realigns (R58, R231, R240, R266, R385). -/
def realigns (i : Instr) : Bool :=
  match i with
  | .hdr y w _ _ _ _ _ => y = 1 || w = 1
  | .yield => true
  | .endOp => true
  | .wait _ _ _ _ => true
  | .fence _ _ _ => true
  | .drain _ => true
  | .brkm _ => true
  | .recon _ _ _ => true
  | .recoff => true
  | .reverse _ => true
  | .release _ _ => true
  | .veto _ _ => true
  | _ => false

/-- The bundle's header has Sync set (R59). -/
def isSync (i : Instr) : Bool :=
  match i with
  | .hdr y _ _ _ _ _ _ => y = 1
  | _ => false

/-- TRAP and DBGBRK stop behind their bundle (R339, R420). -/
def stopsAfter (i : Instr) : Bool :=
  match i with
  | .trap _ => true
  | .dbgbrk => true
  | _ => false

/-- R54: an operation of bundle b − 17 or earlier has not issued. -/
def Ctx.slipFull (t : Ctx) : Bool := t.queued.any (fun o => decide (o.seq + 17 ≤ t.seq))

/-- The focus of the X slot of the next bundle. -/
def State.xFocus (s : State) (c x : Nat) (hdr : Bool) (present : BitVec 4) (step : Bool) : Focus :=
  let t := s.ctx c x
  let ab := t.absAt (s.core c).clock
  { core := c, ctx := x, slot := 0, seq := t.seq, addr := t.pc, caps := [], lent := 0, hdr := hdr, absd := ab.1, abss := ab.2,
    present := present, step := step, cover := none }

/-- The operations `ops` of a Sync bundle, which stand in the queues of `s`, can all issue now (R59): each is tried after those of the slots
below it. One that faults has met its time too. -/
def syncReady (ops : List QOp) (s : State) (c x : Nat) : Bool :=
  match ops with
  | [] => true
  | o :: r =>
    s.opReady c x o &&
    (match exec o.ins { s with focus := s.opFocus c x o false } with
     | .next u =>
       match u.last with
       | .issued => syncReady r (u.popOp c x o (s.core c)) c x
       | .trapped => syncReady r (s.modCtx c x (fun t => t.unqueue o)) c x
       | _ => false
     | _ => false)

/-- The bundle of context `x` of core `c` has issued its X slot in `s'`, `s` being the state before: operands are captured before the effect of
an X-slot operation and after the commits of a realigning one (R57, R60). -/
def dispatched (s s' : State) (c x : Nat) (b : Bundle) (step : Bool) : State :=
  let t := s.ctx c x
  let now := (s.core c).clock
  let ab := t.absAt now
  let ops := (if realigns b.x then s'.ctx c x else t).captureAll now t.seq t.pc b ab.1 ab.2
  (s'.advance c x t.pc ops t.delay step).occupyX c x b.x t t.seq

/-- A decoded bundle runs (R53). In a bundle with Sync every operation can issue with it, or it stays held (R59); a breakpoint of its X slot
stops it once it is about to issue, or is about to ask or to arrive (R275). TRAP and DBGBRK run once their bundle has dispatched; where their stop meets
an older deferred fault, that is taken and they stay undone (R212). -/
def runBundle (s : State) (c x : Nat) (b : Bundle) (present : BitVec 4) (step : Bool) : Host.Outcome State Fault Refusal :=
  let t := s.ctx c x
  let f := s.xFocus c x b.hdr present step
  let stop : Bool := !step && present.getLsbD 0 && s.breakAt c x t.pc 0
  if t.stalled (scalarSrcs b.x) || !(s.xReady c x b.x) then notNow s
  else if stopsAfter b.x then
    if stop || (s.stopPick c x 0 t.seq).isSome then stoppedAt (s.breakStop c x 0 t.seq t.pc)
    else
      let u := dispatched s { s with last := .idle } c x b step
      if u.last = .trapped then .next u else exec b.x { u with focus := f }
  else
    andThen (exec b.x { s with focus := f }) (fun s' =>
      let u := if s'.last = .issued then dispatched s s' c x b step else s'
      let own := ((u.ctx c x).heads).filter (fun o => o.seq = t.seq)
      if s'.last = .issued && u.last ≠ .trapped && isSync b.x && !step && !(syncReady own u c x) then notNow s
      else if stop && (s'.last ≠ .waits || (s'.ctx c x).hold ≠ t.hold) then stoppedAt (s.breakStop c x 0 t.seq t.pc)
      else .next u)

/-- The next bundle of context `x` of core `c`: fetched, decoded and run. Its line counts as used (R45). -/
def dispatchBundle (s : State) (c x : Nat) (step : Bool) : Host.Outcome State Fault Refusal :=
  let t := s.ctx c x
  match s.line c t.image t.pc with
  | none => exec .icacheFill { s with focus := s.xFocus c x false 0 step }
  | some w =>
    let s := s.touchLine c t.image t.pc
    let ab := t.absAt (s.core c).clock
    match decodeBundle t w ab.1 ab.2 with
    | .error k => exec (.encodingFault k) { s with focus := s.xFocus c x false (operationsOf w) step }
    | .ok b => runBundle s c x b (presentOf w) step

/-- The context may not dispatch its next bundle in cycle `now`: a switch that YIELD or END has still to make (R34, R43), the limit on slip
(R54), a bundle that is being fetched (R68), a window that still replays (R211). -/
def Ctx.heldBack (t : Ctx) (now : Nat) : Bool :=
  t.hold = .switching || t.hold = .ending || t.slipFull || decide (now < t.fetchAt) || t.queued.any (fun o => decide (o.seq < t.replay))

/-- The delay slots of an ERET have dispatched (R214). -/
def Ctx.returns (t : Ctx) : Bool :=
  match t.delay with
  | some d => d.eret && d.left = 0
  | none => false

/-- Dispatch of one bundle, unless something holds it; a return from a handler is made once its operations have issued (R214). -/
def dispatch (s : State) (c x : Nat) (step : Bool) : Host.Outcome State Fault Refusal :=
  let t := s.ctx c x
  if t.heldBack (s.core c).clock then notNow s
  else if t.returns then (if t.drained then happened (s.modCtx c x Ctx.leaveHandler) else notNow s)
  else dispatchBundle s c x step

/-! ## Choosing a context (R33, R35) -/

/-- The next bundle is held by a token wait; of a context that has still to return from its handler, the next one that it then issues (R214). A
bundle whose line is not resident shows no header yet, and holds nothing (notes/assumptions/63.md). -/
def State.heldByTokens (s : State) (c : Nat) (t : Ctx) : Bool :=
  let t := if t.returns && t.drained then t.leaveHandler else t
  match s.line c t.image t.pc with
  | none => false
  | some w =>
    match decodeSlot 0 (slotWord w 0) with
    | .ok (.hdr _ e m g _ _ _) => e = 1 && t.drained && t.maskWaits m g
    | _ => false

/-- Owl has resumed the context for one operation (R277). -/
def State.stepping (s : State) (c x : Nat) : Bool :=
  let o := s.owl (towerOf c)
  o.pend && o.stepping && owlCore (towerOf c) o = c && owlCtx o = x && !(s.haltedForPre c x)

/-- The context is ready (R33). -/
def State.readyCtx (s : State) (c x : Nat) : Bool :=
  let t := s.ctx c x
  t.bound && !t.ended && (!t.stopped || s.stepping c x) && !(s.heldByTokens c t)

/-- The first ready context in cyclic order from the one above the last switching context (R35). -/
def State.nextCtx (s : State) (c : Nat) : Option Nat :=
  let k := (s.core c).lastSwitch
  ((List.range numCtxs).map (fun i => (k + 1 + i) % numCtxs)).find? (fun x => s.readyCtx c x)

/-- The context that holds core `c`, or would take it now. -/
def State.holder (s : State) (c : Nat) : Option Nat :=
  match (s.core c).running with
  | some x => some x
  | none => s.nextCtx c

/-- The switch of a YIELD, or the end of the context, once every queue has issued (R34, R43): the core is free for the next cycle (R35). -/
def State.settle (s : State) (c x : Nat) : State :=
  let t := s.ctx c x
  if !t.drained then s
  else if t.hold = .switching then (s.modCtx c x (fun t => { t with hold := .none })).giveUp c x
  else if t.hold = .ending then (s.modCtx c x Ctx.finishEnd).giveUp c x
  else s

/-- A bundle that context `x` of core `c` dispatched between `s` and `u` is a landing point (R216): a YIELD, an END, or the end of a loop's body.
A fault of the same cycle comes first (R221). -/
def State.landsAt (s u : State) (c x : Nat) : Bool :=
  let t := s.ctx c x
  let k := u.ctx c x
  decide (t.seq < k.seq) && u.last ≠ .trapped && (k.hold = .switching || k.hold = .ending || t.atLoopEnd t.pc)

/-- The move of context `x`, which holds core `c`: dispatch, then the slot queues. When dispatch faults, operations of earlier bundles that
issue in the same cycle go first, and their fault is the one taken (R212). -/
def runCtx (s : State) (c x : Nat) : Host.Outcome State Fault Refusal :=
  andThen (dispatch s c x false) (fun u =>
    if u.last = .trapped then
      andThen (issueAll { s with last := .idle } c x) (fun v =>
        if v.last = .trapped then .next (v.landHere c x false)
        else andThen (dispatch v c x false) (fun w => .next (((w.landHere c x (v.landsAt w c x)).settle c x).landHere c x false)))
    else andThen (issueAll (u.landHere c x (s.landsAt u c x)) c x) (fun v => .next ((v.settle c x).landHere c x false)))

/-- What a cycle of core `c` starts with, context `x` holding the core: what has landed is seen (R181), what is in use no longer is struck off,
its released pending writes whose time has come commit (R60). -/
def State.beginCycle (s : State) (c x : Nat) : State :=
  (s.modCore c (fun k => { k.land with running := some x, cls := 4, busy := k.busy.filter (fun e => decide (k.clock < e.2)) })).modCtx c x
    (fun t => t.commit (s.core c).clock)

/-- A cycle of core `c` that began in `s` is over in `u`: its clock goes on, and its class is counted for the span that was open on the
core, or has opened in it (R174). -/
def State.tick (s u : State) (c x : Nat) : State :=
  let addr :=
    match s.chargeAddr c x with
    | some a => some a
    | none => u.chargeAddr c x
  (u.modCore c (fun k => { k with clock := k.clock + 1 })).charge c addr (if (s.ctx c x).reversing then 0 else u.arrayClass c x)

/-- What a cycle of core `c` that began in `s` ends with: it is counted. The fill of a missing line takes no cycle of its own. -/
def State.endCycle (s u : State) (c x : Nat) : State :=
  let t := s.ctx c x
  let filled := (s.line c t.image t.pc).isNone && (u.line c t.image t.pc).isSome
  if filled then u else s.tick u c x

/-! ## Owl's STEP (R277) -/

/-- The one operation of the STEP of context `x` of core `c` has been tried, `u` being the state then and `s` the one before: the context stops
again, a deferred fault that the stop meets being taken (R212), or the command goes on waiting. An END whose bundle has issued has ended the context. -/
def stepEnds (s u : State) (c x : Nat) (addr : Word) (slot : Nat) : Host.Outcome State Fault Refusal :=
  let t := towerOf c
  match u.last with
  | .trapped => .next (u.owlEnd t rsDONE)
  | .issued =>
    let v := u.owlHalt c x slot addr
    let k := v.ctx c x
    let ended : Bool := k.drained && k.hold = .ending
    .next ((v.modCtx c x (fun k =>
      if ended then { k.finishEnd with stopped := false }
      else if k.drained && k.hold = .switching then { k with hold := .none } else k)).owlEnd t rsDONE)
  | _ => notNow s

/-- The operation of the STEP of context `x`, which holds core `c` (R277): the lowest undone slot of the oldest bundle of the window; else the
next bundle dispatches and its X slot or header alone issues. A line that is not resident is fetched first. -/
def stepOp (s : State) (c x : Nat) : Host.Outcome State Fault Refusal :=
  let k := s.ctx c x
  let go := s.modCtx c x (fun k => { k with stopped := false })
  match windowOps k.vq k.mq k.lq with
  | o :: _ => if s.opReady c x o then andThen (issueOp go c x o true) (fun u => stepEnds s u c x o.addr o.slot) else notNow s
  | [] =>
    andThen (dispatch go c x true) (fun u =>
      if k.seq < (u.ctx c x).seq || u.last = .trapped then stepEnds s u c x k.pc 0
      else .next (u.modCtx c x (fun q => { q with stopped := k.stopped })))

/-! ## A cycle -/

/-- A cycle of a core that no context holds (R174, R280): without command, and of an open span as its owner counts. -/
def idleCycle (s : State) (c : Nat) : Host.Outcome State Fault Refusal :=
  let s := s.modCore c (fun k => { k.land with cls := 4, busy := k.busy.filter (fun e => decide (k.clock < e.2)) })
  let x := (s.core c).arr.owner.getD (s.core c).lastSwitch
  .next { s.tick s c x with last := .idle }

/-- One cycle of core `c`: the context that holds it goes on, by one operation when Owl steps it (R277). -/
def coreStep (s : State) (c : Nat) : Host.Outcome State Fault Refusal :=
  match s.holder c with
  | none => idleCycle s c
  | some x =>
    let b := s.beginCycle c x
    andThen (if b.stepping c x then stepOp b c x else runCtx b c x) (fun u => .next (b.endCycle u c x))

end Sys2Proof.Machine
end

