-- ==== Sys2Proof/Machine/Moves.lean ====
section
/-! DEFINITION. Which move comes next: an event from outside, an event that the machine's own units make, a cycle of a core. Plain data
in the state decides (the model's `inputs`, `sched` and `nextCore`): every order that the spec allows is some choice of them. -/

namespace Sys2Proof.Machine

/-- A move of the machine. -/
inductive Move where
  | event (i : Instr)
  | core (c : Nat)
  deriving DecidableEq, Repr

/-- An event of the table, that is, no operation of a slot. -/
def isEvent (i : Instr) : Bool := (encode i).isNone

/-- The event happens in this state, or stops the model. -/
def State.enabled (s : State) (i : Instr) : Bool :=
  isEvent i &&
  (match exec i s with
   | .next s' => s'.last ≠ .waits
   | .fault _ => true
   | .refused _ => true)

/-- Events of a core that may be due: accesses, matrix rows, spans, held operations, ended contexts. -/
def coreEvents (c : Nat) (k : Core) : List Instr :=
  k.outs.flatMap (fun o =>
    [Instr.loadValueReturn c (o.id, o.parts.length), Instr.storePerform c (o.id, o.parts.length), Instr.deferredFault c o.ctx]) ++
  (if k.arr.inflight.isEmpty then [] else [Instr.rowEmerge c]) ++
  (if k.retiring.isEmpty then [] else [Instr.spanRetire c]) ++
  k.ctxs.flatMap (fun e =>
    match e.2.hold with
    | .walk _ => [Instr.reverseRecord c e.1]
    | .asked => [Instr.egressAnswer c e.1]
    | _ => if e.2.ended then [Instr.contextFree c e.1] else [])

/-- Events of a copy engine, a Hare engine, a Badger engine, a send queue that may be due. A copy that runs may go behind its queue, which
`State.finer` lists. -/
def engineEvents (start row stop : Nat → Instr) (e : Nat) (g : Engine) : List Instr :=
  if g.running.isNone then (if g.queue.isEmpty then [] else [start e]) else [row e, stop e]
def sendEvents (q : Nat) (v : SendQ) : List Instr :=
  (if v.arriving.isEmpty then [] else [Instr.netPacketReceive (q, 2) 0 [] 0]) ++
  (if v.queue.isEmpty then [] else [Instr.sendQueueStart (q, 0, 0, 0)]) ++
  (List.range v.sends.length).map (fun n => Instr.sendQueueStart (q, n + 1, v.port.getD (6 * sendDie q), 0)) ++
  (if v.sends.isEmpty then [] else [Instr.npostSendComplete q])

/-- Owl's pending command. -/
def owlEvents (t : Nat) (o : Owl) : List Instr :=
  if !o.pend then []
  else if o.settling then [Instr.owlSettleDone t]
  else
    match owlOp o with
    | 1 => [Instr.owlStop t]
    | 2 => [Instr.owlResume t]
    | 3 => [Instr.owlStep t]
    | 4 => [Instr.owlSettle t]
    | 5 => [Instr.owlRdreg t]
    | 6 => [Instr.owlWrreg t]
    | 7 => [Instr.owlFlush t]
    | 8 => [Instr.owlTagdump t]
    | _ => [Instr.owlBadCommand t]

/-- Events of a dispatcher. -/
def martenEvents (t : Nat) (m : Marten) : List Instr :=
  (if m.signals.isEmpty then [] else [Instr.signalDecrement t]) ++
  (if m.inflight.isEmpty then [] else [Instr.deviceLaunchArrive t]) ++
  (if m.arrivals.isEmpty then [] else [Instr.graphLaunch t]) ++
  (if m.graphs.isEmpty then [] else [Instr.taskPlace t]) ++
  (if m.placing.isEmpty then [] else [Instr.contextBind t]) ++
  (if m.records.isEmpty then [] else [Instr.faultQueueWrite t])

/-- Events of a tower. -/
def towerEvents (t : Nat) (w : Tower) : List Instr :=
  martenEvents t w.marten ++ owlEvents t w.owl ++
  w.copyEng.flatMap (fun e => engineEvents .copyStart (fun e => .copyRow (e, 0)) .copyComplete (10 * t + e.1) e.2) ++
  w.walkers.flatMap (fun e => engineEvents .copyStart (fun e => .copyRow (e, 0)) .copyComplete (10 * t + 4 + e.1) e.2) ++
  w.badgers.flatMap (fun e => engineEvents .badgerStart (fun e => .badgerComplete (e, 0)) (fun e => .badgerComplete (e, 0)) (2 * t + e.1) e.2) ++
  w.sendq.flatMap (fun e => sendEvents (16 * t + e.1) e.2) ++
  (if w.nextTmode.isNone then [] else [Instr.timingModeApply t]) ++
  w.layers.flatMap (fun e => if e.2.needs then [Instr.recoveryPoint t e.1] else [])

/-- Events of the bound tasks. -/
def taskEvents (k : Nat) (b : BoundTask) : List Instr :=
  (if b.arrived.isEmpty then [] else [Instr.gsyncRelease k]) ++ (if b.pre.isNone then [] else [Instr.preemptHalt k, Instr.preemptSave k])

/-- Every event that the machine's own units could make now. -/
def State.candidates (s : State) : List Instr :=
  s.cores.flatMap (fun e => coreEvents e.1 e.2) ++ s.tasks.flatMap (fun e => taskEvents e.1 e.2) ++
  s.towers.flatMap (fun e => towerEvents e.1 e.2) ++
  s.hares.flatMap (fun e => engineEvents .hareJobStart (fun h => .hareBlock (h, 0)) .hareJobEnd e.1 e.2) ++
  s.egress.flatMap (fun e => [Instr.egqRun (e.1, 0), Instr.egressRecordOut e.1]) ++
  (if s.mgmt.doorbells.isEmpty then [] else [Instr.launchRead]) ++ (if s.mgmt.imgpend.isEmpty then [] else [Instr.imginvDone]) ++
  (if s.mgmt.attreq then [Instr.attestationReport] else []) ++ (if s.link.failed then [Instr.linkRetrain] else [])

/-- The moves 1 to `n` of an engine whose command runs by parts. -/
def partEvents (row : Nat → Instr) (n : Nat) : List Instr := (List.range n).map (fun j => row (j + 1))

/-- How many parts a running copy, job or posting-list command can move now, beside its whole moves (R179, R189, R331, R383). -/
def Cmd.copyParts (s : State) (k : Cmd) : Nat :=
  2 + (k.src.getD []).length + k.pending.length + (k.earlyWords s k.safeTo k.gathered).length
def Cmd.jobParts (s : State) (k : Cmd) : Nat :=
  1 + k.pending.length + (unread s k).length + (k.earlyWords s k.buf.length k.jobRead).length
def Cmd.runParts (s : State) (k : Cmd) : Nat := 1 + (if k.read then k.pending.length else (k.reaches s).length)

/-- The finer moves of the machine's own units: single parts of accesses and rows, other ports, and turns among an engine's commands (R113,
R179, R189, R261, R331). -/
def State.finer (s : State) : List Instr :=
  s.cores.flatMap (fun e => e.2.outs.flatMap (fun o =>
    (List.range o.parts.length).flatMap (fun j => [Instr.loadValueReturn e.1 (o.id, j), Instr.storePerform e.1 (o.id, j)]))) ++
  s.towers.flatMap (fun e =>
    let engine (n : Nat) (g : Engine) : List Instr :=
      match g.running with
      | none => []
      | some k => partEvents (fun j => .copyRow (n, j)) (k.copyParts s) ++ (if g.queue.isEmpty then [] else [.copyStart n])
    e.2.copyEng.flatMap (fun g => engine (10 * e.1 + g.1) g.2) ++ e.2.walkers.flatMap (fun g => engine (10 * e.1 + 4 + g.1) g.2) ++
    e.2.badgers.flatMap (fun g =>
      match g.2.running with
      | none => []
      | some k => partEvents (fun j => .badgerComplete (2 * e.1 + g.1, j)) (k.runParts s)) ++
    e.2.sendq.flatMap (fun v => (List.range v.2.sends.length).flatMap (fun n =>
      Instr.sendQueueStart (16 * e.1 + v.1, n + 1, 0, 1) ::
        (List.range 6).map (fun p => Instr.sendQueueStart (16 * e.1 + v.1, n + 1, 6 * sendDie (16 * e.1 + v.1) + p, 0))) ++
      (List.range v.2.arriving.length).map (fun j => Instr.netPacketReceive (16 * e.1 + v.1, j + 2) 0 [] 0))) ++
  s.hares.flatMap (fun e =>
    match e.2.running with
    | none => []
    | some k => partEvents (fun j => .hareBlock (e.1, j)) (k.jobParts s)) ++
  s.egress.flatMap (fun e => partEvents (fun j => .egqRun (e.1, j)) ((s.mirrorWords e.1).length + (s.egqReady e.1).length))

/-- The events that happen by the clock (R29, R47, R216, R225, R279), which the model does not count. -/
def State.timed (s : State) : List Instr :=
  s.towers.flatMap (fun e => [Instr.agingTick e.1, Instr.traceSample e.1] ++
    e.2.layers.flatMap (fun l => [Instr.recoveryDelayExpire (e.1, l.1) []])) ++
  s.tasks.flatMap (fun e => if e.2.pre.isNone then [] else [Instr.preemptForcedStop e.1])

/-- The cores that have a context to run, or a span that waits for its results, the next one in turn first. -/
def State.activeCores (s : State) : List Nat :=
  let cs := (s.cores.filter (fun e => (s.holder e.1).isSome || s.cores.any (fun f => f.2.retiring.any (fun r =>
    r.ready.any (fun q => q.1 = e.1 && decide (e.2.clock < q.2)))))).map (fun e => e.1)
  cs.filter (fun c => decide (s.nextCore ≤ c)) ++ cs.filter (fun c => decide (c < s.nextCore))

/-- The cores that no context holds: their cycles pass too, from module reset on (R174, R280). -/
def State.idleCores (s : State) : List Nat :=
  (List.range numCores).filter (fun c => (s.cores.find c).isNone || (s.holder c).isNone)

/-- An event that stands for a moment: the first at which no running task holds a layer, or a tower (R26, R225). -/
def isMoment (i : Instr) : Bool :=
  match i with
  | .recoveryPoint _ _ => true
  | .timingModeApply _ => true
  | _ => false

/-- The moments that have come. -/
def State.due (s : State) : List Instr := (s.candidates.filter isMoment).filter s.enabled

/-- A Marten holds a task that it can place from its next cycle on (R204), or a placement that binds in a later one (R206). -/
def State.awaitsCycle (s : State) : Bool :=
  s.towers.any (fun e =>
    let m := e.2.marten
    m.graphs.any (fun g => g.tasks.any (fun k => k.2.stage = .runnable && k.2.queued && (m.placed || k.2.order = m.cycle))) ||
      m.placing.any (fun p => decide (m.cycle < p.due)))

/-- Core `c` moves: the cores go round in ascending order, and where a round begins every Marten is in its next cycle (R203, R204). -/
def State.roundOf (s : State) (c : Nat) : State :=
  if s.nextCore = 0 || c < s.nextCore then { s with towers := s.towers.mapV (fun w => { w with marten := w.marten.nextCycle }) } else s

/-- The moves that the machine can make by itself. A moment that has come passes by no other move. -/
def State.moves (s : State) : List Move :=
  if !s.due.isEmpty then s.due.map Move.event
  else
    (s.candidates.filter s.enabled).map Move.event ++
    s.activeCores.map Move.core ++ (if s.awaitsCycle then (s.idleCores.take 1).map Move.core else []) ++
      ((s.finer ++ s.timed).filter s.enabled).map Move.event ++ s.idleCores.map Move.core

/-- The choice from outside taken off the state: an index among the moves, 0 when none is given. -/
def State.takeChoice (s : State) : State := { s with sched := s.sched.drop 1 }

/-- An access by the host over the Aflan link, which keeps its order among them (R260). -/
def byHost (i : Instr) : Bool :=
  match i with
  | .hostRead _ _ => true
  | .hostWrite _ _ => true
  | .launchDoorbell _ => true
  | .imageInvalidate _ => true
  | .egressStreamReset _ => true
  | .nqBind _ _ _ => true
  | .attestationRequest _ => true
  | .errorInjectArm _ _ => true
  | .mgmtRegisterWrite (host, _) _ => host
  | _ => false

/-- The first event from outside that can happen, by its place: no access by the host overtakes an earlier one. -/
def State.nextInput (s : State) (is : List Instr) (n : Nat) (held : Bool) : Option (Nat × Instr) :=
  match is with
  | [] => none
  | i :: r => if !(held && byHost i) && s.enabled i then some (n, i) else s.nextInput r (n + 1) (held || byHost i)

/-- The next move and the state in which it is made: the first event from outside that can happen, unless a moment has come (R225); else the
chosen one of the machine's own moves. -/
def State.nextMove (s : State) : Option (Move × State) :=
  match (if s.due.isEmpty then s.nextInput s.inputs 0 false else none) with
  | some (n, i) => some (.event i, { s with inputs := s.inputs.eraseIdx n })
  | none =>
    let ms := s.moves
    match (match s.sched with
      | [] => ms.head?
      | n :: _ => ms[n % max ms.length 1]?) with
    | some m => some (m, s.takeChoice)
    | none => none

/-- A move made. -/
def runMove (m : Move) (s : State) : Host.Outcome State Fault Refusal :=
  match m with
  | .event i => exec i s
  | .core c => coreStep { s.roundOf c with nextCore := (c + 1) % numCores } c

/-- One step: a move, or nothing when nothing can happen. -/
def stepOnce (s : State) : Host.Outcome State Fault Refusal :=
  match s.nextMove with
  | some (m, s') => runMove m s'
  | none => .next { s with last := .idle }

/-! ## Placing one instruction -/

/-- The core and context whose next bundle an instruction is placed in: those that hold core 0, else its context 0. -/
def State.fetchCtx (s : State) : Nat := ((s.core 0).running).getD 0

/-- The bundle that holds one slot word in slot `k`. -/
def oneSlot (v : SlotWord) (k : Nat) : BundleWord := BitVec.ofNat 128 (v.toNat <<< (32 * k))

/-- A context that will dispatch its next bundle. -/
def Ctx.dispatches (t : Ctx) : Ctx :=
  { t with bound := true, ended := false, stopped := false, hold := .none, delay := none, vq := [], mq := [], lq := [], fetchAt := 0 }

/-- The state in which core 0 dispatches the word next: a context that is bound and runs, the bundle resident in its instruction
cache at the program counter, and the choice of that core's move (notes/assumptions/27.md). -/
def State.placeWord (s : State) (nbits w : Nat) : State :=
  let v : SlotWord := BitVec.ofNat 32 (w % 2 ^ nbits)
  let x := s.fetchCtx
  let t := s.ctx 0 x
  let s := s.putLine 0 { image := t.image, addr := t.pc, bundle := oneSlot v (tableSlot v) }
  let s := (s.modCtx 0 x Ctx.dispatches).modCore 0 (fun k => { k with running := some x, busy := [] })
  let s := { s with inputs := [], sched := [] }
  match s.moves.findIdx (fun m => m = .core 0) with
  | 0 => s
  | n => { s with sched := [n] }

end Sys2Proof.Machine
end

