-- ==== Sys2Proof/Safety.lean ====
section
/-! DEFINITION. What counts as a safe run, and the words in which claims are made: a step that goes on, the memory's canonical form,
what an operation leaves unchanged. -/

namespace Sys2Proof

open Machine

/-- The machine goes on: a next state, no fault and no refusal. -/
def GoesOn (o : Host.Outcome State Fault Refusal) : Prop := ∃ t, o = .next t

/-- Memory is in its canonical form. -/
def MemOk (s : State) : Prop := Memory.wf s.mem = true

/-- Every byte of memory reads the same in both states. -/
def SameMem (s t : State) : Prop := ∀ a : Nat, t.byte a = s.byte a

/-- Every byte of memory outside the `n` bytes from `pa` reads the same in both states. -/
def SameMemBut (s t : State) (pa n : Nat) : Prop := ∀ a : Nat, a < pa ∨ pa + n ≤ a → t.byte a = s.byte a

/-- Whatever `s` and `t` differ in lies in the core of the focus: memory with its locks and error marks, the towers, engines, caches,
rings, tasks, link and management side, every other core and the model's own fields are the same. -/
structure OnlyCore (s t : State) : Prop where
  module : t = { s with cores := t.cores, last := t.last }
  others : ∀ c, c ≠ s.focus.core → t.core c = s.core c

/-- Whatever `s` and `t` differ in lies in the context of the focus: no other context, and nothing of the core's own (vector
registers, accumulator rows, array, rings, watermarks, outstanding accesses), has changed. -/
structure OnlyCtx (s t : State) : Prop where
  core : OnlyCore s t
  own : t.fcore = { s.fcore with ctxs := t.fcore.ctxs }
  others : ∀ x, x ≠ s.focus.ctx → t.ctx s.focus.core x = s.ctx s.focus.core x

/-- The context of the focus differs in one register at most, which now holds `v` (the operation's place in program order is noted
beside it): every other register, every control register, token, counter, stack, queue and pending write is unchanged. -/
structure OneReg (s t : State) (r : Nat) (v : Word) : Prop where
  only : OnlyCtx s t
  holds : t.fctx.reg r = v
  others : ∀ q, q ≠ r → t.fctx.reg q = s.fctx.reg q
  rest : t.fctx = { s.fctx with regs := t.fctx.regs, xw := t.fctx.xw, late := s.fctx.late.filter (fun e => e.1 ≠ r) }
  order : ∀ q, t.fctx.xw.find q = if q = r then some s.focus.seq else s.fctx.xw.find q

/-- `exec` answers a state in which the operation has issued, register `r` holds `v`, and nothing else has changed. -/
def WritesReg (i : Instr) (s : State) (r : Nat) (v : Word) : Prop :=
  ∃ t, exec i s = .next t ∧ t.last = .issued ∧ OneReg s t r v

/-- `exec` answers a state in which the operation has issued, the context of the focus is `k`, and nothing else has changed. -/
def CtxBecomes (i : Instr) (s : State) (k : Ctx) : Prop :=
  ∃ t, exec i s = .next t ∧ t.last = .issued ∧ OnlyCtx s t ∧ t.fctx = k

/-- `exec` answers a state in which the operation has issued, the core of the focus is `k`, and nothing else has changed. -/
def CoreBecomes (i : Instr) (s : State) (k : Core) : Prop :=
  ∃ t, exec i s = .next t ∧ t.last = .issued ∧ OnlyCore s t ∧ t.fcore = k

/-- The operation cannot issue yet: the state stays as it is but for the model's mark. -/
def Waits (i : Instr) (s : State) : Prop := exec i s = .next { s with last := .waits }

/-- The operation takes the context-path fault `code` (R208) at the focus, with FADDR and detail of FINFO. -/
def Traps (i : Instr) (s : State) (code : Nat) (faddr : Word) (info : Nat) : Prop :=
  exec i s = .next { s.faultHere code faddr info with last := .trapped }

/-- A bundle with the word `w` in slot `k` never dispatches: the word is no operation of that slot, and ILLOP reports the bundle's lowest
wrong slot (R283). -/
def Rejected (k : Nat) (w : SlotWord) : Prop :=
  (∃ e, decodeSlot k w = .error e) ∧
  ∀ (t : Ctx) (b : BundleWord) (y z : Bool), slotWord b k = w → ∃ n, n ≤ k ∧ decodeBundle t b y z = .error n

/-- A control transfer may stand at the bundle of the focus (R67, R73): it is no delay slot, and not one of the last three bundles of
the top loop entry's body. -/
def MayTransfer (s : State) : Prop :=
  s.fctx.delay = none ∧
  ∀ e r, s.fctx.loops = e :: r →
    ¬ (e.start.toNat ≤ s.focus.addr.toNat ∧ e.stop.toNat ≤ s.focus.addr.toNat + 32 ∧ s.focus.addr.toNat ≤ e.stop.toNat)

/-- The bundle after the two delay slots of a transfer is the one at `p` (R66); `late` tells that fetch went the other way (R68). -/
def sentTo (t : Ctx) (p : Word) (late : Bool) : Ctx :=
  { t with delay := some { left := 2, target := some p, eret := false, late := late } }

/-- Two delay slots follow, and the transfer is not taken (R66). -/
def notSent (t : Ctx) (late : Bool) : Ctx :=
  { t with delay := some { left := 2, target := none, eret := false, late := late } }

/-- Every V, M and L operation of earlier bundles has issued, so that a realigning bundle may issue (R58). -/
def MayRealign (s : State) : Prop := s.fctx.vq = [] ∧ s.fctx.mq = [] ∧ s.fctx.lq = []

/-- The context of the focus with the pending writes of earlier bundles released and, as far as their values are there, committed
(R60). -/
def realigned (s : State) : Ctx := s.fctx.realign s.focus.seq s.fcore.clock

/-- Whatever `s` and `t` differ in is the physical vector register `d` of the core of the focus, the producer-table entries of that
register, the flags that the operation of the focus raises, and the model's note of the bytes that it covers. -/
structure OnlyVreg (s t : State) (d : Nat) : Prop where
  core : OnlyCore (s.covers t.focus.cover) t
  own : t.fcore = { s.fcore with vregs := t.fcore.vregs, ctxs := t.fcore.ctxs }
  others : ∀ p, p ≠ d → t.fcore.vreg p = s.fcore.vreg p
  mine : t.fctx = { s.fctx with prods := t.fctx.prods, flags := t.fctx.flags }
  rest : ∀ x, x ≠ s.focus.ctx → t.ctx s.focus.core x = { s.ctx s.focus.core x with prods := (t.ctx s.focus.core x).prods }

/-- The flags `f` are on their way to FPCSR, to reach it `lat` cycles after this one (R87); no flags, no entry. -/
def FlagsRaised (s t : State) (lat : Nat) (f : BitVec 6) : Prop :=
  t.fctx.flags = if f = 0 then s.fctx.flags else s.fctx.flags ++ [(s.fcore.clock + lat, f)]

/-- The operation issues and writes the elements of `w` bytes of physical vector register `d`: element j < n that the mask enables
becomes the result `f j`, every other element keeps the bits that the context reads there (R181, R408, R409); the flags of the enabled results, and no others, are
raised (R87); nothing else changes. -/
def LanesBecome (i : Instr) (s : State) (d w n lat : Nat) (f : Nat → FRes) : Prop :=
  ∃ u fl, exec i s = .next u ∧ u.last = .issued ∧ OnlyVreg s u d ∧ FlagsRaised s u lat fl ∧
    (∀ j, j < 4096 / w → vElem (u.fcore.vreg d) w j =
      if j < n ∧ s.mask.getLsbD (j * w) = true then (f j).bits % 2 ^ (8 * w) else vElem (s.vreg d) w j) ∧
    ∀ b, b < 6 → (fl.getLsbD b = true ↔ ∃ j, j < n ∧ s.mask.getLsbD (j * w) = true ∧ (f j).fl.getLsbD b = true)

/-- The operation issues and physical vector register `d` holds `v`; nothing else changes but the flags it raises. -/
def VregBecomes (i : Instr) (s : State) (d : Nat) (v : VReg) : Prop :=
  ∃ u, exec i s = .next u ∧ u.last = .issued ∧ OnlyVreg s u d ∧ u.fcore.vreg d = v

/-- A beat that stands in an open span of its context, which is not ganged and not recorded (R159, R172, R235). -/
def InPlainSpan (s : State) : Prop :=
  s.fctx.mdiscard = false ∧ ∃ sp, s.fctx.span = some sp ∧ sp.gang = none ∧ sp.record = none

/-- The focus leads the open span of gang `g`, whose members are in the order of their sett indices (R170, R172). -/
def LeadsGang (s : State) (g : Gang) : Prop :=
  s.fctx.mdiscard = false ∧ (∃ sp, s.fctx.span = some sp ∧ sp.gang = some g ∧ sp.record = none) ∧
  g.leadCore = s.focus.core ∧ g.leadCtx = s.focus.ctx ∧ (s.focus.core, s.focus.ctx) ∈ g.members ∧
  (g.members.map (fun m => settIdx m.1)).Pairwise (· < ·)

/-- The beat `ins` of the leader has nothing to wait for in any member (R172). -/
def AllReady (s : State) (g : Gang) (ins : Instr) : Prop :=
  ∀ m ∈ g.members, m = (s.focus.core, s.focus.ctx) ∨ s.memberReady ins m.1 m.2 = true

/-- A beat that needs no span, outside ganged and recorded ones (R164, R165). -/
def NoGang (s : State) : Prop :=
  s.fctx.mdiscard = false ∧ ∀ sp, s.fctx.span = some sp → sp.gang = none ∧ sp.record = none

/-- Ring `q` of the core of the focus has a row of `n` bytes at its cursor, and the row's bytes have no error: a slot has landed
there and its rows are present, and the row lies in no retired layer (R122, R123, R157, R158). -/
def RowThere (s : State) (q n : Nat) (r : Ring) (i : RingInst) : Prop :=
  s.fcore.rings.find q = some r ∧ s.inst (settOf s.focus.core) r.inst = some i ∧ r.roff % n = 0 ∧ r.cursor ≠ i.tail ∧
  (∀ e ∈ r.present, e.1 = r.cursor → e.2 ≤ s.fcore.clock) ∧
  s.lostAt (i.slotAddr r.cursor + r.roff) = false ∧
  s.poisonFor s.focus.core r.ctx s.nextOut (i.slotAddr r.cursor + r.roff) n = false ∧
  s.softAt (i.slotAddr r.cursor + r.roff) n = false ∧ bit (s.owl (towerOf s.focus.core)).errctl 0 = false

/-- The row at the cursor as the context that configured the ring reads it (R157, R177). -/
def rowOf (s : State) (r : Ring) (i : RingInst) (n : Nat) : Nat :=
  s.readFor s.focus.core r.ctx s.nextOut (i.slotAddr r.cursor + r.roff) n

/-- MGANG of the context `lead` and the FOLLOWs that wait for it issue together, `own` issuing (R170): the leader, `own` and the contexts
whose FOLLOWs the gang word asks for are the members, in the order of their cores. In each of them the span opens with the leader's shape and the
array is its context's; every member's operation but `own`'s leaves its queue here; mx of the leader counts the span. -/
def GangOpens (i : Instr) (s : State) (lead own : Nat × Nat) (shape gw : Word) : Prop :=
  ∃ t g, exec i s = .next t ∧ t.last = .issued ∧
    g.leadCore = lead.1 ∧ g.leadCtx = lead.2 ∧ g.baren = bit gw 32 ∧ g.baroff = bits gw 31 16 ∧ g.soft = [] ∧
    (g.members.map (fun m => settIdx m.1)).Pairwise (· < ·) ∧
    (∀ m, m ∈ g.members ↔ m = lead ∨ m = own ∨
      (m.1 ≠ own.1 ∧ ∃ j o, j < 16 ∧ bit gw j = true ∧ m.1 = 16 * settOf lead.1 + j ∧
        s.readyFollow lead.1 (s.ctx lead.1 lead.2).task m.1 = some (m.2, o))) ∧
    ∀ m ∈ g.members,
      let k := s.ctx m.1 m.2
      let u := t.ctx m.1 m.2
      (∃ sp, u.span = some sp ∧ sp.shape = shape ∧ sp.gang = some g ∧ sp.beat = 0 ∧ sp.record = none ∧
        (m = own → sp.addr = s.focus.addr ∧ sp.seq = s.focus.seq)) ∧
      u.mdiscard = false ∧ (t.core m.1).arr.owner = some m.2 ∧
      u.mq = (if m = own then k.mq else k.mq.drop 1) ∧ u.mx = (if m = lead then k.mx + 1 else k.mx)

/-- Whatever `s` and `t` differ in lies in the core of the focus and in the count of outstanding accesses. -/
def OnlyBut (s t : State) : Prop :=
  t = { s with cores := t.cores, nextOut := t.nextOut, last := t.last } ∧ ∀ c, c ≠ s.focus.core → t.core c = s.core c

/-- Every part of a log write of `n` bytes from address `a` passes its checks (R233): 64 bytes a part, the last one what is left. -/
def LogTakes (s : State) (a n : Nat) : Prop :=
  ∀ j, 64 * j < n → ∃ k, logCheck s s.fctx (a + 64 * j) (min 64 (n - 64 * j)) = .ok k

/-- The first part of such a log write that fails its checks fails with code and detail `e`. -/
def LogFails (s : State) (a n : Nat) (e : Nat × Nat) : Prop :=
  ∃ j, 64 * j < n ∧ LogTakes s a (64 * j) ∧ logCheck s s.fctx (a + 64 * j) (min 64 (n - 64 * j)) = .error e

/-- `o` is the access, with number `id`, by which operation `i` writes the bytes `bs` to the log from address `a` (R233): a part for every
64 bytes, each where its translation puts it. -/
structure LogOut (s : State) (i : Instr) (id a : Nat) (bs : List Byte) (o : Out) : Prop where
  own : o.id = id ∧ o.ctx = s.focus.ctx ∧ o.kind = .log ∧ o.op = s.focusOp i ∧ o.vals = []
  all : o.parts.length = (bs.length + 63) / 64
  parts : ∀ j p, o.parts[j]? = some p → ∃ k, logCheck s s.fctx (a + 64 * j) (min 64 (bs.length - 64 * j)) = .ok k ∧
    p = OutPart.new (piecesOf k.items 0 (natOfBytes ((bs.drop (64 * j)).take 64))) [] (s.fctx.logPtr (a + 64 * j))

/-- Operation `i` of `s` issues with answer `u`, writes the bytes `bs` from address `a` to the log and nothing else to any memory. -/
def Logs (s u : State) (i : Instr) (a : Nat) (bs : List Byte) : Prop :=
  exec i s = .next u ∧ u.last = .issued ∧ OnlyBut s u ∧ ∃ o, LogOut s i s.nextOut a bs o ∧ u.fcore.outs = s.fcore.outs ++ [o]

/-- Whatever `s` and `t` differ in is memory with its error marks. -/
def OnlyMem (s t : State) : Prop := t = { s with mem := t.mem, poison := t.poison, soft := t.soft, last := t.last }

/-- Whatever `s` and `t` differ in is memory and the context of the focus. -/
structure OnlyMemCtx (s t : State) : Prop where
  module : t = { s with mem := t.mem, cores := t.cores, last := t.last }
  cores : ∀ c, c ≠ s.focus.core → t.core c = s.core c
  own : t.fcore = { s.fcore with ctxs := t.fcore.ctxs }
  others : ∀ x, x ≠ s.focus.ctx → t.ctx s.focus.core x = s.ctx s.focus.core x

/-- The bytes `[pa, pa + n)` hold the little-endian number `v` (R1). -/
def Holds (s : State) (pa n v : Nat) : Prop := ∀ k, k < n → s.byte (pa + k) = BitVec.ofNat 8 (v >>> (8 * k))

/-- The bytes `[pa, pa + n)` carry no error mark (R223). -/
def Sound (s : State) (pa n : Nat) : Prop := s.poisoned pa n = false ∧ s.softAt pa n = false

/-- No store stands in a buffer on its way home, so that every reader gets what memory holds (R177). -/
def Quiet (s : State) : Prop := ∀ e ∈ s.cores, e.2.outs = []

/-- An aperture pointer that stays in the pair store, to `n` bytes that no watermark register of the core holds back (R93, R121). -/
def ApReach (s : State) (p : Word) (n : Nat) : Prop := isAp p = true ∧ apBad p = false ∧ s.fcore.wmHeld (vaOf p) n = false

/-- `exec` answers a state in which the operation has issued, one access of `kind` with these parts is outstanding for it (R64, R179),
the context of the focus is `k`, and nothing else has changed: no byte of memory, no other context. -/
def Outstanding (i : Instr) (s : State) (kind : OutKind) (parts : List OutPart) (vals : List Nat) (k : Ctx) : Prop :=
  ∃ t, exec i s = .next t ∧ t.last = .issued ∧
    t = { s with cores := t.cores, nextOut := s.nextOut + 1, last := t.last } ∧
    (∀ c, c ≠ s.focus.core → t.core c = s.core c) ∧
    t.fcore = { s.fcore with
      ctxs := t.fcore.ctxs
      outs := s.fcore.outs ++ [{ id := s.nextOut, ctx := s.focus.ctx, kind := kind, op := s.focusOp i, parts := parts, vals := vals }] } ∧
    (∀ x, x ≠ s.focus.ctx → t.ctx s.focus.core x = s.ctx s.focus.core x) ∧ t.fctx = k

/-- The pending write of register code `r` that the operation of the focus makes (R60): its value, if it is there, and its time. -/
def pendOf (s : State) (r : Nat) (v : Option Word) (ready : Nat) : Pend :=
  { seq := s.focus.seq, slot := s.focus.slot, reg := r, val := v, ready := ready, released := false }

/-- A write of register code `r` with the value `v`, by an operation of latency `l`, stands among the context's pending writes, in
program order (R60, R76). -/
def pended (s : State) (t : Ctx) (r : Nat) (v : Word) (l : Nat) : Ctx :=
  { t with pend := insertPend (pendOf s r (some v) (s.fcore.clock + l)) t.pend }

/-- The same of a write whose value is still to return (R64). -/
def awaiting (s : State) (t : Ctx) (r : Nat) : Ctx := { t with pend := insertPend (pendOf s r none 0) t.pend }

/-- Every unit that an event names is there: towers, cores and contexts (R15, R16, R31), layers and their spare banks (R18), the engines of
each kind, edge dies and their ports (R22), the words of NQ (R272), the slots of a bundle. Operations of a slot name no unit. -/
def namesUnits (i : Instr) : Bool :=
  let core (c : Nat) : Bool := decide (c < numCores)
  let ctx (x : Nat) : Bool := decide (x < numCtxs)
  let tower (t : Nat) : Bool := decide (t < numTowers)
  let layer (n : Nat) : Bool := decide (1 ≤ n) && decide (n ≤ 4)
  match i with
  | .loadValueReturn c _ => core c
  | .storePerform c _ => core c
  | .rowEmerge c => core c
  | .spanRetire c => core c
  | .deferredFault c x => core c && ctx x
  | .contextFree c x => core c && ctx x
  | .egressAnswer c x => core c && ctx x
  | .reverseRecord c x => core c && ctx x
  | .copyStart e => decide (e < numCopyEngines)
  | .copyRow (e, _) => decide (e < numCopyEngines)
  | .copyComplete e => decide (e < numCopyEngines)
  | .hareJobStart h => decide (h < 4)
  | .hareBlock (h, _) => decide (h < 4)
  | .hareJobEnd h => decide (h < 4)
  | .badgerStart b => decide (b < numBadgers)
  | .badgerComplete b => decide (b.1 < numBadgers)
  | .npostSendComplete q => decide (q < numSendQueues)
  | .netPacketReceive q _ _ _ => decide (q.1 < numSendQueues)
  | .netSendAbandon q _ => decide (q < numSendQueues)
  | .sendQueueStart (q, _, p, _) => decide (q < numSendQueues) && decide (p < 12)
  | .nqBind q w _ => decide (q < numSendQueues) && decide (w < 2)
  | .egqRun d => decide (d.1 < 2)
  | .egressRecordOut d => decide (d < 2)
  | .signalDecrement t => tower t
  | .deviceLaunchArrive t => tower t
  | .graphLaunch t => tower t
  | .taskPlace t => tower t
  | .contextBind t => tower t
  | .agingTick t => tower t
  | .graphTeardown t _ => tower t
  | .faultQueueWrite t => tower t
  | .throttleWindow t _ => tower t
  | .timingModeApply t => tower t
  | .bankFailing t (n, b) => tower t && layer n && decide (b < 32 * spareBanks n)
  | .failingTsvLane t n => tower t && layer n
  | .recoveryDelayExpire (t, n) _ => tower t && layer n
  | .recoveryPoint t n => tower t && layer n
  | .owlStop t => tower t
  | .owlResume t => tower t
  | .owlStep t => tower t
  | .owlSettle t => tower t
  | .owlSettleDone t => tower t
  | .owlRdreg t => tower t
  | .owlWrreg t => tower t
  | .owlFlush t => tower t
  | .owlTagdump t => tower t
  | .owlBadCommand t => tower t
  | .errorInjectArm t _ => tower t
  | .traceSample t => tower t
  | .bridgeReplay t _ => tower t
  | .encodingFault k => decide (k < 4)
  | _ => true

/-- An event answers the state `t`. -/
def Happens (i : Instr) (s t : State) : Prop := exec i s = .next { t with last := .issued }

/-- An event whose condition does not hold changes nothing but the model's mark. -/
def NotNow (i : Instr) (s : State) : Prop := exec i s = .next { s with last := .waits }

/-- The operation issues, or the event happens; tower `k` becomes `w`, and nothing else changes. -/
def TowerBecomes (i : Instr) (s : State) (k : Nat) (w : Tower) : Prop :=
  ∃ t, exec i s = .next t ∧ t.last = .issued ∧ t = { s with towers := t.towers, last := t.last } ∧
    t.tower k = w ∧ ∀ j, j ≠ k → t.tower j = s.tower j

/-- The same of the dispatcher of tower `k`. -/
def MartenBecomes (i : Instr) (s : State) (k : Nat) (m : Marten) : Prop := TowerBecomes i s k { s.tower k with marten := m }

/-- The same of the egress queue of edge die `d`. -/
def EgressBecomes (i : Instr) (s : State) (d : Nat) (g : Egress) : Prop :=
  ∃ t, exec i s = .next t ∧ t.last = .issued ∧ t = { s with egress := t.egress, last := t.last } ∧
    t.egr d = g ∧ ∀ j, j ≠ d → t.egr j = s.egr j

/-- The words from `pa` hold `ws`. -/
def HoldsWords (s : State) (pa : Nat) (ws : List Word) : Prop := ∀ j, j < ws.length → s.word (pa + 8 * j) = nth ws j

/-- The event happens in one context: context `x` of core `c` becomes `k`, and nothing else changes. -/
def ContextBecomes (i : Instr) (s : State) (c x : Nat) (k : Ctx) : Prop :=
  ∃ t, exec i s = .next t ∧ t.last = .issued ∧ t = { s with cores := t.cores, last := t.last } ∧
    (∀ d, d ≠ c → t.core d = s.core d) ∧ t.core c = { s.core c with ctxs := (t.core c).ctxs } ∧
    (∀ y, y ≠ x → t.ctx c y = s.ctx c y) ∧ t.ctx c x = k

/-- A context that has issued an engine command with produced token `pt` (R61, R62, R64): cp counts it, the token, unless it is d0, is
incomplete, in a new generation. -/
def commanded (t : Ctx) (pt : BitVec 5) : Ctx :=
  if pt = 0 then { t with cp := t.cp + 1 }
  else { t with cp := t.cp + 1, tokens := t.tokens ||| (1#32 <<< pt.toNat), gens := t.gens.set pt.toNat (t.gens.get pt.toNat 0 + 1) }

/-- An engine command may issue (R61, R64): its produced token is complete, and cp is below its limit. -/
def MayCommand (s : State) (pt : BitVec 5) : Prop := (pt = 0 ∨ s.fctx.tokens.getLsbD pt.toNat = false) ∧ s.fctx.cp < 255

/-- The control block of an engine command can be read: an aligned aperture pointer to 64 bytes without error marks (R107, R223). It is
captured at its home (R190), so no buffered store matters. -/
def BlockThere (s : State) (r : BitVec 6) : Prop :=
  let p := s.opnd (areg r.toNat)
  isAp p = true ∧ apBad p = false ∧ p.toNat % 64 = 0 ∧
  s.poisonNow (apAddr s.focus.core (apOff p)) 64 = false ∧
  s.softAt (apAddr s.focus.core (apOff p)) 64 = false

/-- The command as captured at issue. -/
def captured (s : State) (kind : CmdKind) (pt a b c : BitVec 5) (r : BitVec 6) : Cmd :=
  s.newCmd kind pt [a, b, c] (s.wordsNow (apAddr s.focus.core (apOff (s.opnd (areg r.toNat)))) 8)

/-- The engine command issues: the context is `commanded`, and `put` gives the command to its queue; nothing else changes. -/
def Commands (i : Instr) (s : State) (pt : BitVec 5) (put : State → State) : Prop :=
  exec i s = .next { put (({ s with nextCmd := s.nextCmd + 1 } : State).modF (fun t => commanded t pt)) with last := .issued }

/-- A command of core `c`, context `x` has completed between `s` and `t` (R61, R64): its token is complete, and cp is one lower, unless a
barrier has completed the token before (R119). -/
def Completed (s t : State) (k : Cmd) : Prop :=
  (t.ctx k.core k.ctx).cp =
    (if k.tok = 0 ∨ (s.ctx k.core k.ctx).tokens.getLsbD k.tok = true then (s.ctx k.core k.ctx).cp - 1 else (s.ctx k.core k.ctx).cp) ∧
  (t.ctx k.core k.ctx).tokens =
    (if k.tok = 0 then (s.ctx k.core k.ctx).tokens else (s.ctx k.core k.ctx).tokens &&& ~~~(1#32 <<< k.tok))

end Sys2Proof
end

