-- ==== Sys2Proof/Certificates/Slice0/Obligations.lean ====
section
/-! DEFINITION. The statements about the model, from the numbered rules of spec/. Each docstring names the rules. -/

open Sys2Proof Sys2Proof.Machine

/-! ## Scalar arithmetic (R307, R308, R314 to R316, R326, R341, R359, R360, R364, R370, R374, R380, R396, R397, R407, R446)

An operand of an X-slot operation is what the X view holds (`sOp`); a 12-bit immediate is sign-extended. Each operation issues,
writes its destination, and changes nothing else: no flag, no other register, no memory. -/

/-- ADD, SUB, MUL, AND, OR and XOR, in both forms, for every operand (R307, R407, R374, R308, R380, R446); SHL, SHR and SRA (R397), the
amount the low six bits of the second operand, or an immediate of 0 to 63; MULH, DIV and REM (R374, R341), in both forms: the
high half of the exact 128-bit product; the quotient truncated toward zero, all ones for a divisor of zero, and the wrapped one
for the most negative number by minus one; the remainder with the dividend's sign, the dividend itself for a divisor of zero. -/
def Obligations.IntegerArithmetic : Prop :=
  (∀ (s : State) (d a b : BitVec 6) (v : BitVec 12),
    WritesReg (.addReg d a b) s d.toNat (s.sOp a + s.sOp b) ∧
    WritesReg (.addImm d a v) s d.toNat (s.sOp a + v.signExtend 64) ∧
    WritesReg (.subReg d a b) s d.toNat (s.sOp a - s.sOp b) ∧
    WritesReg (.subImm d a v) s d.toNat (s.sOp a - v.signExtend 64) ∧
    WritesReg (.mulReg d a b) s d.toNat (s.sOp a * s.sOp b) ∧
    WritesReg (.mulImm d a v) s d.toNat (s.sOp a * v.signExtend 64) ∧
    WritesReg (.andReg d a b) s d.toNat (s.sOp a &&& s.sOp b) ∧
    WritesReg (.andImm d a v) s d.toNat (s.sOp a &&& v.signExtend 64) ∧
    WritesReg (.orReg d a b) s d.toNat (s.sOp a ||| s.sOp b) ∧
    WritesReg (.orImm d a v) s d.toNat (s.sOp a ||| v.signExtend 64) ∧
    WritesReg (.xorReg d a b) s d.toNat (s.sOp a ^^^ s.sOp b) ∧
    WritesReg (.xorImm d a v) s d.toNat (s.sOp a ^^^ v.signExtend 64)) ∧
  (∀ (s : State) (d a b : BitVec 6),
    WritesReg (.shlReg d a b) s d.toNat (s.sOp a <<< ((s.sOp b).toNat % 64)) ∧
    WritesReg (.shrReg d a b) s d.toNat (s.sOp a >>> ((s.sOp b).toNat % 64)) ∧
    WritesReg (.sraReg d a b) s d.toNat ((s.sOp a).sshiftRight ((s.sOp b).toNat % 64)) ∧
    ∀ v : BitVec 12, v.toNat < 64 →
      WritesReg (.shlImm d a v) s d.toNat (s.sOp a <<< v.toNat) ∧
      WritesReg (.shrImm d a v) s d.toNat (s.sOp a >>> v.toNat) ∧
      WritesReg (.sraImm d a v) s d.toNat ((s.sOp a).sshiftRight v.toNat)) ∧
  (∀ (s : State) (d a b : BitVec 6) (v : BitVec 12),
    let high (u : BitVec 1) (x y : Word) : Word :=
      if u = 1 then ((x.setWidth 128 * y.setWidth 128) >>> 64).setWidth 64
      else ((x.signExtend 128 * y.signExtend 128) >>> 64).setWidth 64
    let quot (u : BitVec 1) (x y : Word) : Word := if y = 0 then BitVec.allOnes 64 else if u = 1 then x / y else x.sdiv y
    let rem (u : BitVec 1) (x y : Word) : Word := if y = 0 then x else if u = 1 then x % y else x.srem y
    ∀ u : BitVec 1,
      WritesReg (.mulhReg d a u b) s d.toNat (high u (s.sOp a) (s.sOp b)) ∧
      WritesReg (.mulhImm d a u v) s d.toNat (high u (s.sOp a) (v.signExtend 64)) ∧
      WritesReg (.divReg d a u b) s d.toNat (quot u (s.sOp a) (s.sOp b)) ∧
      WritesReg (.divImm d a u v) s d.toNat (quot u (s.sOp a) (v.signExtend 64)) ∧
      WritesReg (.remReg d a u b) s d.toNat (rem u (s.sOp a) (s.sOp b)) ∧
      WritesReg (.remImm d a u v) s d.toNat (rem u (s.sOp a) (v.signExtend 64)))

/-- MIN, MAX, CMP and SEL (R364, R326, R327, R396): signed or, with U, unsigned order; the six conditions of CMP give 1 or 0; SEL takes
its first source when the third is not zero. No result comes late: the latency of CMP and SEL is 1. The encodings of CMP and SEL, with what raises
ILLOP in them, are those of R326 and R396. -/
def Obligations.ComparisonsAndSelection : Prop :=
  ∀ (s : State) (d a b c : BitVec 6) (v : BitVec 12) (w : BitVec 10),
    let less (u : BitVec 1) (x y : Word) : Bool := if u = 1 then x.ult y else x.slt y
    let holds (k : BitVec 3) (x y : Word) : Bool :=
      if k = 0 then x == y else if k = 1 then x != y else if k = 2 then x.slt y else if k = 3 then y.sle x
      else if k = 4 then x.ult y else y.ule x
    (∀ u : BitVec 1,
      WritesReg (.minReg d a u b) s d.toNat (if less u (s.sOp b) (s.sOp a) then s.sOp b else s.sOp a) ∧
      WritesReg (.minImm d a u v) s d.toNat (if less u (v.signExtend 64) (s.sOp a) then v.signExtend 64 else s.sOp a) ∧
      WritesReg (.maxReg d a u b) s d.toNat (if less u (s.sOp a) (s.sOp b) then s.sOp b else s.sOp a) ∧
      WritesReg (.maxImm d a u v) s d.toNat (if less u (s.sOp a) (v.signExtend 64) then v.signExtend 64 else s.sOp a)) ∧
    (∀ k : BitVec 3, k.toNat ≤ 5 →
      WritesReg (.cmpReg d a k b) s d.toNat (if holds k (s.sOp a) (s.sOp b) then 1 else 0) ∧
      WritesReg (.cmpImm d a k w) s d.toNat (if holds k (s.sOp a) (w.signExtend 64) then 1 else 0)) ∧
    WritesReg (.sel d a b c) s d.toNat (if s.sOp c = 0 then s.sOp b else s.sOp a) ∧
    (∀ k : BitVec 3, lateX (.cmpReg d a k b) = none ∧ lateX (.cmpImm d a k w) = none ∧ lateX (.sel d a b c) = none) ∧
    ∀ word : SlotWord,
      let f (lo n : Nat) : BitVec n := word.extractLsb' lo n
      (f 26 6 = 0b001111#6 →
        (5 < (f 10 3).toNat ∨ (f 13 1 = 0 ∧ f 0 4 ≠ 0) → Rejected 0 word) ∧
        ((f 10 3).toNat ≤ 5 → f 13 1 = 0 → f 0 4 = 0 → decodeSlot 0 word = .ok (.cmpReg (f 20 6) (f 14 6) (f 10 3) (f 4 6))) ∧
        ((f 10 3).toNat ≤ 5 → f 13 1 = 1 → decodeSlot 0 word = .ok (.cmpImm (f 20 6) (f 14 6) (f 10 3) (f 0 10)))) ∧
      (f 26 6 = 0b010000#6 →
        (f 0 2 ≠ 0 → Rejected 0 word) ∧ (f 0 2 = 0 → decodeSlot 0 word = .ok (.sel (f 20 6) (f 14 6) (f 8 6) (f 2 6)))) ∧
      decodeSlot 0 0x3C20F064#32 = .ok (.cmpImm 2 3 4 100) ∧ decodeSlot 0 0x40108310#32 = .ok (.sel 1 2 3 4)

/-- LI, LIH, MOV, BITC, BFX and BFI bit by bit, by their tables (R359, R360, R370, R316, R315). A code below 80 names a scalar (0 to 63) or an
address register (64 to 79). BITC's count of leading or trailing zeros is the position of the first one bit, 64 when there is
none. -/
def Obligations.MovesAndBitFields : Prop :=
  ∀ (s : State) (d a p l : BitVec 6) (e r : BitVec 7),
    (∀ v : BitVec 19, e.toNat < 80 → WritesReg (.li e v) s e.toNat (v.signExtend 64)) ∧
    (∀ (h : BitVec 2) (v : BitVec 16), e.toNat < 80 →
      ∃ w, WritesReg (.lih e h v) s e.toNat w ∧
        ∀ k, k < 64 → w.getLsbD k = if k / 16 = h.toNat then v.getLsbD (k % 16) else (s.opnd e.toNat).getLsbD k) ∧
    (e.toNat < 80 → r.toNat < 80 → WritesReg (.mov e r) s e.toNat (s.opnd r.toNat)) ∧
    (∃ w n, WritesReg (.bitc d a 0) s d.toNat w ∧ w = BitVec.ofNat 64 n ∧ n ≤ 64 ∧
      (∀ k, k < n → (s.sOp a).getLsbD (63 - k) = false) ∧ (n < 64 → (s.sOp a).getLsbD (63 - n) = true)) ∧
    (∃ w n, WritesReg (.bitc d a 1) s d.toNat w ∧ w = BitVec.ofNat 64 n ∧ n ≤ 64 ∧
      (∀ k, k < n → (s.sOp a).getLsbD k = false) ∧ (n < 64 → (s.sOp a).getLsbD n = true)) ∧
    WritesReg (.bitc d a 2) s d.toNat (BitVec.ofNat 64 ((List.range 64).countP (fun k => (s.sOp a).getLsbD k))) ∧
    (∀ x : BitVec 1, p.toNat + l.toNat < 64 →
      ∃ w, WritesReg (.bfx d a p l x) s d.toNat w ∧
        ∀ k, k < 64 → w.getLsbD k =
          if k ≤ l.toNat then (s.sOp a).getLsbD (p.toNat + k) else x = 1 && (s.sOp a).getLsbD (p.toNat + l.toNat)) ∧
    (p.toNat + l.toNat < 64 →
      ∃ w, WritesReg (.bfi d a p l) s d.toNat w ∧
        ∀ k, k < 64 → w.getLsbD k =
          if p.toNat ≤ k ∧ k ≤ p.toNat + l.toNat then (s.sOp a).getLsbD (k - p.toNat) else (s.sOp d).getLsbD k)

/-! ## Control (R34, R43, R52, R58 to R75, R187, R188, R213, R214, R318 to R325, R334 to R336, R346, R351, R362, R388, R398, R420, R441) -/

/-- The all-zero slot word (R284, R369): it is NOP in slots 0, 1 and 3 and MNOP in slot 2, which issue and change nothing, array, spans
and gangs among it; in slot 1, 2 or 3 it enters no queue. A word with opcode 0 and any other bit set is no operation: the bundle does not
dispatch, and ILLOP reports the slot (R283). FADDR 0 there is the model's choice (notes/assumptions/10.md), and so is that a header counts as no
operation in DONE (notes/assumptions/11.md). -/
def Obligations.NothingHappens : Prop :=
  (∀ k, k < 4 → decodeSlot k 0 = .ok (if k = 2 then .mnop else .nop)) ∧
  (∀ s : State, CtxBecomes .nop s s.fctx ∧ CtxBecomes .mnop s s.fctx) ∧
  (∀ (t : Ctx) (now seq : Nat) (addr : Word) (b : Bundle) (y z : Bool), ∀ o ∈ t.captureAll now seq addr b y z,
    o.slot = 1 ∧ b.v ≠ .nop ∨ o.slot = 2 ∧ b.m ≠ .mnop ∨ o.slot = 3 ∧ b.l ≠ .nop) ∧
  (∀ (k : Nat) (w : SlotWord), k < 4 → w.extractLsb' 26 6 = 0 → w ≠ 0 → Rejected k w) ∧
  ∀ (s : State) (n : Nat), n < 4 →
    exec (.encodingFault n) s = .next { s.takeFault s.focus.core s.focus.ctx n s.focus.seq s.focus.addr cILLOP 0 0 false
      (~~~s.focus.present) s.focus.step with last := .trapped }

/-- BR, JMP, CALL and RET where a transfer may stand (R66, R318, R353, R324, R388): two delay slots follow, and after them the
target, or the next bundle when BR's condition fails; the bundle after them comes late where fetch went the other way: a BR whose hint
is wrong (R68), a target in a register (R69). CALL writes the address of the third bundle after it to s63 and reads its target before. A
transfer in a delay slot raises DELAYBR, one in the last three bundles of the top loop body LOOPTAIL, in the X slot (R67, R73); LOOP and, in
handler state, ERET are transfers too. That FADDR is 0 for both is the model's choice (notes/assumptions/10.md). -/
def Obligations.Transfers : Prop :=
  (∀ (s : State) (a : BitVec 6) (v : BitVec 16) (w : BitVec 25) (h : BitVec 1),
    let near : Word := s.focus.addr + 16 * v.signExtend 64
    let far : Word := s.focus.addr + 16 * w.signExtend 64
    let linked : Ctx := { s.fctx with
      regs := s.fctx.regs.set 63 (s.focus.addr + 48)
      xw := s.fctx.xw.set 63 s.focus.seq
      late := s.fctx.late.filter (fun e => e.1 ≠ 63) }
    let x := s.sOp a
    MayTransfer s →
    (∀ (c : BitVec 3) (taken : Bool),
      (c = 0 ∧ taken = (x == 0)) ∨ (c = 1 ∧ taken = (x != 0)) ∨ (c = 2 ∧ taken = x.slt 0) ∨ (c = 3 ∧ taken = !(x.slt 0)) ∨
        (c = 4 ∧ taken = (0#64).slt x) ∨ (c = 5 ∧ taken = !((0#64).slt x)) ∨ (c = 6 ∧ taken = true) →
      CtxBecomes (.br a c h v) s (if taken then sentTo s.fctx near (decide (h = 0)) else notSent s.fctx (decide (h = 1)))) ∧
    CtxBecomes (.jmpRel w) s (sentTo s.fctx far false) ∧
    CtxBecomes (.jmpReg a) s (sentTo s.fctx x true) ∧
    CtxBecomes (.callRel w) s (sentTo linked far false) ∧
    CtxBecomes (.callReg a) s (sentTo linked x true) ∧
    CtxBecomes (.ret a) s (sentTo s.fctx x true)) ∧
  (∀ (s : State) (a : BitVec 6) (c : BitVec 3) (h : BitVec 1) (v : BitVec 16) (w : BitVec 25) (n : BitVec 13) (e : BitVec 12),
    let all (code : Nat) : Prop :=
      Traps (.br a c h v) s code 0 0 ∧ Traps (.jmpRel w) s code 0 0 ∧ Traps (.jmpReg a) s code 0 0 ∧
      Traps (.callRel w) s code 0 0 ∧ Traps (.callReg a) s code 0 0 ∧ Traps (.ret a) s code 0 0 ∧
      Traps (.loopImm n e) s code 0 0 ∧ (s.fctx.handler.isSome → Traps .eret s code 0 0) ∧
      ((s.sOp a).toNat < 2 ^ 32 → Traps (.loopReg a e) s code 0 0) ∧ (MayRealign s → Traps (.brkm v) s code 0 0)
    (s.fctx.delay.isSome → all cDELAYBR) ∧ (s.fctx.delay = none → ¬ MayTransfer s → all cLOOPTAIL))

/-- Where the bundle at `a`, dispatched in cycle `now`, leads (R66, R68, R71): on to the next bundle; the two delay slots of a transfer,
then its target, or the next bundle when it is not taken; after the end bundle of the top loop entry its start again while iterations are
left, with the count one lower, or on with the entry popped. That the top entry is tested after a delay slot too, and that its start gives
way to the transfer, is the model's reading (notes/assumptions/13.md). What fetch did not expect dispatches 6 cycles after `now`, 5 later than it would have: also the bundle after a loop of count 0
(R70). -/
def Obligations.DelaySlotsAndLoops : Prop :=
  ∀ (t : Ctx) (a p : Word) (now : Nat) (late : Bool) (r : List LoopEntry) (e : LoopEntry),
    let slots (n : Nat) (q : Option Word) : Delay := { left := n, target := q, eret := false, late := late }
    let back : Delay := { left := 1, target := none, eret := true, late := late }
    let again : Ctx := { t with loops := { e with count := e.count - 1 } :: r }
    let popped : Ctx := { t with loops := r }
    let from_ : Nat := if late then now + 6 else t.fetchAt
    (∀ q, t.delay = some (slots 2 q) → (t.loops = [] ∨ t.loops = e :: r ∧ e.stop ≠ a) →
      t.follow a none now = ({ t with pc := a + 16 }, false)) ∧
    (t.delay = some (slots 0 (some p)) → (t.loops = [] ∨ t.loops = e :: r ∧ e.stop ≠ a) →
      t.follow a none now = ({ t with pc := p, delay := none, fetchAt := from_ }, false)) ∧
    (t.delay = none →
      (t.loops = [] ∨ t.loops = e :: r ∧ e.stop ≠ a → t.follow a none now = ({ t with pc := a + 16 }, false)) ∧
      (t.loops = e :: r → e.stop = a → 1 < e.count.toNat → t.follow a none now = ({ again with pc := e.start }, false)) ∧
      (t.loops = e :: r → e.stop = a → e.count.toNat ≤ 1 → t.follow a none now = ({ popped with pc := a + 16 }, false))) ∧
    (∀ (u : Ctx) (on : Word),
      (t.loops = [] ∨ t.loops = e :: r ∧ e.stop ≠ a) ∧ u = t ∧ on = a + 16 ∨
        t.loops = e :: r ∧ e.stop = a ∧ 1 < e.count.toNat ∧ u = again ∧ on = e.start ∨
        t.loops = e :: r ∧ e.stop = a ∧ e.count.toNat ≤ 1 ∧ u = popped ∧ on = a + 16 →
      (∀ q, t.follow a (some (slots 2 q)) now = ({ u with pc := a + 16, delay := some (slots 1 q) }, false)) ∧
      t.follow a (some (slots 1 (some p))) now = ({ u with pc := p, delay := none, fetchAt := from_ }, true) ∧
      t.follow a (some (slots 1 none)) now = ({ u with pc := on, delay := none, fetchAt := from_ }, false) ∧
      t.follow a (some back) now = ({ u with pc := a + 16, delay := some { back with left := 0 } }, false))

/-- LOOP and BREAK (R70, R72, R362): a count of at least 1 pushes the entry, up to six; a count of 0 goes to the bundle after the end
bundle; a seventh push raises LOOPOVF; a count above 32 bits raises ILLOP. BREAK pops its count of entries, or raises
LOOPUNF. That FADDR is 0 is the model's choice (notes/assumptions/10.md). -/
def Obligations.LoopsAndBreaks : Prop :=
  ∀ (s : State) (a : BitVec 6) (n : BitVec 13) (e : BitVec 12) (b : BitVec 3),
    let stop : Word := s.focus.addr + 16 * e.setWidth 64
    let pushed (k : Word) : Ctx := { s.fctx with loops := { start := s.focus.addr + 16, stop := stop, count := k } :: s.fctx.loops }
    let past : Ctx := { s.fctx with delay := some { left := 0, target := some (stop + 16), eret := false, late := true } }
    let k := s.sOp a
    (MayTransfer s → n ≠ 0 → s.fctx.loopDepth < 6 → CtxBecomes (.loopImm n e) s (pushed (n.setWidth 64))) ∧
    (MayTransfer s → CtxBecomes (.loopImm 0 e) s past) ∧
    (MayTransfer s → n ≠ 0 → 6 ≤ s.fctx.loopDepth → Traps (.loopImm n e) s cLOOPOVF 0 0) ∧
    (MayTransfer s → k ≠ 0 → k.toNat < 2 ^ 32 → s.fctx.loopDepth < 6 → CtxBecomes (.loopReg a e) s (pushed k)) ∧
    (MayTransfer s → k = 0 → CtxBecomes (.loopReg a e) s past) ∧
    (MayTransfer s → k ≠ 0 → k.toNat < 2 ^ 32 → 6 ≤ s.fctx.loopDepth → Traps (.loopReg a e) s cLOOPOVF 0 0) ∧
    (2 ^ 32 ≤ k.toNat → Traps (.loopReg a e) s cILLOP 0 0) ∧
    (b.toNat ≤ s.fctx.loops.length → CtxBecomes (.breakOp b) s { s.fctx with loops := s.fctx.loops.drop b.toNat }) ∧
    (s.fctx.loops.length < b.toNat → Traps (.breakOp b) s cLOOPUNF 0 0)

/-- Realigning operations issue once every V, M and L operation of earlier bundles has (R58), and not before, and the pending writes of
earlier bundles commit (R60): a header with Sync or Wait enable and no incomplete token named (R59, R63), where one that names an
incomplete token gives the core up (R33); YIELD and END, which hold dispatch until every queue has issued (R34, R43), END with
an open span raising ILLOP in the context that opened it (R345), and waiting in a follower of its gang, which is the model's reading
(notes/assumptions/14.md); WAIT with every counter at or below its limit (R65); BRKM, late when it is taken (R75); FENCE (R187); DRAIN when the
context's earlier accesses are complete for the scope (R188). A header without Sync and Wait enable has no effect of its own (R52). END's FADDR
of 0 is the model's choice (notes/assumptions/10.md). -/
def Obligations.RealigningOperations : Prop :=
  (∀ (s : State) (v : BitVec 4) (m l : BitVec 5), CtxBecomes (.hdr 0 0 0 0 v m l) s s.fctx) ∧
  (∀ (s : State) (y w : BitVec 1) (m : BitVec 8) (g : BitVec 2) (v : BitVec 4) (b d : BitVec 5) (l t : BitVec 8) (c : BitVec 6)
      (x : BitVec 2) (i : BitVec 16) (p q : BitVec 6) (o : BitVec 3),
    let k := realigned s
    MayRealign s →
    (y = 1 ∨ w = 1 → (w = 1 → ∀ j, j < 8 → m.getLsbD j = true → s.fctx.tokens.getLsbD (8 * g.toNat + j) = false) →
      CtxBecomes (.hdr y w m g v b d) s k) ∧
    CtxBecomes .yield s { k with hold := .switching } ∧
    (s.fctx.span = none → CtxBecomes .endOp s { k with hold := .ending }) ∧
    ((l = 255 ∨ s.fctx.ld ≤ l.toNat) → (t = 255 ∨ s.fctx.st ≤ t.toNat) → (c = 63 ∨ s.fctx.cp ≤ c.toNat) →
      (x = 3 ∨ s.fctx.mx ≤ x.toNat) → CtxBecomes (.wait l t c x) s k) ∧
    (MayTransfer s → s.fctx.masks ≠ [] → s.fctx.top = 0 →
      CtxBecomes (.brkm i) s (sentTo k (s.focus.addr + 16 * i.signExtend 64) true)) ∧
    (MayTransfer s → s.fctx.masks = [] ∨ s.fctx.top ≠ 0 → CtxBecomes (.brkm i) s (notSent k false)) ∧
    (p = 0 ∨ q = 0 → CtxBecomes (.fence p q o) s k) ∧
    (p ≠ 0 → q ≠ 0 → CtxBecomes (.fence p q o) s
      { k with fences := s.fctx.fences ++ [{ seq := s.focus.seq, pred := p, succ := q, scope := o.toNat }] }) ∧
    (s.complete s.focus.core s.focus.ctx s.focus.seq 3 o.toNat = true → CtxBecomes (.drain o) s k)) ∧
  (∀ (s : State) (y w : BitVec 1) (m : BitVec 8) (g : BitVec 2) (v : BitVec 4) (b d : BitVec 5) (l t : BitVec 8) (c : BitVec 6)
      (x : BitVec 2) (i : BitVec 16) (p q : BitVec 6) (o : BitVec 3),
    (¬ MayRealign s →
      (y = 1 ∨ w = 1 → Waits (.hdr y w m g v b d) s) ∧ Waits .yield s ∧ Waits .endOp s ∧ Waits (.wait l t c x) s ∧
      Waits (.brkm i) s ∧ Waits (.fence p q o) s ∧ Waits (.drain o) s) ∧
    (MayRealign s → l ≠ 255 → l.toNat < s.fctx.ld → Waits (.wait l t c x) s) ∧
    (MayRealign s → t ≠ 255 → t.toNat < s.fctx.st → Waits (.wait l t c x) s) ∧
    (MayRealign s → c ≠ 63 → c.toNat < s.fctx.cp → Waits (.wait l t c x) s) ∧
    (MayRealign s → x ≠ 3 → x.toNat < s.fctx.mx → Waits (.wait l t c x) s) ∧
    (∀ sp, MayRealign s → s.fctx.span = some sp →
      ((∀ g, sp.gang = some g → g.leadCore = s.focus.core ∧ g.leadCtx = s.focus.ctx) → Traps .endOp s cILLOP 0 0) ∧
      ∀ g, sp.gang = some g → ¬ (g.leadCore = s.focus.core ∧ g.leadCtx = s.focus.ctx) → Waits .endOp s) ∧
    (MayRealign s → ∀ j, j < 8 → m.getLsbD j = true → s.fctx.tokens.getLsbD (8 * g.toNat + j) = true →
      exec (.hdr y 1 m g v b d) s = .next { s.giveUp s.focus.core s.focus.ctx with last := .waits }))

/-- TAKING A FAULT (R208 to R213, R215), for a context in no ganged span with no access outstanding and nothing held at dispatch:
FPC, FADDR and FINFO describe the operation, DONE the bundle's slots that are not in the window; every pending write commits, in program
order, one that a later X-slot write has overtaken to nowhere, and the flags of every issued operation are in FPCSR; rows in flight
emerge; an open span stays open, its array left to the handler. With a handler, and outside handler state, the context goes to HVEC with its window, next PC, transfer and both stacks set
aside, the operands that committed writes supply filled in; otherwise it stops with the window in its queues, and its record goes to the
tower's fault queue. -/
def Obligations.TakingAFault : Prop :=
  ∀ (s : State) (c x slot seq : Nat) (addr : Word) (code : Nat) (faddr : Word) (info : Nat) (win : Bool) (done : BitVec 4),
    let k := s.ctx c x
    let u := s.takeFault c x slot seq addr code faddr info win done false
    let t := u.ctx c x
    (∀ sp, k.span = some sp → sp.gang = none) → k.hold = .none → k.ended = false → (∀ o ∈ (s.core c).outs, o.ctx ≠ x) →
    t.csr.fpc = addr ∧ t.csr.faddr = faddr ∧ t.csr.finfo = BitVec.ofNat 64 (code + slot * 256 + info) ∧
    t.csr.done = (if win then k.doneOf seq else done) ∧
    t.csr.fpcsr = k.allFlags.csr.fpcsr ∧ t.flags = [] ∧ t.late = [] ∧
    ((∀ p ∈ k.pend, p.val ≠ none) → t.pend = [] ∧
      ∀ r, t.reg r =
        match (k.pend.filter (fun p => p.reg = r && !(p.overtaken k.xw))).getLast? with
        | some p => p.val.getD 0
        | none => k.reg r) ∧
    ((s.core c).arr.owner = some x →
      (u.core c).arr.inflight = [] ∧ (u.core c).arr.latch = (s.core c).arr.latch ++ (s.core c).arr.inflight) ∧
    (k.hvec ≠ 0 → k.handler = none →
      t.pc = k.hvec ∧ t.loops = [] ∧ t.masks = [] ∧ t.delay = none ∧ t.vq = [] ∧ t.mq = [] ∧ t.lq = [] ∧ t.stopped = k.stopped ∧
      ∃ h, t.handler = some h ∧ h.npc = k.pc ∧ h.loops = k.loops ∧ h.masks = k.masks ∧ h.delay = k.delay ∧ h.seq = k.seq ∧
        h.hold = .none ∧ h.mdiscard = k.mdiscard ∧
        ((∀ p ∈ k.pend, p.val ≠ none) →
          h.vq = supplyAll k.pend k.vq ∧ h.mq = supplyAll k.pend k.mq ∧ h.lq = supplyAll k.pend k.lq)) ∧
    (k.hvec = 0 ∨ k.handler.isSome →
      t.stopped = true ∧ t.stopReason = 1 ∧ t.pc = k.pc ∧ t.loops = k.loops ∧ t.masks = k.masks ∧ t.handler = k.handler ∧
      ((∀ p ∈ k.pend, p.val ≠ none) →
        t.vq = supplyAll k.pend k.vq ∧ t.mq = supplyAll k.pend k.mq ∧ t.lq = supplyAll k.pend k.lq) ∧
      ∃ r, (u.marten (towerOf c)).records = (s.marten (towerOf c)).records ++ [r] ∧
        r[0]? = some addr ∧ r[1]? = some k.pc ∧ r[2]? = some faddr)

/-- TRAP, run behind its bundle, takes the fault with code 0x3F in the X slot, FPC its bundle and FADDR its immediate (R420); DBGBRK
makes the debugger's precise stop (R339). -/
def Obligations.TrapsAndBreakpoints : Prop :=
  ∀ (s : State) (v : BitVec 16),
    (∀ sp, s.fctx.span = some sp → sp.gang = none) → s.fctx.hold = .none → s.fctx.ended = false →
    (∀ o ∈ s.fcore.outs, o.ctx ≠ s.focus.ctx) →
    (∃ t, exec (.trap v) s = .next t ∧ t.fctx.csr.fpc = s.focus.addr ∧ t.fctx.csr.faddr = v.setWidth 64 ∧
      t.fctx.csr.finfo = 0x3F) ∧
    (∃ t, exec .dbgbrk s = .next t ∧ t.fctx.stopped = true ∧ t.fctx.stopReason = 2 ∧ t.fctx.pc = s.fctx.pc ∧
      t.fctx.csr.fpc = s.fctx.csr.fpc ∧ t.fctx.csr.faddr = s.fctx.csr.faddr ∧ t.fctx.csr.finfo = s.fctx.csr.finfo)

/-- ERET in handler state is a transfer with two delay slots (R346); after them, once every queue has issued, what handler entry
set aside is back: the window, which goes before dispatch (R211), next PC, the transfer under way and both stacks (R214). Outside handler
state ERET raises ILLOP, with a FADDR of 0 that is the model's choice (notes/assumptions/10.md). -/
def Obligations.ReturnFromHandler : Prop :=
  ∀ s : State,
    (s.fctx.handler.isSome → MayTransfer s →
      CtxBecomes .eret s { s.fctx with delay := some { left := 2, target := none, eret := true, late := false } }) ∧
    (s.fctx.handler = none → Traps .eret s cILLOP 0 0) ∧
    (∀ (c x : Nat) (h : SetAside),
      (s.ctx c x).handler = some h → (s.ctx c x).delay = some { left := 0, target := none, eret := true, late := false } →
      (s.ctx c x).hold = .none → (s.ctx c x).fetchAt ≤ (s.core c).clock → (s.ctx c x).drained = true →
      ∃ t, dispatch s c x false = .next t ∧
        t.ctx c x = { s.ctx c x with
          handler := none, vq := h.vq, mq := h.mq, lq := h.lq, pc := h.npc, delay := h.delay, loops := h.loops, masks := h.masks,
          hold := h.hold, mdiscard := h.mdiscard, replay := h.seq })

/-- CSRR reads the context's control registers (R83 to R91, R229, R335): CTXID, the windows, CTXSTAT with the depths of both stacks, the flags
that have reached FPCSR, the log registers, the fault registers, PTBASE, MODES, the capacity and repair state of the tower's four layers, the
sett flags and the range entries; CSRW writes what is writable (R8): the absolute-access bits of VWB, the flags, the fields of LOGPTR, LOGLIM
and REVCUR, the write-one-to-clear bits of CTXSTAT and of the sett flags. CSRW of LOGPTR sets NSEG as well; while a recorded span is open, LOGPTR and
REVCUR stay as they are (R229); that REVCUR written 0 ends a walk (R243) at once, REV cleared by the write, is the model's reading
(notes/assumptions/50.md). A register that is wholly read-only stays as it is, without a fault. A number that is
not in the table raises ILLOP. The log registers and the status wait for the context's V and M operations (R336). The model's choices: FADDR is 0
for ILLOP (notes/assumptions/10.md), and a BANKS count above 255 shows modulo 256 (notes/assumptions/59.md). -/
def Obligations.ControlRegisters : Prop :=
  let flag (b : Bool) : Nat := if b then 1 else 0
  (∀ (s : State) (d : BitVec 6),
    let t := s.fctx
    let w := s.tower (towerOf s.focus.core)
    let field (n lo : Nat) : Nat := n * 2 ^ lo
    WritesReg (.csrr d 0) s d.toNat
      (BitVec.ofNat 64 (field (towerOf s.focus.core) 10 + field (coreIn s.focus.core) 3 + s.focus.ctx)) ∧
    WritesReg (.csrr d 1) s d.toNat
      (BitVec.ofNat 64 (field (flag t.csr.abss) 11 + field (flag t.csr.absd) 10 + t.csr.vwbBase.toNat)) ∧
    WritesReg (.csrr d 2) s d.toNat (BitVec.ofNat 64 (field t.csr.awbLen.toNat 14 + t.csr.awbBase.toNat)) ∧
    WritesReg (.csrr d 8) s d.toNat t.csr.fpc ∧ WritesReg (.csrr d 9) s d.toNat t.csr.finfo ∧
    WritesReg (.csrr d 10) s d.toNat t.csr.faddr ∧ WritesReg (.csrr d 11) s d.toNat t.csr.ptbase ∧
    WritesReg (.csrr d 4) s d.toNat ((t.flagsAt s.fcore.clock).setWidth 64) ∧
    (t.vq = [] → t.mq = [] →
      WritesReg (.csrr d 3) s d.toNat
        (BitVec.ofNat 64 (field t.loops.length 13 + field t.masks.length 8 + field (flag t.csr.resumed) 7 + field (flag t.csr.rev) 6 +
          field (flag t.csr.recording) 5 + field (flag t.csr.disc) 4 + t.csr.done.toNat)) ∧
      WritesReg (.csrr d 5) s d.toNat t.csr.logptr ∧ WritesReg (.csrr d 6) s d.toNat t.csr.loglim ∧
      WritesReg (.csrr d 7) s d.toNat t.csr.revcur) ∧
    (t.vq ≠ [] ∨ t.mq ≠ [] →
      Waits (.csrr d 3) s ∧ Waits (.csrr d 5) s ∧ Waits (.csrr d 6) s ∧ Waits (.csrr d 7) s) ∧
    WritesReg (.csrr d 0xC) s d.toNat
      (BitVec.ofNat 64 (field w.throt 8 +
        field (flag (w.layer 1).detect + 2 * flag (w.layer 2).detect + 4 * flag (w.layer 3).detect + 8 * flag (w.layer 4).detect) 4 +
        field w.plevel 2 + flag w.tmode)) ∧
    (∀ n : BitVec 2,
      let l := w.layer (n.toNat + 1)
      let size : Nat := if n = 0 then 524288 else if n = 1 then 1048576 else 2097152
      WritesReg (.csrr d (0x10 + n.setWidth 12)) s d.toNat
        (BitVec.ofNat 64 (if l.retired.isSome then 0 else if l.detect then size + size / 32 else size)) ∧
      WritesReg (.csrr d (0x14 + n.setWidth 12)) s d.toNat
        (BitVec.ofNat 64 (field (flag l.retired.isSome) 24 + field (l.lanes % 256) 16 + field (l.spares % 256) 8 + l.banks.length % 256))) ∧
    WritesReg (.csrr d 0x18) s d.toNat (s.sflags (settOf s.focus.core)) ∧
    (∀ n : BitVec 8, WritesReg (.csrr d (0x200 + n.setWidth 12)) s d.toNat (t.ranges.get n.toNat 0)) ∧
    (∀ n : BitVec 12, 0x300 ≤ n.toNat ∨ (0x19 ≤ n.toNat ∧ n.toNat < 0x200) ∨ (0xD ≤ n.toNat ∧ n.toNat < 0x10) →
      Traps (.csrr d n) s cILLOP 0 0)) ∧
  (∀ (s : State) (a : BitVec 6),
    let t := s.fctx
    let v := s.sOp a
    let takes (new old : Word) (lo hi : Nat) : Prop :=
      ∀ k, k < 64 → new.getLsbD k = if lo ≤ k ∧ k ≤ hi then v.getLsbD k else old.getLsbD k
    (∃ u, exec (.csrw a 1) s = .next u ∧ u.last = .issued ∧ OnlyCtx s u ∧
      u.fctx.csr = { t.csr with absd := v.getLsbD 10, abss := v.getLsbD 11 }) ∧
    (∃ u, exec (.csrw a 4) s = .next u ∧ u.last = .issued ∧ OnlyCtx s u ∧ u.fctx.csr = { t.csr with fpcsr := v.setWidth 6 }) ∧
    (t.vq = [] → t.mq = [] →
      CtxBecomes (.csrw a 3) s { t with csr := { t.csr with
        resumed := t.csr.resumed && !(v.getLsbD 7), disc := t.csr.disc && !(v.getLsbD 4) } } ∧
      (∃ w, CtxBecomes (.csrw a 6) s { t with csr := { t.csr with loglim := w } } ∧ takes w t.csr.loglim 4 55) ∧
      ((∀ sp, t.span = some sp → sp.record = none) →
        (∃ w, CtxBecomes (.csrw a 5) s { t with csr := { t.csr with logptr := w ||| 1 } } ∧ takes w t.csr.logptr 6 59) ∧
        ∃ w, CtxBecomes (.csrw a 7) s { t with csr := { t.csr with revcur := w, rev := t.csr.rev && decide (w ≠ 0) } } ∧
          takes w t.csr.revcur 6 55) ∧
      (∀ sp rs, t.span = some sp → sp.record = some rs → CtxBecomes (.csrw a 5) s t ∧ CtxBecomes (.csrw a 7) s t)) ∧
    (t.vq ≠ [] ∨ t.mq ≠ [] →
      Waits (.csrw a 3) s ∧ Waits (.csrw a 5) s ∧ Waits (.csrw a 6) s ∧ Waits (.csrw a 7) s) ∧
    (∃ u, exec (.csrw a 0x18) s = .next u ∧ u.last = .issued ∧
      u.sflags (settOf s.focus.core) = s.sflags (settOf s.focus.core) &&& ~~~v ∧ u.fctx = t) ∧
    (∀ n : BitVec 12, n = 0 ∨ n = 2 ∨ (8 ≤ n.toNat ∧ n.toNat ≤ 0xC) ∨ (0x10 ≤ n.toNat ∧ n.toNat ≤ 0x17) ∨
        (0x200 ≤ n.toNat ∧ n.toNat < 0x300) → CtxBecomes (.csrw a n) s t) ∧
    (∀ n : BitVec 12, 0x300 ≤ n.toNat ∨ (0x19 ≤ n.toNat ∧ n.toNat < 0x200) ∨ (0xD ≤ n.toNat ∧ n.toNat < 0x10) →
      Traps (.csrw a n) s cILLOP 0 0))

/-! ## Vectors and masks (R74, R79 to R81, R87, R145 to R148, R355, R408 to R410, R421 to R430, R435 to R440) -/

/-- The float operations, element by element (R421, R422): the correctly rounded result of R145 to R147 in the format of TYPE, in the
enabled elements only, with the flags of those elements; VFMA and VFMS take the old destination as the addend. -/
def Obligations.VectorFloatLanes : Prop :=
  ∀ (s : State) (d a b m : BitVec 6) (t : BitVec 3) (k : Fmt), fmtOfType t.toNat = some k →
    let w := k.bytes
    let n := 4096 / w
    let x (j : Nat) : Nat := vElem (s.vreg (s.vSrc a)) w j
    let y (j : Nat) : Nat := vElem (s.vreg (s.vWin b)) w j
    let z (j : Nat) : Nat := vElem (s.vreg (s.vDst d)) w j
    LanesBecome (.vadd d a b t) s (s.vDst d) w n 8 (fun j => addF k (x j) (y j)) ∧
    LanesBecome (.vsub d a b t) s (s.vDst d) w n 8 (fun j => subF k (x j) (y j)) ∧
    LanesBecome (.vmul d a b t) s (s.vDst d) w n 8 (fun j => mulF k (x j) (y j)) ∧
    LanesBecome (.vfma d a b t) s (s.vDst d) w n 8 (fun j => fmaF k false (x j) (y j) (z j)) ∧
    LanesBecome (.vfms d a b t) s (s.vDst d) w n 8 (fun j => fmaF k true (x j) (y j) (z j)) ∧
    LanesBecome (.vmax d a b t) s (s.vDst d) w n 8 (fun j => minMaxF k true (x j) (y j)) ∧
    LanesBecome (.vmin d a b t) s (s.vDst d) w n 8 (fun j => minMaxF k false (x j) (y j)) ∧
    LanesBecome (.vabs d a t) s (s.vDst d) w n 8 (fun j => absF k (x j)) ∧
    LanesBecome (.vneg d a t) s (s.vDst d) w n 8 (fun j => negF k (x j)) ∧
    LanesBecome (.vrcp d a t) s (s.vDst d) w n 20 (fun j => rcpV k (decodeF k (x j))) ∧
    LanesBecome (.vrsq d a t) s (s.vDst d) w n 20 (fun j => rsqV k (decodeF k (x j))) ∧
    LanesBecome (.vsqrt d a t) s (s.vDst d) w n 20 (fun j => sqrtV k (decodeF k (x j))) ∧
    LanesBecome (.vexp2 d a t) s (s.vDst d) w n 20 (fun j => exp2V k (decodeF k (x j))) ∧
    LanesBecome (.vlog2 d a t) s (s.vDst d) w n 20 (fun j => log2V k (decodeF k (x j))) ∧
    LanesBecome (.vtanh d a t) s (s.vDst d) w n 20 (fun j => tanhV k (decodeF k (x j))) ∧
    LanesBecome (.vscl d a m t) s (s.vDst d) w n 8 (fun j => scaleF k (x j) (s.sOp m).toInt)

/-- The integer and bitwise operations (R423): their words, the opcodes 0b010000 to 0b011000 in order; a TYPE outside the accepted codes
or another FN than 0 is an encoding fault; element by element modular, no flag; a shift takes its amount modulo the element's width. -/
def Obligations.VectorIntegerLanes : Prop :=
  (∀ (d a b : BitVec 6) (t : BitVec 3) (f : BitVec 5), ∀ p ∈ [(0b010000#6, Instr.viadd d a b t), (0b010001#6, .visub d a b t),
      (0b010010#6, .vimul d a b t), (0b010011#6, .vand d a b t), (0b010100#6, .vor d a b t), (0b010101#6, .vxor d a b t),
      (0b010110#6, .vshl d a b t), (0b010111#6, .vshr d a b t), (0b011000#6, .vsra d a b t)],
    let word (g : BitVec 5) : SlotWord := p.1 ++ d ++ a ++ b ++ t ++ g
    let accepted : Prop := 5 ≤ t.toNat ∨ p.1 = 0b010011#6 ∨ p.1 = 0b010100#6 ∨ p.1 = 0b010101#6
    (accepted → decodeSlot 1 (word 0) = .ok p.2) ∧ (f ≠ 0 ∨ ¬ accepted → Rejected 1 (word f))) ∧
  decodeSlot 1 0x401083E0 = .ok (.viadd 1 2 3 7) ∧ decodeSlot 1 0x541041A0 = .ok (.vxor 1 1 1 5) ∧
  decodeSlot 1 0x6020C4C0 = .ok (.vsra 2 3 4 6) ∧
  ∀ (s : State) (d a b : BitVec 6) (t : BitVec 3),
    let w := typeBytes t.toNat
    let n := 4096 / w
    let x (j : Nat) : BitVec (8 * w) := BitVec.ofNat (8 * w) (vElem (s.vreg (s.vSrc a)) w j)
    let y (j : Nat) : BitVec (8 * w) := BitVec.ofNat (8 * w) (vElem (s.vreg (s.vWin b)) w j)
    let gives (f : Nat → BitVec (8 * w)) (j : Nat) : FRes := { bits := (f j).toNat, fl := 0 }
    LanesBecome (.viadd d a b t) s (s.vDst d) w n 0 (gives (fun j => x j + y j)) ∧
    LanesBecome (.visub d a b t) s (s.vDst d) w n 0 (gives (fun j => x j - y j)) ∧
    LanesBecome (.vimul d a b t) s (s.vDst d) w n 0 (gives (fun j => x j * y j)) ∧
    LanesBecome (.vand d a b t) s (s.vDst d) w n 0 (gives (fun j => x j &&& y j)) ∧
    LanesBecome (.vor d a b t) s (s.vDst d) w n 0 (gives (fun j => x j ||| y j)) ∧
    LanesBecome (.vxor d a b t) s (s.vDst d) w n 0 (gives (fun j => x j ^^^ y j)) ∧
    LanesBecome (.vshl d a b t) s (s.vDst d) w n 0 (gives (fun j => x j <<< ((y j).toNat % (8 * w)))) ∧
    LanesBecome (.vshr d a b t) s (s.vDst d) w n 0 (gives (fun j => x j >>> ((y j).toNat % (8 * w)))) ∧
    LanesBecome (.vsra d a b t) s (s.vDst d) w n 0 (gives (fun j => (x j).sshiftRight ((y j).toNat % (8 * w))))

/-- The operations that move, select and convert elements (R424, R428 to R430, R435, R436, R438 to R440). VSEL writes every element;
VMOVS makes a pending write and VINS one element, when it is enabled (else it writes nothing, which the model's own note of the bytes written
shows); VRED writes one element and clears the rest. -/
def Obligations.VectorMovement : Prop :=
  ∀ (s : State) (d a b m : BitVec 6) (t o : BitVec 3) (z u r : BitVec 1) (q : BitVec 2),
    let w := typeBytes t.toNat
    let v := typeBytes o.toNat
    let n := 4096 / w
    let x (j : Nat) : Nat := vElem (s.vreg (s.vSrc a)) w j
    let y (j : Nat) : Nat := vElem (s.vreg (s.vWin b)) w j
    let on (j : Nat) : Bool := s.mask.getLsbD (j * w)
    let gives (f : Nat → Nat) (j : Nat) : FRes := { bits := f j, fl := 0 }
    let h := (s.sOp m).toNat
    let red := reduce q.toNat t.toNat (((List.range n).filter on).map x)
    LanesBecome (.vcvt d a t o z u) s (s.vDst d) v (4096 / max w v) 8
      (fun j => convertLane t.toNat o.toNat (z = 1) (u = 1) (x j)) ∧
    LanesBecome (.vbcst d a t) s (s.vDst d) w n 0 (gives (fun _ => (s.sOp a).toNat)) ∧
    LanesBecome (.vperm d a b t) s (s.vDst d) w (min n 2048) 0
      (gives (fun j => x (vElem (s.vreg (s.vWin b)) 2 j % n))) ∧
    LanesBecome (.vslide d a m t r) s (s.vDst d) w n 0
      (gives (fun j => if r = 1 then (if h ≤ j then x (j - h) else 0) else (if j + h < n then x (j + h) else 0))) ∧
    LanesBecome (.vzip d a b t) s (s.vDst d) w n 0 (gives (fun j => if j % 2 = 0 then x (j / 2) else y (j / 2))) ∧
    LanesBecome (.vunzip d a b t) s (s.vDst d) w n 0 (gives (fun j => if 2 * j < n then x (2 * j) else y (2 * j - n))) ∧
    LanesBecome (.viota d t) s (s.vDst d) w n 0 (gives id) ∧
    (∃ k, exec (.vsel d a b t) s = .next k ∧ k.last = .issued ∧ OnlyVreg s k (s.vDst d) ∧ k.fctx.flags = s.fctx.flags ∧
      ∀ j, j < n → vElem (k.fcore.vreg (s.vDst d)) w j = if on j then x j else y j) ∧
    (∃ k, exec (.vred d a t q) s = .next k ∧ k.last = .issued ∧ OnlyVreg s k (s.vDst d) ∧ FlagsRaised s k 12 red.fl ∧
      k.fcore.vreg (s.vDst d) = BitVec.ofNat 32768 red.bits) ∧
    CtxBecomes (.vmovs d a m t) s (pended s s.fctx d.toNat
      (if 5 ≤ t.toNat then (BitVec.ofNat (8 * w) (x (h % n))).signExtend 64 else BitVec.ofNat 64 (x (h % n))) 8) ∧
    (on (h % n) = true → LanesBecome (.vins d a m t) s (s.vDst d) w n 0
      (gives (fun j => if j = h % n then (s.sOp a).toNat else vElem (s.vreg (s.vDst d)) w j))) ∧
    (on (h % n) = false → Happens (.vins d a m t) s (s.covers (some 0)))

/-- The mask stack (R74, R355, R426): VCMP and KPUSH push the AND of their mask and the top, KMOV.from pushes its bits unchanged, KINV
replaces the top, KPOP removes it, KMOV.to reads it. A push onto 16 entries, and KINV or KPOP on an empty stack, raise ILLOP; that FADDR is
0 there is the model's choice (notes/assumptions/10.md). VCMP raises NV, and no other flag, when an enabled pair of elements has a signalling
NaN, or for lt, le, gt and ge a NaN; integer elements raise none. -/
def Obligations.MaskStack : Prop :=
  ∀ (s : State) (d a b : BitVec 6) (t r : BitVec 3) (u : BitVec 1),
    let w := typeBytes t.toNat
    let x (j : Nat) : Nat := vElem (s.vreg (s.vSrc a)) w j
    let y (j : Nat) : Nat := vElem (s.vreg (s.vWin b)) w j
    let pushes (i : Instr) (want : Nat → Bool) : Prop :=
      ∃ k m, exec i s = .next k ∧ k.last = .issued ∧ OnlyCtx s k ∧
        k.fctx = { s.fctx with masks := m :: s.fctx.masks, flags := k.fctx.flags } ∧
        ∀ j, j < 4096 → m.getLsbD j = (want (j / w) && s.mask.getLsbD j)
    (s.fctx.maskDepth < 16 →
      (∀ k, fmtOfType t.toNat = some k → pushes (.vcmp a b t u r) (fun j => relF r.toNat (decodeF k (x j)) (decodeF k (y j))) ∧
        ∃ v fl, exec (.vcmp a b t u r) s = .next v ∧ FlagsRaised s v 8 fl ∧ (∀ c, c ≠ 0 → fl.getLsbD c = false) ∧
          (fl.getLsbD 0 = true ↔ ∃ j, j < 4096 / w ∧ s.mask.getLsbD (j * w) = true ∧
            (∃ g, decodeF k (x j) = .nan true g ∨ decodeF k (y j) = .nan true g ∨
              2 ≤ r.toNat ∧ (decodeF k (x j) = .nan false g ∨ decodeF k (y j) = .nan false g)))) ∧
      (fmtOfType t.toNat = none → pushes (.vcmp a b t u r) (fun j => relI r.toNat (8 * w) (u = 1) (x j) (y j)) ∧
        ∀ v, exec (.vcmp a b t u r) s = .next v → v.fctx.flags = s.fctx.flags) ∧
      pushes (.kpush a t) (fun j => x j ≠ 0) ∧
      CtxBecomes (.kmovFrom a) s { s.fctx with masks := (s.vreg (s.vSrc a)).setWidth 4096 :: s.fctx.masks }) ∧
    (16 ≤ s.fctx.maskDepth →
      Traps (.vcmp a b t u r) s cILLOP 0 0 ∧ Traps (.kpush a t) s cILLOP 0 0 ∧ Traps (.kmovFrom a) s cILLOP 0 0) ∧
    (s.fctx.masks = [] → Traps .kinv s cILLOP 0 0 ∧ Traps .kpop s cILLOP 0 0) ∧
    (∀ m, s.fctx.masks = [m] → CtxBecomes .kinv s { s.fctx with masks := [~~~m] }) ∧
    (∀ m n k, s.fctx.masks = m :: n :: k → CtxBecomes .kinv s { s.fctx with masks := (~~~m &&& n) :: n :: k }) ∧
    (∀ m k, s.fctx.masks = m :: k → CtxBecomes .kpop s { s.fctx with masks := k }) ∧
    VregBecomes (.kmovTo d) s (s.vDst d) (s.fctx.top.setWidth 32768) ∧
    (s.fctx.masks = [] → ∀ j, j < 4096 → s.mask.getLsbD j = true) ∧
    (∀ m k, s.fctx.masks = m :: k → s.mask = m)

/-! ## Tile operations (R151, R408 to R416) -/

/-- The tile operations outside record mode, element by element (R151, R412 to R414): each input element as FP32, the composition of
R151, the rounding of the output format; with flags, in the enabled elements only. TMASK and TTRANS move bits; TTRANS sends input
element (r, c) to output element (c, r). -/
def Obligations.TileLanes : Prop :=
  ∀ (s : State) (d a b c : BitVec 6) (i o : BitVec 3) (f : BitVec 2), s.recordsNow = false → s.fctx.recSpan = none →
    let fi := inFmt i.toNat
    let fo := outFmt o.toNat
    let n := 4096 / max fi.bytes fo.1.bytes
    let x (j : Nat) : Nat := to32 fi (vElem (s.vreg (s.vSrc a)) fi.bytes j)
    let y (j : Nat) : Nat := to32 fi (vElem (s.vreg (s.vWin b)) fi.bytes j)
    let becomes (ins : Instr) (lat : Nat) (r : Nat → FRes) : Prop := LanesBecome ins s (s.vDst d) fo.1.bytes n lat r
    (i.toNat ≤ 4 → o ≠ 7 →
      becomes (.tadd d a b i o) 10 (fun j => tAdd fo (x j) (y j)) ∧
      becomes (.tmul d a b i o) 10 (fun j => tMul fo (x j) (y j)) ∧
      becomes (.tscale d a b i o) 10 (fun j => tMul fo (x j) ((s.sOp b).toNat % 2 ^ 32)) ∧
      becomes (.tbias d a b i o) 10 (fun j => tAdd fo (x j) (vElem (s.vreg (s.vWin b)) 4 (j % 64))) ∧
      becomes (.trelu d a i o) 10 (fun j => tRelu fo (x j)) ∧
      becomes (.tgelu d a i o) 36 (fun j => tGelu fo (x j)) ∧
      becomes (.tsilu d a i o) 32 (fun j => tSilu fo (x j)) ∧
      becomes (.texp d a i o) 22 (fun j => tExp fo (x j)) ∧
      becomes (.tcvt d a i o) 10
        (fun j => convertVal fo.1 fo.2 (decodeF fi (vElem (s.vreg (s.vSrc a)) fi.bytes j)))) ∧
    (f ≠ 3 →
      let w := (inFmt f.toNat).bytes
      LanesBecome (.tmask d a b c f) s (s.vDst d) w (4096 / w) 10 (fun j =>
        { bits := if (s.vreg (s.vWin b)).getLsbD j then vElem (s.vreg (s.vSrc a)) w j else (s.sOp c).toNat, fl := 0 })) ∧
    (transFormats i o = true →
      let q := 4096 / fi.bytes / 64
      LanesBecome (.ttrans d a i o) s (s.vDst d) fi.bytes (4096 / fi.bytes) 14 (fun j =>
        { bits := vElem (s.vreg (s.vSrc a)) fi.bytes (j % q * 64 + j / q), fl := 0 }))

/-- TSOFTMAX and TRMSN outside record mode (R151, R414): each row of 64 elements is reduced over its enabled elements, in ascending
column order, and only those are written. -/
def Obligations.TileRows : Prop :=
  ∀ (s : State) (d a b c : BitVec 6) (i o : BitVec 3) (f : BitVec 2), s.recordsNow = false → s.fctx.recSpan = none →
    let on (w r k : Nat) : Bool := s.mask.getLsbD ((64 * r + k) * w)
    let cols (w r : Nat) : List Nat := (List.range 64).filter (on w r)
    let place (w j : Nat) : Nat := (List.range (j % 64)).countP (on w (j / 64))
    (i.toNat ≤ 4 → o ≠ 7 →
      let fi := inFmt i.toNat
      let fo := outFmt o.toNat
      let w := fo.1.bytes
      let x (j : Nat) : Nat := to32 fi (vElem (s.vreg (s.vSrc a)) fi.bytes j)
      LanesBecome (.tsoftmax d a i o) s (s.vDst d) w (4096 / max fi.bytes w) 44 (fun j =>
        (tSoftmax fo ((cols w (j / 64)).map (fun k => x (64 * (j / 64) + k)))).getD (place w j) { bits := 0, fl := 0 })) ∧
    (f ≠ 3 →
      let ff := inFmt f.toNat
      let w := ff.bytes
      let x (j : Nat) : Nat := to32 ff (vElem (s.vreg (s.vSrc a)) w j)
      LanesBecome (.trmsn d a b c f) s (s.vDst d) w (4096 / w) 44 (fun j =>
        (tRmsn (ff, false) ((s.sOp c).toNat % 2 ^ 32)
          ((cols w (j / 64)).map (fun k => (x (64 * (j / 64) + k), vElem (s.vreg (s.vWin b)) 4 k)))).getD (place w j)
            { bits := 0, fl := 0 }))

/-! ## The matrix engine (R139 to R143, R153 to R173, R348, R349, R363 to R373)

A beat of a context that leads no ganged span. -/

/-- MFLIP exchanges the planes; MACC and MACC.u take the oldest row of the latch queue and accumulate it lane by lane, an integer row
modulo 2^32, a float row by one rounding of row × scale + old (R143, R161, R163); no other row, register or byte changes. -/
def Obligations.FlipsAndAccumulation : Prop :=
  ∀ (s : State) (r : BitVec 6) (i : BitVec 12) (v : BitVec 6) (p : Nat) (e : LatchRow) (es : List LatchRow),
    let k := s.fcore
    let lane (scale : Nat → Nat) (j : Nat) : Nat :=
      if e.isInt then (laneOf (k.accFor s.focus.ctx p) j + laneOf e.row j) % 2 ^ 32
      else (roundExact .f32 (fmaV (v32 (laneOf e.row j)) (v32 (scale j)) (v32 (laneOf (k.accFor s.focus.ctx p) j)))).bits % 2 ^ 32
    let accumulates (ins : Instr) (scale : Nat → Nat) : Prop :=
      ∃ row, CoreBecomes ins s { k with arr := { k.arr with latch := es }, acc := k.acc.set p row } ∧
        ∀ j, j < 64 → laneOf row j = lane scale j
    InPlainSpan s →
    CoreBecomes .mflip s { k with arr := { k.arr with flip := !k.arr.flip } } ∧
    (k.arr.latch = e :: es → s.fctx.accRow ((s.sOp r).toNat + i.toNat) = some p →
      accumulates (.macc r i v) (fun j => vElem (s.vreg (s.fctx.vphys v)) 4 j) ∧
      accumulates (.maccU r i) (fun _ => 0x3F800000))

/-- MZERO clears NROW + 1 accumulator rows of the window and no other row; MDRAIN converts the 64 lanes of a row into 64 elements of a
vector register, whatever the mask, with the flags of the conversions (R164, R165). An index beyond the window raises PERM; that
FADDR is 0 there is the model's choice (notes/assumptions/10.md). -/
def Obligations.ZeroAndDrain : Prop :=
  ∀ (s : State) (r v l n : BitVec 6) (i : BitVec 12) (k : BitVec 5) (f : BitVec 3),
    let x := (s.sOp r).toNat + i.toNat
    let y := (s.sOp r).toNat + k.toNat
    let w := drainWidth f
    let d := s.fctx.vphys v
    NoGang s →
    (x + n.toNat < s.fctx.csr.awbLen.toNat →
      ∃ acc, CoreBecomes (.mzero r i n) s { s.fcore with acc := acc } ∧
        ∀ q, Tab.get acc q 0 =
          if s.fctx.csr.awbBase.toNat + x ≤ q ∧ q ≤ s.fctx.csr.awbBase.toNat + x + n.toNat then 0 else s.fcore.accAt q) ∧
    (s.fctx.csr.awbLen.toNat ≤ x + n.toNat → Traps (.mzero r i n) s cPERM 0 0) ∧
    (l.toNat * 64 * w < 4096 → ∀ p, s.fctx.accRow y = some p →
      let lane (j : Nat) : FRes := drainLane f.toNat (laneOf (s.fcore.accFor s.focus.ctx p) j)
      ∃ u fl, exec (.mdrain r k v l f) s = .next u ∧ u.last = .issued ∧ OnlyVreg s u d ∧ FlagsRaised s u 6 fl ∧
        (∀ j, j < 4096 / w → vElem (u.fcore.vreg d) w j =
          if l.toNat * 64 ≤ j ∧ j < l.toNat * 64 + 64 then (lane (j - l.toNat * 64)).bits % 2 ^ (8 * w) else vElem (s.fcore.vreg d) w j) ∧
        ∀ b, b < 6 → (fl.getLsbD b = true ↔ ∃ j, j < 64 ∧ (lane j).fl.getLsbD b = true)) ∧
    (l.toNat * 64 * w < 4096 → s.fctx.accRow y = none → Traps (.mdrain r k v l f) s cPERM 0 0)

/-- MPUSH and MSHIFT read the row at their ring's cursor (R157, R160, R162): MPUSH writes its elements into the shadow plane and takes the
block scales of a Q4 row; MSHIFT sends the 64 column sums of the row over the active plane on their way to the latch queue. The
row is popped, kept with KEEP, or stepped over inside its slot; in record mode the read is counted (R235); stores under way that supply the row are
remembered, so that no later access of the context reads older bytes (R179); no accumulator row or vector
register changes. -/
def Obligations.PushAndShift : Prop :=
  ∀ (s : State) (q : BitVec 4) (i : BitVec 6) (f : BitVec 3) (tr keep p : BitVec 1) (r : Ring) (n : RingInst),
    let a := s.fcore.arr
    let ktail : Nat := match s.fctx.span with
      | some sp => bits sp.shape 54 48
      | none => 0
    let need : Nat := if f = 5 then 1 else if f = 6 then 2 else 0
    let sup (sz : Nat) : List (Nat × Nat) := s.suppliers s.focus.core r.ctx s.nextOut (n.slotAddr r.cursor + r.roff) sz
    let counted (ev sz : Nat) : Ctx := { s.fctx with
      supplied := if r.ctx = s.focus.ctx then s.fctx.supplied ++ (sup sz).map (fun e => (none, e)) else s.fctx.supplied
      rowix := if s.fctx.csr.recording then s.fctx.rowix.set (4 * q.toNat + ev) (s.fctx.rowix.get (4 * q.toNat + ev) 0 + 1) else s.fctx.rowix }
    let roff (t : State) (sz : Nat) : Prop :=
      (keep = 1 → t.fcore.rings.find q.toNat = some r) ∧
      (keep = 0 → ∃ r', t.fcore.rings.find q.toNat = some r' ∧
        if r.roff + sz = n.size then r'.cursor = r.cursor + 1 ∧ r'.roff = 0 else r'.cursor = r.cursor ∧ r'.roff = r.roff + sz)
    InPlainSpan s →
    (f.toNat ≤ 6 → RowThere s q.toNat (rowBytes f.toNat) r n → need ≤ a.scaleq.length →
      ¬ (p = 1 ∧ (f = 0 ∨ f = 1 ∨ f = 5) ∧ 64 ≤ ktail) →
      ∃ t, exec (.mpush q i f tr keep p) s = .next t ∧ t.last = .issued ∧ SameMem s t ∧ t.fctx = counted 2 (rowBytes f.toNat) ∧
        t.fcore.acc = s.fcore.acc ∧ t.fcore.vregs = s.fcore.vregs ∧ roff t (rowBytes f.toNat) ∧
        t.fcore.arr = { a.push f.toNat (pushEls f.toNat i.toNat (tr = 1) (if p = 1 then ktail else 0) a.scaleq
          (rowOf s r n (rowBytes f.toNat))) with scaleq := a.scaleq.drop need }) ∧
    (f.toNat ≤ 4 → RowThere s q.toNat 128 r n → pairOk f.toNat a.activeTag = true → a.inflight.length + a.latch.length < 96 →
      ∃ t, exec (.mshift q f keep) s = .next t ∧ t.last = .issued ∧ SameMem s t ∧ t.fctx = counted 1 128 ∧
        t.fcore.acc = s.fcore.acc ∧ t.fcore.vregs = s.fcore.vregs ∧ roff t 128 ∧
        t.fcore.arr = { a with inflight := a.inflight ++ [a.shift f.toNat (rowOf s r n 128)] })

/-- The column sums of MSHIFT (R141, R142, R162), lane by lane: the exact integer sum modulo 2^32 for INT8, whose element the model reads in a
plane entry's byte above its pad mark (notes/assumptions/59.md), else the sum of the 128 or 64 products in the order of R141. -/
def Obligations.ColumnSums : Prop :=
  ∀ (a : Arr) (f row c : Nat), c < 64 →
    let col := a.active.get c 0
    let x (k : Nat) : Nat := (row >>> (elBits f * k)) % 2 ^ elBits f
    (f = 4 → ((laneOf (a.shift f row).row c : Nat) : Int) =
      ((List.range 128).map (fun k => (BitVec.ofNat 8 (x k)).toInt * (BitVec.ofNat 8 ((colEntry col k).toNat / 2)).toInt)).sum % 2 ^ 32) ∧
    (f ≤ 3 → laneOf (a.shift f row).row c =
      r32 (columnSum ((List.range (elCount f)).map (fun k => arrMul (arrEl f 0 (x k)) (colEntry col k)))) % 2 ^ 32) ∧
    (a.shift f row).isInt = decide (f = 4)

/-- MSPAN opens a span and takes the array for its context, counted in mx; MEND closes it when nothing is in flight, latched or
queued, and SPAN_RETIRE counts it down again (R167, R168). MSPAN with a span open or a bit of shape [63:55] set raises ILLOP, in an
array that another context owns PERM; MEND raises LATCHOVF or QIMB for what is left over; the FADDR of 0 of these is the model's choice
(notes/assumptions/10.md). The MEND of a ganged span closes the span in every member once every member is ready and has nothing left in its array (R172); a
leftover is LATCHOVF or QIMB there too, and aborts the span (R168, R173). The beats and the MEND of a span that has aborted are discarded (R173). -/
def Obligations.Spans : Prop :=
  ∀ (s : State) (r : BitVec 6),
    let shape := s.sOp r
    let free : Prop := ∀ x, s.fcore.arr.owner = some x → x = s.focus.ctx
    (bits shape 63 55 = 0 → s.fctx.span = none → free → s.recordsNow = false → s.fctx.mx < 2 →
      ∃ t, exec (.mspan r) s = .next t ∧ t.last = .issued ∧ t.fcore.arr = { s.fcore.arr with owner := some s.focus.ctx } ∧
        t.fctx = { s.fctx with
          span := some { addr := s.focus.addr, seq := s.focus.seq, shape := shape, gang := none, beat := 0, record := none }
          mdiscard := false, mx := s.fctx.mx + 1 } ∧
        t.fcore.acc = s.fcore.acc ∧ t.fcore.vregs = s.fcore.vregs) ∧
    (bits shape 63 55 ≠ 0 ∨ s.fctx.span.isSome → Traps (.mspan r) s cILLOP 0 0) ∧
    (bits shape 63 55 = 0 → s.fctx.span = none → ¬ free → Traps (.mspan r) s cPERM 0 0) ∧
    (InPlainSpan s → s.fcore.arr.inflight = [] → s.fcore.arr.latch = [] → s.fcore.arr.scaleq = [] →
      ∃ t, exec .mend s = .next t ∧ t.last = .issued ∧ OnlyCore s t ∧ t.fctx = { s.fctx with span := none } ∧
        t.fcore.arr = { s.fcore.arr with owner := none } ∧
        t.fcore.retiring = s.fcore.retiring ++
          [{ ctx := s.focus.ctx, gang := none, ready := [(s.focus.core, s.fcore.drain)] }]) ∧
    (InPlainSpan s → s.fcore.arr.inflight ≠ [] ∨ s.fcore.arr.latch ≠ [] → Traps .mend s cLATCHOVF 0 0) ∧
    (InPlainSpan s → s.fcore.arr.inflight = [] → s.fcore.arr.latch = [] → s.fcore.arr.scaleq ≠ [] → Traps .mend s cQIMB 0 0) ∧
    (∀ sp g, s.fctx.mdiscard = false → s.fctx.span = some sp → sp.gang = some g →
      (∀ m ∈ g.members, (s.core m.1).arr.inflight = [] ∧ (s.core m.1).arr.latch = [] ∧ (s.core m.1).arr.scaleq = [] ∧
        (m = (s.focus.core, s.focus.ctx) ∨ s.memberReady .mend m.1 m.2 = true)) →
      ∃ t, exec .mend s = .next t ∧ t.last = .issued ∧ SameMem s t ∧
        (∀ m ∈ g.members, (t.ctx m.1 m.2).span = none ∧ (t.core m.1).arr.owner = none) ∧
        t.fcore.retiring = s.fcore.retiring ++
          [{ ctx := s.focus.ctx, gang := some g, ready := g.members.map (fun m => (m.1, (s.core m.1).drain)) }]) ∧
    (s.fctx.mdiscard = true → ∀ (q : BitVec 4) (i v l : BitVec 6) (f : BitVec 3) (tr keep p : BitVec 1) (n : BitVec 12) (m : BitVec 5),
      CtxBecomes .mend s { s.fctx with mdiscard := false } ∧ CtxBecomes (.mpush q i f tr keep p) s s.fctx ∧ CtxBecomes .mflip s s.fctx ∧
      CtxBecomes (.mshift q f keep) s s.fctx ∧ CtxBecomes (.macc r n v) s s.fctx ∧ CtxBecomes (.maccU r n) s s.fctx ∧
      CtxBecomes (.mdrain r m v l f) s s.fctx ∧ CtxBecomes (.mzero r n i) s s.fctx)

/-- The events of the matrix engine: the oldest row in flight enters the latch queue (R162); the oldest closed span retires, once its last
MACC, MDRAIN and MZERO have written in each of its cores, and not before (R168); then each member's barrier is credited with 64 bytes, if the gang asks for
it (R172). -/
def Obligations.RowsEmergeAndSpansRetire : Prop :=
  ∀ (s : State) (c : Nat), c < 768 →
    (∀ e es, (s.core c).arr.inflight = e :: es →
      exec (.rowEmerge c) s = .next { s.setCore c { s.core c with
        arr := { (s.core c).arr with inflight := es, latch := (s.core c).arr.latch ++ [e] } } with last := .issued }) ∧
    (∀ r es, (s.core c).retiring = r :: es →
      ((∃ e ∈ r.ready, (s.core e.1).clock < e.2) → NotNow (.spanRetire c) s) ∧
      ((∀ e ∈ r.ready, e.2 ≤ (s.core e.1).clock) →
        ∃ t, exec (.spanRetire c) s = .next t ∧ t.last = .issued ∧ (t.core c).retiring = es ∧
          (t.ctx c r.ctx).mx = (s.ctx c r.ctx).mx - 1 ∧
          ((∀ g, r.gang = some g → g.baren = false) →
            SameMem s t ∧ t.ctx c r.ctx = { s.ctx c r.ctx with mx := (s.ctx c r.ctx).mx - 1 }) ∧
          ∀ g, r.gang = some g → g.baren = true → t.mem = (g.members.foldl (fun u m =>
            u.credit (pairOf m.1) g.baroff 64 0x18 0 (if g.soft.contains m.1 then fgCORRECTED else 0) 0) s).mem))

/-- MGANG and FOLLOW open a ganged span when every core that the gang word names has its FOLLOW waiting for this leader and nothing
is wrong with either (R170, R171, R349, R368): the span opens in every member at once, with the MGANG's shape, the array of its core owned, the
members in the order of their cores, and mx of the leader counts it; whichever of them issues, the others leave their queues. With a FOLLOW
missing the MGANG waits, and so does a FOLLOW with no MGANG. The faults: a reserved bit, no follower, the leader's own bit, a span open or record
mode raise ILLOP; an array that another context owns PERM; the FADDR of 0 of these is the model's choice (notes/assumptions/10.md).
Each beat of the leader issues in every member in one move, or waits in all (R172): MFLIP turns every array's planes, MACC takes each member's own oldest row
and scales, MZERO and MACC have the leader's index in each member's own window. A beat that faults in a member aborts the span (R173): in every member the span is closed and the
rows in flight, latch and scale queue are gone, with no row written; mx of the leader counts down and its M operations up to the MEND are
discarded; the member of lowest sett index that faults takes the fault, at its FOLLOW if it does not lead; and each member's barrier is credited, if the gang
asks for it. -/
def Obligations.GangsOpen : Prop :=
  (∀ (s : State) (r g : BitVec 6) (k : BitVec 4),
    let c := s.focus.core
    let x := s.focus.ctx
    let free (d y : Nat) : Prop := ∀ z, (s.core d).arr.owner = some z → z = y
    let wellFormed (d : Nat) (shape gw : Word) : Prop :=
      bits shape 63 55 = 0 ∧ bits gw 63 33 = 0 ∧ bits gw 15 0 ≠ 0 ∧ bit gw (settIdx d) = false
    let shape := s.sOp r
    let gw := s.sOp g
    let lead := 16 * settOf c + k.toNat
    (wellFormed c shape gw → s.fctx.span = none → s.fctx.csr.recording = false → free c x →
      (s.fctx.mx < 2 →
        (∀ i, i < 16 → bit gw i = true → ∃ y o, s.readyFollow c s.fctx.task (16 * settOf c + i) = some (y, o) ∧ y < 8) →
        GangOpens (.mgang r g) s (c, x) (c, x) shape gw) ∧
      (∀ i, i < 16 → bit gw i = true → s.gangFault c x shape gw = none →
        s.readyFollow c s.fctx.task (16 * settOf c + i) = none → Waits (.mgang r g) s)) ∧
    (¬ wellFormed c shape gw ∨ s.fctx.span ≠ none ∨ s.fctx.csr.recording = true → Traps (.mgang r g) s cILLOP 0 0) ∧
    (wellFormed c shape gw → s.fctx.span = none → s.fctx.csr.recording = false → ¬ free c x → Traps (.mgang r g) s cPERM 0 0) ∧
    (k.toNat ≠ settIdx c → s.fctx.span = none → s.fctx.csr.recording = false → free c x →
      (∀ y o sh w, s.headBeat lead = some (y, o) → o.ins = .mgang r g → o.caps.lookup (sreg r) = some sh → o.caps.lookup (sreg g) = some w →
        wellFormed lead sh w → bit w (settIdx c) = true → (s.ctx lead y).span = none → (s.ctx lead y).csr.recording = false → free lead y →
        (s.ctx lead y).mx < 2 → s.fctx.bound = true → x < 8 → (s.ctx lead y).task = s.fctx.task →
        (∀ i, i < 16 → i ≠ settIdx c → bit w i = true →
          ∃ z p, s.readyFollow lead s.fctx.task (16 * settOf c + i) = some (z, p) ∧ z < 8) →
        GangOpens (.follow k) s (lead, y) (c, x) sh w) ∧
      (s.headBeat lead = none → Waits (.follow k) s)) ∧
    (k.toNat = settIdx c ∨ s.fctx.span ≠ none ∨ s.fctx.csr.recording = true → Traps (.follow k) s cILLOP 0 0) ∧
    (k.toNat ≠ settIdx c → s.fctx.span = none → s.fctx.csr.recording = false → ¬ free c x → Traps (.follow k) s cPERM 0 0)) ∧
  (∀ (s : State) (g : Gang) (r n v : BitVec 6) (i : BitVec 12), LeadsGang s g →
    let own := (s.focus.core, s.focus.ctx)
    let x := (s.sOp r).toNat + i.toNat
    let base (m : Nat × Nat) : Nat := (s.ctx m.1 m.2).csr.awbBase.toNat
    let holds (m : Nat × Nat) (j : Nat) : Prop := j < (s.ctx m.1 m.2).csr.awbLen.toNat
    (AllReady s g .mflip →
      ∃ t, exec .mflip s = .next t ∧ t.last = .issued ∧ SameMem s t ∧
        ∀ m ∈ g.members, (t.core m.1).arr = { (s.core m.1).arr with flip := !(s.core m.1).arr.flip }) ∧
    (¬ AllReady s g (.mzero r i n) → (∀ m ∈ g.members, holds m (x + n.toNat)) → Waits (.mzero r i n) s) ∧
    (AllReady s g (.mzero r i n) → (∀ m ∈ g.members, holds m (x + n.toNat)) →
      ∃ t, exec (.mzero r i n) s = .next t ∧ t.last = .issued ∧ SameMem s t ∧
        ∀ m ∈ g.members, ∀ q, (t.core m.1).accAt q =
          if base m + x ≤ q ∧ q ≤ base m + x + n.toNat then 0 else (s.core m.1).accAt q) ∧
    (AllReady s g (.macc r i v) → ∀ (e : Nat → LatchRow) (es : Nat → List LatchRow),
      (∀ m ∈ g.members, holds m x ∧ (s.core m.1).arr.latch = e m.1 :: es m.1) →
      ∃ t, exec (.macc r i v) s = .next t ∧ t.last = .issued ∧ SameMem s t ∧
        ∀ m ∈ g.members,
          let k := s.core m.1
          let old (j : Nat) : Nat := laneOf (k.accFor m.2 (base m + x)) j
          let scale (j : Nat) : Nat := vElem (k.vregFor m.2 ((s.ctx m.1 m.2).vphys v)) 4 j
          (t.core m.1).arr = { k.arr with latch := es m.1 } ∧
          (∀ q, q ≠ base m + x → (t.core m.1).accAt q = k.accAt q) ∧
          ∀ j, j < 64 → laneOf ((t.core m.1).accAt (base m + x)) j =
            if (e m.1).isInt then (old j + laneOf (e m.1).row j) % 2 ^ 32
            else (roundExact .f32 (fmaV (v32 (laneOf (e m.1).row j)) (v32 (scale j)) (v32 (old j)))).bits % 2 ^ 32) ∧
    (∀ f ∈ g.members, f = own ∨ s.memberReady (.mzero r i n) f.1 f.2 = true →
      ¬ holds f (x + n.toNat) → (∀ m ∈ g.members, settIdx m.1 < settIdx f.1 → holds m (x + n.toNat)) →
      s.breakAt own.1 own.2 s.focus.addr 2 = false → s.focus.slot = 2 →
      ∀ sf sl, (s.ctx f.1 f.2).span = some sf → sf.gang = some g → s.fctx.span = some sl →
      (s.ctx f.1 f.2).hold = .none → (s.ctx f.1 f.2).ended = false → (∀ o ∈ (s.core f.1).outs, o.ctx ≠ f.2) →
      ∃ t, exec (.mzero r i n) s = .next t ∧
        (∀ m ∈ g.members, (t.ctx m.1 m.2).span = none ∧ (t.core m.1).acc = (s.core m.1).acc ∧
          (t.core m.1).arr = { (s.core m.1).arr with inflight := [], latch := [], scaleq := [], owner := none } ∧
          (m ≠ f → (t.ctx m.1 m.2).csr = (s.ctx m.1 m.2).csr)) ∧
        (t.ctx own.1 own.2).mx = s.fctx.mx - 1 ∧ (f ≠ own → (t.ctx own.1 own.2).mdiscard = true) ∧
        (t.ctx f.1 f.2).csr.finfo = BitVec.ofNat 64 (cPERM + 2 * 256) ∧
        (t.ctx f.1 f.2).csr.fpc = (if f = own then s.focus.addr else sf.addr) ∧
        (bit (s.owl (towerOf f.1)).trctl 0 = false →
          (g.baren = false → SameMem s t) ∧
          (g.baren = true → t.mem = (g.members.foldl (fun u m =>
            u.credit (pairOf m.1) g.baroff 64 0x18 cGANGABORT (fgABORT ||| (if m = f then flagOf cPERM else 0))
              (cPERM <<< 24 + settIdx f.1 <<< 20 + sl.beat % 2 ^ 20)) s).mem))))

/-! ## Memory accesses (R1, R64, R87, R92, R93, R121, R176, R193, R195, R223, R224, R304 to R306, R401, R402, R404, R418, R419,
R432, R434, R445) -/

/-- SLD and SST of 1, 2, 4 or 8 bytes through the local aperture (R92, R93, R176, R401, R402): the pointer and its checks; they wait
while a watermark holds the bytes back, or an older access of the context to the word, or a store that it has read there, is outstanding (R179,
R181); SLD's value, little-endian and extended
by zeros or its sign, becomes a pending write; it is what memory holds there, the access acting at its home (R176). SST writes
its bytes and no others, and of the poison marks clears that of a whole aligned word. -/
def Obligations.ScalarLoadsAndStores : Prop :=
  (∀ (s : State) (pa n k : Nat), MemOk s → k < n → BitVec.ofNat 8 (s.readNow pa n >>> (8 * k)) = s.byte (pa + k)) ∧
  ∀ (s : State) (d v : BitVec 6) (b : BitVec 4) (z : BitVec 3) (x : BitVec 1) (i : BitVec 12), z.toNat ≤ 3 →
    let p := s.lsPtr b i
    let n := 2 ^ z.toNat
    let pa := apAddr s.focus.core (apOff p)
    let ld : Instr := .sld d b z x i
    let st : Instr := .sst v b z i
    let both (code : Nat) : Prop := Traps ld s code p 0 ∧ Traps st s code p 0
    bits p 63 56 = bits (s.aOp b) 63 56 ∧
    ((vaOf p : Int) = ((vaOf (s.aOp b) : Int) + i.toInt + 4096 * (BitVec.ofNat 5 s.focus.lent).toInt) % 2 ^ 56) ∧
    (p.toNat % n ≠ 0 → both cALIGN) ∧
    (p.toNat % n = 0 → isAp p = true → apBad p = true → both cAPERTURE) ∧
    (p.toNat % n = 0 → isAp p = true → apBad p = false → s.fcore.wmHeld (vaOf p) n = true → Waits ld s ∧ Waits st s) ∧
    (p.toNat % n = 0 → ApReach s p n →
      (s.apWaits pa n = true → Waits ld s ∧ Waits st s) ∧
      (s.apWaits pa n = false → s.poisonNow pa n = true → Traps ld s cPOISON p 0) ∧
      (s.apWaits pa n = false → s.poisonNow pa n = false → MemOk s →
        ∃ u w, exec ld s = .next u ∧ u.last = .issued ∧ OnlyCtx (s.correct pa n) u ∧ SameMem s u ∧
          u.fctx = pended s s.fctx (sreg d) w 6 ∧
          (∀ k, k < n → w.extractLsb' (8 * k) 8 = BitVec.ofNat 8 (s.readNow pa n >>> (8 * k))) ∧
          ∀ k, 8 * n ≤ k → k < 64 → w.getLsbD k = (x == 1 && w.getLsbD (8 * n - 1))) ∧
      (s.apWaits pa n = false →
        ∃ u, exec st s = .next u ∧ u.last = .issued ∧ OnlyMem s u ∧ SameMemBut s u pa n ∧
          (∀ k, k < n → u.byte (pa + k) = (s.sOp v).extractLsb' (8 * k) 8) ∧
          ∀ w, w ∈ u.poison ↔ w ∈ s.poison ∧ ¬ (n = 8 ∧ 8 * w = pa)))

/-- VLD and VST through the local aperture (R81, R93, R432): byte j moves between the register and P + j for each j that the mask
enables, and no other byte changes; the pointer's checks cover the hull of the enabled bytes. They wait while a watermark holds an enabled byte
back (R443), or an older access of the context to one of its words is outstanding (R181). -/
def Obligations.VectorLoadsAndStores : Prop :=
  ∀ (s : State) (v : BitVec 6) (b : BitVec 4) (i : BitVec 16),
    let p := s.lvPtr b i
    let runs := maskRuns s.mask
    let h := hullOf runs
    let pa := apAddr s.focus.core (apOff p)
    let ld : Instr := .vld v b i
    let st : Instr := .vst v b i
    let both (code : Nat) : Prop := Traps ld s code p 0 ∧ Traps st s code p 0
    let on (j : Nat) : Prop := j < 4096 ∧ s.mask.getLsbD j = true
    let reach : Prop := vaOf p % 64 = 0 ∧ isAp p = true ∧ ∀ j, on j → apBad p = false ∧ apOff p + j < pairSize
    let free : Prop := ∀ j, on j → s.fcore.wmHeld (vaOf p + j) 1 = false
    let turn : Prop := ∀ q ∈ runs, s.apWaits (pa + q.1) q.2 = false
    bits p 63 56 = bits (s.aOp b) 63 56 ∧ ((vaOf p : Int) = ((vaOf (s.aOp b) : Int) + 64 * i.toInt) % 2 ^ 56) ∧
    (∀ j, on j ↔ ∃ q ∈ runs, q.1 ≤ j ∧ j < q.1 + q.2) ∧
    (∀ j, on j → h.1 ≤ j ∧ j < h.1 + h.2) ∧
    (vaOf p % 64 ≠ 0 → both cALIGN) ∧
    (vaOf p % 64 = 0 → isAp p = true → (∃ j, on j ∧ (apBad p = true ∨ pairSize ≤ apOff p + j)) → both cAPERTURE) ∧
    (reach → ¬ free → Waits ld s ∧ Waits st s) ∧
    (reach → ¬ turn → Waits ld s ∧ Waits st s) ∧
    (reach → free → turn → (∃ q ∈ runs, s.poisonNow (pa + q.1) q.2 = true) → Traps ld s cPOISON p 0) ∧
    (reach → free → turn → (∀ q ∈ runs, s.poisonNow (pa + q.1) q.2 = false) → (∀ j, on j → s.softAt (pa + j) 1 = false) → MemOk s →
      LanesBecome ld s (s.vWin v) 1 4096 0 (fun j => { bits := s.readNow (pa + j) 1, fl := 0 })) ∧
    (reach → free → turn →
      ∃ u, exec st s = .next u ∧ u.last = .issued ∧ OnlyMem s u ∧
        (∀ j, on j → u.byte (pa + j) = (s.vreg (s.vWin v)).extractLsb' (8 * j) 8) ∧
        ∀ a, (∀ j, on j → a ≠ pa + j) → u.byte a = s.byte a)

/-- VLDX and VSTX through the local aperture (R434): element k of z bytes moves between the register and the base plus z times the
word k of the index register, for each enabled k below min(1024, 4096 / z), each an access of its own with its own pointer; of elements that
go to one place the highest wins; no other byte changes. -/
def Obligations.IndexedLoadsAndStores : Prop :=
  ∀ (s : State) (v : BitVec 6) (b : BitVec 4) (x : BitVec 6) (e : BitVec 2),
    let base := s.aOp b
    let z : Nat := 2 ^ e.toNat
    let n := min 1024 (4096 / z)
    let q (k : Nat) : Word := addPtr base ((vElem (s.vreg (s.vWin x)) 4 k * z : Nat) : Int)
    let pa (k : Nat) : Nat := apAddr s.focus.core (apOff (q k))
    let on (k : Nat) : Prop := k < n ∧ s.mask.getLsbD (k * z) = true
    let here : Prop := base.toNat % z = 0 ∧ isAp base = true ∧ ∀ k, on k → apBad (q k) = false
    let turn (k : Nat) : Prop := s.fcore.wmHeld (vaOf (q k)) z = false ∧ s.apWaits (pa k) z = false
    (base.toNat % z ≠ 0 → Traps (.vldx v b x e) s cALIGN base 0 ∧ Traps (.vstx v b x e) s cALIGN base 0) ∧
    (∀ k, base.toNat % z = 0 → isAp base = true → on k → apBad (q k) = true → (∀ j, on j → j < k → apBad (q j) = false) →
      Traps (.vldx v b x e) s cAPERTURE (q k) 0 ∧ Traps (.vstx v b x e) s cAPERTURE (q k) 0) ∧
    (∀ k, here → on k → ¬ turn k → Waits (.vldx v b x e) s ∧ Waits (.vstx v b x e) s) ∧
    (∀ k, here → (∀ j, on j → turn j) → on k → s.poisonNow (pa k) z = true → (∀ j, on j → j < k → s.poisonNow (pa j) z = false) →
      Traps (.vldx v b x e) s cPOISON (q k) 0) ∧
    (here → (∀ j, on j → turn j) → (∀ k, on k → s.poisonNow (pa k) z = false ∧ s.softAt (pa k) z = false) →
      LanesBecome (.vldx v b x e) s (s.vWin v) z n 0 (fun k => { bits := s.readNow (pa k) z, fl := 0 })) ∧
    (here → (∀ j, on j → turn j) →
      ∃ u, exec (.vstx v b x e) s = .next u ∧ u.last = .issued ∧ OnlyMem s u ∧
        (∀ k, on k → (∀ j, on j → k < j → pa j ≠ pa k) → Holds u (pa k) z (vElem (s.vreg (s.vWin v)) z k)) ∧
        ∀ a, (∀ k, on k → a < pa k ∨ pa k + z ≤ a) → u.byte a = s.byte a)

/-- Accesses through translation (R64, R92, R99, R105, R179, R402): a check that fails is the fault it names; one that passes leaves the
access outstanding in its parts, a scalar or an element one part each, a vector access its aligned 8-byte blocks, counted in ld or st, both for an
atomic, with no byte of memory and no register changed yet; a load or atomic has a pending write whose value is still to return. That a vector
access of which no byte is enabled is not made is the model's reading (notes/assumptions/18.md). -/
def Obligations.TranslatedAccesses : Prop :=
  ∀ (s : State) (d v c : BitVec 6) (b : BitVec 4) (z : BitVec 3) (y x : BitVec 1) (i : BitVec 12) (j : BitVec 16) (o : BitVec 3)
      (e : BitVec 2) (k : Checked) (vr : VecRuns) (parts : List OutPart) (pages : List Held) (code : Nat) (q : Word),
    let p := s.lsPtr b i
    let n := 2 ^ z.toNat
    let r := s.lvPtr b j
    let a := s.aOp b
    let m := atomBytes y
    let free (q : Word) (l : Nat) : Prop := s.fcore.wmHeld (vaOf q) l = false ∧ s.fcore.outsFull = false
    let kept (t : Ctx) (hs : List Held) (ld st : Nat) : Ctx := { t.hold_ hs with ld := t.ld + ld, st := t.st + st }
    let runs := maskRuns s.mask
    let wide : Prop := runs ≠ [] ∧ isAp r = false ∧ s.fcore.wmHeldRuns r runs = false ∧ s.fcore.outsFull = false
    let reg := s.vreg (s.vWin v)
    let l := 2 ^ e.toNat
    let es := indexedElems a (s.vreg (s.vWin d)) l s.mask
    let each : Prop := isAp a = false ∧ a.toNat % l = 0 ∧ es ≠ [] ∧ (∀ x ∈ es, s.fcore.wmHeld (vaOf x.2) l = false) ∧
      s.fcore.outsFull = false
    let atomics (f : Instr → Nat → Word → Word → Prop) : Prop :=
      f (.aadd d v b y) m (s.sOp v) 0 ∧ f (.afadd d v b) 4 (s.sOp v) 0 ∧ f (.amin d v b y o) m (s.sOp v) 0 ∧
      f (.amax d v b y o) m (s.sOp v) 0 ∧ f (.alogic d v b y o) m (s.sOp v) 0 ∧ f (.aswp d v b y) m (s.sOp v) 0 ∧
      f (.acas d v b c y) m (s.sOp v) (s.sOp c)
    (isAp p = false → p.toNat % n = 0 → s.fctx.check s p n .rd false = .ok k → free p n →
      Outstanding (.sld d b z x i) s .load [k.part p 0 0] [] (awaiting s (kept s.fctx k.pages 1 0) (sreg d))) ∧
    (isAp p = false → p.toNat % n = 0 → s.fctx.check s p n .wr false = .ok k → free p n →
      Outstanding (.sst v b z i) s .store [k.part p 0 (s.sOp v).toNat] [] (kept s.fctx k.pages 0 1)) ∧
    (isAp p = false → p.toNat % n = 0 → s.fctx.check s p n .rd false = .error code → Traps (.sld d b z x i) s code p 0) ∧
    (isAp p = false → p.toNat % n = 0 → s.fctx.check s p n .wr false = .error code → Traps (.sst v b z i) s code p 0) ∧
    (wide → vectorPieces s r runs .rd = .ok vr → vr.parts r 0 ≠ [] →
      Outstanding (.vld v b j) s .load (vr.parts r 0) [] (kept s.fctx vr.pages 1 0)) ∧
    (wide → vectorPieces s r runs .wr = .ok vr → vr.parts r reg ≠ [] →
      Outstanding (.vst v b j) s .store (vr.parts r reg) [] (kept s.fctx vr.pages 0 1)) ∧
    (∀ part ∈ vr.parts r reg, ∀ pc ∈ part.pieces, pc.val = getBytes reg pc.off pc.len ∧ ∀ pd ∈ part.pieces, pc.off / 8 = pd.off / 8) ∧
    (isAp r = false → vectorPieces s r runs .rd = .error code → Traps (.vld v b j) s code r 0) ∧
    (isAp r = false → vectorPieces s r runs .wr = .error code → Traps (.vst v b j) s code r 0) ∧
    (runs = [] → isAp r = false → vaOf r % 64 = 0 → Happens (.vld v b j) s s ∧ Happens (.vst v b j) s s) ∧
    (es = [] → isAp a = false → a.toNat % l = 0 → Happens (.vldx v b d e) s s ∧ Happens (.vstx v b d e) s s) ∧
    (each → indexedParts s l .rd 0 es = .ok (parts, pages) →
      parts.length = es.length ∧ Outstanding (.vldx v b d e) s .load parts [] (kept s.fctx pages 1 0)) ∧
    (each → indexedParts s l .wr reg es = .ok (parts, pages) →
      parts.length = es.length ∧ Outstanding (.vstx v b d e) s .store parts [] (kept s.fctx pages 0 1)) ∧
    (a.toNat % l = 0 → indexedParts s l .rd 0 es = .error (code, q) → Traps (.vldx v b d e) s code q 0) ∧
    (a.toNat % l = 0 → indexedParts s l .wr reg es = .error (code, q) → Traps (.vstx v b d e) s code q 0) ∧
    atomics (fun ins l w w' => isAp a = false → a.toNat % l = 0 →
      (s.fctx.check s a l .rw false = .error code → Traps ins s code a 0) ∧
      (s.fctx.check s a l .rw false = .ok k → free a l →
        Outstanding ins s .atomic [k.part a 0 0] [w.toNat, w'.toNat] (awaiting s (kept s.fctx k.pages 1 1) (sreg d))))

/-- SPS and SPL (R82, R404): the doubleword of the context's spill partition, with its parity made good or checked; SPL's value is a
pending write. SCALE appends its bytes to the scale queue of an owning context, at most 64 of them with those that are pending in program order, what
earlier MPUSHes have still to take being gone by then; it appends once they have taken it (R55, R160, R395); as a load of the pair store it waits
while a watermark holds the bytes back (R443). The FADDR of 0 of SPL's POISON and of SCALE's ILLOP and
QIMB is the model's choice (notes/assumptions/10.md). -/
def Obligations.SpillsAndScales : Prop :=
  ∀ (s : State) (d : BitVec 7) (x : BitVec 10) (n : BitVec 7) (b : BitVec 4) (i : BitVec 15),
    let p := s.lqPtr b i
    let k := n.toNat
    let pa := apAddr s.focus.core (apOff p)
    let reach : Prop := isAp p = true ∧ apBad p = false ∧ apOff p + k ≤ pairSize
    let turn : Prop := ∀ o ∈ s.fctx.mq, o.seq ≤ s.focus.seq → spanOp o.ins = false
    let pending : Nat := s.fcore.arr.scaleq.length - (s.mqBefore.map (fun o => scalesOf o.ins)).sum
    let alone : Prop := turn ∧ ∀ o ∈ s.fctx.mq, o.seq ≤ s.focus.seq → scalesOf o.ins = 0
    CtxBecomes (.sps d x) s
      { s.fctx with
        spill := s.fctx.spill.set x.toNat (s.opnd d.toNat)
        spillBad := s.fctx.spillBad.filter (fun j => j ≠ x.toNat) } ∧
    (s.fctx.spillBad.contains x.toNat = false → CtxBecomes (.spl d x) s (pended s s.fctx d.toNat (s.fctx.spill.get x.toNat 0) 1)) ∧
    (s.fctx.spillBad.contains x.toNat = true → Traps (.spl d x) s cPOISON 0 0) ∧
    (isAp p = false → Traps (.scale n b i) s cALIGN p 0) ∧
    (isAp p = true → apBad p = true ∨ pairSize < apOff p + k → Traps (.scale n b i) s cAPERTURE p 0) ∧
    (reach → ¬ turn → Waits (.scale n b i) s) ∧
    (reach → turn → s.fctx.span = none → Traps (.scale n b i) s cILLOP 0 0) ∧
    (reach → turn → s.fctx.span.isSome → 64 < pending + k → Traps (.scale n b i) s cQIMB 0 0) ∧
    (reach → turn → s.fctx.span.isSome → pending + k ≤ 64 → ¬ alone → Waits (.scale n b i) s) ∧
    (reach → alone → s.fctx.span.isSome → s.fcore.arr.scaleq.length + k ≤ 64 →
      s.apWaits pa k = true ∨ s.fcore.wmHeld (vaOf p) k = true → Waits (.scale n b i) s) ∧
    (reach → alone → s.fctx.span.isSome → s.fcore.arr.scaleq.length + k ≤ 64 → s.apWaits pa k = false →
      s.fcore.wmHeld (vaOf p) k = false → s.poisonNow pa k = true → Traps (.scale n b i) s cPOISON p 0) ∧
    (reach → alone → s.fctx.span.isSome → s.fcore.arr.scaleq.length + k ≤ 64 → s.apWaits pa k = false →
      s.fcore.wmHeld (vaOf p) k = false → s.poisonNow pa k = false → s.softAt pa k = false →
      CoreBecomes (.scale n b i) s
        { s.fcore with arr := { s.fcore.arr with
            scaleq := s.fcore.arr.scaleq ++ (List.range k).map (fun j => BitVec.ofNat 8 (s.readNow pa k >>> (8 * j))) } })

/-- Atomics through the local aperture (R176, R193, R195, R304 to R306): the word at P becomes the value that the operation gives, no other
byte changes, the old word, extended by zeros, is a pending write that returns 8 cycles later, and AFADD and the FP32 forms raise their flags with it (R87); a poisoned
word, a misaligned pointer or one past the pair store is a fault; it waits behind older accesses of the context to the word (R181) and behind every store of its core to the 64-byte line (R194). -/
def Obligations.Atomics : Prop :=
  ∀ (s : State) (d v c : BitVec 6) (b : BitVec 4) (y : BitVec 1),
    let p := s.aOp b
    let pa := apAddr s.focus.core (apOff p)
    let m (l : Nat) : Nat := s.readMem pa l
    let sg (l w : Nat) : Int := (BitVec.ofNat (8 * l) w).toInt
    let turn (l : Nat) : Prop := s.apWaits pa l = false ∧ s.lineWaits pa l = false
    let does (i : Instr) (l new : Nat) (fl : BitVec 6) : Prop :=
      (p.toNat % l ≠ 0 → Traps i s cALIGN p 0) ∧
      (p.toNat % l = 0 → isAp p = true → apBad p = true → Traps i s cAPERTURE p 0) ∧
      (p.toNat % l = 0 → ApReach s p l → ¬ turn l → Waits i s) ∧
      (p.toNat % l = 0 → ApReach s p l → turn l → s.poisoned pa l = true → Traps i s cPOISON p 0) ∧
      (p.toNat % l = 0 → ApReach s p l → turn l → Sound s pa l → MemOk s →
        ∃ u, exec i s = .next u ∧ u.last = .issued ∧ OnlyMemCtx s u ∧ SameMemBut s u pa l ∧ Holds u pa l new ∧
          u.fctx = { pended s s.fctx (sreg d) (BitVec.ofNat 64 (m l)) 8 with
            flags := if fl = 0 then s.fctx.flags else s.fctx.flags ++ [(s.fcore.clock + 9, fl)] })
    let l := if y = 1 then 8 else 4
    let w : Nat := (s.sOp v).toNat % 2 ^ (8 * l)
    let w4 : Nat := (s.sOp v).toNat % 2 ^ 32
    does (.aadd d v b y) l ((m l + w) % 2 ^ (8 * l)) 0 ∧
    does (.afadd d v b) 4 (addF .f32 (m 4) w4).bits (addF .f32 (m 4) w4).fl ∧
    does (.amin d v b y 0) l (if sg l w < sg l (m l) then w else m l) 0 ∧
    does (.amin d v b y 1) l (min w (m l)) 0 ∧
    does (.amin d v b 0 2) 4 (minMaxF .f32 false (m 4) w4).bits (minMaxF .f32 false (m 4) w4).fl ∧
    does (.amax d v b y 0) l (if sg l (m l) < sg l w then w else m l) 0 ∧
    does (.amax d v b y 1) l (max w (m l)) 0 ∧
    does (.amax d v b 0 2) 4 (minMaxF .f32 true (m 4) w4).bits (minMaxF .f32 true (m 4) w4).fl ∧
    does (.alogic d v b y 0) l (m l &&& w) 0 ∧
    does (.alogic d v b y 1) l (m l ||| w) 0 ∧
    does (.alogic d v b y 2) l (m l ^^^ w) 0 ∧
    does (.aswp d v b y) l w 0 ∧
    does (.acas d v b c y) l (if m l = (s.sOp c).toNat % 2 ^ (8 * l) then w else m l) 0

/-- TAGSET through the local aperture sets the locks of its granules and changes no byte, and records the trace event (R104, R418, R419);
its checks in their order, FADDR 0 with its ILLOP by the model's choice (notes/assumptions/10.md); it waits behind the context's own lock writes and
checked accesses there, and behind what is left of a store that has begun to write there (R103). A translated one is outstanding, one part for each granule, and counted in st. XINV discards held
translations of the context: all of them, or those of the page that holds the address (R445). -/
def Obligations.LocksAndHeldTranslations : Prop :=
  ∀ (s : State) (n : BitVec 6) (b : BitVec 4) (k : BitVec 6) (q : Checked) (code : Nat),
    let p := s.aOp b
    let len := (s.sOp n).toNat
    let lock : BitVec 4 := BitVec.ofNat 4 (s.sOp k).toNat
    let pa := apAddr s.focus.core (apOff p)
    let i : Instr := .tagset n b k
    let good : Prop := 0 < len ∧ len % 32 = 0 ∧ len ≤ 2 ^ 20 ∧ (s.sOp k).toNat < 16
    let here : Prop := good ∧ vaOf p % 32 = 0 ∧ isAp p = true ∧ apBad p = false ∧ apOff p + len ≤ pairSize
    (¬ good → Traps i s cILLOP 0 0) ∧
    (good → vaOf p % 32 ≠ 0 → Traps i s cALIGN p 0) ∧
    (good → vaOf p % 32 = 0 → isAp p = true → apBad p = true ∨ pairSize < apOff p + len → Traps i s cAPERTURE p 0) ∧
    (here → s.tagWaits pa len = true → Waits i s) ∧
    (here → s.tagWaits pa len = false →
      ∃ u, exec i s = .next u ∧ u.last = .issued ∧
        u = { s with locks := u.locks, lockBy := u.lockBy, towers := u.towers, nextOut := s.nextOut + 1, last := u.last } ∧
        (∀ a, u.lock a = if pa ≤ a ∧ a < pa + len then lock else s.lock a) ∧
        u.tower (towerOf s.focus.core) = { s.tower (towerOf s.focus.core) with
          trace := ({ id := s.nextOut, lo := pa, hi := pa + len, lock := lock, core := s.focus.core, ctx := s.focus.ctx, addr := s.focus.addr } ::
            (s.tower (towerOf s.focus.core)).trace).take 4096 } ∧
        ∀ t, t ≠ towerOf s.focus.core → u.tower t = s.tower t) ∧
    (good → vaOf p % 32 = 0 → isAp p = false → s.fctx.checkLock s p len = .error code → Traps i s code p 0) ∧
    (good → vaOf p % 32 = 0 → isAp p = false → s.fctx.checkLock s p len = .ok q → (∃ it ∈ q.items, s.lostAt it.1 = true) →
      Traps i s cLAYERLOST p 0) ∧
    (good → vaOf p % 32 = 0 → isAp p = false → s.fctx.checkLock s p len = .ok q → (∀ it ∈ q.items, s.lostAt it.1 = false) →
      s.fcore.outsFull = false → (∃ it ∈ q.items, it.2 ≠ 0) →
      ∃ u, exec i s = .next u ∧ u.last = .issued ∧ SameMem s u ∧ u.locks = s.locks ∧ u.fctx.st = s.fctx.st + 1 ∧
        ∃ o, u.fcore.outs = s.fcore.outs ++ [o] ∧ o.id = s.nextOut ∧ o.ctx = s.focus.ctx ∧ o.kind = .tagset ∧
          o.parts = (q.items.flatMap (fun it => granules it.1 it.2)).map (granulePart p lock)) ∧
    CtxBecomes .xinvAll s { s.fctx with tlb := [] } ∧
    CtxBecomes (.xinvVa n) s { s.fctx with
      tlb := s.fctx.tlb.filter (fun h => !(decide (h.va ≤ vaOf (s.sOp n)) && decide (vaOf (s.sOp n) < h.va + h.size))) }

/-- Outstanding accesses (R64, R177, R178, R179, R194, R212): a scalar load whose turn has come and that meets no deferred fault reads and returns
its value, and a part of a wider one reads its bytes; a part of a store whose home is the next place on its way writes its bytes, any other goes
on to the next buffer, and the parts that write nothing, which stand for their tag check, are done with the first that writes; a part of a lock
write sets its granule's lock, of a log write its bytes; an atomic changes its word and its old value returns later. With its last part an access counts down. A part whose turn has not come stays. A part reads only
when it meets no fault itself. An access that meets a deferred fault is undone: it no longer counts, it stands in the window again (that of the handler
that the context enters, if it has one), and the context takes the fault. -/
def Obligations.AccessesReturnAndPerform : Prop :=
  ∀ (s : State) (c k : Nat) (o : Out) (j : Nat) (p : OutPart) (pa n off v : Nat), c < numCores → s.out c k = some o → o.parts[j]? = some p →
    p.pieces = [{ pa := pa, len := n, off := off, val := v }] →
    let x := o.ctx
    let t := s.ctx c x
    let clear : Prop := s.clear c o j p = true ∧ s.outFault c o = none ∧ (o.kind = .load → s.partFault c o p = none)
    let gone (u : State) : Prop := (u.core c).outs = (s.core c).outs.filter (fun q => q.id ≠ k)
    let now (u : State) (o' : Out) : Prop := (u.core c).outs = (s.core c).outs.map (fun q => if q.id = k then o' else q)
    let idle (q : OutPart) : Prop := o.kind = .store ∧ q.pieces = []
    let did (q : OutPart) : Out := { o with parts := (o.parts.set j { q with done := true }).map (fun z =>
      if o.kind = .store ∧ z.pieces = [] then { z with done := true } else z) }
    let final : Prop := ∀ i q, o.parts[i]? = some q → i ≠ j → q.done = true ∨ idle q
    let counts (u : State) (n : Nat) : Prop :=
      (final → gone u ∧ (u.ctx c x).st = t.st - n) ∧ (¬ final → now u (did p) ∧ (u.ctx c x).st = t.st)
    (∀ (d : BitVec 6) (b : BitVec 4) (z : BitVec 3) (y : BitVec 1) (i : BitVec 12), o.kind = .load → clear →
      o.op.ins = .sld d b z y i → o.parts = [p] → n = 2 ^ z.toNat → off = 0 →
      ∃ u, exec (.loadValueReturn c (k, j)) s = .next u ∧ u.last = .issued ∧ gone u ∧ SameMem s u ∧ (u.ctx c x).ld = t.ld - 1 ∧
        (∀ w ∈ t.pend, w.seq = o.op.seq → w.slot = 3 → w.reg = sreg d → w.val = none → w.released = false →
          { w with val := some (extend n (y = 1) (s.readFor c x k pa n)) } ∈ (u.ctx c x).pend)) ∧
    (o.kind = .load → clear → ¬ final →
      ∃ u, exec (.loadValueReturn c (k, j)) s = .next u ∧ u.last = .issued ∧ SameMem s u ∧ (u.ctx c x).ld = t.ld ∧
        now u (did { p with pieces := [{ pa := pa, len := n, off := off, val := s.readFor c x k pa n }] })) ∧
    (o.kind = .load → ¬ clear → NotNow (.loadValueReturn c (k, j)) s) ∧
    (o.kind = .store → clear → stagesTo c pa ≤ p.stage →
      ∃ u, exec (.storePerform c (k, j)) s = .next u ∧ u.last = .issued ∧ Holds u pa n v ∧ SameMemBut s u pa n ∧ counts u 1) ∧
    (o.kind = .store → clear → p.stage < stagesTo c pa →
      ∃ u, exec (.storePerform c (k, j)) s = .next u ∧ u.last = .issued ∧ SameMem s u ∧ (u.ctx c x).st = t.st ∧
        now u (o.setPart j { p with stage := p.stage + 1, stamp := s.nextOut })) ∧
    (o.kind = .tagset → clear → pa % 32 = 0 → n = 32 →
      ∃ u, exec (.storePerform c (k, j)) s = .next u ∧ u.last = .issued ∧ SameMem s u ∧ counts u 1 ∧
        ∀ a, u.lock a = if pa ≤ a ∧ a < pa + n then BitVec.ofNat 4 v else s.lock a) ∧
    (o.kind = .log → clear →
      ∃ u, exec (.storePerform c (k, j)) s = .next u ∧ u.last = .issued ∧ Holds u pa n v ∧ SameMemBut s u pa n ∧ counts u 0) ∧
    (∀ w w' (d r q : BitVec 6) (b : BitVec 4) (y : BitVec 1), MemOk s → o.kind = .atomic → clear → o.parts = [p] → off = 0 →
      o.vals = [w, w'] →
      let m (l : Nat) : Nat := s.readMem pa l
      let sg (l a : Nat) : Int := (BitVec.ofNat (8 * l) a).toInt
      let performs (i : Instr) (l new : Nat) (fl : BitVec 6) : Prop := o.op.ins = i → n = l →
        ∃ u, exec (.storePerform c (k, j)) s = .next u ∧ u.last = .issued ∧ Holds u pa l new ∧
          SameMemBut s u pa l ∧ (u.ctx c x).st = t.st - 1 ∧ (u.ctx c x).ld = t.ld ∧
          now u { o with kind := .value, parts := [{ p with done := true }], vals := [m l, fl.toNat] }
      let l := if y = 1 then 8 else 4
      let a : Nat := w % 2 ^ (8 * l)
      let a4 : Nat := w % 2 ^ 32
      performs (.aadd d r b y) l ((m l + a) % 2 ^ (8 * l)) 0 ∧
      performs (.afadd d r b) 4 (addF .f32 (m 4) a4).bits (addF .f32 (m 4) a4).fl ∧
      performs (.amin d r b y 0) l (if sg l a < sg l (m l) then a else m l) 0 ∧
      performs (.amin d r b y 1) l (min a (m l)) 0 ∧
      performs (.amin d r b 0 2) 4 (minMaxF .f32 false (m 4) a4).bits (minMaxF .f32 false (m 4) a4).fl ∧
      performs (.amax d r b y 0) l (if sg l (m l) < sg l a then a else m l) 0 ∧
      performs (.amax d r b y 1) l (max a (m l)) 0 ∧
      performs (.amax d r b 0 2) 4 (minMaxF .f32 true (m 4) a4).bits (minMaxF .f32 true (m 4) a4).fl ∧
      performs (.alogic d r b y 0) l (m l &&& a) 0 ∧
      performs (.alogic d r b y 1) l (m l ||| a) 0 ∧
      performs (.alogic d r b y 2) l (m l ^^^ a) 0 ∧
      performs (.aswp d r b y) l a 0 ∧
      performs (.acas d r b q y) l (if m l = w' % 2 ^ (8 * l) then a else m l) 0) ∧
    (o.kind = .store ∨ o.kind = .tagset ∨ o.kind = .log ∨ o.kind = .atomic → ¬ clear → NotNow (.storePerform c (k, j)) s) ∧
    (∀ m fl (d : BitVec 6) (e : AtomicOp) (f : Nat), o.kind = .value → atomicOf o.op.ins = some (e, f, d) → o.vals = [m, fl] →
      ∃ u, exec (.loadValueReturn c (k, j)) s = .next u ∧ u.last = .issued ∧ gone u ∧ SameMem s u ∧ (u.ctx c x).ld = t.ld - 1 ∧
        (u.ctx c x).csr.fpcsr = t.csr.fpcsr ||| BitVec.ofNat 6 fl ∧
        (∀ w ∈ t.pend, w.seq = o.op.seq → w.slot = 3 → w.reg = sreg d → w.val = none → w.released = false →
          { w with val := some (BitVec.ofNat 64 m) } ∈ (u.ctx c x).pend)) ∧
    (∀ code info ptr, s.outFault c o = some (code, info, ptr) → x < numCtxs →
      (∀ q ∈ (s.core c).outs, q.ctx = x → q.id = k) → (∀ sp, t.span = some sp → sp.gang = none) → t.hold = .none → t.ended = false → t.stopped = false →
      t.handler = none → bit (s.owl (towerOf c)).trctl 0 = false →
      ∃ u, exec (.deferredFault c x) s = .next u ∧ u.last = .issued ∧ gone u ∧ SameMem s u ∧ (u.ctx c x).csr.fpc = o.op.addr ∧
        (u.ctx c x).csr.faddr = ptr ∧ (u.ctx c x).csr.finfo = BitVec.ofNat 64 (code + o.op.slot * 256 + info) ∧
        (u.ctx c x).ld = t.ld - o.kind.loads ∧ (u.ctx c x).st = t.st - o.kind.stores ∧
        (o.op.links = [] → (t.hvec = 0 → o.op ∈ (u.ctx c x).lq) ∧
          (t.hvec ≠ 0 → ∃ h, (u.ctx c x).handler = some h ∧ o.op ∈ h.lq)))

/-! ## Barriers, rings and watermarks (R117 to R124, R157, R309 to R313, R391 to R393, R443) -/

/-- The five barrier operations (R119, R120, R310, R311): their pointer and value checks; the barrier's words after BARINIT, BARARM and
BARARR, where no firing or only unbound ones follow; a firing bound to a token completes it, and cp counts the token's command no more (R64); the
words that they read are corrected (R223); BARTST's value is a pending write;
BARWAIT holds the L queue until PHASE differs from its operand. Each acts at its home, behind the context's older accesses of the barrier's words (R176,
R179). BARINIT's slot joins the barriers that a save of the context writes (R219). The FADDR of 0 of ILLOP is the model's choice
(notes/assumptions/10.md); so is what becomes of reserved bits that a store has set (notes/assumptions/64.md). -/
def Obligations.Barriers : Prop :=
  ∀ (s : State) (e x y : BitVec 6) (b : BitVec 4),
    let p := s.aOp b
    let q := pairOf s.focus.core
    let pa := barAddr q (apOff p / 64)
    let old := s.bar pa
    let v := s.sOp e
    let n := bits v 47 0
    let all (code : Nat) : Prop := Traps (.barinit e b x y) s code p 0 ∧ Traps (.bararm e b) s code p 0 ∧
      Traps (.bararr e b) s code p 0 ∧ Traps (.bartst e b) s code p 0 ∧ Traps (.barwait e b) s code p 0
    let good : Prop := isAp p = true ∧ apBad p = false ∧ p.toNat % 64 = 0
    let becomes (i : Instr) (k : Bar) : Prop :=
      ∃ u, exec i s = .next u ∧ u.last = .issued ∧ OnlyMem s u ∧ SameMemBut s u pa 40 ∧ u.bar pa = k
    let turn : Prop := good ∧ s.apWaits (apAddr s.focus.core (apOff p)) 40 = false
    let sound : Prop := turn ∧ s.softAt pa 40 = false
    let corrects (i : Instr) : Prop := exec i s = exec i (s.correct pa 40)
    let armed : Bar := { old with expected := n, status := 0, stop := 0, armed := true }
    let got := min (old.arrived + n) (2 ^ 48 - 1)
    let unbound : Prop := old.bind0 = 0 ∧ old.bind1 = 0
    (isAp p = false → all cALIGN) ∧
    (isAp p = true → apBad p = true → all cAPERTURE) ∧
    (isAp p = true → apBad p = false → p.toNat % 64 ≠ 0 → all cALIGN) ∧
    (good → 2 ^ 48 ≤ v.toNat → Traps (.barinit e b x y) s cILLOP 0 0 ∧ Traps (.bararm e b) s cILLOP 0 0 ∧ Traps (.bararr e b) s cILLOP 0 0) ∧
    (good → 2 ≤ v.toNat → Traps (.barwait e b) s cILLOP 0 0) ∧
    (good → s.apWaits (apAddr s.focus.core (apOff p)) 40 = true →
      (v.toNat < 2 ^ 48 → Waits (.barinit e b x y) s ∧ Waits (.bararm e b) s ∧ Waits (.bararr e b) s) ∧ Waits (.bartst e b) s ∧
      (v.toNat < 2 → Waits (.barwait e b) s)) ∧
    (turn → v.toNat < 2 ^ 48 →
      (∃ u, exec (.barinit e b x y) s = .next u ∧ u.last = .issued ∧ SameMemBut s u pa 40 ∧
        u = { s with mem := u.mem, poison := u.poison, soft := u.soft, cores := u.cores, last := u.last } ∧
        (∀ c, c ≠ s.focus.core → u.core c = s.core c) ∧ u.fcore = { s.fcore with ctxs := u.fcore.ctxs } ∧
        (∀ z, z ≠ s.focus.ctx → u.ctx s.focus.core z = s.ctx s.focus.core z) ∧
        u.fctx = { s.fctx with
          bars := if apOff p / 64 ∈ s.fctx.bars then s.fctx.bars else s.fctx.bars ++ [apOff p / 64] } ∧
        u.bar pa = { expected := n, arrived := 0, phase := false, armed := false, bind0 := s.sOp x, bind1 := s.sOp y, status := 0
                     stop := 0 }) ∧
      corrects (.bararm e b) ∧ corrects (.bararr e b)) ∧
    (sound → v.toNat < 2 ^ 48 →
      (old.arrived < n → becomes (.bararm e b) armed) ∧
      (unbound → 0 < n → becomes (.bararm e b)
        { armed with arrived := old.arrived % n, phase := old.phase ^^ decide (old.arrived / n % 2 = 1) }) ∧
      (unbound → n = 0 → becomes (.bararm e b) { armed with armed := false, phase := !old.phase }) ∧
      (old.armed = false ∨ got < old.expected → becomes (.bararr e b) { old with arrived := got }) ∧
      (unbound → old.armed = true → 0 < old.expected → becomes (.bararr e b)
        { old with arrived := got % old.expected, phase := old.phase ^^ decide (got / old.expected % 2 = 1) }) ∧
      (badBind old.bind0 = false → bits old.bind0 2 0 = 2 → old.bind1 = 0 → old.armed = true → 0 < old.expected →
        old.expected ≤ got → got < 2 * old.expected →
        let c := 96 * (q / 48) + bits old.bind0 9 3
        let z := bits old.bind0 12 10
        ∃ u, exec (.bararr e b) s = .next u ∧ u.bar pa = { old with arrived := got - old.expected, phase := !old.phase } ∧
          u.ctx c z = if bit (s.ctx c z).tokens (bits old.bind0 17 13)
            then { s.ctx c z with tokens := (s.ctx c z).tokens &&& ~~~(1#32 <<< bits old.bind0 17 13), cp := (s.ctx c z).cp - 1 }
            else s.ctx c z)) ∧
    (turn → corrects (.bartst e b)) ∧
    (sound → CtxBecomes (.bartst e b) s
      (pended s s.fctx (sreg e)
        (BitVec.ofNat 64 (old.status.toNat * 2 ^ 32 + (if old.armed then 2 else 0) + if old.phase then 1 else 0)) 6)) ∧
    (turn → v.toNat < 2 → old.phase = bit v 0 → Waits (.barwait e b) s) ∧
    (turn → v.toNat < 2 → old.phase ≠ bit v 0 → corrects (.barwait e b)) ∧
    (sound → v.toNat < 2 → old.phase ≠ bit v 0 → CtxBecomes (.barwait e b) s s.fctx)

/-- RINGCFG, RPOP and WMARK (R121 to R124, R157, R392, R443): a descriptor that passes its checks forms a new instance and gives the
core its ring with the cursor at HEAD and ROFF 0, the rows of its landed slots present after the latency of its level; a ring joins the
instance that agrees with it, and RINGOVER tells where one does not; RPOP pops the slot at the cursor, waits for a producer or raises
RINGUNDER; WMARK binds its register once no command still advances it. FADDR 0 of RINGUNDER and of WMARK's ILLOP is
notes/assumptions/10.md, and POISON for a poisoned descriptor notes/assumptions/16.md. -/
def Obligations.RingsAndWatermarks : Prop :=
  ∀ (s : State) (b n : BitVec 4) (l h : BitVec 6) (base : Nat) (hs : List Held) (r : Ring) (i : RingInst),
    let c := s.focus.core
    let g := settOf c
    let p := s.aOp b
    let a := apAddr c (apOff p)
    let d : RingDesc := { w0 := s.wordNow a, w1 := s.wordNow (a + 8) }
    let there : Prop := isAp p = true ∧ apBad p = false ∧ p.toNat % 16 = 0
    let good : Prop := there ∧ s.apWaits a 16 = false ∧ s.poisonNow a 16 = false
    let ns := countsFrom d.head i.tail
    let place : Prop := d.illegal c = false ∧ d.field % d.size = 0 ∧ s.lostAt base = false ∧
      ((d.loc = 0 ∧ d.field + d.count * d.size ≤ pairSize ∧ base = apAddr c d.field ∧ hs = []) ∨
       (d.loc ≠ 0 ∧ ringVa s s.fctx d.field (d.count * d.size) d.loc = some (base, hs)))
    let ring : Ring :=
      { inst := base, cursor := d.head, roff := 0, ctx := s.focus.ctx
        present := (countsFrom d.head d.tail).map (fun m => (m, s.fcore.clock + rowLatency d.loc)) }
    let lo := vaOf (s.sOp l)
    let hi := vaOf (s.sOp h)
    (isAp p = false → Traps (.ringcfg b n) s cALIGN p 0) ∧
    (isAp p = true → apBad p = true → Traps (.ringcfg b n) s cAPERTURE p 0) ∧
    (isAp p = true → apBad p = false → p.toNat % 16 ≠ 0 → Traps (.ringcfg b n) s cALIGN p 0) ∧
    (there → s.apWaits a 16 = true → Waits (.ringcfg b n) s) ∧
    (there → s.apWaits a 16 = false → s.poisonNow a 16 = true → Traps (.ringcfg b n) s cPOISON p 0) ∧
    (good → d.illegal c = true → Traps (.ringcfg b n) s cILLOP p 0) ∧
    (good → d.illegal c = false → d.field % d.size ≠ 0 → Traps (.ringcfg b n) s cALIGN p 0) ∧
    (good → d.illegal c = false → d.field % d.size = 0 → d.loc = 0 → pairSize < d.field + d.count * d.size →
      Traps (.ringcfg b n) s cAPERTURE p 0) ∧
    (good → d.illegal c = false → d.field % d.size = 0 → d.loc ≠ 0 → ringVa s s.fctx d.field (d.count * d.size) d.loc = none →
      Traps (.ringcfg b n) s cXLATE d.w0 0) ∧
    (good → place → s.fcore.rings.find n.toNat = some r → s.inst g r.inst = some i →
      (∃ e ∈ i.live, e.2.getLsbD (settIdx c) = true) → Traps (.ringcfg b n) s cRINGOVER p 0) ∧
    (good → place → s.fcore.rings.find n.toNat = none → s.inst g base = some i →
      s.otherRing g base c n.toNat = true ∨ s.producer g base = true → d.agrees i = false → Traps (.ringcfg b n) s cRINGOVER p 0) ∧
    (good → place → s.softAt a 16 = false → s.fcore.rings.find n.toNat = none → s.otherRing g base c n.toNat = false → s.producer g base = false →
      s.inst g base = none →
      ∃ u, exec (.ringcfg b n) s = .next u ∧ u.last = .issued ∧
        u = { s with cores := u.cores, insts := s.insts ++ [d.form c base], last := u.last } ∧
        (∀ k, k ≠ c → u.core k = s.core k) ∧
        u.fcore = { s.fcore with ctxs := u.fcore.ctxs, rings := s.fcore.rings.set n.toNat ring } ∧
        (∀ x, x ≠ s.focus.ctx → u.ctx c x = s.ctx c x) ∧ u.fctx = s.fctx.hold_ hs) ∧
    (good → place → s.fcore.rings.find n.toNat = none → s.inst g base = some i → s.otherRing g base c n.toNat = true →
      d.agrees i = true →
      ∃ u j q, exec (.ringcfg b n) s = .next u ∧ u.last = .issued ∧ SameMem s u ∧ u.fcore.rings.find n.toNat = some q ∧
        q.inst = base ∧ q.cursor = d.head ∧ q.roff = 0 ∧ q.ctx = s.focus.ctx ∧
        u.inst g base = some j ∧ j = { i with live := j.live } ∧
        ∀ x, j.live.get x 0 = if ∃ m ∈ ns, (m - i.head).toNat < i.filled ∧ i.slot m = x
          then i.live.get x 0 ||| (1#16 <<< settIdx c) else i.live.get x 0) ∧
    (s.fcore.rings.find n.toNat = none → Traps (.rpop n) s cRINGUNDER 0 0) ∧
    (s.fcore.rings.find n.toNat = some r → s.inst g r.inst = some i → r.cursor = i.tail →
      (s.producer i.sett i.base = true → Waits (.rpop n) s) ∧ (s.producer i.sett i.base = false → Traps (.rpop n) s cRINGUNDER 0 0)) ∧
    (s.fcore.rings.find n.toNat = some r → s.inst g r.inst = some i → r.cursor ≠ i.tail →
      ∃ u, exec (.rpop n) s = .next u ∧ u.last = .issued ∧ u = { s with cores := u.cores, insts := u.insts, last := u.last } ∧
        (∀ k, k ≠ c → u.core k = s.core k) ∧
        u.fcore = { s.fcore with rings := s.fcore.rings.set n.toNat { r with cursor := r.cursor + 1, roff := 0 } } ∧
        u.inst g r.inst = some (i.setBits r.cursor (i.bits r.cursor &&& ~~~(1#16 <<< settIdx c))).free) ∧
    (hi < lo → Traps (.wmark l h n) s cILLOP 0 0) ∧
    (lo ≤ hi → (∃ k ∈ s.cmds, k.core = c ∧ k.advances n.toNat = true) → Waits (.wmark l h n) s) ∧
    (lo ≤ hi → (∀ k ∈ s.cmds, k.core = c → k.advances n.toNat = false) →
      CoreBecomes (.wmark l h n) s { s.fcore with wm := s.fcore.wm.set n.toNat { lo := lo, hi := hi, mark := lo, got := [], task := s.fctx.task } })

/-! ## Gangs, signals and launches (R197, R200, R203, R351, R357, R358, R398, R399) -/

/-- GSYNC holds its bundle from its arrival to its release; a gang of one goes on at once; the release frees every member that has
arrived, once all have arrived, ended or been freed (R351). SIGNAL sends one decrement to its tower's Marten; a decrement lowers
the counter of its task, makes the task runnable when the counter reaches 0 and its named barriers have fired, and notes
CTRUNDER at 0 (R41, R203, R398, R399); of several on their way any is next, but those of one cycle apply in the order of their cores, so that one from a
lower core than the last belongs to a later cycle (R203); SIGNAL's ILLOP has FADDR 0 (notes/assumptions/10.md). -/
def Obligations.GangsAndSignals : Prop :=
  (∀ (s : State) (k : Nat) (b : BoundTask),
    (s.fctx.hold = .gsyncDone → CtxBecomes .gsync s { s.fctx with hold := .none }) ∧
    (s.fctx.hold = .gsync → Waits .gsync s) ∧
    (s.fctx.hold = .none → s.task s.fctx.task = some b → b.members.length ≤ 1 → CtxBecomes .gsync s s.fctx) ∧
    (s.fctx.hold = .none → s.task s.fctx.task = some b → 1 < b.members.length →
      ∃ u, exec .gsync s = .next u ∧ u.last = .waits ∧ SameMem s u ∧ u.fctx = { s.fctx with hold := .gsync } ∧
        u.task s.fctx.task = some { b with arrived := b.arrived ++ [s.fctx.member] } ∧
        (∀ j, j ≠ s.fctx.task → u.task j = s.task j) ∧ ∀ c x, (c, x) ≠ (s.focus.core, s.focus.ctx) → u.ctx c x = s.ctx c x) ∧
    (s.task k = some b → b.arrived ≠ [] → s.gangArrived b = true →
      ∃ u, exec (.gsyncRelease k) s = .next u ∧ u.last = .issued ∧ SameMem s u ∧ u.task k = some { b with arrived := [] } ∧
        (∀ i ∈ b.arrived, ∀ m, b.members[i]? = some m → u.ctx m.1 m.2 = { s.ctx m.1 m.2 with hold := .gsyncDone }) ∧
        ∀ c x, (∀ i ∈ b.arrived, b.members[i]? ≠ some (c, x)) → u.ctx c x = s.ctx c x) ∧
    (s.task k = some b → b.arrived ≠ [] → s.gangArrived b = false → NotNow (.gsyncRelease k) s)) ∧
  (∀ (s : State) (a : BitVec 6) (t : Nat) (b : BoundTask) (g : SignalMsg) (h : Graph) (z : TaskSt),
    let v := s.sOp a
    let m := s.marten t
    let n := m.counters.get (h.base + g.idx) 0
    let pick := s.turn m.signals.length
    let src := 2 * g.core + 2
    let m' : Marten :=
      if src < m.lastSrc then { m with cycle := m.cycle + 1, placed := false, lastSrc := src } else { m with lastSrc := src }
    let live : Prop := t < numTowers ∧ m.signals[pick.1]? = some g ∧ m.graphs.find? (fun h => h.order = g.graph) = some h ∧
      h.abandoned = false ∧ h.torndown = false ∧ h.rejected = false
    let up : TaskSt := { z with stage := .runnable, order := m'.cycle, queued := decide (m.queued h < 4096) }
    let after (cs : Tab Nat) (h' : Graph) : Prop :=
      ∃ u, exec (.signalDecrement t) s = .next u ∧ u.last = .issued ∧ u = { pick.2 with towers := u.towers, last := u.last } ∧
        (∀ j, j ≠ t → u.tower j = s.tower j) ∧ u.tower t = { s.tower t with marten := { m' with
          signals := m.signals.eraseIdx pick.1
          counters := cs
          graphs := m.graphs.map (fun k => if k.order = g.graph then h' else k) } }
    (65536 ≤ v.toNat → Traps (.signal a) s cILLOP 0 0) ∧
    (v.toNat < 65536 → s.task s.fctx.task = some b →
      MartenBecomes (.signal a) s b.tower { s.marten b.tower with
        signals := (s.marten b.tower).signals ++ [{ core := s.focus.core, graph := b.graph, src := b.idx, idx := v.toNat }] }) ∧
    (live → gNtask h.desc ≤ g.idx → after m.counters (h.note cILLOP g.src)) ∧
    (live → g.idx < gNtask h.desc → n = 0 → after m.counters (h.note cCTRUNDER g.idx)) ∧
    (live → g.idx < gNtask h.desc → 2 ≤ n → after (m.counters.set (h.base + g.idx) (n - 1)) h) ∧
    (live → g.idx < gNtask h.desc → n = 1 → h.tasks.find g.idx = some z → z.stage = .waiting → allFired z = true →
      after (m.counters.set (h.base + g.idx) 0)
        { h with tasks := h.tasks.set g.idx up }) ∧
    (t < numTowers → m.signals = [] → NotNow (.signalDecrement t) s))

/-- LAUNCH captures the 64 bytes at its pointer and sends them to the Marten that they name, waiting while 16 stand in its input; there
a launch joins the arrivals, or is discarded and counted when its launching graph has been torn down (R197, R357, R358). POISON for a poisoned
descriptor is notes/assumptions/16.md. -/
def Obligations.DeviceLaunches : Prop :=
  ∀ (s : State) (a : BitVec 6) (b : BoundTask) (t : Nat) (l : Launch) (r : List Launch),
    let p := s.sOp a
    let pa := apAddr s.focus.core (apOff p)
    let d := s.wordsNow pa 8
    let w := bits (nth d 2) 34 32
    let there : Prop := isAp p = true ∧ apBad p = false ∧ vaOf p % 64 = 0
    let good : Prop := there ∧ s.apWaits pa 64 = false ∧ s.poisonNow pa 64 = false
    (isAp p = false → Traps (.launch a) s cALIGN p 0) ∧
    (isAp p = true → apBad p = true → Traps (.launch a) s cAPERTURE p 0) ∧
    (isAp p = true → apBad p = false → vaOf p % 64 ≠ 0 → Traps (.launch a) s cALIGN p 0) ∧
    (there → s.apWaits pa 64 = true → Waits (.launch a) s) ∧
    (there → s.apWaits pa 64 = false → s.poisonNow pa 64 = true → Traps (.launch a) s cPOISON p 0) ∧
    (good → 16 ≤ (s.marten w).deviceInput → Waits (.launch a) s) ∧
    (good → (s.marten w).deviceInput < 16 → s.task s.fctx.task = some b →
      MartenBecomes (.launch a) s w { s.marten w with inflight := (s.marten w).inflight ++
        [{ desc := d, host := none, core := s.focus.core, ctx := s.focus.ctx, task := s.fctx.task, tower := b.tower, graph := b.graph,
           fires := [] }] }) ∧
    (t < numTowers → (s.marten t).inflight = l :: r → l.host = none → s.tornDown l.tower l.graph = false →
      MartenBecomes (.deviceLaunchArrive t) s t
        { s.marten t with inflight := r, arrivals := (s.marten t).arrivals ++ [l] }) ∧
    (t < numTowers → (s.marten t).inflight = l :: r → l.host = none → s.tornDown l.tower l.graph = true →
      ∃ u, exec (.deviceLaunchArrive t) s = .next u ∧ SameMem s u ∧ (u.marten t).arrivals = (s.marten t).arrivals ∧
        (u.marten t).inflight = r)

/-! ## Record mode and the reverse walk (R228 to R231, R240, R243, R384, R385, R389) -/

/-- Record mode. RECON's checks and what it arms; RECOFF, which waits for every log write of the context; both after realigning (R230,
R231, R385). A tile operation has the effect it has outside record mode, and writes its record at LOGPTR.ADDR: header, the operands its
adjoint needs as saved, kept or recomputed by the policy, the mask; or it raises LOGOVF past LIMIT, or the fault of the log write that
fails first, or ILLOP in a recorded span (R228, R232 to R234, R236, R237). MSPAN reserves 37,952 bytes and writes the header; the 65th beat
of a kind is ILLOP; each of the six beats writes its entry, MPUSH and MSHIFT the row's item and MACC its 256 bytes of scales; MEND writes LEN, NBEAT
and RFLAG (R233, R235). Where the parts of a span's record are written before MEND is notes/assumptions/61.md; that a log write is checked in parts of 64
bytes, the fault being that of the part that fails first, is notes/assumptions/16.md; FADDR 0 of ILLOP is notes/assumptions/10.md. -/
def Obligations.RecordMode : Prop :=
  (∀ (s : State) (p l : BitVec 6) (o : BitVec 2) (q : Checked),
    let v := s.realignF
    let k := realigned s
    let base := k.reg (sreg p)
    let lim := k.reg (sreg l)
    let i : Instr := .recon p l o
    let turn : Prop := MayRealign s ∧ s.focus.caps = [] ∧ k.stalled [sreg p, sreg l] = false
    let off : Prop := k.csr.recording = false ∧ k.csr.rev = false ∧ k.handler = none ∧ k.span = none
    let fits : Prop := bits base 63 60 = 0 ∧ vaOf base % 64 = 0 ∧ bits lim 63 56 = 0 ∧ lim.toNat % 64 = 0 ∧ vaOf base < vaOf lim
    (turn → ¬ off → Traps i s cILLOP 0 0) ∧
    (turn → off → bits base 63 60 ≠ 0 ∨ vaOf base % 64 ≠ 0 → Traps i s cALIGN base 0) ∧
    (turn → off → bits base 63 60 = 0 → vaOf base % 64 = 0 → ¬ fits → Traps i s cILLOP 0 0) ∧
    (∀ code, turn → off → fits → v.fctx.check v base 1 .wr true = .error code → Traps i s code base 0) ∧
    (turn → off → fits → v.fctx.check v base 1 .wr true = .ok q → q.level = 0 → Traps i s cPERM base 0) ∧
    (turn → off → fits → v.fctx.check v base 1 .wr true = .ok q → q.level ≠ 0 →
      CtxBecomes i s { k.hold_ q.pages with
        prods := []
        rowix := []
        recSeq := s.focus.seq
        csr := { k.csr with
          logptr := base + 1
          loglim := lim + 16 * o.setWidth 64
          revcur := 0
          recording := true } }) ∧
    (MayRealign s → k.csr.recording = false → CtxBecomes .recoff s k) ∧
    (MayRealign s → k.csr.recording = true → k.recSpan.isSome → Traps .recoff s cILLOP 0 0) ∧
    (MayRealign s → k.csr.recording = true → k.recSpan = none →
      (∃ e ∈ s.fcore.outs, e.ctx = s.focus.ctx ∧ e.kind = .log) → Waits .recoff s) ∧
    (MayRealign s → k.csr.recording = true → k.recSpan = none →
      (∀ e ∈ s.fcore.outs, e.ctx = s.focus.ctx → e.kind ≠ .log) →
      CtxBecomes .recoff s { k with csr := { k.csr with recording := false } })) ∧
  (∀ (s : State) (d a b c : BitVec 6) (f g : BitVec 3) (h : BitVec 2) (i : Instr) (needs : Nat) (ob : Option (BitVec 6)) (scal : Word)
      (e : Nat × Nat),
    let low (n : Nat) (r : BitVec 6) : Word := BitVec.ofNat 64 ((s.sOp r).toNat % 2 ^ n)
    let tiles : List (Instr × Nat × Option (BitVec 6) × Word) :=
      [(.tadd d a b f g, 0, some b, 0), (.tmul d a b f g, 6, some b, 0), (.tscale d a b f g, 0, none, low 32 b),
       (.tbias d a b f g, 0, some b, 0), (.trelu d a f g, 2, none, 0), (.tgelu d a f g, 2, none, 0), (.tsilu d a f g, 2, none, 0),
       (.texp d a f g, 1, none, 0), (.tsoftmax d a f g, 1, none, 0), (.trmsn d a b c h, 6, some b, low 32 c),
       (.tmask d a b c h, 4, some b, low (inFmt h.toNat).width c), (.ttrans d a f g, 0, none, 0), (.tcvt d a f g, 0, none, 0)]
    let t := s.fctx
    let ptr := t.logAddr
    let pd := s.vDst d
    let pa := s.vSrc a
    let pb := (ob.map s.vWin).getD 0
    let pol := bits t.csr.loglim 5 4
    let chain (p : Nat) : Nat × Nat := t.prods.get (t.window p) (0, 0)
    let short (p : Nat) : Bool := ((t.prods.find (t.window p)).map (fun y => decide (y.2 ≤ 2))).getD false
    let flag (k p : Nat) : Nat :=
      if needs.testBit k = false then 0 else if pol = 1 then 2 else if pol = 2 ∧ k ≠ 0 ∧ short p = true then 3 else 1
    let fd := flag 0 pd
    let fa := flag 1 pa
    let fb := flag 2 pb
    let masked := !t.masks.isEmpty
    let len := 64 + flagSize fd + flagSize fa + flagSize fb + (if masked then 512 else 0)
    let back := if t.logNew then t.revAddr else (ptr + 2 ^ 56 - t.revAddr) % 2 ^ 56
    let word (n : Nat) : Word := BitVec.ofNat 64 n
    let header : List Word :=
      [word (back * 256 + bnat masked * 32 + bnat t.logNew * 16 + 2), word (len * 2 ^ 32 + ((encode i).getD 0).toNat),
       word (s.focus.lent % 16 * 2 ^ 48 + (fd + 4 * fa + 16 * fb) * 2 ^ 40 + pd + pa * 2 ^ 10 + pb * 2 ^ 20), scal, 0,
       word (if fa = 3 then (chain pa).1 else 0), word (if fb = 3 then (chain pb).1 else 0), 0]
    let depth := max (if fa = 3 then (chain pa).2 + 1 else 0) (if fb = 3 then (chain pb).2 + 1 else 0)
    let on : Prop := s.recordsNow = true ∧ t.recSpan = none
    (i, needs, ob, scal) ∈ tiles →
    (t.recSpan.isSome → Traps i s cILLOP 0 0) ∧
    (on → t.logLimit < ptr + len → Traps i s cLOGOVF (t.logPtr ptr) 0) ∧
    (on → ptr + len ≤ t.logLimit → LogFails s ptr len e → Traps i s e.1 (t.logPtr ptr) e.2) ∧
    (on → ptr + len ≤ t.logLimit → LogTakes s ptr len →
      ∃ u v, exec i (s.modF (fun t => { t with csr := { t.csr with recording := false } })) = .next v ∧ v.last = .issued ∧
        Logs s u i ptr (wordsBytes header ++ flagBytes fd (u.fcore.vreg pd) ++ flagBytes fa (s.vreg pa) ++ flagBytes fb (s.vreg pb) ++
          (if masked then bytesOf 512 s.mask.toNat else [])) ∧
        u.fcore.vregs = v.fcore.vregs ∧ u.fcore.acc = s.fcore.acc ∧ u.fctx.flags = v.fctx.flags ∧
        u.fctx.csr = { t.csr with logptr := word (t.logKey * 2 ^ 56 + (ptr + len) % 2 ^ 56), revcur := word ptr } ∧
        ∀ fi fo, tileFmts i = some (fi, fo) → u.fctx.prods =
          if fi.bytes ≤ fo.1.bytes ∧ masked = false ∧ t.window pd < 64 then v.fctx.prods.set (t.window pd) (ptr, depth) else v.fctx.prods)) ∧
  (∀ (s : State) (r z vs l : BitVec 6) (im : BitVec 12) (jm : BitVec 5) (q : BitVec 4) (f : BitVec 3) (keep tr pd : BitVec 1) (sp : Span)
      (rec : RecSpan) (ring : Ring) (i : RingInst) (e : Nat × Nat) (le : LatchRow) (les : List LatchRow) (pr : Nat),
    let t := s.fctx
    let ptr := t.logAddr
    let shape := s.sOp r
    let word (n : Nat) : Word := BitVec.ofNat 64 n
    let back := if t.logNew then t.revAddr else (ptr + 2 ^ 56 - t.revAddr) % 2 ^ 56
    let w0 := word (back * 256 + bnat t.logNew * 16 + 1)
    let opc : SlotWord := (encode (.mspan r)).getD 0
    let opening : Prop := s.recordsNow = true ∧ bits shape 63 55 = 0 ∧ t.span = none ∧ ∀ x, s.fcore.arr.owner = some x → x = s.focus.ctx
    let inside : Prop := s.recordsNow = true ∧ t.mdiscard = false ∧ t.span = some sp ∧ sp.gang = none ∧ sp.record = some rec
    let n := rec.beats.length
    let entry (m : Instr) (x p : Nat) : Word := word (((encode m).getD 0).toNat + x % 2 ^ 14 * 2 ^ 32 + p % 2 ^ 10 * 2 ^ 46)
    let entsAt := rec.addr + 64 + n / 8 * 64
    let ents (m : Instr) (x p : Nat) : List Byte := padTo 64 (wordsBytes ((rec.beats ++ [entry m x p]).drop (n / 8 * 8)))
    let dataAt := rec.addr + 64 + alignUp (8 * (n + 1)) 64
    let from_ := if n % 8 = 0 then 0 else rec.data.length / 64 * 64
    let put (d : List Byte) : List Byte := padTo (alignUp (d.drop from_).length 64) (d.drop from_)
    let kept (sz : Nat) : List Byte :=
      let row := rowOf s ring i sz
      if rec.rflag = 2 then wordsBytes [word (crc32c (bytesOf sz row))] else bytesOf sz row
    let ix (ev : Nat) : Nat := t.rowix.get (4 * q.toNat + ev) 0
    let need : Nat := if f = 5 then 1 else if f = 6 then 2 else 0
    let scale (b : Nat) : Nat := if b < need then (s.fcore.arr.scaleq.getD b 0).toNat else 0
    let sz := rowBytes f.toNat
    let item : List Byte := wordsBytes [word (ix 1 % 2 ^ 32), word (i.slotAddr ring.cursor + ring.roff)] ++ kept 128
    let item' : List Byte :=
      wordsBytes [word (ix 2 % 2 ^ 32 + scale 0 * 2 ^ 32 + scale 1 * 2 ^ 40), word (i.slotAddr ring.cursor + ring.roff)] ++ kept sz
    let x := (s.sOp r).toNat + im.toNat
    let y := (s.sOp r).toNat + jm.toNat
    let push : Instr := .mpush q z f tr keep pd
    let pushes : Prop := inside ∧ f.toNat ≤ 6 ∧ ¬ (pd = 1 ∧ (f = 0 ∨ f = 1 ∨ f = 5) ∧ 64 ≤ bits sp.shape 54 48) ∧
      rec.counts.get 1 0 < 64 ∧ need ≤ s.fcore.arr.scaleq.length ∧ RowThere s q.toNat sz ring i
    let counted (k : Nat) : Tab Nat := rec.counts.set k (rec.counts.get k 0 + 1)
    let grows (u : State) (m : Instr) (x p k : Nat) (d : List Byte) : Prop := ∃ rec', u.fctx.recSpan = some rec' ∧
      rec'.beats = rec.beats ++ [entry m x p] ∧ rec'.data = rec.data ++ d ∧ rec'.counts = counted k
    let plain (m : Instr) (x p k : Nat) (u : State) : Prop := Logs s u m entsAt (ents m x p) ∧ u.fctx.csr = t.csr ∧ grows u m x p k []
    let short : Prop := (n % 8 ≠ 0 ∨ rec.data = []) ∧ LogTakes s entsAt 64
    let both (u : State) (m : Instr) (x p : Nat) (d : List Byte) : Prop := ∃ o o', LogOut s m s.nextOut entsAt (ents m x p) o ∧
      LogOut s m (s.nextOut + 1) (dataAt + from_) (put d) o' ∧ u.fcore.outs = s.fcore.outs ++ [o, o']
    let shift : Instr := .mshift q f keep
    let shifts : Prop := inside ∧ f ≠ 4 ∧ pairOk f.toNat s.fcore.arr.activeTag = true ∧ rec.counts.get 3 0 < 64 ∧
      s.fcore.arr.inflight.length + s.fcore.arr.latch.length < 96 ∧ RowThere s q.toNat 128 ring i
    let len := alignUp (64 + alignUp (8 * n) 64 + rec.data.length) 64
    let idle : Prop := s.fcore.arr.inflight = [] ∧ s.fcore.arr.latch = [] ∧ s.fcore.arr.scaleq = []
    (opening → t.logLimit < ptr + 37952 → Traps (.mspan r) s cLOGOVF (t.logPtr ptr) 0) ∧
    (opening → ptr + 37952 ≤ t.logLimit → LogFails s ptr 64 e → Traps (.mspan r) s e.1 (t.logPtr ptr) e.2) ∧
    (opening → ptr + 37952 ≤ t.logLimit → LogTakes s ptr 64 → t.mx < 2 →
      ∃ u o, exec (.mspan r) s = .next u ∧ u.last = .issued ∧ u.fcore.outs = s.fcore.outs ++ [o] ∧
        LogOut s (.mspan r) s.nextOut ptr (wordsBytes [w0, word opc.toNat, shape, 0, 0, 0, 0, 0]) o ∧
        u.fcore.arr = { s.fcore.arr with owner := some s.focus.ctx } ∧ u.fctx.mx = t.mx + 1 ∧
        u.fctx.csr = { t.csr with logptr := word (t.logKey * 2 ^ 56 + (ptr + 37952) % 2 ^ 56), revcur := word ptr } ∧
        u.fctx.span = some
          { addr := s.focus.addr, seq := s.focus.seq, shape := shape, gang := none, beat := 0
            record := some
              { addr := ptr, word0 := w0, opc := opc, rflag := if t.logPol = 1 then 2 else 1, beats := [], data := []
                counts := [], zeroed := [], maccd := [], drained := [], spoiled := [] } }) ∧
    (inside → 64 ≤ rec.counts.get 2 0 → Traps .mflip s cILLOP 0 0) ∧
    (inside → rec.counts.get 2 0 < 64 → LogFails s entsAt 64 e → Traps .mflip s e.1 (t.logPtr entsAt) e.2) ∧
    (inside → rec.counts.get 2 0 < 64 → short →
      ∃ u, plain .mflip 0 0 2 u ∧ u.fcore.arr = { s.fcore.arr with flip := !s.fcore.arr.flip }) ∧
    (inside → s.fctx.accRow x = some pr →
      (64 ≤ rec.counts.get 4 0 → Traps (.macc r im vs) s cILLOP 0 0 ∧ Traps (.maccU r im) s cILLOP 0 0) ∧
      (rec.counts.get 4 0 < 64 → s.fcore.arr.latch = le :: les →
        (short → ∃ u, plain (.maccU r im) x 0 4 u ∧ u.fcore.arr = { s.fcore.arr with latch := les }) ∧
        (LogTakes s entsAt 64 →
          let scales := bytesOf 256 (s.vreg (t.vphys vs)).toNat
          LogTakes s (dataAt + from_) (put (rec.data ++ scales)).length →
          ∃ u, exec (.macc r im vs) s = .next u ∧ u.last = .issued ∧
            both u (.macc r im vs) x (t.vphys vs) (rec.data ++ scales) ∧ grows u (.macc r im vs) x (t.vphys vs) 4 scales ∧
            u.fcore.arr = { s.fcore.arr with latch := les }))) ∧
    (inside → l.toNat * 64 * drainWidth f < 4096 → s.fctx.accRow y = some pr →
      (64 ≤ rec.counts.get 5 0 → Traps (.mdrain r jm vs l f) s cILLOP 0 0) ∧
      (rec.counts.get 5 0 < 64 → short → ∃ u, plain (.mdrain r jm vs l f) y (t.vphys vs) 5 u)) ∧
    (inside → x + z.toNat < s.fctx.csr.awbLen.toNat →
      (64 ≤ rec.counts.get 6 0 → Traps (.mzero r im z) s cILLOP 0 0) ∧
      (rec.counts.get 6 0 < 64 → short → ∃ u, plain (.mzero r im z) x 0 6 u)) ∧
    (inside → 64 ≤ rec.counts.get 1 0 → Traps push s cILLOP 0 0) ∧
    (pushes → LogTakes s entsAt 64 → LogTakes s (dataAt + from_) (put (rec.data ++ item')).length →
      ∃ u, exec push s = .next u ∧ u.last = .issued ∧ both u push 0 0 (rec.data ++ item') ∧ grows u push 0 0 1 item' ∧
        u.fctx.rowix.get (4 * q.toNat + 2) 0 = ix 2 + 1 ∧ u.fcore.arr.scaleq = s.fcore.arr.scaleq.drop need) ∧
    (inside → f = 4 → Traps shift s cILLOP 0 0) ∧
    (shifts → LogTakes s entsAt 64 → LogTakes s (dataAt + from_) (put (rec.data ++ item)).length →
      ∃ u, exec shift s = .next u ∧ u.last = .issued ∧ both u shift 0 0 (rec.data ++ item) ∧ grows u shift 0 0 3 item ∧
        u.fctx.rowix.get (4 * q.toNat + 1) 0 = ix 1 + 1) ∧
    (inside → idle → LogFails s rec.addr 64 e → Traps .mend s e.1 (t.logPtr rec.addr) e.2) ∧
    (inside → idle → LogTakes s rec.addr 64 →
      ∃ u, Logs s u .mend rec.addr
          (wordsBytes [rec.word0, word (len * 2 ^ 32 + rec.opc.toNat), sp.shape, word (n + rec.rflag * 2 ^ 16), 0, 0, 0, 0]) ∧
        u.fcore.arr.owner = none ∧ u.fctx.span = none ∧ u.fcore.retiring = s.fcore.retiring ++
          [{ ctx := s.focus.ctx, gang := none, ready := [(s.focus.core, s.fcore.drain)] }] ∧
        u.fctx.csr = { t.csr with logptr := word (t.logKey * 2 ^ 56 + (t.revAddr + len) % 2 ^ 56 / 64 * 64) }))

/-- REVERSE (R240, R243, R389): its checks; it holds dispatch while its walk goes on from REVCUR, record by record; a record that
cannot be reversed leaves everything as it was and its fault is REVERSE's; when REVCUR is 0 the walk is over and REVERSE issues. The
contributions of every tile operation to its operands are those of R241, element by element, and each is one FP32 sum into the gradient element
that the table gives, where it gives one (R239, R240); it waits behind what the context has under way at the element (R179). A span record goes through the three passes of R242: last beat first, MDRAIN takes the gradients of its slice into the
row's, MZERO clears rows of them, MACC gives those of its shift; each shift's row gets the sums over what the plane then held of the span's own pushes; each push the
sums over the shifts that used it. What a push gives an element that KTAIL replaced is notes/assumptions/71.md, FADDR 0 of ILLOP
notes/assumptions/10.md. -/
def Obligations.ReverseWalks : Prop :=
  (∀ (s : State) (g : BitVec 6) (c x : Nat) (tab : Word) (n code info : Nat) (s' : State),
    let k := realigned s
    let p := k.reg (sreg g)
    let i : Instr := .reverse g
    let turn : Prop := s.fctx.hold = .none ∧ MayRealign s ∧ s.focus.caps = [] ∧ k.stalled [sreg g] = false
    let good : Prop := isAp p = true ∧ apBad p = false ∧ p.toNat % 64 = 0
    let idle : Prop := k.csr.recording = false ∧ k.handler = none ∧ k.span = none ∧
      ∀ y, s.fcore.arr.owner = some y → y = s.focus.ctx
    let there : Prop := c < numCores ∧ x < numCtxs ∧ (s.ctx c x).hold = .walk tab
    (turn → isAp p = false → Traps i s cALIGN p 0) ∧
    (turn → good → k.csr.recording = true ∨ k.handler.isSome ∨ k.span.isSome → Traps i s cILLOP 0 0) ∧
    (turn → good → idle → k.revAddr = 0 → CtxBecomes i s { k with csr := { k.csr with rev := false } }) ∧
    (turn → good → idle → k.revAddr ≠ 0 →
      ∃ u, exec i s = .next u ∧ u.last = .waits ∧ OnlyCore s u ∧
        u.fctx = { k with hold := .walk p, csr := { k.csr with rev := true } } ∧
        u.fcore = { s.fcore with ctxs := u.fcore.ctxs, arr := { s.fcore.arr with
          p0 := [], p1 := [], tag0 := 0, tag1 := 0, inflight := [], latch := [], scaleq := [], owner := some s.focus.ctx } }) ∧
    (s.fctx.hold = .walk tab → Waits i s) ∧
    (s.fctx.hold = .walked → CtxBecomes i s { s.fctx with hold := .none }) ∧
    (s.fctx.hold = .walkFault code info →
      exec i s = .next { (s.modF (fun t => { t with hold := .none })).faultHere code (s.fctx.logPtr s.fctx.revAddr) info with
        last := .trapped }) ∧
    (there → reverseOne c (s.ctx c x) tab (s.walker c x) = .error (0, info) → NotNow (.reverseRecord c x) s) ∧
    (there → code ≠ 0 → reverseOne c (s.ctx c x) tab (s.walker c x) = .error (code, info) →
      ∃ u, exec (.reverseRecord c x) s = .next u ∧ SameMem s u ∧
        u.ctx c x = { s.ctx c x with hold := .walkFault code info } ∧ (u.core c).arr.owner ≠ some x) ∧
    (there → reverseOne c (s.ctx c x) tab (s.walker c x) = .ok (n, s') → n / 64 ≠ 0 → n < 2 ^ 56 →
      ∃ u, exec (.reverseRecord c x) s = .next u ∧ SameMem s' u ∧
        u.ctx c x = { s'.ctx c x with csr := { (s'.ctx c x).csr with revcur := BitVec.ofNat 64 (n / 64 * 64) } }) ∧
    (there → reverseOne c (s.ctx c x) tab (s.walker c x) = .ok (n, s') → n / 64 = 0 →
      ∃ u, exec (.reverseRecord c x) s = .next u ∧ SameMem s' u ∧
        u.ctx c x = { s'.ctx c x with hold := .walked, csr := { (s'.ctx c x).csr with revcur := 0, rev := false } })) ∧
  (∀ (d a b c : BitVec 6) (f g : BitVec 3) (h : BitVec 2) (fi fo : Fmt) (n r : Nat) (vd va vb : VReg) (scal : Word)
      (dys : List (Nat × Nat)),
    let adj (i : Instr) : List (Nat × Nat) × List (Nat × Nat) := tileAdjoint i fi fo n vd va vb scal dys
    let a' (k : Nat) : Nat := to32 fi (vElem va fi.bytes k)
    let b' (k : Nat) : Nat := to32 fi (vElem vb fi.bytes k)
    let y (k : Nat) : Nat := to32 fo (vElem vd fo.bytes k)
    let g' (k : Nat) : Nat := vElem vb 4 (k % 64)
    let x32 := bits scal 31 0
    let onA (i : Instr) (c : Nat → Nat → Nat) : Prop := (adj i).1 = dys.map (fun e => (e.1, c e.1 e.2))
    let alone (i : Instr) : Prop := (adj i).2 = []
    let oneRow : Prop := r < n / 64 ∧ ∀ e ∈ dys, e.1 / 64 = r
    let total := dys.foldl (fun s e => ffma (y e.1) e.2 s) 0
    let rho := (rsqV .f32 (v32 (fadd (fmul (dys.foldl (fun q e => ffma (a' e.1) (a' e.1) q) 0) rn64) x32))).bits
    let dot := dys.foldl (fun s e => ffma (fmul e.2 (g' e.1)) (a' e.1) s) 0
    let kap := fmul (fmul dot (fmul (fmul rho rho) rho)) rn64
    (onA (.tadd d a b f g) (fun _ dy => dy) ∧ (adj (.tadd d a b f g)).2 = dys) ∧
    (onA (.tmul d a b f g) (fun k dy => fmul dy (b' k)) ∧ (adj (.tmul d a b f g)).2 = dys.map (fun e => (e.1, fmul e.2 (a' e.1)))) ∧
    (onA (.tscale d a b f g) (fun _ dy => fmul dy x32) ∧ alone (.tscale d a b f g)) ∧
    (onA (.tbias d a b f g) (fun _ dy => dy) ∧ (adj (.tbias d a b f g)).2 = dys.map (fun e => (e.1 % 64, e.2))) ∧
    (onA (.trelu d a f g) (fun k dy => if (v32 (a' k)).isNan then 0x7FC00000 else if cmpV (v32 (a' k)) (.num false 0 0) > 0 then dy else 0) ∧
      alone (.trelu d a f g)) ∧
    (onA (.tgelu d a f g) (fun k dy =>
      let x := a' k
      let w := fmul x x
      let t := (tanhV .f32 (v32 (fmul (fmul x (ffma cK w one32)) cG))).bits
      let v := fmul (fmul x (fmul (ffma (fneg t) t one32) (fmul (ffma c3 w one32) cG))) half32
      fmul dy (fadd (fmul (fadd t one32) half32) v)) ∧ alone (.tgelu d a f g)) ∧
    (onA (.tsilu d a f g) (fun k dy =>
      let x := a' k
      let sg := (rcpV .f32 (v32 (fadd (exp2V .f32 (v32 (fmul x cE)).neg).bits one32))).bits
      fmul dy (fmul sg (ffma x (fsub one32 sg) one32))) ∧ alone (.tsilu d a f g)) ∧
    (onA (.texp d a f g) (fun k dy => fmul dy (y k)) ∧ alone (.texp d a f g)) ∧
    (oneRow → onA (.tsoftmax d a f g) (fun k dy => fmul (y k) (fsub dy total)) ∧ alone (.tsoftmax d a f g)) ∧
    (oneRow → onA (.trmsn d a b c h) (fun k dy => fsub (fmul (fmul dy (g' k)) rho) (fmul kap (a' k))) ∧
      (adj (.trmsn d a b c h)).2 = dys.map (fun e => (e.1 % 64, fmul (fmul e.2 (a' e.1)) rho))) ∧
    (onA (.tmask d a b c h) (fun k dy => if vb.getLsbD k then dy else 0) ∧ alone (.tmask d a b c h)) ∧
    ((∀ k v, (k, v) ∈ (adj (.ttrans d a f g)).1 ↔
        k < n ∧ (dys.find? (fun e => e.1 = k % 64 * (n / 64) + k / 64)).map Prod.snd = some v) ∧ alone (.ttrans d a f g)) ∧
    (onA (.tcvt d a f g) (fun _ dy => dy) ∧ alone (.tcvt d a f g))) ∧
  (∀ (w : Walk) (h : RecHdr) (s s' s2 : State) (es : List GEnt) (b : SBeat) (bs : List SBeat) (dacc : Tab (List Nat)) (des : List (List Nat))
      (gs : List Nat) (c k n p q : Nat) (t : Ctx) (tab : Word) (z : RScan) (j : RShift × List Nat) (js : List (RShift × List Nat)) (v : ArrEl)
      (f : RPush × Nat) (fs : List (RPush × Nat)) (u : State),
    let zero : List Nat := List.replicate 64 0
    let row := dacc.get b.x zero
    let scan := bs.foldl (RScan.beat h.ktail) { active := [], shadow := [], tagA := none, tagS := none, shifts := [], pushes := [] }
    let z' := z.beat h.ktail b
    let els := b.push h.ktail
    (readHeader c t t.revAddr s = .ok (h, s') → gradTable c t tab s' = .ok (es, s2) → h.kind = 1 →
      ({ c := c, t := t, es := es } : Walk).span h s2 = .ok ((), u) → ∃ m, reverseOne c t tab s = .ok (m, u)) ∧
    (readSpan w.c w.t h s = .ok (bs, s') → w.pass1 bs.reverse [] [] s' = .ok (des, s2) → w.pass2 (scan.shifts.zip des) s2 = .ok ((), u) →
      w.span h s = w.pass3 (scan.shifts.zip des) scan.pushes.zipIdx u) ∧
    (∀ r i a l g, b.ins = .mdrain r i a l g →
      w.takeAll 0 b.preg 0 ((List.range 64).map (fun j => l.toNat * 64 + j)) s = .ok (gs, s') →
      w.pass1 (b :: bs) dacc des s = w.pass1 bs (dacc.set b.x (List.zipWith fadd row gs)) des s') ∧
    (∀ r i m, b.ins = .mzero r i m → ∃ d,
      (∀ a, d.get a zero = if b.x ≤ a ∧ a ≤ b.x + m.toNat then zero else dacc.get a zero) ∧ w.pass1 (b :: bs) dacc des = w.pass1 bs d des) ∧
    (∀ r i m, b.ins = .macc r i m ∨ b.ins = .maccU r i → ∃ de, de.length = row.length ∧
      (∀ a, a < row.length → de.getD a 0 =
        fmul (row.getD a 0) (if b.ins = .maccU r i then 0x3F800000 else vElem (b.sup.getD 0) 4 a)) ∧
      w.pass1 (b :: bs) dacc des = w.pass1 bs dacc (de :: des)) ∧
    (b.ins = .mflip ∨ beatRow b.ins ≠ 0 → w.pass1 (b :: bs) dacc des = w.pass1 bs dacc des) ∧
    (b.ins = .mflip → z'.active = z.shadow ∧ z'.shadow = z.active ∧ z'.shifts = z.shifts ∧ z'.pushes = z.pushes) ∧
    (∀ a g m, b.ins = .mshift a g m → z'.active = z.active ∧ z'.shadow = z.shadow ∧ z'.pushes = z.pushes ∧
      ∃ sh, z'.shifts = z.shifts ++ [sh] ∧ sh.ring = a.toNat ∧ sh.rowix = b.rowix ∧ sh.plane = z.active ∧
        sh.els = (List.range (elCount g.toNat)).map (fun k => arrEl g.toNat 0 ((b.row >>> (elBits g.toNat * k)) % 2 ^ elBits g.toNat))) ∧
    (∀ a i g tr m pd, b.ins = .mpush a i g tr m pd → z'.active = z.active ∧ z'.shifts = z.shifts ∧
      (∃ pu, z'.pushes = z.pushes ++ [pu] ∧ pu.ring = a.toNat ∧ pu.rowix = b.rowix) ∧
      (els[q]? = some (k, n, v) → z'.shadow.find (64 * k + n) = if v.getLsbD 0 then none else some (v, z.pushes.length, q)) ∧
      ((∀ e ∈ els, 64 * e.1 + e.2.1 ≠ p) → z'.shadow.find p = if z.tagS = some g.toNat then z.shadow.find p else none)) ∧
    shiftGrad j.1.plane j.2 k = r32 (columnSum ((List.range 64).map (fun n =>
      match j.1.plane.find (64 * k + n) with
      | some (a, _, _) => (mulV (v32 (j.2.getD n 0)) (valOfArr a)).1
      | none => .num false 0 0))) ∧
    pushGrad [] p q k n = 0 ∧
    (j.1.plane.find (64 * k + n) = some (v, p, q) → k < j.1.els.length →
      pushGrad (js ++ [j]) p q k n = r32 (fmaV (valOfArr (j.1.els.getD k 0)) (v32 (j.2.getD n 0)) (v32 (pushGrad js p q k n))).1) ∧
    ((∀ a, j.1.plane.find (64 * k + n) ≠ some (a, p, q)) → pushGrad (js ++ [j]) p q k n = pushGrad js p q k n) ∧
    (w.addAll 1 j.1.ring j.1.rowix ((List.range j.1.els.length).map (fun k => (k, shiftGrad j.1.plane j.2 k))) s = .ok ((), s') →
      w.pass2 (j :: js) s = w.pass2 js s') ∧
    (w.addAll 2 f.1.ring f.1.rowix (f.1.els.map (fun e => (e.1, pushGrad js f.2 e.1 e.2.1 e.2.2))) s = .ok ((), s') →
      w.pass3 js (f :: fs) s = w.pass3 js fs s')) ∧
  ∀ (s : State) (w : Walk) (kind key r e x : Nat) (p : Word) (ent : GEnt),
    let pa := apAddr w.c (apOff p)
    let there : Prop := w.gptr kind key r e = some p ∧ isAp p = true ∧ apBad p = false ∧ apOff p + 4 ≤ pairSize
    let covered : Prop := there ∧ s.apWaits pa 4 = false ∧ Sound s pa 4
    (w.es.find? (fun k => k.kind = kind && k.key = key) = none → w.gptr kind key r e = none) ∧
    (w.es.find? (fun k => k.kind = 0 && k.key = key) = some ent →
      w.gptr 0 key r e = if e < ent.glen then some (addPtr ent.gptr (4 * e : Nat)) else none) ∧
    (kind ≠ 0 → w.es.find? (fun k => k.kind = kind && k.key = key) = some ent →
      w.gptr kind key r e = if r * ent.rstr + e < ent.glen ∧ e < ent.rstr then some (addPtr ent.gptr (4 * (r * ent.rstr + e) : Nat)) else none) ∧
    (w.gptr kind key r e = none → w.addGrad kind key r e x s = .ok ((), s) ∧ w.takeGrad kind key r e s = .ok (0, s)) ∧
    (there → s.apWaits pa 4 = true → w.addGrad kind key r e x s = .error (0, 0) ∧ w.takeGrad kind key r e s = .error (0, 0)) ∧
    (covered → ∃ u, w.addGrad kind key r e x s = .ok ((), u) ∧ OnlyMem s u ∧ SameMemBut s u pa 4 ∧
      Holds u pa 4 (fadd (s.readMem pa 4) x)) ∧
    (covered → ∃ u, w.takeGrad kind key r e s = .ok (s.readMem pa 4, u) ∧ OnlyMem s u ∧ SameMemBut s u pa 4 ∧ Holds u pa 4 0)

/-! ## Held output (R264 to R268, R273, R386, R387) -/

/-- RELEASE and VETO ask the queue of the die they name, hold dispatch until it answers, and issue, or raise EGAHEAD, with its answer;
the queue marks the entries from SETL to q released, or puts one veto record in their place, moves SETL to q + 1, changes nothing
for a q below SETL, and refuses a q at or beyond NEXT (R266). FADDR 0 of ILLOP and EGAHEAD is notes/assumptions/10.md. -/
def Obligations.HeldOutput : Prop :=
  ∀ (s : State) (a b : BitVec 6) (veto : Bool) (c x d : Nat) (ask : EgAsk),
    let i : Instr := if veto then .veto a b else .release a b
    let k := realigned s
    let v := k.reg (sreg a)
    let q := k.reg (sreg b)
    let turn : Prop := s.fctx.hold = .none ∧ MayRealign s ∧ s.focus.caps = [] ∧ k.stalled [sreg a, sreg b] = false
    let st := (s.egr d).stream ask.stream
    let others := (s.egr d).asks.filter (fun e => !(e.core = c && e.ctx = x))
    let asked : Prop := c < numCores ∧ x < numCtxs ∧ d < 2 ∧ (∀ e ∈ (s.egr 0).asks, d = 1 → ¬ (e.core = c ∧ e.ctx = x)) ∧
      (s.egr d).asks.find? (fun e => e.core = c && e.ctx = x) = some ask
    let answers (h : Bool) (g : Egress) : Prop :=
      ∃ u, exec (.egressAnswer c x) s = .next u ∧ u.last = .issued ∧
        u = { s with egress := u.egress, cores := u.cores, last := u.last } ∧
        u.egr d = g ∧ (∀ j, j ≠ d → u.egr j = s.egr j) ∧ u.ctx c x = { s.ctx c x with hold := .answered h } ∧
        ∀ e y, (e, y) ≠ (c, x) → u.ctx e y = s.ctx e y
    (turn → 2 ^ 13 ≤ v.toNat ∨ 2 ^ 32 ≤ q.toNat → Traps i s cILLOP 0 0) ∧
    (turn → v.toNat < 2 ^ 13 → q.toNat < 2 ^ 32 →
      ∃ u, exec i s = .next u ∧ u.last = .waits ∧ SameMem s u ∧ u.fctx = { k with hold := .asked } ∧
        u.egr (v.toNat / 4096) = { s.egr (v.toNat / 4096) with asks := (s.egr (v.toNat / 4096)).asks ++
          [{ core := s.focus.core, ctx := s.focus.ctx, veto := veto, stream := v.toNat % 4096, q := q.toNat }] }) ∧
    (s.fctx.hold = .asked → Waits i s) ∧
    (s.fctx.hold = .answered false → CtxBecomes i s { s.fctx with hold := .none }) ∧
    (s.fctx.hold = .answered true →
      exec i s = .next { (s.modF (fun t => { t with hold := .none })).faultHere cEGAHEAD 0 0 with last := .trapped }) ∧
    (asked → st.next ≤ ask.q → answers true { s.egr d with asks := others }) ∧
    (asked → ask.q < st.next → ask.q < st.setl → answers false { s.egr d with asks := others }) ∧
    (asked → ask.q < st.next → st.setl ≤ ask.q → ask.veto = false → answers false
      { s.egr d with
        asks := others
        streams := (s.egr d).streams.set ask.stream { st with setl := ask.q + 1 }
        items := (s.egr d).items.map (fun e =>
          if e.stream = ask.stream ∧ e.veto = false ∧ st.setl ≤ e.seq ∧ e.seq ≤ ask.q then { e with released := true } else e) }) ∧
    (asked → ask.q < st.next → st.setl ≤ ask.q → ask.veto = true → answers false
      { s.egr d with
        asks := others
        streams := (s.egr d).streams.set ask.stream { st with setl := ask.q + 1 }
        items := vetoItems ask.stream st.setl ask.q false (s.egr d).items })

/-- EGQ's turn at the queue, and the records that leave (R265, R267, R273): its payload is read first; then, once an entry is free, with
the next sequence number of its stream an entry joins the queue and the command completes; with another, nothing is enqueued. Of commands that
are ready any may go on. An item that is released and the first of its stream, of any stream, goes to the host's ring of the die, 128 bytes at its tail,
when the ring has room. -/
def Obligations.OutputRecords : Prop :=
  ∀ (s : State) (d n : Nat) (k : Cmd) (i : EgItem) (rest : List EgItem),
    let b := k.ccb
    let e := s.egr d
    let st := e.stream (eqStream b)
    let pa := apAddr k.core (apOff (eqPayload b))
    let ready := e.queue.filter (fun j => s.depsMet j)
    let turn : Prop := d < 2 ∧ (n = 0 ∧ ready.head? = some k ∨ ∃ j, n = (s.mirrorWords d).length + j + 1 ∧ ready[j]? = some k)
    let others := e.queue.filter (fun j => j.id ≠ k.id)
    let last : Prop := turn ∧ k.row = 1 ∧ k.slots = [] ∧ ccBaren b = false ∧ e.held < 65536
    let done (u : State) : Prop := (u.egr d).queue = others ∧ Completed s u k
    let out := s.turn (outItems [] e.items).length
    let g := s.mgmt.egrings.get d HostRing.reset
    (turn → MemOk s → k.row = 0 → s.softAt pa (eqPlen b) = false →
      ∃ u, exec (.egqRun (d, n)) s = .next u ∧ u.last = .issued ∧ SameMem s u ∧ u.cores = s.cores ∧
        (∀ j, j ≠ d → u.egr j = s.egr j) ∧
        u.egr d = { e with queue := e.queue.map (fun j => if j.id ≠ k.id then j else { k with
          row := 1
          buf := (List.range (eqPlen b)).map (fun j => s.byte (pa + j))
          bad := ((List.range (eqPlen b)).filter (fun j => s.poisoned (pa + j) 1)).map (fun j => 16 + j)
          read := false }) }) ∧
    (d < 2 → e.queue = [k] → k.row = 1 → 65536 ≤ e.held → NotNow (.egqRun (d, 0)) s) ∧
    (last → eqSeq b = st.next → st.next ≠ 0xFFFFFFFF →
      ∃ u, exec (.egqRun (d, n)) s = .next u ∧ SameMem s u ∧ done u ∧ ((u.egr d).stream (eqStream b)).next = st.next + 1 ∧
        (u.egr d).items = e.items ++
          [{ stream := eqStream b, seq := eqSeq b, last := eqSeq b, veto := false, plen := eqPlen b, released := false,
             payload := k.buf }]) ∧
    (last → eqSeq b ≠ st.next ∨ st.next = 0xFFFFFFFF →
      ∃ u, exec (.egqRun (d, n)) s = .next u ∧ SameMem s u ∧ done u ∧ (u.egr d).items = e.items ∧ (u.egr d).streams = e.streams) ∧
    (d < 2 → (outItems [] e.items)[out.1]? = some (i, rest) → g.valid 128 (2 ^ 64) = true → g.room (2 ^ 64) = true →
      ∃ u, exec (.egressRecordOut d) s = .next u ∧ SameMemBut s u (g.next 128) 128 ∧
        HoldsWords u (g.next 128) (i.record d) ∧ u.egr d = { e with items := rest } ∧ u.sched = out.2.sched ∧
        u.mgmt = { s.mgmt with egrings := s.mgmt.egrings.set d { g with tail := g.tail + 1 } }) ∧
    (d < 2 → e.items ≠ [] → (outItems [] e.items)[out.1]? = some (i, rest) →
      i.released = true ∧ ∃ pre post, e.items = pre ++ i :: post ∧ rest = pre ++ post ∧ ∀ j ∈ pre, j.stream ≠ i.stream) ∧
    (d < 2 → outItems [] e.items ≠ [] → g.valid 128 (2 ^ 64) = true → g.room (2 ^ 64) = false → NotNow (.egressRecordOut d) s) ∧
    (d < 2 → outItems [] e.items = [] → NotNow (.egressRecordOut d) s)

/-! ## Engine commands (R61, R62, R64, R107, R112, R113, R125, R245, R251, R265, R328, R329, R343, R378, R382, R405, R406) -/

/-- Every engine command stalls while its produced token is incomplete or cp is 255, and checks the pointer to its control block before
anything else (R61, R64, R107). That a poisoned block raises POISON next, before the other checks, and that a posting-list command waits for
room in its engine before it looks at the block, are the model's choice (notes/assumptions/16.md and 32.md). -/
def Obligations.EngineCommandsHeld : Prop :=
  ∀ (s : State) (t a b c : BitVec 5) (r : BitVec 6),
    let p := s.opnd (areg r.toNat)
    let all (f : Instr → Prop) : Prop :=
      f (.copy t a b c r) ∧ f (.cslice t a b c r) ∧ f (.stream t a b c r) ∧ f (.npost t a b c r) ∧ f (.egq t a b c r) ∧
      ((s.badger (badgerFor s.focus.core)).cmds.length < 256 →
        f (.pldec t a b c r) ∧ f (.pland t a b c r) ∧ f (.plor t a b c r) ∧ f (.pltopk t a b c r) ∧ f (.plfuse t a b c r))
    (¬ MayCommand s t → all (fun i => Waits i s)) ∧
    (MayCommand s t → isAp p = false → all (fun i => Traps i s cALIGN p 0)) ∧
    (MayCommand s t → isAp p = true → apBad p = true → all (fun i => Traps i s cAPERTURE p 0)) ∧
    (MayCommand s t → isAp p = true → apBad p = false → p.toNat % 64 ≠ 0 → all (fun i => Traps i s cALIGN p 0)) ∧
    (MayCommand s t → isAp p = true → apBad p = false → p.toNat % 64 = 0 →
      s.poisonNow (apAddr s.focus.core (apOff p)) 64 = true → all (fun i => Traps i s cPOISON p 0)) ∧
    (256 ≤ (s.badger (badgerFor s.focus.core)).cmds.length →
      Waits (.pldec t a b c r) s ∧ Waits (.pland t a b c r) s ∧ Waits (.plor t a b c r) s ∧ Waits (.pltopk t a b c r) s ∧
      Waits (.plfuse t a b c r) s)

/-- COPY and CSLICE that pass the checks of R107, R109 to R114 and R116 issue, and their command joins the send queue that DST names
or the engine of R113. The FADDR of 0 of the checks that name no pointer is the model's choice (notes/assumptions/10.md). -/
def Obligations.CopyCommands : Prop :=
  ∀ (s : State) (slice : Bool) (t a b c : BitVec 5) (r : BitVec 6) (rs : List (Nat × Nat)),
    let i : Instr := if slice then .cslice t a b c r else .copy t a b c r
    let k := captured s (if slice then .cslice else .copy) t a b c r
    let w := k.ccb
    let src := k.srcSide
    let dst := k.dstSide
    let hull (d : Side) : Option (Int × Int) := if k.rows = 0 then none else d.hull k.box
    let es := src.ends s s.fctx k.hulls.1
    let ed := dst.ends s s.fctx k.hulls.2
    let ref (x : Option Xl) : Nat := (x.map Xl.copyAttrs).getD 0
    let k' : Cmd := { k with slots := rs, lands := rs.map (fun _ => 0), refS := ref es.1, refD := ref ed.1 }
    let ready : Prop := MayCommand s t ∧ BlockThere s r
    let pointers : Prop := (cpSrch w = true ∨ sidePtr (nth w 0) (hull src) = none) ∧
      (cpDsth w = true ∨ cpDkind w ≠ 0 ∨ sidePtr (nth w 1) (hull dst) = none)
    let handles : Prop := (cpSrch w = true → handleBad s.fctx (bits (nth w 4) 4 0) = false) ∧
      (cpDsth w = true → handleBad s.fctx (bits (nth w 4) 36 32) = false)
    let spans : Prop := endsDiffer es = false ∧ endsDiffer ed = false
    let meet := overlap src dst k.hulls.1 k.hulls.2 (src.phys [pairOf k.core] k.hulls.1 es)
      (dst.phys (targetPairs k.core (ccMcast w)) k.hulls.2 ed)
    let q := 16 * towerOf s.focus.core + bits (nth w 1) 3 0
    let e := s.copyEngineFor s.focus.core es.1 ed.1 (rs.head?.bind (fun r => s.inst r.1 r.2))
    (ready → pointers → copyIllegal s k = true → Traps i s cILLOP 0 0) ∧
    (ready → pointers → copyIllegal s k = false → ¬ handles → Traps i s cXLATE 0 0) ∧
    (ready → pointers → copyIllegal s k = false → handles → ¬ spans → Traps i s cATTRSPAN 0 0) ∧
    (ready → pointers → copyIllegal s k = false → handles → spans → meet = true → Traps i s cCOPYOVL 0 0) ∧
    (ready → pointers → copyIllegal s k = false → handles → spans → meet = false → cpDkind w = 2 → rs = [] →
      Commands i s t (fun u => u.setSendq q { u.sendq q with queue := (u.sendq q).queue ++ [k'] })) ∧
    (ready → pointers → copyIllegal s k = false → handles → spans → meet = false → cpDkind w = 0 → rs = [] →
      Commands i s t (fun u => u.setCopyEngine e { u.copyEngine e with queue := (u.copyEngine e).queue ++ [k'] })) ∧
    (ready → pointers → copyIllegal s k = false → handles → spans → meet = false → cpDkind w = 1 →
      s.ringTargets s.focus.core (bits (nth w 1) 3 0) (ccMcast w) = some rs →
      Commands i s t (fun u => u.setCopyEngine e { u.copyEngine e with queue := (u.copyEngine e).queue ++ [k'] })) ∧
    (ready → pointers → copyIllegal s k = false → handles → spans → meet = false → cpDkind w = 1 →
      s.ringTargets s.focus.core (bits (nth w 1) 3 0) (ccMcast w) = none → Traps i s cRINGOVER 0 0)

/-- STREAM with aperture source and destination, and NPOST and EGQ, that pass the checks of R107 issue and their commands join the Hare
engine of the tower, the send queue, the egress queue that they name (R125, R265, R343, R378, R405). The FADDR of 0 of ILLOP and JOBCARD
is the model's choice (notes/assumptions/10.md). -/
def Obligations.StreamsAndMessages : Prop :=
  ∀ (s : State) (t a b c : BitVec 5) (r : BitVec 6) (rs : List (Nat × Nat)),
    let ready : Prop := MayCommand s t ∧ BlockThere s r
    let k := captured s .stream t a b c r
    let w := k.ccb
    let n := jcSrclen w
    let inside (p : Word) (n : Nat) : Prop := isAp p = true ∧ apBad p = false ∧ apOff p + n ≤ pairSize
    let h := hareFor (towerOf s.focus.core)
    let give (h : Nat) (k : Cmd) (u : State) : State := u.setHare h { u.hare h with queue := (u.hare h).queue ++ [k] }
    let m := captured s .send t a b c r
    let x := m.ccb
    let q := 16 * towerOf s.focus.core + bits (nth x 1) 3 0
    let e := captured s .egq t a b c r
    let y := e.ccb
    let d := eqDie y
    (ready → inside (nth w 0) n → jcHas w 6 = false → streamIllegal w = false → jobBad w = true → cpDkind w = 1 →
      Traps (.stream t a b c r) s cJOBCARD 0 0) ∧
    (ready → inside (nth w 0) n → 0 < n → jcHas w 6 = false → streamIllegal w = false → jobBad w = false → cpDkind w = 1 →
      s.ringTargets s.focus.core (bits (nth w 1) 3 0) (ccMcast w) = some rs →
      Commands (.stream t a b c r) s t (give h { k with slots := rs, lands := rs.map (fun _ => 0) })) ∧
    (ready → inside (nth w 0) n → 0 < n → jcHas w 6 = false → streamIllegal w = false → jobBad w = false → cpDkind w = 0 →
      inside (nth w 1) 0 → ccMcast w = 0 → apOff (nth w 0) + n ≤ apOff (nth w 1) →
      Commands (.stream t a b c r) s t (give h k)) ∧
    (ready → inside (nth x 0) (bits (nth x 2) 39 0) → npostIllegal s m = true → Traps (.npost t a b c r) s cILLOP 0 0) ∧
    (ready → inside (nth x 0) (bits (nth x 2) 39 0) → npostIllegal s m = false →
      Commands (.npost t a b c r) s t (fun u => u.setSendq q { u.sendq q with queue := (u.sendq q).queue ++
        [{ m with kind := if bit (nth x 1) 4 then .recv else .send }] })) ∧
    (ready → inside (nth y 0) (bits (nth y 1) 38 32) → egqIllegal y = true → Traps (.egq t a b c r) s cILLOP 0 0) ∧
    (ready → inside (nth y 0) (bits (nth y 1) 38 32) → egqIllegal y = false → eqMen y = false →
      Commands (.egq t a b c r) s t (fun u => u.setEgr d { u.egr d with queue := (u.egr d).queue ++ [e] })) ∧
    (ready → inside (nth y 0) (bits (nth y 1) 38 32) → egqIllegal y = false → eqMen y = true →
      s.ringTargets s.focus.core (bits (nth y 3) 3 0) (ccMcast y) = some rs →
      Commands (.egq t a b c r) s t (fun u => u.setEgr d { u.egr d with queue := (u.egr d).queue ++
        [{ e with slots := rs, lands := rs.map (fun _ => 0) }] }))

/-- The posting-list commands. At issue (R245, R251, R382): the checks in their order, and the engine of the core's setts, which holds at
most 256 commands; the term table is captured. Results (R252, R256, R257): the header and the records stand at OUT; PLTOPK keeps the first K
of its object and its input; PLFUSE scores the union of its inputs and refuses a docid that one input has twice. A block of a list decodes to
its postings (R247, R248), a score adds its terms one by one (R253); what PLDEC, PLAND and PLOR give lies in [LO, HI], reaches θ, ascends
when unranked and is no more than K or OUTMAX (R254, R255). The FADDR of 0 of APERTURE, ILLOP and COPYOVL is the model's choice
(notes/assumptions/10.md); so are, where the sentences of the spec disagree, the capture of the term table at issue, the POISON of a table on the
context path and its place in the order, the order of ties and the count of the 256 (notes/assumptions/32.md). A run is stated over memory as the
running command sees it: with no correctable error and nothing read early that is memory as it stands. -/
def Obligations.PostingListCommands : Prop :=
  (∀ (s : State) (t a b c : BitVec 5) (r : BitVec 6) (kind : CmdKind) (i : Instr),
    (kind, i) = (.pldec, .pldec t a b c r) ∨ (kind, i) = (.pland, .pland t a b c r) ∨ (kind, i) = (.plor, .plor t a b c r) ∨
      (kind, i) = (.pltopk, .pltopk t a b c r) ∨ (kind, i) = (.plfuse, .plfuse t a b c r) →
    let k := captured s kind t a b c r
    let w := k.ccb
    let e := badgerFor s.focus.core
    let at' (p : Word) : Nat := apAddr s.focus.core (apOff p)
    let head := s.wordsNow (at' (bcOut w)) 2
    let listed : Bool := kind ≠ .pltopk && kind ≠ .plfuse
    let tab : List Word := if listed then s.wordsNow (at' (bcIn0 w)) (2 * bcNt w) else []
    let n := if listed then 16 * bcNt w else 0
    let regions := badgerRegions kind w (hdK head)
    let ready : Prop := MayCommand s t ∧ BlockThere s r ∧ (s.badger e).cmds.length < 256
    let pointers : Prop := ∀ q ∈ badgerPtrs kind w, isAp q.1 = true ∧ apBad q.1 = false ∧ apOff q.1 % q.2 = 0
    let fit : Prop := ∀ q ∈ regions, q.1 + q.2 ≤ pairSize
    let clean : Prop := s.poisonNow (at' (bcIn0 w)) n = false
    let sound : Prop := clean ∧ (kind = .pltopk → s.poisonNow (at' (bcOut w)) 16 = false)
    let unmarked : Prop := s.softAt (at' (bcIn0 w)) n = false ∧ (kind = .pltopk → s.softAt (at' (bcOut w)) 16 = false)
    let terms : Prop := ∀ q ∈ termPairs tab, lptrFault q.1 = none
    let legal : Prop := badgerIllegal kind w = false ∧ (∀ q ∈ termPairs tab, termBad q.1 q.2 = false) ∧
      (kind = .pltopk → topkBad head = false)
    (ready → pointers → ¬ fit → Traps i s cAPERTURE 0 0) ∧
    (ready → pointers → fit → ¬ clean → Traps i s cPOISON (bcIn0 w) 0) ∧
    (ready → pointers → fit → clean → ¬ sound → Traps i s cPOISON (bcOut w) 0) ∧
    (ready → pointers → fit → sound → terms → ¬ legal → Traps i s cILLOP 0 0) ∧
    (ready → pointers → fit → sound → terms → legal → regionsMeet regions = true → Traps i s cCOPYOVL 0 0) ∧
    (ready → pointers → fit → sound → terms → legal → regionsMeet regions = false → unmarked →
      Commands i s t (fun u => u.setBadger e { u.badger e with queue := (u.badger e).queue ++ [{ k with aux := tab }] }))) ∧
  (∀ (s : State) (e i j d x : Nat) (k : Cmd),
    let w := badgerRun s k
    let f := k.run s
    let b := k.ccb
    let n := w.recs.length
    let z := f.recs.length
    let rec_ (j : Nat) : Nat × Nat := f.recs.getD j (0, 0)
    let out := apAddr k.core (apOff (bcOut b))
    let imp := apAddr k.core (apOff (bcIn1 b))
    let cap := if k.kind = .pltopk then hdK k.aux else bcK b
    let theta := if z = cap ∧ z ≠ 0 then (rec_ (z - 1)).2 else if k.kind = .pland ∨ k.kind = .plor then bcP0 b else 0
    let head : List Word := [BitVec.ofNat 64 (cap * 2 ^ 48 + bnat f.trunc * 2 ^ 32 + z), BitVec.ofNat 64 theta]
    let ends : Prop := e < numBadgers ∧ (s.badger e).running = some k ∧ k.read = false ∧ f.err = none ∧ ccBaren b = false ∧ MemOk s ∧
      tagged k.refD = false
    let records (pa n : Nat) : List (Nat × Nat) := (List.range n).map (fun j => (s.readMem (pa + 8 * j) 4, s.readMem (pa + 8 * j + 4) 4))
    let in0 := apAddr k.core (apOff (bcIn0 b))
    let lex := records in0 (bcN0 b)
    let den := records imp (bcN1 b)
    let whole (pa n : Nat) : Prop := ∀ j, j < n → s.poisoned (pa + 8 * j) 8 = false
    let once (rs : List (Nat × Nat)) : Prop := (rs.map Prod.fst).Nodup
    let score (rs : List (Nat × Nat)) (d : Nat) : Nat := (rs.lookup d).getD 0
    let rank (rs : List (Nat × Nat)) (d : Nat) : Option Nat := (topRanked rs.length rs).findIdx? (fun r => r.1 = d)
    let lo := bcLo b
    let hi := bcHi b
    (ends → k.kind ≠ .pldec →
      ∃ u, exec (.badgerComplete (e, 0)) s = .next u ∧ u.last = .issued ∧ HoldsWords u out head ∧ SameMemBut s u out (16 + 8 * z) ∧
        ∀ j, j < z → Holds u (out + 16 + 8 * j) 4 (rec_ j).1 ∧ Holds u (out + 16 + 8 * j + 4) 4 (rec_ j).2) ∧
    (ends → k.kind = .pldec → out + 16 + 4 * z ≤ imp ∨ imp + z ≤ out →
      ∃ u, exec (.badgerComplete (e, 0)) s = .next u ∧ u.last = .issued ∧ HoldsWords u out head ∧
        (∀ j, j < z → Holds u (out + 16 + 4 * j) 4 (rec_ j).1 ∧ u.byte (imp + j) = BitVec.ofNat 8 (rec_ j).2) ∧
        ∀ a, (a < out ∨ out + 16 + 4 * z ≤ a) → (a < imp ∨ imp + z ≤ a) → u.byte a = s.byte a) ∧
    (s.soft = [] → k.src = none → f = w) ∧
    (k.error = none → k.kind = .pltopk → whole in0 (bcN0 b) → w.err = none ∧ w.trunc = false ∧
      w.recs = topRanked (hdK k.aux) ((k.aux.drop 2).map (fun q => (bits q 31 0, bits q 63 32)) ++ lex)) ∧
    (k.error = none → k.kind = .pltopk → i < bcN0 b → s.poisoned (in0 + 8 * i) 8 = true →
      (∀ j, j < i → s.poisoned (in0 + 8 * j) 8 = false) → w.err = some (cPOISON, i)) ∧
    (k.error = none → k.kind = .plfuse → whole in0 (bcN0 b) → whole imp (bcN1 b) → once lex → once den →
      w.err = none ∧ w.trunc = false ∧ n ≤ bcK b ∧
      ((d, x) ∈ w.recs → (∃ y, (d, y) ∈ lex ++ den) ∧
        (bcFmode b = 0 → x = r32 (fmaV (v32 (bcP1 b)) (v32 (score den d)) (v32 (r32 (mulV (v32 (bcP0 b)) (v32 (score lex d))).1))).1) ∧
        (bcFmode b ≠ 0 → ∀ p q, rank lex d = some p → rank den d = some q →
          x = (addF .f32 (weightOver (bcP0 b) (lo + p + 1)) (weightOver (bcP1 b) (lo + q + 1))).bits) ∧
        (bcFmode b ≠ 0 → ∀ p, rank lex d = some p → rank den d = none → x = weightOver (bcP0 b) (lo + p + 1)) ∧
        (bcFmode b ≠ 0 → ∀ q, rank lex d = none → rank den d = some q → x = weightOver (bcP1 b) (lo + q + 1)))) ∧
    (k.error = none → k.kind = .plfuse → whole in0 (bcN0 b) → i < j → j < bcN0 b → (lex.getD i (0, 0)).1 = (lex.getD j (0, 0)).1 →
      once (lex.take j) → w.err = some (cPLFORMAT, j)) ∧
    (k.error = none → k.kind = .plfuse → whole in0 (bcN0 b) → once lex → whole imp (bcN1 b) → i < j → j < bcN1 b →
      (den.getD i (0, 0)).1 = (den.getD j (0, 0)).1 → once (den.take j) → w.err = some (cPLFORMAT, 2 ^ 31 + j)) ∧
    (k.error = none → k.kind = .pland ∨ k.kind = .plor →
      (∀ r ∈ w.recs, lo ≤ r.1 ∧ r.1 ≤ hi ∧ le32 (bcP0 b) r.2 = true) ∧
      (bcK b = 0 → n ≤ bcN0 b ∧ (w.recs.map Prod.fst).Pairwise (· < ·)) ∧ (bcK b ≠ 0 → n ≤ bcK b ∧ w.trunc = false)) ∧
    (k.error = none → k.kind = .pldec → (∀ r ∈ w.recs, lo ≤ r.1 ∧ r.1 ≤ hi) ∧ n ≤ bcN0 b)) ∧
  (∀ (m : Nat) (l : List (Nat × Nat)), (topRanked m l).length = min m l.length ∧ ∀ r ∈ topRanked m l, r ∈ l) ∧
  ∀ (s : State) (k : Cmd) (t d m w' : Nat) (l l' : PList) (b : PBlock) (ps : List (Nat × Nat)) (cs : List (Nat × PBlock)),
    let pa := apAddr k.core (apOff l.ptr + b.off)
    let area := natOfBytes ((List.range ((b.count * b.width + 7) / 8)).map (fun i => s.byte (pa + 16 + i)))
    (MemOk s → isAp l.ptr = true → l.cur = some b → b.docs = none → 1 ≤ b.count → b.blen = blockLen b.count b.width → l.decode s k t = .ok (l', ps) →
      ∃ ds, l'.cur = some { b with docs := some ds } ∧ ds.length = b.count ∧ (ds.getD 0 (0, 0)).1 = b.first ∧
        (ds.getD (b.count - 1) (0, 0)).1 = b.last ∧ b.last < 2 ^ 32 ∧ (ds.map Prod.snd).foldl max 0 = b.maxImp ∧
        (∀ i, i + 1 < b.count →
          (ds.getD (i + 1) (0, 0)).1 = (ds.getD i (0, 0)).1 + (area >>> ((i + 1) * b.width)) % 2 ^ b.width + 1) ∧
        ∀ i, i < b.count → (ds.getD i (0, 0)).2 = (s.byte (pa + 16 + (b.count * b.width + 7) / 8 + i)).toNat) ∧
    scoreOf [] d = 0 ∧
    (b.posts.lookup d = some m → scoreOf (cs ++ [(w', b)]) d = r32 (fmaV (v32 w') (valOfInt m) (v32 (scoreOf cs d))).1) ∧
    (b.posts.lookup d = none → scoreOf (cs ++ [(w', b)]) d = scoreOf cs d)

/-! ## Engines at work (R62, R109 to R115, R128 to R131, R245, R258, R262, R263, R330, R378, R379, R383, R406) -/

/-- An engine takes the first command of its queue whose dependency tokens are complete; a Hare or Badger engine only when it is idle, while a
copy engine may put the command that it runs behind its queue, since two of its commands may interleave (R62, R113, R125, R245, R331). A
PLTOPK that starts reads its object afresh: a header that fails R251 gives PLFORMAT, poison POISON (R383). A send queue's first ready command starts; what a send has read leaves as packets of up to 4,096 bytes, by a port of its tower's edge die (R22,
R261, R379). That a copy engine puts its running command behind the queue, that a ROD queue keeps to the port of its first packet and that packets
leave by parts of the data read are the model's choice (notes/assumptions/34.md and 35.md). -/
def Obligations.EnginesStart : Prop :=
  ∀ (s : State) (e port words : Nat) (k : Cmd),
    let first (q : List Cmd) : Prop := q.find? (fun j => s.depsMet j) = some k
    let rest (q : List Cmd) : List Cmd := q.filter (fun j => j.id ≠ k.id)
    let started (g : Engine) : Engine := { queue := rest g.queue, running := some k }
    let started' (k' : Cmd) : Engine := { queue := rest (s.badger e).queue, running := some k' }
    let v := s.sendq e
    let at' := k.buf.length - k.sent
    let packet := (k.buf.drop k.sent).take 4096
    let obj := apAddr k.core (apOff (bcOut k.ccb))
    let head := s.words obj 2
    let regions := badgerRegions .pltopk k.ccb (hdK head)
    let object : Prop := e < numBadgers ∧ (s.badger e).running = none ∧ first (s.badger e).queue ∧ k.kind = .pltopk ∧ s.soft = []
    let sane : Prop := topkBad head = false ∧ (∀ r ∈ regions, r.1 + r.2 ≤ pairSize) ∧ regionsMeet regions = false
    (e < numCopyEngines → first (s.copyEngine e).queue →
      Happens (.copyStart e) s (s.setCopyEngine e
        { queue := rest (s.copyEngine e).queue ++ (s.copyEngine e).running.toList, running := some k })) ∧
    (e < numCopyEngines → (s.copyEngine e).queue = [] → NotNow (.copyStart e) s) ∧
    (e < 4 → (s.hare e).running = none → first (s.hare e).queue → Happens (.hareJobStart e) s (s.setHare e (started (s.hare e)))) ∧
    (e < 4 → (s.hare e).running ≠ none → NotNow (.hareJobStart e) s) ∧
    (e < numBadgers → (s.badger e).running = none → first (s.badger e).queue → k.kind ≠ .pltopk →
      Happens (.badgerStart e) s (s.setBadger e (started (s.badger e)))) ∧
    (e < numBadgers → (s.badger e).running ≠ none → NotNow (.badgerStart e) s) ∧
    (object → s.poisoned obj (16 + 8 * hdN head) = false → sane →
      ∃ u k', exec (.badgerStart e) s = .next u ∧ SameMem s u ∧ u.badger e = started' k' ∧ k'.aux = s.words obj (2 + hdN head) ∧
        k'.error = k.error) ∧
    (object → s.poisoned obj 16 = false → ¬ sane →
      ∃ u k', exec (.badgerStart e) s = .next u ∧ SameMem s u ∧ u.badger e = started' k' ∧ k'.error = some (cPLFORMAT, 0, 0)) ∧
    (object → s.poisoned obj 16 = true →
      ∃ u k', exec (.badgerStart e) s = .next u ∧ SameMem s u ∧ u.badger e = started' k' ∧
        k'.error = some (cPOISON, flagOf cPOISON, 2 ^ 31)) ∧
    (e < numSendQueues → port < 12 → first v.queue → k.kind = .recv →
      Happens (.sendQueueStart (e, 0, port, words)) s ((s.setSendq e { v with queue := rest v.queue }).setSendq e
        { v with queue := rest v.queue, recvs := v.recvs ++ [k] })) ∧
    (e < numSendQueues → port < 12 → first v.queue → k.kind ≠ .recv → k.sendTotal ≠ 0 →
      Happens (.sendQueueStart (e, 0, port, words)) s ((s.setSendq e { v with queue := rest v.queue }).setSendq e
        { v with queue := rest v.queue, sends := v.sends ++ [k] })) ∧
    (e < numSendQueues → port < 12 → v.sends = [k] → k.kind = .send → isAp (npBuf k.ccb) = true → k.read = false → k.buf = [] →
      k.sent = 0 → 0 < npLen k.ccb → npLen k.ccb ≤ 4096 → MemOk s → s.softAt (apAddr k.core (apOff (npBuf k.ccb))) (npLen k.ccb) = false →
      ∃ u k', exec (.sendQueueStart (e, 1, port, 0)) s = .next u ∧ u.last = .issued ∧ SameMem s u ∧ u.netOut = s.netOut ∧
        (u.sendq e).sends = [k'] ∧ k'.read = true ∧
        k'.buf = (List.range (npLen k.ccb)).map (fun j => s.byte (apAddr k.core (apOff (npBuf k.ccb)) + j))) ∧
    (e < numSendQueues → port < 12 → port / 6 = e / 64 → v.sends = [k] → 4096 ≤ at' ∨ k.read = true ∧ 0 < at' →
      bits v.word1 1 0 ≠ 1 ∨ v.port = none ∨ v.port = some port →
      ∃ u, exec (.sendQueueStart (e, 1, port, words)) s = .next u ∧ u.last = .issued ∧ SameMem s u ∧
        u.netOut = s.netOut ++ [(e, port, packet)] ∧ (u.sendq e).sends = [{ k with lands := [k.sent + packet.length] }]) ∧
    (e < numSendQueues → port < 12 → port / 6 ≠ e / 64 → v.sends = [k] → 4096 ≤ at' ∨ k.read = true ∧ 0 < at' →
      NotNow (.sendQueueStart (e, 1, port, words)) s) ∧
    (e < numSendQueues → port < 12 → v.sends = [k] → 4096 ≤ at' ∨ k.read = true ∧ 0 < at' → bits v.word1 1 0 = 1 →
      v.port ≠ none → v.port ≠ some port → NotNow (.sendQueueStart (e, 1, port, words)) s)

/-- One row of a copy between aperture sides, byte elements, no conversion (R109, R110, R112, R114): the row's source bytes stand at its
destination in every targeted pair store, no other byte changes, and the row counts as delivered; a row whose source meets a fault stops
the command at its index (R112); the parts of a row may be read and land one by one (R189, R331), and the granules of each are checked as it
moves: a locked one stops the command with TAGKEY (R102, R103). A block of a Hare job without stages between aperture sides is a plain copy of
up to 4,096 bytes from where the input stands to where the output stands, and no other byte changes (R128, R406). Parts of up to 8 bytes and the
4,096 bytes of a job without stages are the model's choice (notes/assumptions/34.md and 33.md). -/
def Obligations.RowsAndBlocks : Prop :=
  (∀ (s : State) (e : Nat) (k : Cmd) (a d code : Nat),
    let g := s.copyEngine e
    let w := k.ccb
    let n := cpE w 0
    let r := k.rowAt k.row
    let turn : Prop := e < numCopyEngines ∧ g.running = some k ∧ k.slots = [] ∧ k.error = none ∧ k.row < k.rows ∧
      k.src = none ∧ k.landing = []
    let untagged : Prop := tagged k.refS = false ∧ tagged k.refD = false
    let src := pairAddr (pairOf k.core) + a
    let pairs := targetPairs k.core (ccMcast w)
    let plain : Prop := k.srcSide.ap = true ∧ k.dstSide.ap = true ∧ k.dstSide.kind = .mem ∧ cpSesz w = 1 ∧ cpCvt w = 0 ∧
      ccBaren w = false ∧ ccWmen w = false
    let placed : Prop := ∀ j, j < n →
      k.srcSide.addr [j, r.1, r.2.1, r.2.2] = some ((a + j : Nat) : Int) ∧
      k.dstSide.addr [j, r.1, r.2.1, r.2.2] = some ((d + j : Nat) : Int)
    (turn → untagged → plain → placed → d + n ≤ pairSize → Sound s src n → MemOk s →
      ∃ u, exec (.copyRow (e, 0)) s = .next u ∧ u.last = .issued ∧
        (∀ q ∈ pairs, ∀ j, j < n → u.byte (pairAddr q + d + j) = s.byte (src + j)) ∧
        (∀ x, (∀ q ∈ pairs, x < pairAddr q + d ∨ pairAddr q + d + n ≤ x) → u.byte x = s.byte x) ∧
        ∃ k', (u.copyEngine e) = { g with running := some k' } ∧ k'.row = k.row + 1 ∧ k'.landed = k.landed + n ∧ k'.error = none) ∧
    (turn → k.srcSide.ap = false →
      k.srcSide.check s k.view false true k.refS
        (joinRuns ((k.rowEls k.row).filterMap (fun x => x.2.1.map (fun v => (x.1 * k.srcSide.esz, v, k.srcSide.esz))))) = .error code →
      Happens (.copyRow (e, 0)) s (s.setCopyEngine e { g with running := some { k with
        error := some (code, flagOf code, k.rowIndex k.row), read := true } })) ∧
    (∀ ps i q, e < numCopyEngines → g.running = some k → k.slots = [] → k.src = some ps → ps[i]? = some q → q.done = false →
      s.locked k.refS k.srcSide.key q.piece.pa q.piece.len = true →
      Happens (.copyRow (e, i + 2)) s (s.setCopyEngine e { g with running := some { k with
        error := some (cTAGKEY, flagOf cTAGKEY, k.rowIndex k.row), read := true, src := none } })) ∧
    (∀ l ls p ps, e < numCopyEngines → g.running = some k → k.src = none → k.landing = l :: ls → l.parts = p :: ps →
      s.locked k.refD k.dstKey p.1.pa p.1.len = true →
      Happens (.copyRow (e, 2)) s (s.setCopyEngine e { g with running := some { k with
        landing := [], error := some (cTAGKEY, flagOf cTAGKEY, l.ix), read := true } })) ∧
    (∀ l ls p p' ps, e < numCopyEngines → g.running = some k → k.src = none → k.landing = l :: ls → l.parts = p :: p' :: ps →
      s.locked k.refD k.dstKey p.1.pa p.1.len = false →
      ∃ u, exec (.copyRow (e, 2)) s = .next u ∧ u.last = .issued ∧ Holds u p.1.pa p.1.len p.1.val ∧ SameMemBut s u p.1.pa p.1.len ∧
        u.copyEngine e = { g with running := some { k with landing := { l with parts := p' :: ps } :: ls } })) ∧
  (∀ (s : State) (h : Nat) (k : Cmd),
    let g := s.hare h
    let w := k.ccb
    let at' := k.inp.length
    let n := min 4096 (jcSrclen w - at')
    let src := apAddr k.core (apOff (nth w 0)) + at'
    let dst := apAddr k.core (apOff (nth w 1)) + at'
    h < 4 → g.running = some k → k.slots = [] → k.error = none → k.landing = [] → k.src = none → tagged k.refD = false →
    jcChain w = [] → at' < jcSrclen w → k.buf.length = at' →
    isAp (nth w 0) = true → isAp (nth w 1) = true → cpDkind w = 0 → ccMcast w = 0 → ccBaren w = false → ccWmen w = false →
    apOff (nth w 0) + at' + n ≤ pairSize → apOff (nth w 1) + at' + n ≤ pairSize → Sound s src n → MemOk s →
    ∃ u, exec (.hareBlock (h, 0)) s = .next u ∧ u.last = .issued ∧ SameMemBut s u dst n ∧
      (∀ j, j < n → u.byte (dst + j) = s.byte (src + j)) ∧
      ∃ k', u.hare h = { g with running := some k' } ∧ k'.row = k.row + 1 ∧ k'.inp.length = at' + n ∧ k'.landed = k.landed + n)

/-- Commands end (R61, R64, R115, R258, R330, R378, R406): the engine is free, the produced token is complete and cp one lower; without
BAREN no byte of memory changes when a copy or a job ends, and with BAREN and a fault the barrier receives its code, the unit, the
index and the bytes not delivered. An acknowledged send ends its command; an abandoned one is logged with its peer (R263). -/
def Obligations.CommandsComplete : Prop :=
  ∀ (s : State) (e : Nat) (k : Cmd) (r : List Cmd) (sent code flags stop : Nat),
    let quiet : Prop := k.slots = [] ∧ k.lands = [] ∧ k.landing = [] ∧ k.credits = [] ∧ ccWmen k.ccb = false
    let pa := barAddr (pairOf k.core) (ccBaroff k.ccb)
    let old := s.bar pa
    let v := s.sendq e
    (e < numCopyEngines → (s.copyEngine e).running = some k → k.gathered = true → quiet → ccBaren k.ccb = false →
      ∃ u, exec (.copyComplete e) s = .next u ∧ SameMem s u ∧ u.copyEngine e = { s.copyEngine e with running := none } ∧ Completed s u k) ∧
    (e < numCopyEngines → (s.copyEngine e).running = some k → quiet → k.error = some (code, flags, stop) → ccBaren k.ccb = true →
      ccMcast k.ccb = 0 → old.armed = false → old.code = 0 → 0 < code → code < 256 → flags < 32 → stop < 2 ^ 32 →
      old.arrived + (k.total - k.landed) < 2 ^ 48 →
      ∃ u, exec (.copyComplete e) s = .next u ∧ SameMemBut s u pa 40 ∧ Completed s u k ∧ (u.bar pa).code = code ∧
        bits (u.bar pa).status 23 16 = copyUnit e ∧ (u.bar pa).stop.toNat = stop ∧
        (u.bar pa).arrived = old.arrived + (k.total - k.landed)) ∧
    (e < 4 → (s.hare e).running = some k → k.jobRead = true → quiet → ccBaren k.ccb = false →
      ∃ u, exec (.hareJobEnd e) s = .next u ∧ SameMem s u ∧ u.hare e = { s.hare e with running := none } ∧ Completed s u k) ∧
    (e < numBadgers → (s.badger e).running = some k →
      ∃ u, exec (.badgerComplete (e, 0)) s = .next u ∧ u.last = .issued ∧ u.badger e = { s.badger e with running := none } ∧
        (ccBaren k.ccb = false → Completed s u k)) ∧
    (e < numSendQueues → v.sends = k :: r → k.out = true → (∀ j ∈ r, j.id ≠ k.id) → ccBaren k.ccb = false → s.savedTask k = none →
      ∃ u, exec (.npostSendComplete e) s = .next u ∧ SameMem s u ∧ (u.sendq e).sends = r ∧ Completed s u k) ∧
    (e < numSendQueues → v.sends = k :: r → ccBaren k.ccb = false → s.savedTask k = none → sent ≤ k.sendTotal →
      ∃ u, exec (.netSendAbandon e sent) s = .next u ∧ SameMem s u ∧ (u.sendq e).sends = r ∧ Completed s u k ∧
        u.mgmt = { s.mgmt with errlog := s.mgmt.errlog ++ [.sendAbandoned e v.peer] })

/-- A packet that arrives for a posted receive into the aperture lands its bytes at their place in the buffer, and completes the receive
with the last one (R130, R261, R378, R379); its parts may first be on their way (R189). With no receive posted the transport holds it, and a
longer packet than 4,096 bytes never comes; both, and that rewriting word 1 gives up the port, are the model's choice (notes/assumptions/35.md). A
binding register takes its word while its
queue is idle, and waits while the link retrains (R259, R262); a bridge replay shows nowhere (R131). -/
def Obligations.NetworkEvents : Prop :=
  ∀ (s : State) (q off len w t n : Nat) (dat : List (BitVec 8)) (x : BitVec 64) (k : Cmd),
    let v := s.sendq q
    let buf := npBuf k.ccb
    let dst := apAddr k.core (apOff buf) + off
    let comes : Prop := q < numSendQueues ∧ dat ≠ [] ∧ dat.length ≤ 4096 ∧ off + dat.length ≤ len ∧ bits v.word1 1 0 ≠ 0 ∧ v.skip = 0
    let takes : Prop := v.active = some k ∧ off = k.row ∧ (∀ r ∈ k.slots, r.2 ≤ off ∨ off + dat.length ≤ r.1) ∧ isAp buf = true ∧
      ccBaren k.ccb = false ∧ k.error = none ∧ k.landing = [] ∧ tagged k.refD = false
    (4096 < dat.length → q < numSendQueues → t < 2 → NotNow (.netPacketReceive (q, t) off dat len) s) ∧
    (comes → v.active = none → t < 2 → NotNow (.netPacketReceive (q, t) off dat len) s) ∧
    (comes → takes → off + dat.length ≤ npLen k.ccb →
      ∃ u, exec (.netPacketReceive (q, 1) off dat len) s = .next u ∧ SameMem s u ∧ u.last = .issued) ∧
    (comes → takes → off + dat.length ≤ npLen k.ccb → k.landed + dat.length ≠ npLen k.ccb →
      ∃ u, exec (.netPacketReceive (q, 0) off dat len) s = .next u ∧ SameMemBut s u dst dat.length ∧
        (∀ j, j < dat.length → u.byte (dst + j) = dat.getD j 0) ∧
        (u.ctx k.core k.ctx) = s.ctx k.core k.ctx) ∧
    (comes → takes → off + dat.length ≤ npLen k.ccb → k.landed + dat.length = npLen k.ccb → s.savedTask k = none →
      ∃ u, exec (.netPacketReceive (q, 0) off dat len) s = .next u ∧ SameMemBut s u dst dat.length ∧
        (∀ j, j < dat.length → u.byte (dst + j) = dat.getD j 0) ∧ Completed s u k ∧
        (u.sendq q).recvs = v.recvs.filter (fun j => j.id ≠ k.id)) ∧
    (q < numSendQueues → w < 2 → s.link.retraining = true → NotNow (.nqBind q w x) s) ∧
    (q < numSendQueues → s.link.retraining = false → v.cmds = [] → Happens (.nqBind q 0 x) s (s.setSendq q { v with peer := x })) ∧
    (q < numSendQueues → s.link.retraining = false → v.cmds = [] →
      Happens (.nqBind q 1 x) s (s.setSendq q { v with word1 := x &&& 0xFE3, port := none })) ∧
    (q < numSendQueues → s.link.retraining = false → w < 2 → v.cmds ≠ [] → Happens (.nqBind q w x) s s) ∧
    (t < numTowers → Happens (.bridgeReplay t n) s s)

/-! ## Graphs and tasks (R32, R38, R41 to R47, R85, R196 to R206, R213, R215, R273) -/

/-- From a launch queue to contexts and back. LAUNCH_READ takes one descriptor of the queue in turn, delivers it and writes HEAD + 1
(R196); a graph that passes its checks enters its Marten with its tasks, those without predecessors and named barriers runnable,
and one that fails them is rejected with a record, which names the lowest bad task descriptor (R200); TASK_PLACE starts the placement of the first task in queue order
that fits, one in a cycle, and of those that were runnable before it (R204); CONTEXT_BIND comes L + 2 cycles behind it and one more for each 256
bytes of a pair-store image, for the L lines that differ in a member or make a barrier (R206, R207), and gives every member its registers and planes
(R32, R206), or none when a line's CRC fails; aging
raises a priority (R47); an ended context that has drained is freed with its rings, and with the last member its task retires: its record is
written, each successor's counter goes down once for each naming, and at zero the successor becomes runnable, below zero the graph takes CTRUNDER
(R44, R202, R203); with its last task the graph's record is written (R201, R202); a torn-down graph holds no context (R201); a fault record goes
to the tower's queue when it has room (R215, R273). The model's choices: the CRC of all 43 lines decides before any line is used
(notes/assumptions/40.md), what an image gives the registers and the range entries beyond R85 and R95 (notes/assumptions/62.md), and the moments
at which aging and doorbells are served (notes/assumptions/39.md). -/
def Obligations.GraphsAndTasks : Prop :=
  ∀ (s : State) (t i c x : Nat) (l : Launch) (r : List Launch) (rd : Ready) (q : List Ready) (ms : List (Nat × Nat)) (p : Placing)
      (g : Graph) (w : List Word) (ws : List (List Word)),
    let m := s.marten t
    let hd := s.lqHeader i
    let tab := s.mgmt.lqtab.toNat
    let d := l.desc
    let n := gNtask d
    let ls := s.image (nth p.desc 2).toNat
    let fq := s.mgmt.fqs.get t HostRing.reset
    let key := (s.ctx c x).task
    let times (b : BoundTask) (j : Nat) : Nat := (((List.range (min (dNsucc b.desc) 8)).map (dSucc b.desc)).filter (fun k => k = j)).length
    let last (b : BoundTask) (z : TaskSt) : Prop := c < numCores ∧ x < numCtxs ∧ s.mayFree c x = true ∧ s.task key = some b ∧
      b.members.length = b.freed.length + 1 ∧ b.tower < numTowers ∧
      (s.marten b.tower).graphs.find? (fun h => h.order = b.graph) = some g ∧ g.tasks.find b.idx = some z
    (i < 16 → s.mgmt.lqnext = i → s.mgmt.doorbells.contains i = true → inLpddr tab 1024 = true → lqBad hd = false → lqWaiting hd ≠ 0 →
      let head := bits (nth hd 2) 31 0
      let desc := (List.range 8).map (fun j => s.word ((nth hd 0).toNat + head % bits (nth hd 1) 16 0 * 64 + 8 * j))
      ∃ u, exec .launchRead s = .next u ∧ SameMemBut s u (tab + 64 * i + 16) 8 ∧
        u.word (tab + 64 * i + 16) = BitVec.ofNat 64 ((head + 1) % 2 ^ 32) ∧ u.mgmt.lqnext = (i + 1) % 16 ∧
        (u.marten (gTower desc)).arrivals = (s.marten (gTower desc)).arrivals ++
          [{ desc := desc, host := some i, core := 0, ctx := 0, task := 0, tower := 0, graph := 0, fires := [] }]) ∧
    (s.mgmt.doorbells = [] → NotNow .launchRead s) ∧
    (t < numTowers → m.arrivals = l :: r → recordBad d = false → graphBad d = true →
      ∃ u, exec (.graphLaunch t) s = .next u ∧ (u.marten t).arrivals = r ∧ (u.marten t).graphs = m.graphs ∧
        SameMemBut s u (gCrec d) 64 ∧
        u.word (gCrec d) = BitVec.ofNat 64 (2 ^ 41 + 2 ^ 40 + cILLOP * 2 ^ 32 + gGid d)) ∧
    (t < numTowers → m.arrivals = l :: r → recordBad d = false → graphBad d = false → m.freeRun n = some c →
      i < n → taskBad (s.taskDesc d i) n = true → (∀ j, j < i → taskBad (s.taskDesc d j) n = false) →
      ∃ u, exec (.graphLaunch t) s = .next u ∧ (u.marten t).arrivals = r ∧ (u.marten t).graphs = m.graphs ∧
        SameMemBut s u (gCrec d) 64 ∧
        u.word (gCrec d) = BitVec.ofNat 64 (i * 2 ^ 48 + 2 ^ 41 + 2 ^ 40 + cILLOP * 2 ^ 32 + gGid d)) ∧
    (t < numTowers → m.arrivals = l :: r → recordBad d = false → graphBad d = false → m.freeRun n = some c →
      ws = (List.range n).map (fun j => s.taskDesc d j) → (∀ v ∈ ws, taskBad v n = false) → (∀ h ∈ m.graphs, h.order < m.orders) →
      (∀ k, c ≤ k → k < c + n → m.counters.get k 0 = 0) →
      ∃ u h, exec (.graphLaunch t) s = .next u ∧ SameMem s u ∧ (u.marten t).arrivals = r ∧
        (u.marten t).graphs.find? (fun k => k.order = m.orders) = some h ∧ h.desc = d ∧ h.base = c ∧
        ∀ j, j < n → ∃ z, h.tasks.find j = some z ∧ z.desc = s.taskDesc d j ∧
          (dNpred z.desc = 0 → (∀ b, b < 4 → barNamed z.desc b = false) → z.stage = .runnable) ∧
          (dNpred z.desc ≠ 0 → z.stage = .waiting ∧ (u.marten t).counters.get (c + j) 0 = dNpred z.desc)) ∧
    (t < numTowers → m.placed = false → m.placeable = rd :: q →
      taskBad (s.taskDesc rd.graph.desc rd.idx) (gNtask rd.graph.desc) = false →
      s.fit t (s.taskDesc rd.graph.desc rd.idx) = some ms →
      let li := s.image (nth (s.taskDesc rd.graph.desc rd.idx) 2).toNat
      let sent := s.linesSent li ms
      (∀ j, j ∈ sent ↔ j < 43 ∧ ((∃ mb ∈ ms, (s.ctx mb.1 mb.2).active.get j 0 ≠ (planeOf li).get j 0 ∨ lineOk (li.getD j 0) = false) ∨
        39 ≤ j ∧ bit (imgWord li j 0) 16 = true)) ∧
      ∃ u, exec (.taskPlace t) s = .next u ∧ SameMem s u ∧ (u.marten t).placing = m.placing ++
        [{ graph := rd.graph.order, idx := rd.idx, desc := s.taskDesc rd.graph.desc rd.idx, members := ms,
           due := m.cycle + sent.length + 2 + (imgPslen li + 255) / 256 }]) ∧
    (t < numTowers → m.placed = true ∨ m.placeable = [] → NotNow (.taskPlace t) s) ∧
    (t < numTowers → m.placing = [p] → m.cycle < p.due → NotNow (.contextBind t) s) ∧
    (t < numTowers → m.placing = [p] → p.due ≤ m.cycle → m.graphs.find? (fun h => h.order = p.graph) = some g → ls.all lineOk = true →
      imgRefused ls = false → p.members.Nodup →
      ∃ u, exec (.contextBind t) s = .next u ∧ (u.marten t).placing = [] ∧
        ∀ k mb, p.members[k]? = some mb →
          let z := u.ctx mb.1 mb.2
          z.bound = true ∧ z.member = k ∧ z.pc = nth p.desc 0 ∧ z.csr = imgCsr ls ∧ z.ranges = imgRanges ls ∧ z.active = planeOf ls ∧
          z.shadow = (s.ctx mb.1 mb.2).active ∧ z.reg 0 = BitVec.ofNat 64 k ∧ z.reg 1 = BitVec.ofNat 64 p.members.length ∧
          z.reg 2 = BitVec.ofNat 64 p.idx ∧ z.reg 3 = BitVec.ofNat 64 (gGid g.desc) ∧ z.reg 64 = nth p.desc 1 ∧
          (∀ b, b < 64 → (u.core mb.1).vregFor mb.2 (z.vphys (BitVec.ofNat 6 b)) = 0)) ∧
    (t < numTowers → m.placing = [p] → p.due ≤ m.cycle → m.graphs.find? (fun h => h.order = p.graph) = some g →
      ls.all lineOk = false ∨ imgRefused ls = true →
      ∃ u, exec (.contextBind t) s = .next u ∧ (u.marten t).placing = [] ∧
        ∀ mb ∈ p.members, (u.ctx mb.1 mb.2).bound = (s.ctx mb.1 mb.2).bound ∧ (u.ctx mb.1 mb.2).shadow = planeOf ls) ∧
    (t < numTowers → m.ready (fun k => decide (k.prio < 7)) Ready.older = [rd] →
      ∃ u, exec (.agingTick t) s = .next u ∧ SameMem s u ∧
        u.marten t = m.modTask rd.graph.order rd.idx (fun k => { k with prio := k.prio + 1 })) ∧
    (c < numCores → x < numCtxs → s.mayFree c x = true →
      ∃ u, exec (.contextFree c x) s = .next u ∧ (u.ctx c x).bound = false ∧ (u.core c).running ≠ some x ∧
        ∀ k v, (u.core c).rings.find k = some v → v.ctx ≠ x) ∧
    (c < numCores → x < numCtxs → s.mayFree c x = false → NotNow (.contextFree c x) s) ∧
    (∀ b, c < numCores → x < numCtxs → s.mayFree c x = true → s.task key = some b → b.members.length ≠ b.freed.length + 1 →
      ∃ u, exec (.contextFree c x) s = .next u ∧ SameMem s u ∧ u.towers = s.towers ∧
        u.task key = some { b with freed := b.freed ++ [(s.ctx c x).member] }) ∧
    (∀ b z, last b z → g.retired + 1 ≠ gNtask g.desc → g.rejected = false → g.abandoned = false → g.torndown = false →
      ∃ u h, exec (.contextFree c x) s = .next u ∧ u.task key = none ∧
        (u.marten b.tower).graphs.find? (fun h => h.order = b.graph) = some h ∧ h.desc = g.desc ∧ h.retired = g.retired + 1 ∧
        (h.tasks.find b.idx).map TaskSt.stage = some .retired ∧
        (gTrec g.desc = true → HoldsWords u (gCrec g.desc + 64 + 16 * b.idx) [BitVec.ofNat 64 b.idx, 1] ∧
          SameMemBut s u (gCrec g.desc + 64 + 16 * b.idx) 16) ∧ (gTrec g.desc = false → SameMem s u) ∧
        (∀ j, (u.marten b.tower).counters.get (g.base + j) 0 = (s.marten b.tower).counters.get (g.base + j) 0 - times b j) ∧
        (∀ j z', j ≠ b.idx → g.tasks.find j = some z' → z'.stage = .waiting → allFired z' = true →
          0 < (s.marten b.tower).counters.get (g.base + j) 0 → (s.marten b.tower).counters.get (g.base + j) 0 ≤ times b j →
          (h.tasks.find j).map TaskSt.stage = some .runnable) ∧
        ((∀ j, times b j ≤ (s.marten b.tower).counters.get (g.base + j) 0) → h.code = g.code) ∧
        (g.code = 0 → (∃ j, (s.marten b.tower).counters.get (g.base + j) 0 < times b j) → h.code = cCTRUNDER)) ∧
    (∀ b z, last b z → g.retired + 1 = gNtask g.desc → dNsucc b.desc = 0 →
      ∃ u, exec (.contextFree c x) s = .next u ∧ u.task key = none ∧
        (u.marten b.tower).graphs.find? (fun h => h.order = b.graph) = none ∧
        HoldsWords u (gCrec g.desc)
          [BitVec.ofNat 64 (g.ftask * 2 ^ 48 + bnat g.torndown * 2 ^ 43 + bnat g.abandoned * 2 ^ 42 + bnat g.rejected * 2 ^ 41 + 2 ^ 40 +
              g.code * 2 ^ 32 + gGid g.desc),
           BitVec.ofNat 64 (g.dlaunch * 2 ^ 48 + gNtask g.desc)] ∧
        (gTrec g.desc = true → HoldsWords u (gCrec g.desc + 64 + 16 * b.idx) [BitVec.ofNat 64 b.idx, 1]) ∧
        SameMemBut s u (gCrec g.desc) (64 + 16 * (b.idx + 1))) ∧
    (t < numTowers → m.graphs.find? (fun h => h.order = i) = some g →
      ∃ u, exec (.graphTeardown t i) s = .next u ∧ u.last = .issued ∧
        ∀ e ∈ s.tasksOf t i, u.task e.1 = none ∧
          ∀ mb ∈ e.2.members, (s.ctx mb.1 mb.2).bound = true → (s.ctx mb.1 mb.2).task = e.1 → (u.ctx mb.1 mb.2).bound = false) ∧
    (t < numTowers → m.records = w :: ws → w.length = 8 → fq.valid 64 65536 = true → fq.room 65536 = true →
      ∃ u, exec (.faultQueueWrite t) s = .next u ∧ SameMemBut s u (fq.next 64) 64 ∧ HoldsWords u (fq.next 64) w ∧
        (u.marten t).records = ws ∧
        u.mgmt = { s.mgmt with fqs := s.mgmt.fqs.set t { fq with tail := BitVec.ofNat 64 ((fq.tail.toNat + 1) % 65536) } }) ∧
    (t < numTowers → m.records = w :: ws → fq.valid 64 65536 = true → fq.room 65536 = false → NotNow (.faultQueueWrite t) s)

/-- Pre-emption (R216 to R220): a request is refused without one good save area for each member, and otherwise reaches them all; those
that run have still to land, and one that is stopped lands at once; a forced stop lands a running member precisely; when
all have landed the gang is halted; saved members leave their contexts; a resumed gang stands in the contexts named. That a request without
good areas changes nothing, when a save may start (`maySave`), and what it keeps where R219 is silent, are the model's choice
(notes/assumptions/42.md). -/
def Obligations.Preemption : Prop :=
  ∀ (s : State) (k : Nat) (b : BoundTask) (p : Preempt) (areas : List (Nat × Nat)) (live : List (Nat × Nat × Nat)) (slots : List Nat)
      (c x : Nat),
    let fresh : Preempt :=
      { areas := areas, live := live, landed := [], stage := .requested, recorded := [], held := [], saved := [] }
    let good : Prop := areas.length = b.members.length ∧ ∀ a ∈ areas, areaOk a = true
    let alone : Prop := b.members = [(c, x)] ∧ b.freed = [] ∧ (s.ctx c x).bound = true ∧ (s.ctx c x).task = k ∧ (s.ctx c x).member = 0 ∧
      (∀ sp, (s.ctx c x).span = some sp → sp.gang = none)
    s.task k = some b →
    (¬ good → NotNow (.preemptRequest k areas live) s) ∧
    (b.pre = none → good → (∀ m ∈ b.members, (s.core m.1).running = some m.2 ∧ (s.ctx m.1 m.2).stopped = false) →
      ∃ u, exec (.preemptRequest k areas live) s = .next u ∧ u.last = .issued ∧
        u = { s with tasks := u.tasks, last := u.last } ∧ u.task k = some { b with pre := some fresh }) ∧
    (b.pre = none → good → alone → (s.ctx c x).stopped = true →
      ∃ u, exec (.preemptRequest k areas live) s = .next u ∧ SameMem s u ∧
        u.task k = some { b with pre := some { fresh with landed := [0] } }) ∧
    (b.pre = some p → p.stage = .requested → p.landed = [] → alone → (s.ctx c x).stopped = false → (s.ctx c x).ended = false →
      (s.ctx c x).hold = .none → (∀ o ∈ (s.core c).outs, o.ctx ≠ x) → bit (s.owl (towerOf c)).trctl 0 = false →
      ∃ u, exec (.preemptForcedStop k) s = .next u ∧ SameMem s u ∧ (u.ctx c x).stopped = true ∧ (u.ctx c x).stopReason = 0 ∧
        (u.ctx c x).pc = (s.ctx c x).pc ∧ (u.ctx c x).vq.map QOp.ins = (s.ctx c x).vq.map QOp.ins ∧ (u.core c).running ≠ some x ∧
        u.task k = some { b with pre := some { p with landed := [0] } }) ∧
    (b.pre = some p → p.stage = .requested → b.toLand = [] →
      ∃ u, exec (.preemptHalt k) s = .next u ∧ u = { s with tasks := u.tasks, last := u.last } ∧
        u.task k = some { b with pre := some { p with stage := .halted } }) ∧
    (b.pre = some p → p.stage = .requested → b.toLand ≠ [] → NotNow (.preemptHalt k) s) ∧
    (b.pre = some p → p.stage = .halted → s.maySave k b = true →
      (∀ e ∈ b.live, ∀ q', ((s.record k).task k).bind BoundTask.pre = some q' →
        Blob.len ((s.record k).sections q' e.2 ++ [bn (16 <<< 32), bn 0]) ≤ (q'.areas.getD e.1 (0, 0)).2 * 65536) →
      ∃ u q', exec (.preemptSave k) s = .next u ∧ (u.task k).bind BoundTask.pre = some q' ∧ q'.stage = .saved ∧
        q'.saved.length = b.members.length ∧ ∀ e ∈ b.live, (u.ctx e.2.1 e.2.2).bound = false) ∧
    (b.pre = some p → p.stage = .saved → s.mayResume b slots = true →
      ∃ u b', exec (.gangResume k slots) s = .next u ∧ u.task k = some b' ∧ b'.pre = none ∧ b'.members.length = b.members.length ∧
        ∀ i m, b.members[i]? = some m → b.freed.contains i = false → b'.members[i]? = some (m.1, slots.getD i 0))

/-! ## Clock, modes, layers and errors (R24 to R30, R223, R225, R226, R269, R281) -/

/-- What happens to a tower and its layers. A throttle window takes its n, and the power level requested for that tower takes effect (R24, R26); n
above 32 in every tower raises the alarm (R29); a timing mode waits until no task runs (R26); MODESET requests every mode that
differs, a later request replacing an earlier one (R26, R271); a scrub visit corrects and logs an error, and poisons the word
of a detect-only layer (R28, R223); failing banks and lanes are noted; a recovery that has waited too long asks for the pre-emption of the
tasks on the layer (R225); at a recovery point with no task on the layer banks are
replaced by spares, their correctable errors corrected (R225), a new protection mode clears the layer (R28), and a bank without a spare retires it: it holds nothing,
has no capacity, and a record goes to the fault queue (R226); a write to ERRINJCTL injects, arms or refuses (R281). The bank of an address
(notes/assumptions/30.md), the moments of recoveries and mode changes and the spare lanes (43.md, 44.md), the throttle window of each tower with its
alarm and the window boundary of a power level (45.md) and the moment of an injection (46.md) are the model's choices. -/
def Obligations.ModesLayersAndErrors : Prop :=
  ∀ (s : State) (t n w : Nat) (v : Word) (b : Bool),
    let k := s.tower t
    let l := s.layer t n
    let lo := layerAddr t n
    let hi := lo + 2 ^ 38
    let used := fun c : Ctx => c.rngList.any (fun i => bits (c.rng i 3) 2 0 = n)
    let waiting : Prop := l.retired = none ∧ l.forced = false ∧ (l.banks ≠ [] ∨ l.badLanes ≠ [] ∨ l.nextDetect ≠ none)
    let e := v &&& 0x0000FFFF00FFE303
    let armed := fun c : Word => { k with owl := { k.owl with errctl := c, errseen := 0 } }
    (t < numTowers → n ≤ 32 →
      TowerBecomes (.throttleWindow t n) s t { k with throt := n, plevel := k.nextPlevel.getD k.plevel, nextPlevel := none }) ∧
    (t < numTowers → 32 < n →
      ∃ u, exec (.throttleWindow t n) s = .next u ∧ (u.tower t).throt = 32 ∧
        ((∀ j, j < numTowers → j ≠ t → (s.tower j).throt = 32) → u.mgmt.alarms = s.mgmt.alarms ||| 1) ∧
        (∀ j, j < numTowers → j ≠ t → (s.tower j).throt ≠ 32 → u.mgmt.alarms = s.mgmt.alarms)) ∧
    (t < numTowers → k.nextTmode = some b → s.boundIn t (fun _ => true) = false →
      TowerBecomes (.timingModeApply t) s t { k with tmode := b, nextTmode := none }) ∧
    (t < numTowers → k.nextTmode = none ∨ s.boundIn t (fun _ => true) = true → NotNow (.timingModeApply t) s) ∧
    (∃ u, exec (.modesetWrite v) s = .next u ∧ u.last = .issued ∧ u = { s with towers := u.towers, mgmt := u.mgmt, last := u.last } ∧
      u.mgmt = { s.mgmt with modeset := v &&& 0x3FFFFFFFFFF } ∧
      ∀ j, j < numTowers →
        (u.tower j).tmode = (s.tower j).tmode ∧ (u.tower j).plevel = (s.tower j).plevel ∧
        (u.tower j).nextPlevel = (if bits v 41 40 = (s.tower j).plevel then none else some (bits v 41 40)) ∧
        (u.tower j).nextTmode = (if bit v j = (s.tower j).tmode then none else some (bit v j)) ∧
        ∀ i, i < 4 →
          u.layer j (i + 1) = { s.layer j (i + 1) with
            nextDetect := if bit v (8 + 4 * j + i) = (s.layer j (i + 1)).detect then none else some (bit v (8 + 4 * j + i)) }) ∧
    (∀ o, s.region (8 * w) = .layer t n o →
      (s.soft.contains w = false → Happens (.scrubVisit w) s s) ∧
      (l.detect = true → s.soft.contains w = true → s.poison.contains w = false →
        Happens (.scrubVisit w) s { s with poison := w :: s.poison, soft := s.soft.filter (fun x => x ≠ w) }) ∧
      (l.detect = false → s.soft.count w = 1 →
        Happens (.scrubVisit w) s { s with
          soft := s.soft.filter (fun x => x ≠ w)
          mgmt := { s.mgmt with errlog := s.mgmt.errlog ++ [.corrected (8 * w) n (Config.bankOf (8 * w)) (Config.rowOf (8 * w))] } })) ∧
    ((∀ t' n' o, s.region (8 * w) ≠ .layer t' n' o) → NotNow (.scrubVisit w) s) ∧
    (t < numTowers → 0 < n → n ≤ 4 →
      (l.retired = none → w < 32 * spareBanks n → l.banks.contains w = false →
        TowerBecomes (.bankFailing t (n, w)) s t { k with layers := k.layers.set n { l with banks := l.banks ++ [w] } }) ∧
      (w < 32 * spareBanks n → l.banks.contains w = true → NotNow (.bankFailing t (n, w)) s) ∧
      (l.retired = none →
        TowerBecomes (.failingTsvLane t n) s t
          { k with layers := k.layers.set n { l with badLanes := l.badLanes ++ [l.badLanes.length] } }) ∧
      (waiting → s.tasksOn t n = [] →
        TowerBecomes (.recoveryDelayExpire (t, n) []) s t { k with layers := k.layers.set n { l with forced := true } }) ∧
      (waiting → s.tasksOn t n ≠ [] → NotNow (.recoveryDelayExpire (t, n) []) s) ∧
      (∀ i areas live u, waiting → exec (.preemptRequest i areas live) s = .next u → u.tasksOn t n = [] →
        Happens (.recoveryDelayExpire (t, n) [(i, areas, live)]) s (u.modLayer t n (fun l => { l with forced := true }))) ∧
      (s.boundIn t used = true → NotNow (.recoveryPoint t n) s) ∧
      (l.banks = [] → l.badLanes = [] → l.nextDetect = none → NotNow (.recoveryPoint t n) s) ∧
      (s.boundIn t used = false → l.retired = none → l.badLanes = [] → l.nextDetect = none → l.banks ≠ [] →
        (l.spares + l.banks.length ≤ spareBanks n →
          ∃ u, exec (.recoveryPoint t n) s = .next u ∧ u.last = .issued ∧ SameMem s u ∧
            ∀ x o, x ∈ u.soft → s.region (8 * x) = .layer t n o → l.banks.contains (Config.bankOf (8 * x)) = false) ∧
        (l.spares + l.banks.length ≤ spareBanks n → (∀ x o, x ∈ s.soft → s.region (8 * x) ≠ .layer t n o) →
          TowerBecomes (.recoveryPoint t n) s t
            { k with layers := k.layers.set n { l with spares := l.spares + l.banks.length, banks := [], forced := false } }) ∧
        (spareBanks n < l.spares + l.banks.length →
          ∃ u, exec (.recoveryPoint t n) s = .next u ∧ u.last = .issued ∧ (u.layer t n).retired = some (l.cap n * 1024) ∧
            (u.layer t n).cap n = 0 ∧ SameMemBut s u lo (2 ^ 38) ∧ (∀ a, lo ≤ a → a < hi → u.byte a = 0) ∧
            (u.marten t).records = (s.marten t).records ++ [retirementRecord t n])) ∧
      (s.boundIn t used = false → l.retired = none → l.badLanes = [] → l.banks = [] → l.nextDetect = some b →
        ∃ u, exec (.recoveryPoint t n) s = .next u ∧ u.last = .issued ∧
          u.layer t n = { l with detect := b, nextDetect := none, forced := false } ∧
          (∀ a, lo ≤ a → a < hi → u.byte a = 0 ∧ u.lock a = 0) ∧
          (∀ a, a < lo ∨ hi ≤ a → u.byte a = s.byte a ∧ u.lock a = s.lock a))) ∧
    (t < numTowers → s.link.retraining = true → NotNow (.errorInjectArm t v) s) ∧
    (t < numTowers → s.link.retraining = false →
      (bit e 0 = true → bits e 9 8 = 0 → bit e 1 = true → s.region k.owl.erradr.toNat = .lpddr →
        s.poison.contains (k.owl.erradr.toNat / 8) = false →
        ∃ u, exec (.errorInjectArm t v) s = .next u ∧ u.last = .issued ∧ u.tower t = armed (e - 1) ∧
          u = { s with towers := u.towers, poison := k.owl.erradr.toNat / 8 :: s.poison, last := u.last }) ∧
      (bit e 0 = false ∨ bits e 9 8 = 1 ∨ bits e 9 8 = 2 → TowerBecomes (.errorInjectArm t v) s t (armed e)) ∧
      (bit e 0 = true → bits e 9 8 = 3 → TowerBecomes (.errorInjectArm t v) s t (armed (e - 1))))

/-! ## The host, the management registers and trust (R45, R196, R259, R260, R268 to R273) -/

/-- The module's outside. A host read of LPDDR6 or a pair store answers its bytes and a write performs, and any other is refused:
all-ones data, no effect, an entry in the error log, and ALARMS.HOSTREF (R260); of a good data flit in sequence the payload is
accepted and acknowledged, a bad flit is refused, a refused flit and every later one are sent again, and eight failed replays of one flit
lead to retraining, in which every write of the host waits (R259); a doorbell names its queue, or raises the launch-queue alarm (R196, R272); IMGINV removes every line of
the image and is done when every tower is (R45); EGRST discards a stream's unreleased entries and clears its NEXT and SETL
(R272); a report holds its body and a signature (R270); module reset verifies stages in order and stops at the first
that fails (R269); registers that only firmware or the device writes ignore a write, and the head of a ring takes the host's alone (R271, R273).
The model's choices, by their log entries: a module reset clears every memory and register (notes/assumptions/5.md); the payload of a completion
and the signature are free values (28.md, 29.md); a doorbell of a bad header is dropped (39.md); where the management window lies and who writes
what (47.md); the image's lines go when IMGINV is written (49.md); the ninth NAK, and the host's writes waiting in retraining (58.md). -/
def Obligations.HostAndManagement : Prop :=
  ∀ (s : State) (pa len off q : Nat) (dat : List Byte) (v : Word) (stages pre post : List (BitVec 256 × Bool)) (d : BitVec 256),
    let m := s.mgmt
    let k := s.link
    let i := bits v 3 0
    let die := bits v 12 12
    let stream := bits v 11 0
    let g := s.egr die
    let zeros : List Byte := List.replicate 244 0
    let count := k.naks.get (q % 4096) 0
    let tired : Bool := k.naks.any (fun e => decide (8 < e.2))
    let up : Prop := k.retraining = false
    (k.retraining = false → k.replay.length < 256 →
      (s.hostMay pa len = true →
        exec (.hostRead pa len) s = exec (.hostRead pa len) (s.correct pa len) ∧
        (s.softAt pa len = false → ∃ u, exec (.hostRead pa len) s = .next u ∧ u.last = .issued ∧ SameMem s u ∧
          u = { s with hostOut := s.hostOut ++ [(false, bytesOf len (s.readMem pa len))], link := u.link, free := u.free, last := u.last })) ∧
      (pa < mgmtBase → s.hostMay pa len = false →
        ∃ u, exec (.hostRead pa len) s = .next u ∧ u.last = .issued ∧ SameMem s u ∧
          u.hostOut = s.hostOut ++ [(true, List.replicate len 0xFF)] ∧
          u.mgmt = { m with errlog := m.errlog ++ [.hostRefused pa false], alarms := m.alarms ||| 4 }) ∧
      (off % 8 = 0 →
        ∃ u, exec (.hostRead (mgmtBase + off) 8) s = .next u ∧ u.last = .issued ∧
          u.hostOut = s.hostOut ++ [(false, bytesOf 8 (s.mgmtRead off).toNat)])) ∧
    (k.retraining = true ∨ 256 ≤ k.replay.length → NotNow (.hostRead pa len) s) ∧
    (k.retraining = true → NotNow (.hostWrite pa dat) s ∧ NotNow (.flitReceive dat) s ∧ NotNow (.launchDoorbell v) s ∧
      NotNow (.imageInvalidate v) s ∧ NotNow (.egressStreamReset v) s ∧ NotNow (.attestationRequest v) s ∧
      NotNow (.mgmtRegisterWrite (true, off) v) s) ∧
    (k.retraining = false →
      (s.hostMay pa dat.length = true →
        ∃ u, exec (.hostWrite pa dat) s = .next u ∧ OnlyMem s u ∧ u.last = .issued ∧ SameMemBut s u pa dat.length ∧
          ∀ j x, dat[j]? = some x → u.byte (pa + j) = x) ∧
      (pa < mgmtBase → s.hostMay pa dat.length = false →
        Happens (.hostWrite pa dat) s
          { s with mgmt := { m with errlog := m.errlog ++ [.hostRefused pa true], alarms := m.alarms ||| 4 } }) ∧
      (off % 8 = 0 → Happens (.hostWrite (mgmtBase + off) (bytesOf 8 v.toNat)) s (s.hostMgmtWrite off v)) ∧
      (flitGood dat = true → flitType dat = ftDATA → flitSeq dat = k.rxSeq.toNat →
        ∃ u, exec (.flitReceive dat) s = .next u ∧ u.last = .issued ∧ u = { s with link := u.link, last := u.last } ∧
          u.link.accepted = k.accepted ++ [(dat.drop 4).take 244] ∧ u.link.rxSeq = k.rxSeq + 1 ∧
          u.link.sent = k.sent ++ [flit k.txSeq.toNat ftACK (flitSeq dat) zeros]) ∧
      (flitGood dat = false →
        Happens (.flitReceive dat) s
          { s with link := { k with sent := k.sent ++ [flit k.txSeq.toNat ftNAK (k.rxSeq - 1).toNat zeros] } }) ∧
      (tired = false → k.replay.any (fun f => flitSeq f = q % 4096) = true → count < 8 →
        Happens (.flitNak q) s
          { s with link := { k with
            sent := k.sent ++ k.replay.filter (fun f => decide ((flitSeq f + 4096 - q % 4096) % 4096 < 2048))
            naks := k.naks.set (q % 4096) (count + 1) } }) ∧
      (tired = false → k.replay.any (fun f => flitSeq f = q % 4096) = true → count = 8 →
        Happens (.flitNak q) s { s with link := { k with naks := k.naks.set (q % 4096) 9 } }) ∧
      (tired = true → Happens .linkRetrain s { s with link := { k with retraining := true } }) ∧
      (tired = false → NotNow .linkRetrain s)) ∧
    (k.retraining = true →
      Happens .linkRetrained s { s with link := { k with retraining := false, naks := [], sent := k.sent ++ k.replay } }) ∧
    (up → inLpddr m.lqtab.toNat 1024 = true →
      (lqBad (s.lqHeader i) = false → m.doorbells.contains i = false →
        Happens (.launchDoorbell v) s
          { s with mgmt := { m with ldoorbell := BitVec.ofNat 64 i, doorbells := m.doorbells ++ [i] } }) ∧
      (lqBad (s.lqHeader i) = true →
        Happens (.launchDoorbell v) s
          { s with mgmt := { m with ldoorbell := BitVec.ofNat 64 i, alarms := m.alarms ||| 2, lqnum := BitVec.ofNat 4 i } })) ∧
    (up → inLpddr m.lqtab.toNat 1024 = false →
      Happens (.launchDoorbell v) s { s with mgmt := { m with ldoorbell := BitVec.ofNat 64 i, alarms := m.alarms ||| 2, lqnum := 0 } }) ∧
    (up → ∃ u, exec (.imageInvalidate v) s = .next u ∧ u.last = .issued ∧ u = { s with icaches := u.icaches, mgmt := u.mgmt, last := u.last } ∧
      bits v 23 0 ∈ u.mgmt.imgpend ∧ bit (u.mgmtRead 0x148) 31 = true ∧
      ∀ p x, x ∈ u.icaches.get p [] ↔ x ∈ s.icaches.get p [] ∧ x.image.toNat ≠ bits v 23 0) ∧
    (m.imgpend ≠ [] → Happens .imginvDone s { s with mgmt := { m with imgpend := [] } }) ∧
    (m.imgpend = [] → NotNow .imginvDone s) ∧
    (up → ∃ u, exec (.egressStreamReset v) s = .next u ∧ u.last = .issued ∧
      u = { s with egress := u.egress, mgmt := { m with egrst := v &&& 0x1FFF }, last := u.last } ∧
      (u.egr die).stream stream = { next := 0, setl := 0 } ∧ (∀ j, j ≠ stream → (u.egr die).stream j = g.stream j) ∧
      (u.egr die).items = g.items.filter (fun x => x.stream ≠ stream || x.released)) ∧
    (up → Happens (.attestationRequest v) s (if bit v 0 = true then { s with mgmt := { m with attreq := true } } else s)) ∧
    (m.attreq = true →
      ∃ u, exec .attestationReport s = .next u ∧ u.last = .issued ∧ u.mgmt.attreq = false ∧
        u.mgmt.attwin.take m.reportBody.length = m.reportBody ∧ u.mgmt.attwin.length = m.reportBody.length + 2420) ∧
    (m.attreq = false → NotNow .attestationReport s) ∧
    (∃ u, exec (.moduleReset stages) s = .next u ∧
      u = { State.reset with mgmt := u.mgmt, netOut := s.netOut, hostOut := s.hostOut, inputs := s.inputs, sched := s.sched,
                             free := s.free, last := .issued } ∧
      u.mgmt = { Mgmt.reset with measure := u.mgmt.measure, digests := u.mgmt.digests, failedStage := u.mgmt.failedStage } ∧
      ((∀ x ∈ stages, x.2 = true) →
        u.mgmt.failedStage = none ∧ u.mgmt.digests = stages.map Prod.fst ∧
        u.mgmt.measure = stages.foldl (fun a x => sha3 (bytesOf 32 a.toNat ++ bytesOf 32 x.1.toNat)) 0) ∧
      (stages = pre ++ (d, false) :: post → (∀ x ∈ pre, x.2 = true) →
        u.mgmt.failedStage = some pre.length ∧ u.mgmt.digests = pre.map Prod.fst)) ∧
    (∀ h, (h = true → up) →
      (off % 8 ≠ 0 ∨ off = 0x0000 ∨ off = 0x0008 → Happens (.mgmtRegisterWrite (h, off) v) s s) ∧
      (∀ j, j < 2 → ∃ u, exec (.mgmtRegisterWrite (h, 0x0118 + 32 * j) v) s = .next u ∧
        ∀ i, u.mgmt.egrings.get i HostRing.reset = m.egrings.get i HostRing.reset) ∧
      (∀ j, j < 2 → ∃ u, exec (.mgmtRegisterWrite (h, 0x0110 + 32 * j) v) s = .next u ∧ u.last = .issued ∧
        u.mgmt.egrings.get j HostRing.reset =
          { m.egrings.get j HostRing.reset with head := if h then v else (m.egrings.get j HostRing.reset).head }) ∧
      Happens (.mgmtRegisterWrite (h, 0x0020) v) s { s with mgmt := { m with alarms := m.alarms &&& ~~~(BitVec.ofNat 4 (bits v 3 0)) } } ∧
      (∃ u, exec (.mgmtRegisterWrite (h, 0x0018) v) s = .next u ∧ u.last = .issued ∧ u.mgmtRead 0x0018 = v &&& 0xFFFFFFFFFFFFFFC0) ∧
      ∀ t, t < numTowers → ∃ u, exec (.mgmtRegisterWrite (h, 0x0048 + 16 * t) v) s = .next u ∧ u.last = .issued ∧
        (u.mgmt.fqs.get t HostRing.reset).tail = (m.fqs.get t HostRing.reset).tail ∧
        (u.mgmt.fqs.get t HostRing.reset).head = (if h then BitVec.ofNat 64 (bits v 47 32) else (m.fqs.get t HostRing.reset).head) ∧
        (u.mgmt.fqs.get t HostRing.reset).slots = if h then (m.fqs.get t HostRing.reset).slots else BitVec.ofNat 64 (bits v 15 0)) ∧
    (up → off = 0x0028 ∨ off = 0x0030 ∨ off = 0x0038 → Happens (.mgmtRegisterWrite (true, off) v) s s) ∧
    Happens (.mgmtRegisterWrite (false, 0x0030) v) s { s with mgmt := { m with errbase := v } } ∧
    Happens (.mgmtRegisterWrite (false, 0x0038) v) s { s with mgmt := { m with errsize := v } } ∧
    s.mgmtRead 0x0030 = m.errbase ∧ s.mgmtRead 0x0038 = m.errsize

/-! ## Owl (R222, R274 to R282) -/

/-- Owl's commands on the context they name (R276). A free context ends with NOTBOUND, an OP that is not assigned with BADCMD. STOP makes
a precise stop and leaves a stopped context as it is; RESUME lets it go on, through its handler after a fault (R213); STEP is
accepted (R277); SETTLE ends when ld, st and cp are zero (R222); RDREG and WRREG reach sn, an and the control registers, WRREG
refused while the register has a pending write (R222); RESUME, STEP, RDREG and WRREG of a running context end with BUSY; FLUSH
writes every span and the unspanned set and clears them (R280); TAGDUMP writes the tag trace (R282); a sample period writes one
record for each core with a bound context (R279). NOTBOUND for a core of 96 or more, BADREG for what the table does not list, BUSY for a
context halted for a pre-emption, the slots of FLUSH and TAGDUMP records, and a WRREG of a control register that takes effect at once are the
model's choice (notes/assumptions/15.md). -/
def Obligations.OwlCommands : Prop :=
  ∀ (s : State) (t r : Nat) (w : Word) (u' : State),
    let o := s.owl t
    let c := owlCore t o
    let x := owlCtx o
    let k := s.ctx c x
    let ends := fun res : Nat => { s.tower t with owl := { o with result := res, pend := false, settling := false, stepping := false } }
    let free := t < numTowers ∧ o.pend = true ∧ o.settling = false ∧ o.stepping = false
    let asked := free ∧ bits o.cmd 10 4 < 96 ∧ k.bound = true
    let traced := bit o.trctl 0 = true ∧ bits o.trctl 31 16 ≠ 0
    (∀ e ∈ [(1, Instr.owlStop t), (2, .owlResume t), (3, .owlStep t), (4, .owlSettle t), (5, .owlRdreg t), (6, .owlWrreg t),
            (7, .owlFlush t), (8, .owlTagdump t)],
      (free → owlOp o = e.1 → 96 ≤ bits o.cmd 10 4 ∨ k.bound = false → TowerBecomes e.2 s t (ends rsNOTBOUND)) ∧
      (t < numTowers → o.pend = false ∨ owlOp o ≠ e.1 ∧ o.stepping = false → NotNow e.2 s)) ∧
    (t < numTowers → o.pend = true → owlOp o = 0 ∨ 8 < owlOp o → TowerBecomes (.owlBadCommand t) s t (ends rsBADCMD)) ∧
    (∀ e ∈ [(2, Instr.owlResume t), (3, .owlStep t), (5, .owlRdreg t), (6, .owlWrreg t)],
      asked → owlOp o = e.1 → k.stopped = false → TowerBecomes e.2 s t (ends rsBUSY)) ∧
    (asked → owlOp o = 1 → k.stopped = true ∨ k.ended = true → TowerBecomes (.owlStop t) s t (ends rsDONE)) ∧
    (asked → owlOp o = 1 → k.stopped = false → k.ended = false → (∀ sp, k.span = some sp → sp.gang = none) → k.hold = .none → (∀ a ∈ (s.core c).outs, a.ctx ≠ x) →
      (∀ b, s.task k.task = some b → b.pre = none) →
      ∃ u, exec (.owlStop t) s = .next u ∧ u.last = .issued ∧ (u.owl t).pend = false ∧ (u.owl t).result = rsDONE ∧
        (u.ctx c x).stopped = true ∧ (u.ctx c x).stopReason = 2 ∧ (u.ctx c x).pc = k.pc ∧ (u.ctx c x).vq = k.vq ∧
        (u.ctx c x).mq = k.mq ∧ (u.ctx c x).lq = k.lq ∧ (u.ctx c x).csr.fpc = k.csr.fpc ∧ (u.ctx c x).csr.finfo = k.csr.finfo ∧
        (u.core c).running ≠ some x) ∧
    (asked → owlOp o = 2 → k.stopped = true → s.haltedForPre c x = false →
      ∃ u, exec (.owlResume t) s = .next u ∧ u.last = .issued ∧ u.tower t = ends rsDONE ∧ SameMem s u ∧
        (k.stopReason ≠ 1 ∨ k.hvec = 0 ∨ k.handler.isSome → u.ctx c x = { k with stopped := false, stopReason := 0 }) ∧
        (k.stopReason = 1 → k.hvec ≠ 0 → k.handler = none →
          (u.ctx c x).pc = k.hvec ∧ (u.ctx c x).stopped = false ∧ ∃ h, (u.ctx c x).handler = some h ∧ h.npc = k.pc ∧ h.vq = k.vq)) ∧
    (asked → owlOp o = 3 → k.stopped = true → s.haltedForPre c x = false →
      TowerBecomes (.owlStep t) s t { s.tower t with owl := { o with stepping := true } }) ∧
    (asked → owlOp o = 4 → TowerBecomes (.owlSettle t) s t { s.tower t with owl := { o with settling := true } }) ∧
    (t < numTowers → o.settling = true → k.bound = true → k.ld = 0 → k.st = 0 → k.cp = 0 →
      TowerBecomes (.owlSettleDone t) s t (ends rsDONE)) ∧
    (t < numTowers → o.settling = true → k.bound = true → k.ld ≠ 0 ∨ k.st ≠ 0 ∨ k.cp ≠ 0 → NotNow (.owlSettleDone t) s) ∧
    (asked → owlOp o = 5 → k.stopped = true →
      (r < 80 → owlArg o = 0x400 + r →
        TowerBecomes (.owlRdreg t) s t { ends rsDONE with owl := { (ends rsDONE).owl with data := k.reg r } }) ∧
      (owlArg o < 0x300 → s.csr c x (owlArg o) = some w →
        TowerBecomes (.owlRdreg t) s t { ends rsDONE with owl := { (ends rsDONE).owl with data := w } }) ∧
      (0x300 ≤ owlArg o → owlArg o < 0x400 ∨ 0x450 ≤ owlArg o → TowerBecomes (.owlRdreg t) s t (ends rsBADREG))) ∧
    (asked → owlOp o = 6 → k.stopped = true →
      (r < 80 → owlArg o = 0x400 + r → (∃ p ∈ k.pend, p.reg = r) → TowerBecomes (.owlWrreg t) s t (ends rsBUSY)) ∧
      (r < 80 → owlArg o = 0x400 + r → (∀ p ∈ k.pend, p.reg ≠ r) →
        ∃ u, exec (.owlWrreg t) s = .next u ∧ u.last = .issued ∧ u.tower t = ends rsDONE ∧ SameMem s u ∧
          (u.ctx c x).reg r = o.data ∧ (∀ q, q ≠ r → (u.ctx c x).reg q = k.reg q) ∧
          u.ctx c x = { k with regs := (u.ctx c x).regs }) ∧
      (owlArg o < 0x300 → s.csrWrite c x (owlArg o) o.data = some u' → Happens (.owlWrreg t) s ((u'.modCtx c x (fun q => { q with absLag := [] })).owlEnd t rsDONE)) ∧
      (0x300 ≤ owlArg o → owlArg o < 0x400 ∨ 0x450 ≤ owlArg o → TowerBecomes (.owlWrreg t) s t (ends rsBADREG))) ∧
    (asked → owlOp o = 7 →
      ∃ u, exec (.owlFlush t) s = .next u ∧ u.last = .issued ∧ (u.owl t).result = rsDONE ∧ (u.core c).prof = [] ∧ (u.core c).unspanned = ProfEntry.reset ∧
        (u.owl t).wptr = (if traced then o.wptr + BitVec.ofNat 32 ((s.core c).prof.length + 1) else o.wptr)) ∧
    (asked → owlOp o = 8 →
      ∃ u, exec (.owlTagdump t) s = .next u ∧ u.last = .issued ∧ (u.owl t).result = rsDONE ∧ u.cores = s.cores ∧
        (u.owl t).wptr = (if traced then o.wptr + BitVec.ofNat 32 (s.tower t).trace.length else o.wptr)) ∧
    (t < numTowers → bit o.trctl 1 = false → NotNow (.traceSample t) s) ∧
    (t < numTowers → bit o.trctl 1 = true →
      ∃ u, exec (.traceSample t) s = .next u ∧ u.last = .issued ∧ u.cores = s.cores ∧
        (u.owl t).wptr = (if traced then
          o.wptr + BitVec.ofNat 32 ((List.range 96).filter (fun j => (List.range 8).any (fun y => (s.ctx (96 * t + j) y).bound))).length
          else o.wptr))

/-! ## The machine as a whole -/

/-- No instruction is refused, and every operation of a slot goes on in every state. An event goes on in every state if the units that it
names are there (R15, R16, R18, R22, R31), and stops the model with a fault of its own if one is not; a step stops only so. -/
def Obligations.EveryOperationGoesOn : Prop :=
  (∀ (i : Instr) (s : State), namesUnits i = true → GoesOn (exec i s)) ∧
  (∀ (i : Instr) (s : State), namesUnits i = false → exec i s = .fault .noSuchUnit) ∧
  (∀ (i : Instr) (s : State), (encode i).isSome = true → GoesOn (exec i s)) ∧
  (∀ (s : State) (i : Instr) (r : List Instr), s.due = [] → s.inputs = i :: r →
    (namesUnits i = false → step s = .fault .noSuchUnit) ∧ (namesUnits i = true → s.enabled i = true → GoesOn (step s))) ∧
  ∀ s : State, GoesOn (step s) ∨ step s = .fault .noSuchUnit

/-- A step runs the decoded operation. The first event from outside that can happen is made, no access by the host overtaking an earlier one
(R260), unless a moment has come that nothing passes (R26, R225); else the chosen move of the machine. A cycle of the core dispatches the bundle at the program counter and then issues from its V, M
and L queues, the oldest first (R53, R55, R212), and its clock goes on: a bundle that is not resident is fetched (R45, R46), one that does
not decode raises ILLOP in its lowest faulting slot and is not dispatched (R283); of one that decodes the X operation runs at the program
counter, and then the bundle's V, M and L operations stand in their queues with the operands captured (R57), unless the bundle has Sync
and one of them could not issue (R59). TRAP and DBGBRK run behind their bundle's dispatch, unless their stop meets an older deferred fault, which is
taken with their bundle undispatched (R212, R339, R420). A queued operation that may issue runs, and leaves its queue when it has issued. The operation of each
slot is that of its word (R51). That one move is one event or one cycle of one core is the model's choice (notes/assumptions/7.md), as are what a
fetch fault leaves (notes/assumptions/9.md) and that an encoding fault counts the header as no operation in DONE (notes/assumptions/11.md). -/
def Obligations.AStepRunsTheDecodedOperation : Prop :=
  ∀ (s : State) (c x slot n : Nat) (w : BundleWord) (b : Bundle) (o : QOp) (r : List QOp) (i : Instr) (pre post : List Instr)
      (y : Bool × Bool) (u : State),
    let k := s.ctx c x
    let v := s.touchLine c k.image k.pc
    let ab := k.absAt (s.core c).clock
    let goes := k.heldBack (s.core c).clock = false ∧ k.returns = false
    let chosen (m : Move) := (s.due ≠ [] ∨ ∀ e ∈ s.inputs, s.enabled e = false) ∧ s.moves[s.sched.headD 0 % max s.moves.length 1]? = some m
    (s.due = [] → s.inputs = pre ++ i :: post → (∀ e ∈ pre, s.enabled e = false) → (byHost i = true → ∀ e ∈ pre, byHost e = false) →
      s.enabled i = true → step s = exec i { s with inputs := pre ++ post }) ∧
    (chosen (.event i) → step s = exec i { s with sched := s.sched.drop 1 }) ∧
    (chosen (.core c) → step s = coreStep { s.roundOf c with sched := s.sched.drop 1, nextCore := (c + 1) % numCores } c) ∧
    (s.holder c = none → ∃ t, coreStep s c = .next t ∧ (t.core c).clock = (s.core c).clock + 1) ∧
    (s.holder c = some x →
      let a := s.beginCycle c x
      coreStep s c = andThen (if a.stepping c x then stepOp a c x else runCtx a c x) (fun t => .next (a.endCycle t c x)) ∧
      (a.core c).running = some x ∧ a.line c k.image k.pc = s.line c k.image k.pc) ∧
    (s.endCycle u c x = (if s.line c k.image k.pc = none ∧ u.line c k.image k.pc ≠ none then u else s.tick u c x) ∧
      ((s.tick u c x).core c).clock = (u.core c).clock + 1) ∧
    (dispatch s c x false = .next u → u.last ≠ .trapped →
      runCtx s c x = andThen (issueAll (u.landHere c x (s.landsAt u c x)) c x) (fun t => .next ((t.settle c x).landHere c x false))) ∧
    (goes → s.line c k.image k.pc = none → dispatch s c x false = exec .icacheFill { s with focus := s.xFocus c x false 0 false }) ∧
    (goes → s.line c k.image k.pc = some w → decodeBundle k w ab.1 ab.2 = .error n →
      dispatch s c x false = exec (.encodingFault n) { v with focus := v.xFocus c x false (operationsOf w) false }) ∧
    (goes → s.line c k.image k.pc = some w → decodeBundle k w ab.1 ab.2 = .ok b → k.stalled (scalarSrcs b.x) = false →
      v.xReady c x b.x = true → stopsAfter b.x = false → v.breakAt c x k.pc 0 = false →
      exec b.x { v with focus := v.xFocus c x b.hdr (presentOf w) false } = .next u →
      let d := dispatched v u c x b false
      let ops := (if realigns b.x then u.ctx c x else k).captureAll (s.core c).clock k.seq k.pc b ab.1 ab.2
      let sync := syncReady (((d.ctx c x).heads).filter (fun p => p.seq = k.seq)) d c x
      (u.last = .waits → dispatch s c x false = .next u) ∧
      (u.last = .trapped → dispatch s c x false = .next u) ∧
      (u.last = .issued → isSync b.x = false ∨ sync = true ∨ d.last = .trapped → dispatch s c x false = .next d) ∧
      (u.last = .issued → isSync b.x = true → sync = false → d.last ≠ .trapped →
        dispatch s c x false = .next { v with last := .waits }) ∧
      (u.last = .issued → d.last ≠ .trapped →
        (d.ctx c x).seq = (u.ctx c x).seq + 1 ∧
        (∀ j, j = 1 ∨ j = 2 ∨ j = 3 → (d.ctx c x).queue j = (u.ctx c x).queue j ++ ops.filter (fun p => p.slot = j)) ∧
        (k.delay = none → (u.ctx c x).delay = none → (u.ctx c x).loops = [] → (d.ctx c x).pc = k.pc + 16))) ∧
    (goes → s.line c k.image k.pc = some w → decodeBundle k w ab.1 ab.2 = .ok b → k.stalled (scalarSrcs b.x) = false →
      v.xReady c x b.x = true → stopsAfter b.x = true → v.breakAt c x k.pc 0 = false →
      let d := dispatched v { v with last := .idle } c x b false
      (v.stopPick c x 0 k.seq ≠ none → dispatch s c x false = stoppedAt (v.breakStop c x 0 k.seq k.pc)) ∧
      (v.stopPick c x 0 k.seq = none → d.last ≠ .trapped →
        dispatch s c x false = exec b.x { d with focus := v.xFocus c x b.hdr (presentOf w) false })) ∧
    (decodeBundle k w y.1 y.2 = .ok b →
      decodeSlot 0 (slotWord w 0) = .ok b.x ∧ decodeSlot 1 (slotWord w 1) = .ok b.v ∧ decodeSlot 2 (slotWord w 2) = .ok b.m ∧
      decodeSlot 3 (slotWord w 3) = .ok b.l) ∧
    ((s.core c).running = some x → k.queue slot = o :: r → s.opReady c x o = true → s.breakAt c x o.addr o.slot = false →
      exec o.ins { s with focus := s.opFocus c x o false } = .next u →
      issueHead s c x slot = .next (if u.last = .issued then u.popOp c x o (s.core c) else if u.last = .waits then
        u.noteClass c x (u.beatClass o.ins) else u)) ∧
    ((s.core c).running = some x → k.queue slot = o :: r → s.opReady c x o = false →
      issueHead s c x slot = .next (s.noteClass c x (s.heldClass c x o))) ∧
    (∀ l, s.fetchParts s.fctx s.focus.addr = .ok l →
      ∃ t, exec .icacheFill s = .next t ∧ t.last = .issued ∧ t = { s.correctAll l with icaches := t.icaches, last := t.last } ∧
        t.line s.focus.core s.fctx.image s.focus.addr = some (s.bundleAt l)) ∧
    (∀ e, (∀ sp, s.fctx.span = some sp → sp.gang = none) → s.fctx.hold = .none → s.fctx.ended = false → (∀ a ∈ s.fcore.outs, a.ctx ≠ s.focus.ctx) →
      (s.fetchParts s.fctx s.focus.addr = .error e →
        ∃ t, exec .icacheFill s = .next t ∧ t.last = .trapped ∧ t.fctx.csr.fpc = s.focus.addr ∧ t.fctx.csr.faddr = s.focus.addr ∧
          t.fctx.csr.finfo = BitVec.ofNat 64 e) ∧
      (slot < 4 →
        ∃ t, exec (.encodingFault slot) s = .next t ∧ t.last = .trapped ∧ t.fctx.csr.fpc = s.focus.addr ∧
          t.fctx.csr.finfo = BitVec.ofNat 64 (cILLOP + slot * 256) ∧ t.fctx.csr.done = ~~~s.focus.present))

/-- Words written out from the encodings of the spec's own examples decode to the operations that they stand for, one or more of each
family of each slot. -/
def Obligations.WrittenOutWordsDecode : Prop :=
  decodeSlot 0 0x04716001#32 = .ok (.addImm 7 5 1) ∧
  decodeSlot 0 0x3C20F064#32 = .ok (.cmpImm 2 3 4 100) ∧
  decodeSlot 0 0x5020C001#32 = .ok (.bitc 2 3 1) ∧
  decodeSlot 0 0x6082FFFE#32 = .ok (.br 8 1 0 0xFFFE) ∧
  decodeSlot 0 0x7C000000#32 = .ok .eret ∧
  decodeSlot 0 0x88000007#32 = .ok (.trap 7) ∧
  decodeSlot 0 0x900003FC#32 = .ok (.wait 0 0 63 3) ∧
  decodeSlot 0 0xD8A2C000#32 = .ok (.recon 10 11 0) ∧
  decodeSlot 1 0x7C108320#32 = .ok (.vperm 1 2 3 1) ∧
  decodeSlot 1 0x7820C000#32 = .ok (.vred 2 3 0 0) ∧
  decodeSlot 1 0xC0304200#32 = .ok (.tadd 3 1 2 0 0) ∧
  decodeSlot 1 0xE8204320#32 = .ok (.tmask 2 1 3 8 0) ∧
  decodeSlot 3 0x04516008#32 = .ok (.sld 5 1 3 0 8) ∧
  decodeSlot 3 0x04935014#32 = .ok (.sld 9 3 2 1 20) ∧
  decodeSlot 3 0x1DF80000#32 = .ok (.spl 63 0) ∧
  decodeSlot 3 0x60518800#32 = .ok (.aadd 5 6 2 0) ∧
  decodeSlot 3 0x788250A8#32 = .ok (.acas 8 9 4 10 1) ∧
  decodeSlot 3 0x40A32CC0#32 = .ok (.barinit 10 3 11 12) ∧
  decodeSlot 3 0x58000002#32 = .ok (.rpop 2) ∧
  decodeSlot 3 0x98C20004#32 = .ok (.plor 6 2 0 0 4) ∧
  decodeSlot 3 0xA8521800#32 = .ok (.tagset 5 2 6) ∧
  decodeSlot 2 0x04D11800#32 = .ok (.mpush 3 17 0 1 1 0) ∧
  decodeSlot 2 0x08000000#32 = .ok .mflip ∧
  decodeSlot 2 0x10000020#32 = .ok (.macc 0 0 8)

/-- Decoding and encoding agree: the word of every well-formed operation decodes, in the slot that executes it, to that operation with
every operand (R51, R283 to R293), NOP in slots 0, 1 and 3; and every word that decodes is the word of the operation it decodes
to, so that no word has two readings in a slot and none with a nonzero reserved bit is accepted (R9). -/
def Obligations.DecodeAndEncodeAgree : Prop :=
  (∀ (i : Instr) (v : SlotWord), i.wellFormed = true → encode i = some v →
    (∀ k, i.slot = some k → decodeSlot k v = .ok i) ∧
    (i.slot = none → i = .nop ∧ decodeSlot 0 v = .ok .nop ∧ decodeSlot 1 v = .ok .nop ∧ decodeSlot 3 v = .ok .nop)) ∧
  (∀ (k : Nat) (v : SlotWord) (i : Instr), decodeSlot k v = .ok i → i.wellFormed = true ∧ encode i = some v)

/-- Every step keeps memory in its canonical form: addresses strictly rising, no zero byte listed. -/
def Obligations.EveryStepKeepsMemoryCanonical : Prop :=
  (∀ (i : Instr) (s t : State), MemOk s → exec i s = .next t → MemOk t) ∧ ∀ s t : State, MemOk s → step s = .next t → MemOk t

/-- The module after reset: memory in canonical form; every lock 0 (R102); the array's planes +0 with tag BF16, its queues empty, no
owner (R153); both configuration planes of every context zero (R206); no context bound and FPCSR 0 (R32, R87); each layer with
the SEC-DED capacity of R18 (R30); power level 3 (R29); timing exact in every tower; M 32 zero bytes (R269); MGID, LDOORBELL, ALARMS and EGRST
as their maps say (R272); TRCTL and the breakpoints zero (R275, R278). SEC-DED as the mode, timing exact, no context bound, and every other
value here that the spec does not give are the model's choice (notes/assumptions/4.md). -/
def Obligations.ResetValues : Prop :=
  MemOk State.reset ∧ (∀ a, State.reset.lock a = 0) ∧
  (∀ c, (State.reset.core c).arr = { p0 := [], p1 := [], tag0 := 0, tag1 := 0, flip := false, inflight := [], latch := [], scaleq := []
                                     owner := none }) ∧
  (∀ c x, (State.reset.ctx c x).bound = false ∧ (State.reset.ctx c x).csr.fpcsr = 0 ∧
    ∀ j, (State.reset.ctx c x).active.get j 0 = 0 ∧ (State.reset.ctx c x).shadow.get j 0 = 0) ∧
  (∀ t, (State.reset.layer t 1).cap 1 = 512 * 1024 ∧ (State.reset.layer t 2).cap 2 = 1024 * 1024 ∧
    (State.reset.layer t 3).cap 3 = 2048 * 1024 ∧ (State.reset.layer t 4).cap 4 = 2048 * 1024) ∧
  (∀ t, (State.reset.tower t).plevel = 3 ∧ (State.reset.tower t).tmode = false) ∧ State.reset.mgmt.measure = 0 ∧
  State.reset.mgmtRead 0x0000 = 0x000000000E080100 ∧ State.reset.mgmtRead 0x0010 = 0 ∧ State.reset.mgmtRead 0x0020 = 0 ∧
  State.reset.mgmtRead 0x0140 = 0 ∧
  ∀ t, (State.reset.owl t).read 0x020 = 0 ∧ ∀ n, n < 16 → (State.reset.owl t).read (0x040 + 8 * n) = 0
end

