-- ==== Sys2Proof/Laws/Tab.lean ====
section
/-! SUPPORT. The laws of sparse tables: what `set`, `erase` and `mapV` do to every key. -/

namespace Sys2Proof.Machine

@[simp] theorem Tab.find_set_self {α : Type} (t : Tab α) (k : Nat) (a : α) : (t.set k a).find k = some a := by
  induction t with
  | nil => simp [Tab.set, Tab.find]
  | cons e r ih =>
    obtain ⟨j, b⟩ := e
    simp only [Tab.set]
    split
    · simp [Tab.find]
    · split
      · simp [Tab.find]
      · simp_all [Tab.find]

theorem Tab.find_set_ne {α : Type} (t : Tab α) (k j : Nat) (a : α) (h : j ≠ k) : (t.set k a).find j = t.find j := by
  induction t with
  | nil => simp [Tab.set, Tab.find, Ne.symm h]
  | cons e r ih =>
    obtain ⟨i, b⟩ := e
    simp only [Tab.set]
    split
    · subst i; simp [Tab.find, Ne.symm h]
    · split
      · simp [Tab.find, Ne.symm h]
      · simp [Tab.find, ih]

@[simp] theorem Tab.get_set_self {α : Type} (t : Tab α) (k : Nat) (a d : α) : (t.set k a).get k d = a := by
  simp [Tab.get]

theorem Tab.get_set_ne {α : Type} (t : Tab α) (k j : Nat) (a d : α) (h : j ≠ k) : (t.set k a).get j d = t.get j d := by
  simp [Tab.get, Tab.find_set_ne t k j a h]

@[simp] theorem Tab.find_nil {α : Type} (k : Nat) : Tab.find ([] : Tab α) k = none := rfl
@[simp] theorem Tab.get_nil {α : Type} (k : Nat) (d : α) : Tab.get ([] : Tab α) k d = d := rfl

theorem Tab.find_erase_self {α : Type} (t : Tab α) (k : Nat) : (t.erase k).find k = none := by
  induction t with
  | nil => rfl
  | cons e r ih =>
    obtain ⟨j, b⟩ := e
    by_cases h : j = k
    · simpa [Tab.erase, h] using ih
    · simpa [Tab.erase, h, Tab.find] using ih

theorem Tab.find_erase_ne {α : Type} (t : Tab α) (k j : Nat) (h : j ≠ k) : (t.erase k).find j = t.find j := by
  induction t with
  | nil => rfl
  | cons e r ih =>
    obtain ⟨i, b⟩ := e
    by_cases hi : i = k
    · subst i
      have : (Tab.erase ((k, b) :: r) k) = Tab.erase r k := by simp [Tab.erase]
      rw [this, ih]
      simp [Tab.find, Ne.symm h]
    · have : (Tab.erase ((i, b) :: r) k) = (i, b) :: Tab.erase r k := by simp [Tab.erase, hi]
      rw [this]
      simp [Tab.find, ih]

theorem Tab.find_mapV {α : Type} (t : Tab α) (f : α → α) (k : Nat) : (t.mapV f).find k = (t.find k).map f := by
  induction t with
  | nil => rfl
  | cons e r ih =>
    obtain ⟨j, b⟩ := e
    simp only [Tab.mapV, List.map_cons, Tab.find]
    split
    · rfl
    · exact ih

end Sys2Proof.Machine
end

