-- ==== Sys2Proof/Laws/State.lean ====
section
/-! SUPPORT. What each update of the state leaves in each field, so that no proof unfolds a record update; reading a unit after it has
been changed. -/

namespace Sys2Proof.Machine

@[simp] theorem State.setCore_mem (s : State) (c : Nat) (k : Core) : (s.setCore c k).mem = s.mem := rfl
@[simp] theorem State.setCore_locks (s : State) (c : Nat) (k : Core) : (s.setCore c k).locks = s.locks := rfl
@[simp] theorem State.setCore_lockBy (s : State) (c : Nat) (k : Core) : (s.setCore c k).lockBy = s.lockBy := rfl
@[simp] theorem State.setCore_poison (s : State) (c : Nat) (k : Core) : (s.setCore c k).poison = s.poison := rfl
@[simp] theorem State.setCore_soft (s : State) (c : Nat) (k : Core) : (s.setCore c k).soft = s.soft := rfl
@[simp] theorem State.setCore_cores (s : State) (c : Nat) (k : Core) : (s.setCore c k).cores = s.cores.set c k := rfl
@[simp] theorem State.setCore_towers (s : State) (c : Nat) (k : Core) : (s.setCore c k).towers = s.towers := rfl
@[simp] theorem State.setCore_icaches (s : State) (c : Nat) (k : Core) : (s.setCore c k).icaches = s.icaches := rfl
@[simp] theorem State.setCore_insts (s : State) (c : Nat) (k : Core) : (s.setCore c k).insts = s.insts := rfl
@[simp] theorem State.setCore_hares (s : State) (c : Nat) (k : Core) : (s.setCore c k).hares = s.hares := rfl
@[simp] theorem State.setCore_egress (s : State) (c : Nat) (k : Core) : (s.setCore c k).egress = s.egress := rfl
@[simp] theorem State.setCore_tasks (s : State) (c : Nat) (k : Core) : (s.setCore c k).tasks = s.tasks := rfl
@[simp] theorem State.setCore_mgmt (s : State) (c : Nat) (k : Core) : (s.setCore c k).mgmt = s.mgmt := rfl
@[simp] theorem State.setCore_link (s : State) (c : Nat) (k : Core) : (s.setCore c k).link = s.link := rfl
@[simp] theorem State.setCore_netOut (s : State) (c : Nat) (k : Core) : (s.setCore c k).netOut = s.netOut := rfl
@[simp] theorem State.setCore_hostOut (s : State) (c : Nat) (k : Core) : (s.setCore c k).hostOut = s.hostOut := rfl
@[simp] theorem State.setCore_nextTask (s : State) (c : Nat) (k : Core) : (s.setCore c k).nextTask = s.nextTask := rfl
@[simp] theorem State.setCore_nextCmd (s : State) (c : Nat) (k : Core) : (s.setCore c k).nextCmd = s.nextCmd := rfl
@[simp] theorem State.setCore_nextOut (s : State) (c : Nat) (k : Core) : (s.setCore c k).nextOut = s.nextOut := rfl
@[simp] theorem State.setCore_focus (s : State) (c : Nat) (k : Core) : (s.setCore c k).focus = s.focus := rfl
@[simp] theorem State.setCore_last (s : State) (c : Nat) (k : Core) : (s.setCore c k).last = s.last := rfl
@[simp] theorem State.setCore_inputs (s : State) (c : Nat) (k : Core) : (s.setCore c k).inputs = s.inputs := rfl
@[simp] theorem State.setCore_sched (s : State) (c : Nat) (k : Core) : (s.setCore c k).sched = s.sched := rfl
@[simp] theorem State.setCore_nextCore (s : State) (c : Nat) (k : Core) : (s.setCore c k).nextCore = s.nextCore := rfl
@[simp] theorem State.setCore_free (s : State) (c : Nat) (k : Core) : (s.setCore c k).free = s.free := rfl

@[simp] theorem State.setTower_mem (s : State) (t : Nat) (w : Tower) : (s.setTower t w).mem = s.mem := rfl
@[simp] theorem State.setTower_locks (s : State) (t : Nat) (w : Tower) : (s.setTower t w).locks = s.locks := rfl
@[simp] theorem State.setTower_lockBy (s : State) (t : Nat) (w : Tower) : (s.setTower t w).lockBy = s.lockBy := rfl
@[simp] theorem State.setTower_poison (s : State) (t : Nat) (w : Tower) : (s.setTower t w).poison = s.poison := rfl
@[simp] theorem State.setTower_soft (s : State) (t : Nat) (w : Tower) : (s.setTower t w).soft = s.soft := rfl
@[simp] theorem State.setTower_cores (s : State) (t : Nat) (w : Tower) : (s.setTower t w).cores = s.cores := rfl
@[simp] theorem State.setTower_towers (s : State) (t : Nat) (w : Tower) : (s.setTower t w).towers = s.towers.set t w := rfl
@[simp] theorem State.setTower_icaches (s : State) (t : Nat) (w : Tower) : (s.setTower t w).icaches = s.icaches := rfl
@[simp] theorem State.setTower_insts (s : State) (t : Nat) (w : Tower) : (s.setTower t w).insts = s.insts := rfl
@[simp] theorem State.setTower_hares (s : State) (t : Nat) (w : Tower) : (s.setTower t w).hares = s.hares := rfl
@[simp] theorem State.setTower_egress (s : State) (t : Nat) (w : Tower) : (s.setTower t w).egress = s.egress := rfl
@[simp] theorem State.setTower_tasks (s : State) (t : Nat) (w : Tower) : (s.setTower t w).tasks = s.tasks := rfl
@[simp] theorem State.setTower_mgmt (s : State) (t : Nat) (w : Tower) : (s.setTower t w).mgmt = s.mgmt := rfl
@[simp] theorem State.setTower_link (s : State) (t : Nat) (w : Tower) : (s.setTower t w).link = s.link := rfl
@[simp] theorem State.setTower_netOut (s : State) (t : Nat) (w : Tower) : (s.setTower t w).netOut = s.netOut := rfl
@[simp] theorem State.setTower_hostOut (s : State) (t : Nat) (w : Tower) : (s.setTower t w).hostOut = s.hostOut := rfl
@[simp] theorem State.setTower_nextTask (s : State) (t : Nat) (w : Tower) : (s.setTower t w).nextTask = s.nextTask := rfl
@[simp] theorem State.setTower_nextCmd (s : State) (t : Nat) (w : Tower) : (s.setTower t w).nextCmd = s.nextCmd := rfl
@[simp] theorem State.setTower_nextOut (s : State) (t : Nat) (w : Tower) : (s.setTower t w).nextOut = s.nextOut := rfl
@[simp] theorem State.setTower_focus (s : State) (t : Nat) (w : Tower) : (s.setTower t w).focus = s.focus := rfl
@[simp] theorem State.setTower_last (s : State) (t : Nat) (w : Tower) : (s.setTower t w).last = s.last := rfl
@[simp] theorem State.setTower_inputs (s : State) (t : Nat) (w : Tower) : (s.setTower t w).inputs = s.inputs := rfl
@[simp] theorem State.setTower_sched (s : State) (t : Nat) (w : Tower) : (s.setTower t w).sched = s.sched := rfl
@[simp] theorem State.setTower_nextCore (s : State) (t : Nat) (w : Tower) : (s.setTower t w).nextCore = s.nextCore := rfl
@[simp] theorem State.setTower_free (s : State) (t : Nat) (w : Tower) : (s.setTower t w).free = s.free := rfl

@[simp] theorem State.setHare_mem (s : State) (h : Nat) (g : Engine) : (s.setHare h g).mem = s.mem := rfl
@[simp] theorem State.setHare_locks (s : State) (h : Nat) (g : Engine) : (s.setHare h g).locks = s.locks := rfl
@[simp] theorem State.setHare_lockBy (s : State) (h : Nat) (g : Engine) : (s.setHare h g).lockBy = s.lockBy := rfl
@[simp] theorem State.setHare_poison (s : State) (h : Nat) (g : Engine) : (s.setHare h g).poison = s.poison := rfl
@[simp] theorem State.setHare_soft (s : State) (h : Nat) (g : Engine) : (s.setHare h g).soft = s.soft := rfl
@[simp] theorem State.setHare_cores (s : State) (h : Nat) (g : Engine) : (s.setHare h g).cores = s.cores := rfl
@[simp] theorem State.setHare_towers (s : State) (h : Nat) (g : Engine) : (s.setHare h g).towers = s.towers := rfl
@[simp] theorem State.setHare_icaches (s : State) (h : Nat) (g : Engine) : (s.setHare h g).icaches = s.icaches := rfl
@[simp] theorem State.setHare_insts (s : State) (h : Nat) (g : Engine) : (s.setHare h g).insts = s.insts := rfl
@[simp] theorem State.setHare_hares (s : State) (h : Nat) (g : Engine) : (s.setHare h g).hares = s.hares.set h g := rfl
@[simp] theorem State.setHare_egress (s : State) (h : Nat) (g : Engine) : (s.setHare h g).egress = s.egress := rfl
@[simp] theorem State.setHare_tasks (s : State) (h : Nat) (g : Engine) : (s.setHare h g).tasks = s.tasks := rfl
@[simp] theorem State.setHare_mgmt (s : State) (h : Nat) (g : Engine) : (s.setHare h g).mgmt = s.mgmt := rfl
@[simp] theorem State.setHare_link (s : State) (h : Nat) (g : Engine) : (s.setHare h g).link = s.link := rfl
@[simp] theorem State.setHare_netOut (s : State) (h : Nat) (g : Engine) : (s.setHare h g).netOut = s.netOut := rfl
@[simp] theorem State.setHare_hostOut (s : State) (h : Nat) (g : Engine) : (s.setHare h g).hostOut = s.hostOut := rfl
@[simp] theorem State.setHare_nextTask (s : State) (h : Nat) (g : Engine) : (s.setHare h g).nextTask = s.nextTask := rfl
@[simp] theorem State.setHare_nextCmd (s : State) (h : Nat) (g : Engine) : (s.setHare h g).nextCmd = s.nextCmd := rfl
@[simp] theorem State.setHare_nextOut (s : State) (h : Nat) (g : Engine) : (s.setHare h g).nextOut = s.nextOut := rfl
@[simp] theorem State.setHare_focus (s : State) (h : Nat) (g : Engine) : (s.setHare h g).focus = s.focus := rfl
@[simp] theorem State.setHare_last (s : State) (h : Nat) (g : Engine) : (s.setHare h g).last = s.last := rfl
@[simp] theorem State.setHare_inputs (s : State) (h : Nat) (g : Engine) : (s.setHare h g).inputs = s.inputs := rfl
@[simp] theorem State.setHare_sched (s : State) (h : Nat) (g : Engine) : (s.setHare h g).sched = s.sched := rfl
@[simp] theorem State.setHare_nextCore (s : State) (h : Nat) (g : Engine) : (s.setHare h g).nextCore = s.nextCore := rfl
@[simp] theorem State.setHare_free (s : State) (h : Nat) (g : Engine) : (s.setHare h g).free = s.free := rfl

@[simp] theorem State.setEgr_mem (s : State) (d : Nat) (g : Egress) : (s.setEgr d g).mem = s.mem := rfl
@[simp] theorem State.setEgr_locks (s : State) (d : Nat) (g : Egress) : (s.setEgr d g).locks = s.locks := rfl
@[simp] theorem State.setEgr_lockBy (s : State) (d : Nat) (g : Egress) : (s.setEgr d g).lockBy = s.lockBy := rfl
@[simp] theorem State.setEgr_poison (s : State) (d : Nat) (g : Egress) : (s.setEgr d g).poison = s.poison := rfl
@[simp] theorem State.setEgr_soft (s : State) (d : Nat) (g : Egress) : (s.setEgr d g).soft = s.soft := rfl
@[simp] theorem State.setEgr_cores (s : State) (d : Nat) (g : Egress) : (s.setEgr d g).cores = s.cores := rfl
@[simp] theorem State.setEgr_towers (s : State) (d : Nat) (g : Egress) : (s.setEgr d g).towers = s.towers := rfl
@[simp] theorem State.setEgr_icaches (s : State) (d : Nat) (g : Egress) : (s.setEgr d g).icaches = s.icaches := rfl
@[simp] theorem State.setEgr_insts (s : State) (d : Nat) (g : Egress) : (s.setEgr d g).insts = s.insts := rfl
@[simp] theorem State.setEgr_hares (s : State) (d : Nat) (g : Egress) : (s.setEgr d g).hares = s.hares := rfl
@[simp] theorem State.setEgr_egress (s : State) (d : Nat) (g : Egress) : (s.setEgr d g).egress = s.egress.set d g := rfl
@[simp] theorem State.setEgr_tasks (s : State) (d : Nat) (g : Egress) : (s.setEgr d g).tasks = s.tasks := rfl
@[simp] theorem State.setEgr_mgmt (s : State) (d : Nat) (g : Egress) : (s.setEgr d g).mgmt = s.mgmt := rfl
@[simp] theorem State.setEgr_link (s : State) (d : Nat) (g : Egress) : (s.setEgr d g).link = s.link := rfl
@[simp] theorem State.setEgr_netOut (s : State) (d : Nat) (g : Egress) : (s.setEgr d g).netOut = s.netOut := rfl
@[simp] theorem State.setEgr_hostOut (s : State) (d : Nat) (g : Egress) : (s.setEgr d g).hostOut = s.hostOut := rfl
@[simp] theorem State.setEgr_nextTask (s : State) (d : Nat) (g : Egress) : (s.setEgr d g).nextTask = s.nextTask := rfl
@[simp] theorem State.setEgr_nextCmd (s : State) (d : Nat) (g : Egress) : (s.setEgr d g).nextCmd = s.nextCmd := rfl
@[simp] theorem State.setEgr_nextOut (s : State) (d : Nat) (g : Egress) : (s.setEgr d g).nextOut = s.nextOut := rfl
@[simp] theorem State.setEgr_focus (s : State) (d : Nat) (g : Egress) : (s.setEgr d g).focus = s.focus := rfl
@[simp] theorem State.setEgr_last (s : State) (d : Nat) (g : Egress) : (s.setEgr d g).last = s.last := rfl
@[simp] theorem State.setEgr_inputs (s : State) (d : Nat) (g : Egress) : (s.setEgr d g).inputs = s.inputs := rfl
@[simp] theorem State.setEgr_sched (s : State) (d : Nat) (g : Egress) : (s.setEgr d g).sched = s.sched := rfl
@[simp] theorem State.setEgr_nextCore (s : State) (d : Nat) (g : Egress) : (s.setEgr d g).nextCore = s.nextCore := rfl
@[simp] theorem State.setEgr_free (s : State) (d : Nat) (g : Egress) : (s.setEgr d g).free = s.free := rfl

@[simp] theorem State.modMgmt_mem (s : State) (f : Mgmt → Mgmt) : (s.modMgmt f).mem = s.mem := rfl
@[simp] theorem State.modMgmt_locks (s : State) (f : Mgmt → Mgmt) : (s.modMgmt f).locks = s.locks := rfl
@[simp] theorem State.modMgmt_lockBy (s : State) (f : Mgmt → Mgmt) : (s.modMgmt f).lockBy = s.lockBy := rfl
@[simp] theorem State.modMgmt_poison (s : State) (f : Mgmt → Mgmt) : (s.modMgmt f).poison = s.poison := rfl
@[simp] theorem State.modMgmt_soft (s : State) (f : Mgmt → Mgmt) : (s.modMgmt f).soft = s.soft := rfl
@[simp] theorem State.modMgmt_cores (s : State) (f : Mgmt → Mgmt) : (s.modMgmt f).cores = s.cores := rfl
@[simp] theorem State.modMgmt_towers (s : State) (f : Mgmt → Mgmt) : (s.modMgmt f).towers = s.towers := rfl
@[simp] theorem State.modMgmt_icaches (s : State) (f : Mgmt → Mgmt) : (s.modMgmt f).icaches = s.icaches := rfl
@[simp] theorem State.modMgmt_insts (s : State) (f : Mgmt → Mgmt) : (s.modMgmt f).insts = s.insts := rfl
@[simp] theorem State.modMgmt_hares (s : State) (f : Mgmt → Mgmt) : (s.modMgmt f).hares = s.hares := rfl
@[simp] theorem State.modMgmt_egress (s : State) (f : Mgmt → Mgmt) : (s.modMgmt f).egress = s.egress := rfl
@[simp] theorem State.modMgmt_tasks (s : State) (f : Mgmt → Mgmt) : (s.modMgmt f).tasks = s.tasks := rfl
@[simp] theorem State.modMgmt_mgmt (s : State) (f : Mgmt → Mgmt) : (s.modMgmt f).mgmt = f s.mgmt := rfl
@[simp] theorem State.modMgmt_link (s : State) (f : Mgmt → Mgmt) : (s.modMgmt f).link = s.link := rfl
@[simp] theorem State.modMgmt_netOut (s : State) (f : Mgmt → Mgmt) : (s.modMgmt f).netOut = s.netOut := rfl
@[simp] theorem State.modMgmt_hostOut (s : State) (f : Mgmt → Mgmt) : (s.modMgmt f).hostOut = s.hostOut := rfl
@[simp] theorem State.modMgmt_nextTask (s : State) (f : Mgmt → Mgmt) : (s.modMgmt f).nextTask = s.nextTask := rfl
@[simp] theorem State.modMgmt_nextCmd (s : State) (f : Mgmt → Mgmt) : (s.modMgmt f).nextCmd = s.nextCmd := rfl
@[simp] theorem State.modMgmt_nextOut (s : State) (f : Mgmt → Mgmt) : (s.modMgmt f).nextOut = s.nextOut := rfl
@[simp] theorem State.modMgmt_focus (s : State) (f : Mgmt → Mgmt) : (s.modMgmt f).focus = s.focus := rfl
@[simp] theorem State.modMgmt_last (s : State) (f : Mgmt → Mgmt) : (s.modMgmt f).last = s.last := rfl
@[simp] theorem State.modMgmt_inputs (s : State) (f : Mgmt → Mgmt) : (s.modMgmt f).inputs = s.inputs := rfl
@[simp] theorem State.modMgmt_sched (s : State) (f : Mgmt → Mgmt) : (s.modMgmt f).sched = s.sched := rfl
@[simp] theorem State.modMgmt_nextCore (s : State) (f : Mgmt → Mgmt) : (s.modMgmt f).nextCore = s.nextCore := rfl
@[simp] theorem State.modMgmt_free (s : State) (f : Mgmt → Mgmt) : (s.modMgmt f).free = s.free := rfl

@[simp] theorem State.writeMem_mem (s : State) (a n v : Nat) : (s.writeMem a n v).mem = Memory.write s.mem a n v := rfl
@[simp] theorem State.writeMem_locks (s : State) (a n v : Nat) : (s.writeMem a n v).locks = s.locks := rfl
@[simp] theorem State.writeMem_lockBy (s : State) (a n v : Nat) : (s.writeMem a n v).lockBy = s.lockBy := rfl
@[simp] theorem State.writeMem_poison (s : State) (a n v : Nat) : (s.writeMem a n v).poison = s.poison.filter (fun w => !(wordInside a n w)) := rfl
@[simp] theorem State.writeMem_soft (s : State) (a n v : Nat) : (s.writeMem a n v).soft = s.soft.filter (fun w => !(wordInside a n w)) := rfl
@[simp] theorem State.writeMem_cores (s : State) (a n v : Nat) : (s.writeMem a n v).cores = s.cores := rfl
@[simp] theorem State.writeMem_towers (s : State) (a n v : Nat) : (s.writeMem a n v).towers = s.towers := rfl
@[simp] theorem State.writeMem_icaches (s : State) (a n v : Nat) : (s.writeMem a n v).icaches = s.icaches := rfl
@[simp] theorem State.writeMem_insts (s : State) (a n v : Nat) : (s.writeMem a n v).insts = s.insts := rfl
@[simp] theorem State.writeMem_hares (s : State) (a n v : Nat) : (s.writeMem a n v).hares = s.hares := rfl
@[simp] theorem State.writeMem_egress (s : State) (a n v : Nat) : (s.writeMem a n v).egress = s.egress := rfl
@[simp] theorem State.writeMem_tasks (s : State) (a n v : Nat) : (s.writeMem a n v).tasks = s.tasks := rfl
@[simp] theorem State.writeMem_mgmt (s : State) (a n v : Nat) : (s.writeMem a n v).mgmt = s.mgmt := rfl
@[simp] theorem State.writeMem_link (s : State) (a n v : Nat) : (s.writeMem a n v).link = s.link := rfl
@[simp] theorem State.writeMem_netOut (s : State) (a n v : Nat) : (s.writeMem a n v).netOut = s.netOut := rfl
@[simp] theorem State.writeMem_hostOut (s : State) (a n v : Nat) : (s.writeMem a n v).hostOut = s.hostOut := rfl
@[simp] theorem State.writeMem_nextTask (s : State) (a n v : Nat) : (s.writeMem a n v).nextTask = s.nextTask := rfl
@[simp] theorem State.writeMem_nextCmd (s : State) (a n v : Nat) : (s.writeMem a n v).nextCmd = s.nextCmd := rfl
@[simp] theorem State.writeMem_nextOut (s : State) (a n v : Nat) : (s.writeMem a n v).nextOut = s.nextOut := rfl
@[simp] theorem State.writeMem_focus (s : State) (a n v : Nat) : (s.writeMem a n v).focus = s.focus := rfl
@[simp] theorem State.writeMem_last (s : State) (a n v : Nat) : (s.writeMem a n v).last = s.last := rfl
@[simp] theorem State.writeMem_inputs (s : State) (a n v : Nat) : (s.writeMem a n v).inputs = s.inputs := rfl
@[simp] theorem State.writeMem_sched (s : State) (a n v : Nat) : (s.writeMem a n v).sched = s.sched := rfl
@[simp] theorem State.writeMem_nextCore (s : State) (a n v : Nat) : (s.writeMem a n v).nextCore = s.nextCore := rfl
@[simp] theorem State.writeMem_free (s : State) (a n v : Nat) : (s.writeMem a n v).free = s.free := rfl

@[simp] theorem State.modCore_mem (s : State) (c : Nat) (f : Core → Core) : (s.modCore c f).mem = s.mem := rfl
@[simp] theorem State.modCore_locks (s : State) (c : Nat) (f : Core → Core) : (s.modCore c f).locks = s.locks := rfl
@[simp] theorem State.modCore_lockBy (s : State) (c : Nat) (f : Core → Core) : (s.modCore c f).lockBy = s.lockBy := rfl
@[simp] theorem State.modCore_poison (s : State) (c : Nat) (f : Core → Core) : (s.modCore c f).poison = s.poison := rfl
@[simp] theorem State.modCore_soft (s : State) (c : Nat) (f : Core → Core) : (s.modCore c f).soft = s.soft := rfl
@[simp] theorem State.modCore_towers (s : State) (c : Nat) (f : Core → Core) : (s.modCore c f).towers = s.towers := rfl
@[simp] theorem State.modCore_icaches (s : State) (c : Nat) (f : Core → Core) : (s.modCore c f).icaches = s.icaches := rfl
@[simp] theorem State.modCore_insts (s : State) (c : Nat) (f : Core → Core) : (s.modCore c f).insts = s.insts := rfl
@[simp] theorem State.modCore_hares (s : State) (c : Nat) (f : Core → Core) : (s.modCore c f).hares = s.hares := rfl
@[simp] theorem State.modCore_egress (s : State) (c : Nat) (f : Core → Core) : (s.modCore c f).egress = s.egress := rfl
@[simp] theorem State.modCore_tasks (s : State) (c : Nat) (f : Core → Core) : (s.modCore c f).tasks = s.tasks := rfl
@[simp] theorem State.modCore_mgmt (s : State) (c : Nat) (f : Core → Core) : (s.modCore c f).mgmt = s.mgmt := rfl
@[simp] theorem State.modCore_link (s : State) (c : Nat) (f : Core → Core) : (s.modCore c f).link = s.link := rfl
@[simp] theorem State.modCore_netOut (s : State) (c : Nat) (f : Core → Core) : (s.modCore c f).netOut = s.netOut := rfl
@[simp] theorem State.modCore_hostOut (s : State) (c : Nat) (f : Core → Core) : (s.modCore c f).hostOut = s.hostOut := rfl
@[simp] theorem State.modCore_nextTask (s : State) (c : Nat) (f : Core → Core) : (s.modCore c f).nextTask = s.nextTask := rfl
@[simp] theorem State.modCore_nextCmd (s : State) (c : Nat) (f : Core → Core) : (s.modCore c f).nextCmd = s.nextCmd := rfl
@[simp] theorem State.modCore_nextOut (s : State) (c : Nat) (f : Core → Core) : (s.modCore c f).nextOut = s.nextOut := rfl
@[simp] theorem State.modCore_focus (s : State) (c : Nat) (f : Core → Core) : (s.modCore c f).focus = s.focus := rfl
@[simp] theorem State.modCore_last (s : State) (c : Nat) (f : Core → Core) : (s.modCore c f).last = s.last := rfl
@[simp] theorem State.modCore_inputs (s : State) (c : Nat) (f : Core → Core) : (s.modCore c f).inputs = s.inputs := rfl
@[simp] theorem State.modCore_sched (s : State) (c : Nat) (f : Core → Core) : (s.modCore c f).sched = s.sched := rfl
@[simp] theorem State.modCore_nextCore (s : State) (c : Nat) (f : Core → Core) : (s.modCore c f).nextCore = s.nextCore := rfl
@[simp] theorem State.modCore_free (s : State) (c : Nat) (f : Core → Core) : (s.modCore c f).free = s.free := rfl

@[simp] theorem State.setCtx_mem (s : State) (c x : Nat) (t : Ctx) : (s.setCtx c x t).mem = s.mem := rfl
@[simp] theorem State.setCtx_locks (s : State) (c x : Nat) (t : Ctx) : (s.setCtx c x t).locks = s.locks := rfl
@[simp] theorem State.setCtx_lockBy (s : State) (c x : Nat) (t : Ctx) : (s.setCtx c x t).lockBy = s.lockBy := rfl
@[simp] theorem State.setCtx_poison (s : State) (c x : Nat) (t : Ctx) : (s.setCtx c x t).poison = s.poison := rfl
@[simp] theorem State.setCtx_soft (s : State) (c x : Nat) (t : Ctx) : (s.setCtx c x t).soft = s.soft := rfl
@[simp] theorem State.setCtx_towers (s : State) (c x : Nat) (t : Ctx) : (s.setCtx c x t).towers = s.towers := rfl
@[simp] theorem State.setCtx_icaches (s : State) (c x : Nat) (t : Ctx) : (s.setCtx c x t).icaches = s.icaches := rfl
@[simp] theorem State.setCtx_insts (s : State) (c x : Nat) (t : Ctx) : (s.setCtx c x t).insts = s.insts := rfl
@[simp] theorem State.setCtx_hares (s : State) (c x : Nat) (t : Ctx) : (s.setCtx c x t).hares = s.hares := rfl
@[simp] theorem State.setCtx_egress (s : State) (c x : Nat) (t : Ctx) : (s.setCtx c x t).egress = s.egress := rfl
@[simp] theorem State.setCtx_tasks (s : State) (c x : Nat) (t : Ctx) : (s.setCtx c x t).tasks = s.tasks := rfl
@[simp] theorem State.setCtx_mgmt (s : State) (c x : Nat) (t : Ctx) : (s.setCtx c x t).mgmt = s.mgmt := rfl
@[simp] theorem State.setCtx_link (s : State) (c x : Nat) (t : Ctx) : (s.setCtx c x t).link = s.link := rfl
@[simp] theorem State.setCtx_netOut (s : State) (c x : Nat) (t : Ctx) : (s.setCtx c x t).netOut = s.netOut := rfl
@[simp] theorem State.setCtx_hostOut (s : State) (c x : Nat) (t : Ctx) : (s.setCtx c x t).hostOut = s.hostOut := rfl
@[simp] theorem State.setCtx_nextTask (s : State) (c x : Nat) (t : Ctx) : (s.setCtx c x t).nextTask = s.nextTask := rfl
@[simp] theorem State.setCtx_nextCmd (s : State) (c x : Nat) (t : Ctx) : (s.setCtx c x t).nextCmd = s.nextCmd := rfl
@[simp] theorem State.setCtx_nextOut (s : State) (c x : Nat) (t : Ctx) : (s.setCtx c x t).nextOut = s.nextOut := rfl
@[simp] theorem State.setCtx_focus (s : State) (c x : Nat) (t : Ctx) : (s.setCtx c x t).focus = s.focus := rfl
@[simp] theorem State.setCtx_last (s : State) (c x : Nat) (t : Ctx) : (s.setCtx c x t).last = s.last := rfl
@[simp] theorem State.setCtx_inputs (s : State) (c x : Nat) (t : Ctx) : (s.setCtx c x t).inputs = s.inputs := rfl
@[simp] theorem State.setCtx_sched (s : State) (c x : Nat) (t : Ctx) : (s.setCtx c x t).sched = s.sched := rfl
@[simp] theorem State.setCtx_nextCore (s : State) (c x : Nat) (t : Ctx) : (s.setCtx c x t).nextCore = s.nextCore := rfl
@[simp] theorem State.setCtx_free (s : State) (c x : Nat) (t : Ctx) : (s.setCtx c x t).free = s.free := rfl

@[simp] theorem State.modCtx_mem (s : State) (c x : Nat) (f : Ctx → Ctx) : (s.modCtx c x f).mem = s.mem := rfl
@[simp] theorem State.modCtx_locks (s : State) (c x : Nat) (f : Ctx → Ctx) : (s.modCtx c x f).locks = s.locks := rfl
@[simp] theorem State.modCtx_lockBy (s : State) (c x : Nat) (f : Ctx → Ctx) : (s.modCtx c x f).lockBy = s.lockBy := rfl
@[simp] theorem State.modCtx_poison (s : State) (c x : Nat) (f : Ctx → Ctx) : (s.modCtx c x f).poison = s.poison := rfl
@[simp] theorem State.modCtx_soft (s : State) (c x : Nat) (f : Ctx → Ctx) : (s.modCtx c x f).soft = s.soft := rfl
@[simp] theorem State.modCtx_towers (s : State) (c x : Nat) (f : Ctx → Ctx) : (s.modCtx c x f).towers = s.towers := rfl
@[simp] theorem State.modCtx_icaches (s : State) (c x : Nat) (f : Ctx → Ctx) : (s.modCtx c x f).icaches = s.icaches := rfl
@[simp] theorem State.modCtx_insts (s : State) (c x : Nat) (f : Ctx → Ctx) : (s.modCtx c x f).insts = s.insts := rfl
@[simp] theorem State.modCtx_hares (s : State) (c x : Nat) (f : Ctx → Ctx) : (s.modCtx c x f).hares = s.hares := rfl
@[simp] theorem State.modCtx_egress (s : State) (c x : Nat) (f : Ctx → Ctx) : (s.modCtx c x f).egress = s.egress := rfl
@[simp] theorem State.modCtx_tasks (s : State) (c x : Nat) (f : Ctx → Ctx) : (s.modCtx c x f).tasks = s.tasks := rfl
@[simp] theorem State.modCtx_mgmt (s : State) (c x : Nat) (f : Ctx → Ctx) : (s.modCtx c x f).mgmt = s.mgmt := rfl
@[simp] theorem State.modCtx_link (s : State) (c x : Nat) (f : Ctx → Ctx) : (s.modCtx c x f).link = s.link := rfl
@[simp] theorem State.modCtx_netOut (s : State) (c x : Nat) (f : Ctx → Ctx) : (s.modCtx c x f).netOut = s.netOut := rfl
@[simp] theorem State.modCtx_hostOut (s : State) (c x : Nat) (f : Ctx → Ctx) : (s.modCtx c x f).hostOut = s.hostOut := rfl
@[simp] theorem State.modCtx_nextTask (s : State) (c x : Nat) (f : Ctx → Ctx) : (s.modCtx c x f).nextTask = s.nextTask := rfl
@[simp] theorem State.modCtx_nextCmd (s : State) (c x : Nat) (f : Ctx → Ctx) : (s.modCtx c x f).nextCmd = s.nextCmd := rfl
@[simp] theorem State.modCtx_nextOut (s : State) (c x : Nat) (f : Ctx → Ctx) : (s.modCtx c x f).nextOut = s.nextOut := rfl
@[simp] theorem State.modCtx_focus (s : State) (c x : Nat) (f : Ctx → Ctx) : (s.modCtx c x f).focus = s.focus := rfl
@[simp] theorem State.modCtx_last (s : State) (c x : Nat) (f : Ctx → Ctx) : (s.modCtx c x f).last = s.last := rfl
@[simp] theorem State.modCtx_inputs (s : State) (c x : Nat) (f : Ctx → Ctx) : (s.modCtx c x f).inputs = s.inputs := rfl
@[simp] theorem State.modCtx_sched (s : State) (c x : Nat) (f : Ctx → Ctx) : (s.modCtx c x f).sched = s.sched := rfl
@[simp] theorem State.modCtx_nextCore (s : State) (c x : Nat) (f : Ctx → Ctx) : (s.modCtx c x f).nextCore = s.nextCore := rfl
@[simp] theorem State.modCtx_free (s : State) (c x : Nat) (f : Ctx → Ctx) : (s.modCtx c x f).free = s.free := rfl

@[simp] theorem State.modF_mem (s : State) (f : Ctx → Ctx) : (s.modF f).mem = s.mem := rfl
@[simp] theorem State.modF_locks (s : State) (f : Ctx → Ctx) : (s.modF f).locks = s.locks := rfl
@[simp] theorem State.modF_lockBy (s : State) (f : Ctx → Ctx) : (s.modF f).lockBy = s.lockBy := rfl
@[simp] theorem State.modF_poison (s : State) (f : Ctx → Ctx) : (s.modF f).poison = s.poison := rfl
@[simp] theorem State.modF_soft (s : State) (f : Ctx → Ctx) : (s.modF f).soft = s.soft := rfl
@[simp] theorem State.modF_towers (s : State) (f : Ctx → Ctx) : (s.modF f).towers = s.towers := rfl
@[simp] theorem State.modF_icaches (s : State) (f : Ctx → Ctx) : (s.modF f).icaches = s.icaches := rfl
@[simp] theorem State.modF_insts (s : State) (f : Ctx → Ctx) : (s.modF f).insts = s.insts := rfl
@[simp] theorem State.modF_hares (s : State) (f : Ctx → Ctx) : (s.modF f).hares = s.hares := rfl
@[simp] theorem State.modF_egress (s : State) (f : Ctx → Ctx) : (s.modF f).egress = s.egress := rfl
@[simp] theorem State.modF_tasks (s : State) (f : Ctx → Ctx) : (s.modF f).tasks = s.tasks := rfl
@[simp] theorem State.modF_mgmt (s : State) (f : Ctx → Ctx) : (s.modF f).mgmt = s.mgmt := rfl
@[simp] theorem State.modF_link (s : State) (f : Ctx → Ctx) : (s.modF f).link = s.link := rfl
@[simp] theorem State.modF_netOut (s : State) (f : Ctx → Ctx) : (s.modF f).netOut = s.netOut := rfl
@[simp] theorem State.modF_hostOut (s : State) (f : Ctx → Ctx) : (s.modF f).hostOut = s.hostOut := rfl
@[simp] theorem State.modF_nextTask (s : State) (f : Ctx → Ctx) : (s.modF f).nextTask = s.nextTask := rfl
@[simp] theorem State.modF_nextCmd (s : State) (f : Ctx → Ctx) : (s.modF f).nextCmd = s.nextCmd := rfl
@[simp] theorem State.modF_nextOut (s : State) (f : Ctx → Ctx) : (s.modF f).nextOut = s.nextOut := rfl
@[simp] theorem State.modF_focus (s : State) (f : Ctx → Ctx) : (s.modF f).focus = s.focus := rfl
@[simp] theorem State.modF_last (s : State) (f : Ctx → Ctx) : (s.modF f).last = s.last := rfl
@[simp] theorem State.modF_inputs (s : State) (f : Ctx → Ctx) : (s.modF f).inputs = s.inputs := rfl
@[simp] theorem State.modF_sched (s : State) (f : Ctx → Ctx) : (s.modF f).sched = s.sched := rfl
@[simp] theorem State.modF_nextCore (s : State) (f : Ctx → Ctx) : (s.modF f).nextCore = s.nextCore := rfl
@[simp] theorem State.modF_free (s : State) (f : Ctx → Ctx) : (s.modF f).free = s.free := rfl

@[simp] theorem State.modFCore_mem (s : State) (f : Core → Core) : (s.modFCore f).mem = s.mem := rfl
@[simp] theorem State.modFCore_locks (s : State) (f : Core → Core) : (s.modFCore f).locks = s.locks := rfl
@[simp] theorem State.modFCore_lockBy (s : State) (f : Core → Core) : (s.modFCore f).lockBy = s.lockBy := rfl
@[simp] theorem State.modFCore_poison (s : State) (f : Core → Core) : (s.modFCore f).poison = s.poison := rfl
@[simp] theorem State.modFCore_soft (s : State) (f : Core → Core) : (s.modFCore f).soft = s.soft := rfl
@[simp] theorem State.modFCore_towers (s : State) (f : Core → Core) : (s.modFCore f).towers = s.towers := rfl
@[simp] theorem State.modFCore_icaches (s : State) (f : Core → Core) : (s.modFCore f).icaches = s.icaches := rfl
@[simp] theorem State.modFCore_insts (s : State) (f : Core → Core) : (s.modFCore f).insts = s.insts := rfl
@[simp] theorem State.modFCore_hares (s : State) (f : Core → Core) : (s.modFCore f).hares = s.hares := rfl
@[simp] theorem State.modFCore_egress (s : State) (f : Core → Core) : (s.modFCore f).egress = s.egress := rfl
@[simp] theorem State.modFCore_tasks (s : State) (f : Core → Core) : (s.modFCore f).tasks = s.tasks := rfl
@[simp] theorem State.modFCore_mgmt (s : State) (f : Core → Core) : (s.modFCore f).mgmt = s.mgmt := rfl
@[simp] theorem State.modFCore_link (s : State) (f : Core → Core) : (s.modFCore f).link = s.link := rfl
@[simp] theorem State.modFCore_netOut (s : State) (f : Core → Core) : (s.modFCore f).netOut = s.netOut := rfl
@[simp] theorem State.modFCore_hostOut (s : State) (f : Core → Core) : (s.modFCore f).hostOut = s.hostOut := rfl
@[simp] theorem State.modFCore_nextTask (s : State) (f : Core → Core) : (s.modFCore f).nextTask = s.nextTask := rfl
@[simp] theorem State.modFCore_nextCmd (s : State) (f : Core → Core) : (s.modFCore f).nextCmd = s.nextCmd := rfl
@[simp] theorem State.modFCore_nextOut (s : State) (f : Core → Core) : (s.modFCore f).nextOut = s.nextOut := rfl
@[simp] theorem State.modFCore_focus (s : State) (f : Core → Core) : (s.modFCore f).focus = s.focus := rfl
@[simp] theorem State.modFCore_last (s : State) (f : Core → Core) : (s.modFCore f).last = s.last := rfl
@[simp] theorem State.modFCore_inputs (s : State) (f : Core → Core) : (s.modFCore f).inputs = s.inputs := rfl
@[simp] theorem State.modFCore_sched (s : State) (f : Core → Core) : (s.modFCore f).sched = s.sched := rfl
@[simp] theorem State.modFCore_nextCore (s : State) (f : Core → Core) : (s.modFCore f).nextCore = s.nextCore := rfl
@[simp] theorem State.modFCore_free (s : State) (f : Core → Core) : (s.modFCore f).free = s.free := rfl

@[simp] theorem State.modTower_mem (s : State) (t : Nat) (f : Tower → Tower) : (s.modTower t f).mem = s.mem := rfl
@[simp] theorem State.modTower_locks (s : State) (t : Nat) (f : Tower → Tower) : (s.modTower t f).locks = s.locks := rfl
@[simp] theorem State.modTower_lockBy (s : State) (t : Nat) (f : Tower → Tower) : (s.modTower t f).lockBy = s.lockBy := rfl
@[simp] theorem State.modTower_poison (s : State) (t : Nat) (f : Tower → Tower) : (s.modTower t f).poison = s.poison := rfl
@[simp] theorem State.modTower_soft (s : State) (t : Nat) (f : Tower → Tower) : (s.modTower t f).soft = s.soft := rfl
@[simp] theorem State.modTower_cores (s : State) (t : Nat) (f : Tower → Tower) : (s.modTower t f).cores = s.cores := rfl
@[simp] theorem State.modTower_icaches (s : State) (t : Nat) (f : Tower → Tower) : (s.modTower t f).icaches = s.icaches := rfl
@[simp] theorem State.modTower_insts (s : State) (t : Nat) (f : Tower → Tower) : (s.modTower t f).insts = s.insts := rfl
@[simp] theorem State.modTower_hares (s : State) (t : Nat) (f : Tower → Tower) : (s.modTower t f).hares = s.hares := rfl
@[simp] theorem State.modTower_egress (s : State) (t : Nat) (f : Tower → Tower) : (s.modTower t f).egress = s.egress := rfl
@[simp] theorem State.modTower_tasks (s : State) (t : Nat) (f : Tower → Tower) : (s.modTower t f).tasks = s.tasks := rfl
@[simp] theorem State.modTower_mgmt (s : State) (t : Nat) (f : Tower → Tower) : (s.modTower t f).mgmt = s.mgmt := rfl
@[simp] theorem State.modTower_link (s : State) (t : Nat) (f : Tower → Tower) : (s.modTower t f).link = s.link := rfl
@[simp] theorem State.modTower_netOut (s : State) (t : Nat) (f : Tower → Tower) : (s.modTower t f).netOut = s.netOut := rfl
@[simp] theorem State.modTower_hostOut (s : State) (t : Nat) (f : Tower → Tower) : (s.modTower t f).hostOut = s.hostOut := rfl
@[simp] theorem State.modTower_nextTask (s : State) (t : Nat) (f : Tower → Tower) : (s.modTower t f).nextTask = s.nextTask := rfl
@[simp] theorem State.modTower_nextCmd (s : State) (t : Nat) (f : Tower → Tower) : (s.modTower t f).nextCmd = s.nextCmd := rfl
@[simp] theorem State.modTower_nextOut (s : State) (t : Nat) (f : Tower → Tower) : (s.modTower t f).nextOut = s.nextOut := rfl
@[simp] theorem State.modTower_focus (s : State) (t : Nat) (f : Tower → Tower) : (s.modTower t f).focus = s.focus := rfl
@[simp] theorem State.modTower_last (s : State) (t : Nat) (f : Tower → Tower) : (s.modTower t f).last = s.last := rfl
@[simp] theorem State.modTower_inputs (s : State) (t : Nat) (f : Tower → Tower) : (s.modTower t f).inputs = s.inputs := rfl
@[simp] theorem State.modTower_sched (s : State) (t : Nat) (f : Tower → Tower) : (s.modTower t f).sched = s.sched := rfl
@[simp] theorem State.modTower_nextCore (s : State) (t : Nat) (f : Tower → Tower) : (s.modTower t f).nextCore = s.nextCore := rfl
@[simp] theorem State.modTower_free (s : State) (t : Nat) (f : Tower → Tower) : (s.modTower t f).free = s.free := rfl

@[simp] theorem State.modMarten_mem (s : State) (t : Nat) (f : Marten → Marten) : (s.modMarten t f).mem = s.mem := rfl
@[simp] theorem State.modMarten_locks (s : State) (t : Nat) (f : Marten → Marten) : (s.modMarten t f).locks = s.locks := rfl
@[simp] theorem State.modMarten_lockBy (s : State) (t : Nat) (f : Marten → Marten) : (s.modMarten t f).lockBy = s.lockBy := rfl
@[simp] theorem State.modMarten_poison (s : State) (t : Nat) (f : Marten → Marten) : (s.modMarten t f).poison = s.poison := rfl
@[simp] theorem State.modMarten_soft (s : State) (t : Nat) (f : Marten → Marten) : (s.modMarten t f).soft = s.soft := rfl
@[simp] theorem State.modMarten_cores (s : State) (t : Nat) (f : Marten → Marten) : (s.modMarten t f).cores = s.cores := rfl
@[simp] theorem State.modMarten_icaches (s : State) (t : Nat) (f : Marten → Marten) : (s.modMarten t f).icaches = s.icaches := rfl
@[simp] theorem State.modMarten_insts (s : State) (t : Nat) (f : Marten → Marten) : (s.modMarten t f).insts = s.insts := rfl
@[simp] theorem State.modMarten_hares (s : State) (t : Nat) (f : Marten → Marten) : (s.modMarten t f).hares = s.hares := rfl
@[simp] theorem State.modMarten_egress (s : State) (t : Nat) (f : Marten → Marten) : (s.modMarten t f).egress = s.egress := rfl
@[simp] theorem State.modMarten_tasks (s : State) (t : Nat) (f : Marten → Marten) : (s.modMarten t f).tasks = s.tasks := rfl
@[simp] theorem State.modMarten_mgmt (s : State) (t : Nat) (f : Marten → Marten) : (s.modMarten t f).mgmt = s.mgmt := rfl
@[simp] theorem State.modMarten_link (s : State) (t : Nat) (f : Marten → Marten) : (s.modMarten t f).link = s.link := rfl
@[simp] theorem State.modMarten_netOut (s : State) (t : Nat) (f : Marten → Marten) : (s.modMarten t f).netOut = s.netOut := rfl
@[simp] theorem State.modMarten_hostOut (s : State) (t : Nat) (f : Marten → Marten) : (s.modMarten t f).hostOut = s.hostOut := rfl
@[simp] theorem State.modMarten_nextTask (s : State) (t : Nat) (f : Marten → Marten) : (s.modMarten t f).nextTask = s.nextTask := rfl
@[simp] theorem State.modMarten_nextCmd (s : State) (t : Nat) (f : Marten → Marten) : (s.modMarten t f).nextCmd = s.nextCmd := rfl
@[simp] theorem State.modMarten_nextOut (s : State) (t : Nat) (f : Marten → Marten) : (s.modMarten t f).nextOut = s.nextOut := rfl
@[simp] theorem State.modMarten_focus (s : State) (t : Nat) (f : Marten → Marten) : (s.modMarten t f).focus = s.focus := rfl
@[simp] theorem State.modMarten_last (s : State) (t : Nat) (f : Marten → Marten) : (s.modMarten t f).last = s.last := rfl
@[simp] theorem State.modMarten_inputs (s : State) (t : Nat) (f : Marten → Marten) : (s.modMarten t f).inputs = s.inputs := rfl
@[simp] theorem State.modMarten_sched (s : State) (t : Nat) (f : Marten → Marten) : (s.modMarten t f).sched = s.sched := rfl
@[simp] theorem State.modMarten_nextCore (s : State) (t : Nat) (f : Marten → Marten) : (s.modMarten t f).nextCore = s.nextCore := rfl
@[simp] theorem State.modMarten_free (s : State) (t : Nat) (f : Marten → Marten) : (s.modMarten t f).free = s.free := rfl

@[simp] theorem State.modOwl_mem (s : State) (t : Nat) (f : Owl → Owl) : (s.modOwl t f).mem = s.mem := rfl
@[simp] theorem State.modOwl_locks (s : State) (t : Nat) (f : Owl → Owl) : (s.modOwl t f).locks = s.locks := rfl
@[simp] theorem State.modOwl_lockBy (s : State) (t : Nat) (f : Owl → Owl) : (s.modOwl t f).lockBy = s.lockBy := rfl
@[simp] theorem State.modOwl_poison (s : State) (t : Nat) (f : Owl → Owl) : (s.modOwl t f).poison = s.poison := rfl
@[simp] theorem State.modOwl_soft (s : State) (t : Nat) (f : Owl → Owl) : (s.modOwl t f).soft = s.soft := rfl
@[simp] theorem State.modOwl_cores (s : State) (t : Nat) (f : Owl → Owl) : (s.modOwl t f).cores = s.cores := rfl
@[simp] theorem State.modOwl_icaches (s : State) (t : Nat) (f : Owl → Owl) : (s.modOwl t f).icaches = s.icaches := rfl
@[simp] theorem State.modOwl_insts (s : State) (t : Nat) (f : Owl → Owl) : (s.modOwl t f).insts = s.insts := rfl
@[simp] theorem State.modOwl_hares (s : State) (t : Nat) (f : Owl → Owl) : (s.modOwl t f).hares = s.hares := rfl
@[simp] theorem State.modOwl_egress (s : State) (t : Nat) (f : Owl → Owl) : (s.modOwl t f).egress = s.egress := rfl
@[simp] theorem State.modOwl_tasks (s : State) (t : Nat) (f : Owl → Owl) : (s.modOwl t f).tasks = s.tasks := rfl
@[simp] theorem State.modOwl_mgmt (s : State) (t : Nat) (f : Owl → Owl) : (s.modOwl t f).mgmt = s.mgmt := rfl
@[simp] theorem State.modOwl_link (s : State) (t : Nat) (f : Owl → Owl) : (s.modOwl t f).link = s.link := rfl
@[simp] theorem State.modOwl_netOut (s : State) (t : Nat) (f : Owl → Owl) : (s.modOwl t f).netOut = s.netOut := rfl
@[simp] theorem State.modOwl_hostOut (s : State) (t : Nat) (f : Owl → Owl) : (s.modOwl t f).hostOut = s.hostOut := rfl
@[simp] theorem State.modOwl_nextTask (s : State) (t : Nat) (f : Owl → Owl) : (s.modOwl t f).nextTask = s.nextTask := rfl
@[simp] theorem State.modOwl_nextCmd (s : State) (t : Nat) (f : Owl → Owl) : (s.modOwl t f).nextCmd = s.nextCmd := rfl
@[simp] theorem State.modOwl_nextOut (s : State) (t : Nat) (f : Owl → Owl) : (s.modOwl t f).nextOut = s.nextOut := rfl
@[simp] theorem State.modOwl_focus (s : State) (t : Nat) (f : Owl → Owl) : (s.modOwl t f).focus = s.focus := rfl
@[simp] theorem State.modOwl_last (s : State) (t : Nat) (f : Owl → Owl) : (s.modOwl t f).last = s.last := rfl
@[simp] theorem State.modOwl_inputs (s : State) (t : Nat) (f : Owl → Owl) : (s.modOwl t f).inputs = s.inputs := rfl
@[simp] theorem State.modOwl_sched (s : State) (t : Nat) (f : Owl → Owl) : (s.modOwl t f).sched = s.sched := rfl
@[simp] theorem State.modOwl_nextCore (s : State) (t : Nat) (f : Owl → Owl) : (s.modOwl t f).nextCore = s.nextCore := rfl
@[simp] theorem State.modOwl_free (s : State) (t : Nat) (f : Owl → Owl) : (s.modOwl t f).free = s.free := rfl

@[simp] theorem State.writeX_mem (s : State) (r : Nat) (v : Word) : (s.writeX r v).mem = s.mem := rfl
@[simp] theorem State.writeX_locks (s : State) (r : Nat) (v : Word) : (s.writeX r v).locks = s.locks := rfl
@[simp] theorem State.writeX_lockBy (s : State) (r : Nat) (v : Word) : (s.writeX r v).lockBy = s.lockBy := rfl
@[simp] theorem State.writeX_poison (s : State) (r : Nat) (v : Word) : (s.writeX r v).poison = s.poison := rfl
@[simp] theorem State.writeX_soft (s : State) (r : Nat) (v : Word) : (s.writeX r v).soft = s.soft := rfl
@[simp] theorem State.writeX_towers (s : State) (r : Nat) (v : Word) : (s.writeX r v).towers = s.towers := rfl
@[simp] theorem State.writeX_icaches (s : State) (r : Nat) (v : Word) : (s.writeX r v).icaches = s.icaches := rfl
@[simp] theorem State.writeX_insts (s : State) (r : Nat) (v : Word) : (s.writeX r v).insts = s.insts := rfl
@[simp] theorem State.writeX_hares (s : State) (r : Nat) (v : Word) : (s.writeX r v).hares = s.hares := rfl
@[simp] theorem State.writeX_egress (s : State) (r : Nat) (v : Word) : (s.writeX r v).egress = s.egress := rfl
@[simp] theorem State.writeX_tasks (s : State) (r : Nat) (v : Word) : (s.writeX r v).tasks = s.tasks := rfl
@[simp] theorem State.writeX_mgmt (s : State) (r : Nat) (v : Word) : (s.writeX r v).mgmt = s.mgmt := rfl
@[simp] theorem State.writeX_link (s : State) (r : Nat) (v : Word) : (s.writeX r v).link = s.link := rfl
@[simp] theorem State.writeX_netOut (s : State) (r : Nat) (v : Word) : (s.writeX r v).netOut = s.netOut := rfl
@[simp] theorem State.writeX_hostOut (s : State) (r : Nat) (v : Word) : (s.writeX r v).hostOut = s.hostOut := rfl
@[simp] theorem State.writeX_nextTask (s : State) (r : Nat) (v : Word) : (s.writeX r v).nextTask = s.nextTask := rfl
@[simp] theorem State.writeX_nextCmd (s : State) (r : Nat) (v : Word) : (s.writeX r v).nextCmd = s.nextCmd := rfl
@[simp] theorem State.writeX_nextOut (s : State) (r : Nat) (v : Word) : (s.writeX r v).nextOut = s.nextOut := rfl
@[simp] theorem State.writeX_focus (s : State) (r : Nat) (v : Word) : (s.writeX r v).focus = s.focus := rfl
@[simp] theorem State.writeX_last (s : State) (r : Nat) (v : Word) : (s.writeX r v).last = s.last := rfl
@[simp] theorem State.writeX_inputs (s : State) (r : Nat) (v : Word) : (s.writeX r v).inputs = s.inputs := rfl
@[simp] theorem State.writeX_sched (s : State) (r : Nat) (v : Word) : (s.writeX r v).sched = s.sched := rfl
@[simp] theorem State.writeX_nextCore (s : State) (r : Nat) (v : Word) : (s.writeX r v).nextCore = s.nextCore := rfl
@[simp] theorem State.writeX_free (s : State) (r : Nat) (v : Word) : (s.writeX r v).free = s.free := rfl

@[simp] theorem State.writePending_mem (s : State) (r : Nat) (v : Word) (l : Nat) : (s.writePending r v l).mem = s.mem := rfl
@[simp] theorem State.writePending_locks (s : State) (r : Nat) (v : Word) (l : Nat) : (s.writePending r v l).locks = s.locks := rfl
@[simp] theorem State.writePending_lockBy (s : State) (r : Nat) (v : Word) (l : Nat) : (s.writePending r v l).lockBy = s.lockBy := rfl
@[simp] theorem State.writePending_poison (s : State) (r : Nat) (v : Word) (l : Nat) : (s.writePending r v l).poison = s.poison := rfl
@[simp] theorem State.writePending_soft (s : State) (r : Nat) (v : Word) (l : Nat) : (s.writePending r v l).soft = s.soft := rfl
@[simp] theorem State.writePending_towers (s : State) (r : Nat) (v : Word) (l : Nat) : (s.writePending r v l).towers = s.towers := rfl
@[simp] theorem State.writePending_icaches (s : State) (r : Nat) (v : Word) (l : Nat) : (s.writePending r v l).icaches = s.icaches := rfl
@[simp] theorem State.writePending_insts (s : State) (r : Nat) (v : Word) (l : Nat) : (s.writePending r v l).insts = s.insts := rfl
@[simp] theorem State.writePending_hares (s : State) (r : Nat) (v : Word) (l : Nat) : (s.writePending r v l).hares = s.hares := rfl
@[simp] theorem State.writePending_egress (s : State) (r : Nat) (v : Word) (l : Nat) : (s.writePending r v l).egress = s.egress := rfl
@[simp] theorem State.writePending_tasks (s : State) (r : Nat) (v : Word) (l : Nat) : (s.writePending r v l).tasks = s.tasks := rfl
@[simp] theorem State.writePending_mgmt (s : State) (r : Nat) (v : Word) (l : Nat) : (s.writePending r v l).mgmt = s.mgmt := rfl
@[simp] theorem State.writePending_link (s : State) (r : Nat) (v : Word) (l : Nat) : (s.writePending r v l).link = s.link := rfl
@[simp] theorem State.writePending_netOut (s : State) (r : Nat) (v : Word) (l : Nat) : (s.writePending r v l).netOut = s.netOut := rfl
@[simp] theorem State.writePending_hostOut (s : State) (r : Nat) (v : Word) (l : Nat) : (s.writePending r v l).hostOut = s.hostOut := rfl
@[simp] theorem State.writePending_nextTask (s : State) (r : Nat) (v : Word) (l : Nat) : (s.writePending r v l).nextTask = s.nextTask := rfl
@[simp] theorem State.writePending_nextCmd (s : State) (r : Nat) (v : Word) (l : Nat) : (s.writePending r v l).nextCmd = s.nextCmd := rfl
@[simp] theorem State.writePending_nextOut (s : State) (r : Nat) (v : Word) (l : Nat) : (s.writePending r v l).nextOut = s.nextOut := rfl
@[simp] theorem State.writePending_focus (s : State) (r : Nat) (v : Word) (l : Nat) : (s.writePending r v l).focus = s.focus := rfl
@[simp] theorem State.writePending_last (s : State) (r : Nat) (v : Word) (l : Nat) : (s.writePending r v l).last = s.last := rfl
@[simp] theorem State.writePending_inputs (s : State) (r : Nat) (v : Word) (l : Nat) : (s.writePending r v l).inputs = s.inputs := rfl
@[simp] theorem State.writePending_sched (s : State) (r : Nat) (v : Word) (l : Nat) : (s.writePending r v l).sched = s.sched := rfl
@[simp] theorem State.writePending_nextCore (s : State) (r : Nat) (v : Word) (l : Nat) : (s.writePending r v l).nextCore = s.nextCore := rfl
@[simp] theorem State.writePending_free (s : State) (r : Nat) (v : Word) (l : Nat) : (s.writePending r v l).free = s.free := rfl

@[simp] theorem State.expectPending_mem (s : State) (r : Nat) : (s.expectPending r).mem = s.mem := rfl
@[simp] theorem State.expectPending_locks (s : State) (r : Nat) : (s.expectPending r).locks = s.locks := rfl
@[simp] theorem State.expectPending_lockBy (s : State) (r : Nat) : (s.expectPending r).lockBy = s.lockBy := rfl
@[simp] theorem State.expectPending_poison (s : State) (r : Nat) : (s.expectPending r).poison = s.poison := rfl
@[simp] theorem State.expectPending_soft (s : State) (r : Nat) : (s.expectPending r).soft = s.soft := rfl
@[simp] theorem State.expectPending_towers (s : State) (r : Nat) : (s.expectPending r).towers = s.towers := rfl
@[simp] theorem State.expectPending_icaches (s : State) (r : Nat) : (s.expectPending r).icaches = s.icaches := rfl
@[simp] theorem State.expectPending_insts (s : State) (r : Nat) : (s.expectPending r).insts = s.insts := rfl
@[simp] theorem State.expectPending_hares (s : State) (r : Nat) : (s.expectPending r).hares = s.hares := rfl
@[simp] theorem State.expectPending_egress (s : State) (r : Nat) : (s.expectPending r).egress = s.egress := rfl
@[simp] theorem State.expectPending_tasks (s : State) (r : Nat) : (s.expectPending r).tasks = s.tasks := rfl
@[simp] theorem State.expectPending_mgmt (s : State) (r : Nat) : (s.expectPending r).mgmt = s.mgmt := rfl
@[simp] theorem State.expectPending_link (s : State) (r : Nat) : (s.expectPending r).link = s.link := rfl
@[simp] theorem State.expectPending_netOut (s : State) (r : Nat) : (s.expectPending r).netOut = s.netOut := rfl
@[simp] theorem State.expectPending_hostOut (s : State) (r : Nat) : (s.expectPending r).hostOut = s.hostOut := rfl
@[simp] theorem State.expectPending_nextTask (s : State) (r : Nat) : (s.expectPending r).nextTask = s.nextTask := rfl
@[simp] theorem State.expectPending_nextCmd (s : State) (r : Nat) : (s.expectPending r).nextCmd = s.nextCmd := rfl
@[simp] theorem State.expectPending_nextOut (s : State) (r : Nat) : (s.expectPending r).nextOut = s.nextOut := rfl
@[simp] theorem State.expectPending_focus (s : State) (r : Nat) : (s.expectPending r).focus = s.focus := rfl
@[simp] theorem State.expectPending_last (s : State) (r : Nat) : (s.expectPending r).last = s.last := rfl
@[simp] theorem State.expectPending_inputs (s : State) (r : Nat) : (s.expectPending r).inputs = s.inputs := rfl
@[simp] theorem State.expectPending_sched (s : State) (r : Nat) : (s.expectPending r).sched = s.sched := rfl
@[simp] theorem State.expectPending_nextCore (s : State) (r : Nat) : (s.expectPending r).nextCore = s.nextCore := rfl
@[simp] theorem State.expectPending_free (s : State) (r : Nat) : (s.expectPending r).free = s.free := rfl

/-! ## A unit after it has been changed -/

@[simp] theorem State.core_setCore_self (s : State) (c : Nat) (k : Core) : (s.setCore c k).core c = k := by
  simp [State.core]
theorem State.core_setCore_ne (s : State) (c d : Nat) (k : Core) (h : d ≠ c) : (s.setCore c k).core d = s.core d := by
  simp [State.core, Tab.get_set_ne _ _ _ _ _ h]
@[simp] theorem Core.ctx_setCtx_self (k : Core) (x : Nat) (t : Ctx) : (k.setCtx x t).ctx x = t := by
  simp [Core.ctx, Core.setCtx]
theorem Core.ctx_setCtx_ne (k : Core) (x y : Nat) (t : Ctx) (h : y ≠ x) : (k.setCtx x t).ctx y = k.ctx y := by
  simp [Core.ctx, Core.setCtx, Tab.get_set_ne _ _ _ _ _ h]
@[simp] theorem State.ctx_setCtx_self (s : State) (c x : Nat) (t : Ctx) : (s.setCtx c x t).ctx c x = t := by
  simp [State.ctx, State.setCtx]
theorem State.ctx_setCtx_other (s : State) (c x d y : Nat) (t : Ctx) (h : d ≠ c ∨ y ≠ x) :
    (s.setCtx c x t).ctx d y = s.ctx d y := by
  by_cases hd : d = c
  · subst d
    have hy : y ≠ x := by simpa using h
    simp [State.ctx, State.setCtx, Core.ctx_setCtx_ne _ _ _ _ hy]
  · simp [State.ctx, State.setCtx, State.core_setCore_ne _ _ _ _ hd]
@[simp] theorem State.fctx_modF (s : State) (f : Ctx → Ctx) : (s.modF f).fctx = f s.fctx := by
  simp [State.fctx, State.modF, State.modCtx]
@[simp] theorem State.fcore_modFCore (s : State) (f : Core → Core) : (s.modFCore f).fcore = f s.fcore := by
  simp [State.fcore, State.modFCore, State.modCore]
@[simp] theorem State.tower_setTower_self (s : State) (t : Nat) (w : Tower) : (s.setTower t w).tower t = w := by
  simp [State.tower]
theorem State.tower_setTower_ne (s : State) (t u : Nat) (w : Tower) (h : u ≠ t) : (s.setTower t w).tower u = s.tower u := by
  simp [State.tower, Tab.get_set_ne _ _ _ _ _ h]

end Sys2Proof.Machine
end

