-- ==== Sys2Proof/Laws/Frames.lean ====
section
/-! SUPPORT. What the shared operations change and what they leave: a change of one context, of one register, of one core. -/

namespace Sys2Proof

open Machine

/-- A change of the core of the focus changes nothing else. -/
theorem onlyCore_modFCore (s : State) (f : Core → Core) (l : Last) : OnlyCore s { s.modFCore f with last := l } where
  module := rfl
  others := fun c h => State.core_setCore_ne s s.focus.core c _ h

/-- A change of the context of the focus changes nothing else. -/
theorem onlyCtx_modF (s : State) (f : Ctx → Ctx) (l : Last) : OnlyCtx s { s.modF f with last := l } where
  core := onlyCore_modFCore s (fun k => k.setCtx s.focus.ctx (f s.fctx)) l
  own := by
    have h : (s.modF f).fcore = s.fcore.setCtx s.focus.ctx (f s.fctx) :=
      State.core_setCore_self s s.focus.core _
    show (s.modF f).fcore = { s.fcore with ctxs := (s.modF f).fcore.ctxs }
    rw [h]; rfl
  others := fun x h => State.ctx_setCtx_other s _ _ _ _ _ (Or.inr h)

/-- Nothing but the model's mark: no context changes. -/
theorem onlyCtx_self (s : State) (l : Last) : OnlyCtx s { s with last := l } where
  core := { module := rfl, others := fun _ _ => rfl }
  own := rfl
  others := fun _ _ => rfl

/-- The context of the focus after `modF`. -/
theorem fctx_modF_last (s : State) (f : Ctx → Ctx) (l : Last) : ({ s.modF f with last := l } : State).fctx = f s.fctx :=
  State.fctx_modF s f

theorem ctxBecomes_modF (i : Instr) (s : State) (f : Ctx → Ctx)
    (h : exec i s = .next { s.modF f with last := .issued }) : CtxBecomes i s (f s.fctx) :=
  ⟨_, h, rfl, onlyCtx_modF s f .issued, fctx_modF_last s f .issued⟩

theorem ctxBecomes_self (i : Instr) (s : State) (h : exec i s = .next { s with last := .issued }) : CtxBecomes i s s.fctx :=
  ⟨_, h, rfl, onlyCtx_self s .issued, rfl⟩

/-- A register write changes that register of the context and nothing else. -/
theorem oneReg_writeX (s : State) (r : Nat) (v : Word) (l : Last) : OneReg s { s.writeX r v with last := l } r v := by
  have h : ({ s.writeX r v with last := l } : State).fctx =
      { s.fctx with regs := s.fctx.regs.set r v, xw := s.fctx.xw.set r s.focus.seq,
                    late := s.fctx.late.filter (fun e => e.1 ≠ r) } := fctx_modF_last s _ l
  refine ⟨onlyCtx_modF s _ l, ?_, ?_, ?_, ?_⟩
  · rw [h]; simp [Ctx.reg]
  · intro q hq; rw [h]; simp [Ctx.reg, Tab.get_set_ne _ _ _ _ _ hq]
  · rw [h]
  · intro q
    rw [h]
    by_cases hq : q = r
    · subst q; simp
    · simp [hq, Tab.find_set_ne _ _ _ _ hq]

/-- A meaning that is one register write. -/
theorem writesReg_of (i : Instr) (s : State) (r : Nat) (v : Word)
    (h : exec i s = .next { s.writeX r v with last := .issued }) : WritesReg i s r v :=
  ⟨_, h, rfl, oneReg_writeX s r v .issued⟩

end Sys2Proof
end

