-- ==== Sys2Proof/Laws/Lanes.lean ====
section
/-! SUPPORT. What a write of vector elements does: one lemma for the elements of a register built from a list, one for merging results
under the mask, one for everything that `laneWrite` changes. -/

namespace Sys2Proof

open Machine

namespace Machine

theorem joinNat_cons (w x : Nat) (xs : List Nat) : joinNat w (x :: xs) = joinNat w xs * 2 ^ w + x % 2 ^ w := by
  simp [joinNat, Nat.shiftLeft_eq]

/-- Element `i` of a joined list. -/
theorem joinNat_get (w : Nat) (xs : List Nat) : ∀ i, (joinNat w xs >>> (w * i)) % 2 ^ w = xs.getD i 0 % 2 ^ w := by
  induction xs with
  | nil => intro i; simp [joinNat]
  | cons x xs ih =>
    intro i
    rw [joinNat_cons]
    cases i with
    | zero => simp
    | succ i =>
      have hx : (joinNat w xs * 2 ^ w + x % 2 ^ w) >>> (w * (i + 1)) = joinNat w xs >>> (w * i) := by
        rw [Nat.mul_succ, Nat.add_comm (w * i) w, Nat.shiftRight_add]
        congr 1
        rw [Nat.shiftRight_eq_div_pow, Nat.mul_comm, Nat.mul_add_div (Nat.two_pow_pos w)]
        simp [Nat.div_eq_of_lt (Nat.mod_lt x (Nat.two_pow_pos w))]
      rw [hx, ih i]
      simp

/-- A slice of a number that is cut to `n` bits, inside those bits. -/
theorem slice_mod (x n a b : Nat) (h : a + b ≤ n) : ((x % 2 ^ n) >>> a) % 2 ^ b = (x >>> a) % 2 ^ b := by
  apply Nat.eq_of_testBit_eq
  intro i
  simp only [Nat.testBit_mod_two_pow, Nat.testBit_shiftRight]
  by_cases hi : i < b
  · have : a + i < n := by omega
    simp [hi, this]
  · simp [hi]

/-- Element `i` of the register that holds a list of elements of `w` bytes. -/
theorem vElem_ofLanes (w i : Nat) (xs : List Nat) (h : i < 4096 / w) : vElem (ofLanes w xs) w i = xs.getD i 0 % 2 ^ (8 * w) := by
  have hw : 0 < w := by
    rcases Nat.eq_zero_or_pos w with h0 | h0
    · subst h0; simp at h
    · exact h0
  have hb : 8 * w * i + 8 * w ≤ 32768 := by
    have h1 : (i + 1) * w ≤ 4096 := (Nat.le_div_iff_mul_le hw).1 h
    have h2 : 8 * w * i + 8 * w = 8 * ((i + 1) * w) := by ring
    rw [h2]; omega
  unfold vElem ofLanes
  rw [BitVec.toNat_ofNat, slice_mod _ _ _ _ hb, joinNat_get]

theorem lanes_length (v : VReg) (w : Nat) : (lanes v w).length = 4096 / w := by simp [lanes, splitNat]
theorem lanes_getD (v : VReg) (w i : Nat) (h : i < 4096 / w) : (lanes v w).getD i 0 = vElem v w i := by
  simp [lanes, splitNat, vElem, List.getD_eq_getElem?_getD, h]
theorem lanes_map {α : Type} (v : VReg) (w : Nat) (f : Nat → α) :
    (lanes v w).map f = (List.range (4096 / w)).map (fun j => f (vElem v w j)) := by
  simp [lanes, splitNat, vElem]
theorem zip_map {α : Type} (n : Nat) (f g : Nat → Nat) (h : Nat → Nat → α) :
    List.zipWith h ((List.range n).map f) ((List.range n).map g) = (List.range n).map (fun j => h (f j) (g j)) := by
  apply List.ext_getElem?
  intro i
  by_cases hi : i < n <;> simp [hi]

theorem vElem_lt (v : VReg) (w i : Nat) : vElem v w i < 2 ^ (8 * w) := Nat.mod_lt _ (Nat.two_pow_pos _)

/-- The elements after results have been merged in under the mask. -/
theorem mergeLanes_get (m : Mask) (w : Nat) : ∀ (old : List Nat) (new : List FRes) (i j : Nat), j < old.length →
    (mergeLanes m w i old new).1.getD j 0 =
      if j < new.length ∧ gated m w (i + j) = true then ((new.map FRes.bits).getD j 0) else old.getD j 0 := by
  intro old
  induction old with
  | nil => intro new i j h; simp at h
  | cons o os ih =>
    intro new i j h
    cases new with
    | nil => simp [mergeLanes]
    | cons r rs =>
      cases j with
      | zero => by_cases hg : gated m w i = true <;> simp [mergeLanes, hg]
      | succ j =>
        have := ih rs (i + 1) j (by simpa using h)
        have e : i + 1 + j = i + (j + 1) := by omega
        rw [e] at this
        by_cases hg : gated m w i = true <;> simpa [mergeLanes, hg] using this

/-- The flags of the merged results: those of the enabled ones that have an element. -/
theorem mergeLanes_flags (m : Mask) (w : Nat) (b : Nat) : ∀ (old : List Nat) (new : List FRes) (i : Nat),
    ((mergeLanes m w i old new).2.getLsbD b = true ↔
      ∃ j, ∃ h : j < new.length, j < old.length ∧ gated m w (i + j) = true ∧ new[j].fl.getLsbD b = true) := by
  intro old
  induction old with
  | nil => intro new i; simp [mergeLanes]
  | cons o os ih =>
    intro new i
    cases new with
    | nil => simp [mergeLanes]
    | cons r rs =>
      have hs := ih rs (i + 1)
      have step : (∃ j, ∃ h : j < (r :: rs).length, j < (o :: os).length ∧ gated m w (i + j) = true ∧ (r :: rs)[j].fl.getLsbD b = true) ↔
          ((gated m w i = true ∧ r.fl.getLsbD b = true) ∨
            ∃ j, ∃ h : j < rs.length, j < os.length ∧ gated m w (i + 1 + j) = true ∧ rs[j].fl.getLsbD b = true) := by
        constructor
        · rintro ⟨j, h1, h2, h3, h4⟩
          cases j with
          | zero => exact Or.inl ⟨by simpa using h3, by simpa using h4⟩
          | succ j =>
            refine Or.inr ⟨j, by simpa using h1, by simpa using h2, ?_, by simpa using h4⟩
            have e : i + (j + 1) = i + 1 + j := by omega
            rw [← e]; exact h3
        · rintro (⟨h1, h2⟩ | ⟨j, h1, h2, h3, h4⟩)
          · exact ⟨0, by simp, by simp, by simpa using h1, by simpa using h2⟩
          · refine ⟨j + 1, by simpa using h1, by simpa using h2, ?_, by simpa using h4⟩
            have e : i + (j + 1) = i + 1 + j := by omega
            rw [e]; exact h3
      rw [step, ← hs]
      by_cases hg : gated m w i = true
      · simp [mergeLanes, hg]
      · simp [mergeLanes, hg]

end Machine

/-- The model's mark is no part of what a vector write is said to change. -/
theorem OnlyVreg.mark {s t : State} {d : Nat} (h : OnlyVreg s t d) (l : Last) : OnlyVreg s { t with last := l } d where
  core := { module := by have := h.core.module; rw [this]; rfl, others := h.core.others }
  own := by
    have hf : ({ t with last := l } : State).focus = t.focus := rfl
    exact h.own
  others := h.others
  mine := h.mine
  rest := h.rest

/-- Nor is the model's note of the bytes that the operation covers. -/
theorem OnlyVreg.covers {s t : State} {d : Nat} (h : OnlyVreg s t d) (c : Option Mask) : OnlyVreg s (t.covers c) d where
  core := { module := by have := h.core.module; rw [this]; rfl, others := h.core.others }
  own := h.own
  others := h.others
  mine := h.mine
  rest := h.rest

/-- A context after a vector write: its producer table at most has changed. -/
theorem Machine.Core.ctx_setVreg (k : Core) (d : Nat) (v : VReg) (x : Nat) :
    (k.setVreg d v).ctx x = { k.ctx x with prods := ((k.setVreg d v).ctx x).prods } := by
  unfold Core.ctx Core.setVreg
  simp only
  generalize k.ctxs = cs
  have head (e : Nat × Ctx) (q : List (Nat × Ctx)) (h : e.1 = x) : Tab.get (e :: q) x Ctx.reset = e.2 := by
    simp [Tab.get, Tab.find, h]
  have tail (e : Nat × Ctx) (q : List (Nat × Ctx)) (h : e.1 ≠ x) : Tab.get (e :: q) x Ctx.reset = Tab.get q x Ctx.reset := by
    simp [Tab.get, Tab.find, h]
  induction cs with
  | nil => rfl
  | cons e r ih =>
    simp only [List.map_cons]
    by_cases he : e.1 = x
    · by_cases hp : e.2.prods.isEmpty
      · simp only [hp, if_true]; rw [head _ _ he, head _ _ he]
      · simp only [hp]; rw [head _ _ he, head _ _ (by exact he)]; rfl
    · by_cases hp : e.2.prods.isEmpty
      · simp only [hp, if_true]; rw [tail _ _ he, tail _ _ he]; exact ih
      · simp only [hp]; rw [tail _ _ he, tail _ _ (by exact he)]; exact ih

/-- A write of one vector register changes that register, the producer tables and nothing else. -/
theorem onlyVreg_setVreg (s : State) (d : Nat) (v : VReg) : OnlyVreg s (s.setVreg d v) d := by
  have hc : (s.setVreg d v).fcore = s.fcore.setVreg d v := State.fcore_modFCore s (fun k => k.setVreg d v)
  have hx (x : Nat) : (s.setVreg d v).ctx s.focus.core x =
      { s.ctx s.focus.core x with prods := ((s.setVreg d v).ctx s.focus.core x).prods } := by
    have h1 : (s.setVreg d v).ctx s.focus.core x = (s.fcore.setVreg d v).ctx x := congrArg (fun k => Core.ctx k x) hc
    rw [h1]; exact Core.ctx_setVreg s.fcore d v x
  refine ⟨⟨rfl, fun c h => State.core_setCore_ne s s.focus.core c _ h⟩, ?_, ?_, ?_, fun x _ => hx x⟩
  · rw [hc]; rfl
  · intro p hp
    rw [hc]
    simp [Core.vreg, Core.setVreg, Tab.get_set_ne _ _ _ _ _ hp]
  · have hm : (s.setVreg d v).fctx = { s.fctx with prods := (s.setVreg d v).fctx.prods } := hx s.focus.ctx
    have hf : (s.setVreg d v).fctx.flags = s.fctx.flags := by rw [hm]
    rw [hf]; exact hm

theorem vreg_setVreg (s : State) (d : Nat) (v : VReg) : (s.setVreg d v).fcore.vreg d = v := by
  have hc : (s.setVreg d v).fcore = s.fcore.setVreg d v := State.fcore_modFCore s (fun k => k.setVreg d v)
  rw [hc]; simp [Core.vreg, Core.setVreg]

/-- Flags raised behind a vector write. -/
theorem OnlyVreg.raise {s t : State} {d : Nat} (h : OnlyVreg s t d) (hf : t.fctx.flags = s.fctx.flags) (hk : t.fcore.clock = s.fcore.clock)
    (hs : t.focus = s.focus) (lat : Nat) (f : Fl) :
    OnlyVreg s (t.raiseFlags lat f) d ∧ FlagsRaised s (t.raiseFlags lat f) lat f ∧ (t.raiseFlags lat f).fcore.vreg d = t.fcore.vreg d := by
  by_cases h0 : f = 0
  · subst h0
    exact ⟨h, by simpa [FlagsRaised, State.raiseFlags] using hf, rfl⟩
  · have hr : t.raiseFlags lat f = t.modF (fun k => { k with flags := k.flags ++ [(t.fcore.clock + lat, f)] }) := by
      unfold State.raiseFlags; rw [if_neg h0]
    have hc : (t.raiseFlags lat f).fctx = { t.fctx with flags := t.fctx.flags ++ [(t.fcore.clock + lat, f)] } := by
      rw [hr]; exact State.fctx_modF t _
    have hk2 : (t.raiseFlags lat f).fcore = t.fcore.setCtx t.focus.ctx { t.fctx with flags := t.fctx.flags ++ [(t.fcore.clock + lat, f)] } := by
      rw [hr]; exact State.core_setCore_self t t.focus.core _
    have hv (p : Nat) : (t.raiseFlags lat f).fcore.vreg p = t.fcore.vreg p := by
      rw [hk2]; rfl
    have ho (x : Nat) (hx : x ≠ s.focus.ctx) : (t.raiseFlags lat f).ctx s.focus.core x = t.ctx s.focus.core x := by
      rw [hr]; exact State.ctx_setCtx_other t _ _ _ _ _ (Or.inr (hs ▸ hx))
    refine ⟨⟨⟨?_, fun c hc2 => ?_⟩, ?_, fun p hp => (hv p).trans (h.others p hp), ?_, fun x hx => ?_⟩, ?_, hv d⟩
    · have hm := h.core.module
      rw [hr]
      show ({ t with cores := _ } : State) = _
      rw [hm]; rfl
    · rw [hr]
      exact (State.core_setCore_ne t _ _ _ (hs ▸ hc2)).trans (h.core.others c hc2)
    · rw [hk2]
      have ho2 := h.own
      show ({ t.fcore with ctxs := _ } : Core) = _
      rw [ho2]; rfl
    · rw [hc]
      have hm := h.mine
      show ({ t.fctx with flags := _ } : Ctx) = _
      rw [hm]
    · rw [ho x hx]; exact h.rest x hx
    · unfold FlagsRaised; rw [hc, if_neg h0]; simp only; rw [hf, hk]

/-- EVERYTHING THAT A WRITE OF VECTOR ELEMENTS DOES: the operation whose result is `laneWrite` of the results `f 0` to `f (n - 1)`. -/
theorem lanesBecome_of (i : Instr) (s : State) (d w n lat : Nat) (f : Nat → FRes) (hn : n ≤ 4096 / w)
    (h : exec i s = .next { s.laneWrite d w lat ((List.range n).map f) with last := .issued }) : LanesBecome i s d w n lat f := by
  let rs := (List.range n).map f
  let xs := mergeLanes s.mask w 0 (lanes (s.vreg d) w) rs
  have hl : s.laneWrite d w lat rs = ((s.setVreg d (ofLanes w xs.1)).raiseFlags lat xs.2).covers (s.enables w rs.length) := rfl
  have h1 := onlyVreg_setVreg s d (ofLanes w xs.1)
  have hcf : (s.setVreg d (ofLanes w xs.1)).fcore = s.fcore.setVreg d (ofLanes w xs.1) :=
    State.fcore_modFCore s (fun k => k.setVreg d (ofLanes w xs.1))
  have hff : (s.setVreg d (ofLanes w xs.1)).fctx.flags = s.fctx.flags := by
    have : (s.setVreg d (ofLanes w xs.1)).fctx = (s.fcore.setVreg d (ofLanes w xs.1)).ctx s.focus.ctx :=
      congrArg (fun k => Core.ctx k s.focus.ctx) hcf
    rw [this, Core.ctx_setVreg]; rfl
  obtain ⟨r1, r2, r3⟩ := h1.raise hff (by rw [hcf]; rfl) rfl lat xs.2
  refine ⟨_, xs.2, h, rfl, (hl ▸ r1.covers _).mark .issued, ?_, ?_, ?_⟩
  · show FlagsRaised s (s.laneWrite d w lat rs) lat xs.2
    rw [hl]; exact r2
  · intro j hj
    have hv : ({ s.laneWrite d w lat rs with last := .issued } : State).fcore.vreg d = ofLanes w xs.1 := by
      show (s.laneWrite d w lat rs).fcore.vreg d = _
      rw [hl]; exact r3.trans (vreg_setVreg s d _)
    show vElem (({ s.laneWrite d w lat rs with last := .issued } : State).fcore.vreg d) w j = _
    rw [hv, vElem_ofLanes w j _ hj, mergeLanes_get s.mask w (lanes (s.vreg d) w) rs 0 j (by rw [lanes_length]; exact hj)]
    have hg : gated s.mask w (0 + j) = s.mask.getLsbD (j * w) := by simp [gated]
    rw [hg]
    by_cases hc : j < n ∧ s.mask.getLsbD (j * w) = true
    · rw [if_pos hc, if_pos (by simpa [rs] using hc)]
      have : (rs.map FRes.bits).getD j 0 = (f j).bits := by simp [rs, hc.1]
      rw [this]
    · rw [if_neg hc, if_neg (by simpa [rs] using hc), lanes_getD _ _ _ hj]
      exact Nat.mod_eq_of_lt (vElem_lt _ _ _)
  · intro b _
    have := mergeLanes_flags s.mask w b (lanes (s.vreg d) w) rs 0
    rw [show xs.2.getLsbD b = (mergeLanes s.mask w 0 (lanes (s.vreg d) w) rs).2.getLsbD b from rfl, this]
    constructor
    · rintro ⟨j, h1, h2, h3, h4⟩
      exact ⟨j, by simpa [rs] using h1, by simpa [gated] using h3, by simpa [rs] using h4⟩
    · rintro ⟨j, h1, h2, h3⟩
      exact ⟨j, by simpa [rs] using h1, by rw [lanes_length]; omega, by simpa [gated] using h2, by simpa [rs] using h3⟩

end Sys2Proof
end

