-- ==== Sys2Proof/Laws/Memory.lean ====
section
/-! SUPPORT. The laws of memory: a read after a write, bytes that a write leaves alone, and the canonical form, which every memory
operation keeps. -/

namespace Sys2Proof.Machine

/-- The canonical form as two conditions: rising addresses, nonzero bytes. -/
theorem Memory.wf_iff (m : List Host.Cell) :
    Memory.wf m = true ↔ m.Pairwise (fun c d => c.1 < d.1) ∧ ∀ c ∈ m, c.2 ≠ 0 := by
  induction m with
  | nil => simp [Memory.wf]
  | cons c r ih =>
    cases r with
    | nil => simp [Memory.wf]
    | cons d r =>
      simp only [Memory.wf, Bool.and_eq_true, decide_eq_true_eq, ih, List.mem_cons, List.pairwise_cons]
      constructor
      · rintro ⟨⟨h1, h2⟩, h3, h4⟩
        refine ⟨⟨?_, h3⟩, ?_⟩
        · rintro e (rfl | he)
          · exact h1
          · exact lt_trans h1 (h3.1 e he)
        · rintro e (rfl | he)
          · simpa using h2
          · exact h4 e he
      · rintro ⟨⟨h1, h3⟩, h4⟩
        exact ⟨⟨h1 d (Or.inl rfl), by simpa using h4 c (Or.inl rfl)⟩, h3, fun e he => h4 e (Or.inr he)⟩

/-- An address that no entry has reads 0. -/
theorem Memory.byte_unlisted (m : List Host.Cell) (x : Nat) (h : ∀ c ∈ m, c.1 ≠ x) : Memory.byte m x = 0 := by
  induction m with
  | nil => rfl
  | cons c r ih =>
    simp only [Memory.byte]
    rw [if_neg (h c (by simp))]
    exact ih (fun d hd => h d (by simp [hd]))

theorem Memory.byte_append_left (l r : List Host.Cell) (x : Nat) (h : ∀ c ∈ r, c.1 ≠ x) :
    Memory.byte (l ++ r) x = Memory.byte l x := by
  induction l with
  | nil => simpa [Memory.byte] using Memory.byte_unlisted r x h
  | cons c l ih => simp [Memory.byte, ih]

theorem Memory.byte_append_right (l r : List Host.Cell) (x : Nat) (h : ∀ c ∈ l, c.1 ≠ x) :
    Memory.byte (l ++ r) x = Memory.byte r x := by
  induction l with
  | nil => rfl
  | cons c l ih =>
    have hc : c.1 ≠ x := h c (by simp)
    simp only [List.cons_append, Memory.byte, if_neg hc]
    exact ih (fun d hd => h d (by simp [hd]))

theorem Memory.byte_filter (m : List Host.Cell) (p : Nat → Bool) (x : Nat) (h : p x = true) :
    Memory.byte (m.filter (fun c => p c.1)) x = Memory.byte m x := by
  induction m with
  | nil => rfl
  | cons c r ih =>
    by_cases hp : p c.1 = true
    · rw [List.filter_cons_of_pos (by simpa using hp)]
      simp [Memory.byte, ih]
    · rw [List.filter_cons_of_neg (by simpa using hp), ih]
      have : c.1 ≠ x := fun e => hp (e ▸ h)
      simp [Memory.byte, this]

theorem Memory.cells_range (n : Nat) : ∀ (a v : Nat), ∀ c ∈ Memory.cells a n v, a ≤ c.1 ∧ c.1 < a + n ∧ c.2 ≠ 0 := by
  induction n with
  | zero => simp [Memory.cells]
  | succ n ih =>
    intro a v c hc
    simp only [Memory.cells] at hc
    split at hc
    · obtain ⟨h1, h2, h3⟩ := ih _ _ c hc
      exact ⟨by omega, by omega, h3⟩
    · next hb =>
      rcases List.mem_cons.1 hc with rfl | hc
      · exact ⟨le_refl _, by simp, hb⟩
      · obtain ⟨h1, h2, h3⟩ := ih _ _ c hc
        exact ⟨by omega, by omega, h3⟩

theorem Memory.cells_pairwise (n : Nat) : ∀ (a v : Nat), (Memory.cells a n v).Pairwise (fun c d => c.1 < d.1) := by
  induction n with
  | zero => simp [Memory.cells]
  | succ n ih =>
    intro a v
    simp only [Memory.cells]
    split
    · exact ih _ _
    · refine List.pairwise_cons.2 ⟨fun c hc => ?_, ih _ _⟩
      have := (Memory.cells_range n _ _ c hc).1
      simp only; omega

/-- The byte that the cells of `v` hold at each address. -/
theorem Memory.byte_cells (n : Nat) : ∀ (a v x : Nat), a ≤ x → x < a + n →
    Memory.byte (Memory.cells a n v) x = BitVec.ofNat 8 (v >>> (8 * (x - a))) := by
  induction n with
  | zero => intro a v x h1 h2; omega
  | succ n ih =>
    intro a v x h1 h2
    simp only [Memory.cells]
    by_cases hx : x = a
    · subst x
      split
      · next hb =>
        rw [Memory.byte_unlisted _ _ (fun c hc => by have := (Memory.cells_range n _ _ c hc).1; omega)]
        simpa using hb.symm
      · simp [Memory.byte]
    · have hs : v >>> 8 >>> (8 * (x - (a + 1))) = v >>> (8 * (x - a)) := by
        rw [← Nat.shiftRight_add]; congr 1; omega
      have hi := ih (a + 1) (v >>> 8) x (by omega) (by omega)
      rw [hs] at hi
      split
      · exact hi
      · simpa [Memory.byte, Ne.symm hx] using hi

/-- A byte written is read back (R1). -/
theorem Memory.byte_write_inside (m : List Host.Cell) (a n v x : Nat) (h1 : a ≤ x) (h2 : x < a + n) :
    Memory.byte (Memory.write m a n v) x = BitVec.ofNat 8 (v >>> (8 * (x - a))) := by
  unfold Memory.write
  rw [Memory.byte_append_left, Memory.byte_append_right, Memory.byte_cells n a v x h1 h2]
  · intro c hc; have := (List.mem_filter.1 hc).2; simp at this; omega
  · intro c hc; have := (List.mem_filter.1 hc).2; simp at this; omega

/-- A write leaves every other byte alone. -/
theorem Memory.byte_write_outside (m : List Host.Cell) (a n v x : Nat) (h : x < a ∨ a + n ≤ x) :
    Memory.byte (Memory.write m a n v) x = Memory.byte m x := by
  unfold Memory.write
  rcases h with h | h
  · rw [Memory.byte_append_left, Memory.byte_append_left, Memory.byte_filter m (fun k => decide (k < a)) x (by simpa using h)]
    · intro c hc; have := (Memory.cells_range n a v c hc).1; omega
    · intro c hc; have := (List.mem_filter.1 hc).2; simp at this; omega
  · rw [Memory.byte_append_right, Memory.byte_filter m (fun k => decide (a + n ≤ k)) x (by simpa using h)]
    intro c hc
    rcases List.mem_append.1 hc with hc | hc
    · have := (List.mem_filter.1 hc).2; simp at this; omega
    · have := (Memory.cells_range n a v c hc).2.1; omega

/-- A write keeps the canonical form. -/
theorem Memory.wf_write (m : List Host.Cell) (a n v : Nat) (h : Memory.wf m = true) : Memory.wf (Memory.write m a n v) = true := by
  rw [Memory.wf_iff] at h ⊢
  obtain ⟨hp, hz⟩ := h
  have hf (p : Host.Cell → Bool) : (m.filter p).Pairwise (fun c d => c.1 < d.1) := hp.sublist List.filter_sublist
  unfold Memory.write
  constructor
  · rw [List.pairwise_append, List.pairwise_append]
    refine ⟨⟨hf _, Memory.cells_pairwise n a v, ?_⟩, hf _, ?_⟩
    · intro c hc d hd
      have h1 := (List.mem_filter.1 hc).2; simp at h1
      have h2 := (Memory.cells_range n a v d hd).1
      omega
    · intro c hc d hd
      have h2 := (List.mem_filter.1 hd).2; simp at h2
      rcases List.mem_append.1 hc with hc | hc
      · have h1 := (List.mem_filter.1 hc).2; simp at h1; omega
      · have h1 := (Memory.cells_range n a v c hc).2.1; omega
  · intro c hc
    rcases List.mem_append.1 hc with hc | hc
    · rcases List.mem_append.1 hc with hc | hc
      · exact hz c (List.mem_filter.1 hc).1
      · exact (Memory.cells_range n a v c hc).2.2
    · exact hz c (List.mem_filter.1 hc).1

/-- Clearing keeps the canonical form. -/
theorem Memory.wf_clear (m : List Host.Cell) (lo hi : Nat) (h : Memory.wf m = true) : Memory.wf (Memory.clear m lo hi) = true := by
  rw [Memory.wf_iff] at h ⊢
  exact ⟨h.1.sublist List.filter_sublist, fun c hc => h.2 c (List.mem_filter.1 hc).1⟩

/-- Cleared bytes read 0, the others as before. -/
theorem Memory.byte_clear (m : List Host.Cell) (lo hi x : Nat) :
    Memory.byte (Memory.clear m lo hi) x = if lo ≤ x ∧ x < hi then 0 else Memory.byte m x := by
  unfold Memory.clear
  split
  · next h =>
    refine Memory.byte_unlisted _ _ (fun c hc => ?_)
    have := (List.mem_filter.1 hc).2; simp at this; omega
  · next h =>
    exact Memory.byte_filter m (fun k => decide (k < lo) || decide (hi ≤ k)) x (by simp; omega)

@[simp] theorem State.byte_writeMem_inside (s : State) (a n v x : Nat) (h1 : a ≤ x) (h2 : x < a + n) :
    (s.writeMem a n v).byte x = BitVec.ofNat 8 (v >>> (8 * (x - a))) := Memory.byte_write_inside s.mem a n v x h1 h2
theorem State.byte_writeMem_outside (s : State) (a n v x : Nat) (h : x < a ∨ a + n ≤ x) :
    (s.writeMem a n v).byte x = s.byte x := Memory.byte_write_outside s.mem a n v x h

/-! ## Reading numbers -/

theorem Memory.read_append (l r : List Host.Cell) (a n : Nat) :
    Memory.read (l ++ r) a n = Memory.read l a n + Memory.read r a n := by
  induction l with
  | nil => simp [Memory.read]
  | cons c l ih =>
    simp only [List.cons_append, Memory.read]
    split
    · rw [ih]; omega
    · exact ih

theorem Memory.read_none (m : List Host.Cell) (a n : Nat) (h : ∀ c ∈ m, ¬ (a ≤ c.1 ∧ c.1 < a + n)) : Memory.read m a n = 0 := by
  induction m with
  | nil => rfl
  | cons c r ih =>
    simp only [Memory.read]
    rw [if_neg (h c (by simp))]
    exact ih (fun d hd => h d (by simp [hd]))

/-- The number that the cells of `v` read as is `v`, cut to their bytes. -/
theorem Memory.read_cells (n : Nat) : ∀ (a v : Nat), Memory.read (Memory.cells a n v) a n = v % 2 ^ (8 * n) := by
  induction n with
  | zero => intro a v; simp [Memory.cells, Memory.read, Nat.mod_one]
  | succ n ih =>
    intro a v
    have shift : ∀ (m : List Host.Cell), (∀ c ∈ m, a + 1 ≤ c.1) →
        Memory.read m a (n + 1) = Memory.read m (a + 1) n * 256 := by
      intro m
      induction m with
      | nil => intro _; simp [Memory.read]
      | cons c r ihm =>
        intro hc
        have h1 : a + 1 ≤ c.1 := hc c (by simp)
        have h2 := ihm (fun d hd => hc d (by simp [hd]))
        simp only [Memory.read, h2]
        by_cases hr : c.1 < a + (n + 1)
        · rw [if_pos ⟨by omega, hr⟩, if_pos ⟨h1, by omega⟩]
          have : 8 * (c.1 - a) = 8 * (c.1 - (a + 1)) + 8 := by omega
          rw [this, Nat.shiftLeft_add, Nat.shiftLeft_eq _ 8]
          ring
        · rw [if_neg (by omega), if_neg (by omega)]
    have low : ∀ c ∈ Memory.cells (a + 1) n (v >>> 8), a + 1 ≤ c.1 := fun c hc => (Memory.cells_range n _ _ c hc).1
    have hv : v % 2 ^ (8 * (n + 1)) = v % 256 + (v >>> 8 % 2 ^ (8 * n)) * 256 := by
      have : 8 * (n + 1) = 8 + 8 * n := by ring
      rw [this, Nat.pow_add, Nat.mod_mul, Nat.shiftRight_eq_div_pow]
      ring
    simp only [Memory.cells]
    split
    · next hb =>
      rw [shift _ low, ih, hv]
      have : v % 256 = 0 := by simpa using congrArg BitVec.toNat hb
      omega
    · simp only [Memory.read]
      rw [if_pos ⟨le_refl _, by omega⟩, shift _ low, ih, hv]
      simp

/-- A number written is read back, whatever memory held (R1). -/
theorem Memory.read_write (m : List Host.Cell) (a n v : Nat) : Memory.read (Memory.write m a n v) a n = v % 2 ^ (8 * n) := by
  unfold Memory.write
  rw [Memory.read_append, Memory.read_append, Memory.read_cells, Memory.read_none _ _ _ (fun c hc => ?_),
    Memory.read_none (m.filter (fun c => decide (a + n ≤ c.1))) _ _ (fun c hc => ?_)]
  · omega
  · have := (List.mem_filter.1 hc).2; simp at this; omega
  · have := (List.mem_filter.1 hc).2; simp at this; omega

/-- A read apart from a write sees what was there. -/
theorem Memory.read_write_apart (m : List Host.Cell) (a n v b k : Nat) (h : b + k ≤ a ∨ a + n ≤ b) :
    Memory.read (Memory.write m a n v) b k = Memory.read m b k := by
  have split2 : ∀ (l : List Host.Cell), Memory.read (l.filter (fun c => decide (c.1 < a))) b k +
      Memory.read (l.filter (fun c => decide (a + n ≤ c.1))) b k = Memory.read l b k := by
    intro l
    induction l with
    | nil => simp [Memory.read]
    | cons c r ih =>
      by_cases h1 : c.1 < a
      · have h2 : ¬ a + n ≤ c.1 := by omega
        rw [List.filter_cons_of_pos (by simpa using h1), List.filter_cons_of_neg (by simpa using h2)]
        simp only [Memory.read, ← ih]
        split
        · omega
        · rfl
      · by_cases h2 : a + n ≤ c.1
        · rw [List.filter_cons_of_neg (by simpa using h1), List.filter_cons_of_pos (by simpa using h2)]
          simp only [Memory.read, ← ih]
          split
          · omega
          · rfl
        · rw [List.filter_cons_of_neg (by simpa using h1), List.filter_cons_of_neg (by simpa using h2), ih]
          simp only [Memory.read]
          rw [if_neg (by omega)]
  unfold Memory.write
  rw [Memory.read_append, Memory.read_append, Memory.read_none (Memory.cells a n v) _ _ (fun c hc => by
    have := Memory.cells_range n a v c hc; omega)]
  have := split2 m
  omega

/-- Byte `j` of a number read from memory in canonical form is the byte at that address (R1). -/
theorem Memory.read_byte (m : List Host.Cell) (h : Memory.wf m = true) : ∀ (a n j : Nat), j < n →
    BitVec.ofNat 8 (Memory.read m a n >>> (8 * j)) = Memory.byte m (a + j) := by
  rw [Memory.wf_iff] at h
  obtain ⟨hp, -⟩ := h
  induction m with
  | nil => intro a n j _; simp [Memory.read, Memory.byte]
  | cons c r ih =>
    intro a n j hj
    obtain ⟨h1, h2⟩ := List.pairwise_cons.1 hp
    have ihr := ih h2
    -- every later entry lies above `c`
    have low : ∀ (l : List Host.Cell), (∀ d ∈ l, c.1 < d.1) → a ≤ c.1 → ∃ q, Memory.read l a n = q * 2 ^ (8 * (c.1 - a) + 8) := by
      intro l
      induction l with
      | nil => intro _ _; exact ⟨0, by simp [Memory.read]⟩
      | cons d l ihl =>
        intro hd ha
        obtain ⟨q, hq⟩ := ihl (fun e he => hd e (by simp [he])) ha
        simp only [Memory.read]
        split
        · have hlt := hd d (by simp)
          refine ⟨d.2.toNat * 2 ^ (8 * (d.1 - a) - (8 * (c.1 - a) + 8)) + q, ?_⟩
          rw [hq, Nat.shiftLeft_eq, Nat.add_mul, Nat.mul_assoc, ← Nat.pow_add]
          congr 3
          omega
        · exact ⟨q, hq⟩
    simp only [Memory.read, Memory.byte]
    by_cases hr : a ≤ c.1 ∧ c.1 < a + n
    · rw [if_pos hr]
      obtain ⟨q, hq⟩ := low r (fun d hd => h1 d hd) hr.1
      by_cases he : c.1 = a + j
      · rw [if_pos he, hq]
        have e8 : c.1 - a = j := by omega
        rw [e8, Nat.shiftLeft_eq, Nat.shiftRight_eq_div_pow, Nat.pow_add]
        have : c.2.toNat * 2 ^ (8 * j) + q * (2 ^ (8 * j) * 2 ^ 8) = 2 ^ (8 * j) * (c.2.toNat + q * 256) := by ring
        rw [this, Nat.mul_div_cancel_left _ (Nat.two_pow_pos _)]
        apply BitVec.eq_of_toNat_eq
        have := c.2.isLt
        simp only [BitVec.toNat_ofNat]
        omega
      · rw [if_neg he, ← ihr a n j hj]
        apply BitVec.eq_of_toNat_eq
        simp only [BitVec.toNat_ofNat]
        rw [hq]
        have hc := c.2.isLt
        have hd : c.1 - a ≠ j := by omega
        generalize c.1 - a = d at hd
        have sum : c.2.toNat <<< (8 * d) + q * 2 ^ (8 * d + 8) = 2 ^ (8 * d) * (c.2.toNat + q * 256) := by
          rw [Nat.shiftLeft_eq, Nat.pow_add]; ring
        have one : q * 2 ^ (8 * d + 8) = 2 ^ (8 * d) * (q * 256) := by rw [Nat.pow_add]; ring
        rw [sum, one]
        simp only [Nat.shiftRight_eq_div_pow]
        rcases Nat.lt_or_gt_of_ne hd with hlt | hlt
        · obtain ⟨e, rfl⟩ : ∃ e, j = d + 1 + e := ⟨j - (d + 1), by omega⟩
          have hp2 : 2 ^ (8 * (d + 1 + e)) = 2 ^ (8 * d) * (256 * 2 ^ (8 * e)) := by
            rw [show 8 * (d + 1 + e) = 8 * d + (8 + 8 * e) by ring, Nat.pow_add, Nat.pow_add]
          rw [hp2, Nat.mul_div_mul_left _ _ (Nat.two_pow_pos _), Nat.mul_div_mul_left _ _ (Nat.two_pow_pos _),
            ← Nat.div_div_eq_div_mul, ← Nat.div_div_eq_div_mul]
          have : (c.2.toNat + q * 256) / 256 = q * 256 / 256 := by omega
          rw [this]
        · obtain ⟨e, rfl⟩ : ∃ e, d = j + 1 + e := ⟨d - (j + 1), by omega⟩
          have hp2 (y : Nat) : 2 ^ (8 * (j + 1 + e)) * y = 2 ^ (8 * j) * (256 * (2 ^ (8 * e) * y)) := by
            rw [show 8 * (j + 1 + e) = 8 * j + (8 + 8 * e) by ring, Nat.pow_add, Nat.pow_add]; ring
          rw [hp2, hp2, Nat.mul_div_cancel_left _ (Nat.two_pow_pos _), Nat.mul_div_cancel_left _ (Nat.two_pow_pos _)]
          omega
    · rw [if_neg hr]
      have hne : c.1 ≠ a + j := by omega
      rw [if_neg hne]
      exact ihr a n j hj

end Sys2Proof.Machine
end

