-- ==== Sys2Proof/Tests/Slice0.lean ====
section
/-! SUPPORT. Tests: ill-formed operations, words written out from the spec's encodings, single steps with results from the spec, and
for the statements a state that meets their hypotheses. -/

namespace Sys2Proof.Tests

open Sys2Proof Sys2Proof.Machine

-- The tests are elaborated one after another: side by side they would take many gigabytes of stacks.
set_option Elab.async false

/-! ## Static limits (R52, R106, R192, R283 to R293): one operation for each limit, which the check refuses -/

def refused (is : List Instr) : Bool := is.all (fun i => !i.wellFormed)

theorem test_ill_formed_x : refused
    [.hdr 0 0 1 0 0 0 0, .shlImm 1 2 64, .shrImm 1 2 64, .sraImm 1 2 4095, .cmpReg 1 2 6 3, .cmpImm 1 2 7 0, .li 80 0, .lih 127 0 0,
     .mov 80 0, .mov 0 80, .bitc 1 2 3, .bfx 1 2 63 1 0, .bfi 1 2 1 63, .br 1 7 0 0, .br 1 6 0 0, .loopImm 1 0, .loopReg 1 0,
     .breakOp 0, .breakOp 7, .fence 1 1 7, .drain 7, .recon 1 2 3] = true := by decide

theorem test_ill_formed_v_float : refused
    [.vadd 1 2 3 3, .vsub 1 2 3 4, .vmul 1 2 3 5, .vfma 1 2 3 6, .vfms 1 2 3 7, .vmax 1 2 3 3, .vmin 1 2 3 3, .vabs 1 2 3, .vneg 1 2 3,
     .vrcp 1 2 3, .vrsq 1 2 3, .vsqrt 1 2 3, .vexp2 1 2 3, .vlog2 1 2 3, .vtanh 1 2 7, .vscl 1 2 3 3] = true := by decide

theorem test_ill_formed_v_other : refused
    [.viadd 1 2 3 4, .visub 1 2 3 0, .vimul 1 2 3 1, .vshl 1 2 3 2, .vshr 1 2 3 3, .vsra 1 2 3 4, .vcmp 1 2 3 0 0, .vcmp 1 2 0 0 6,
     .vcmp 1 2 0 1 0, .vcvt 1 2 0 1 0 1, .vcvt 1 2 0 7 1 0, .vred 1 2 3 0, .vred 1 2 0 3, .viota 1 4] = true := by decide

theorem test_ill_formed_tiles : refused
    [.tadd 1 2 3 5 0, .tmul 1 2 3 0 7, .tscale 1 2 3 6 0, .tbias 1 2 3 7 0, .trelu 1 2 5 0, .tgelu 1 2 0 7, .tsilu 1 2 5 0, .texp 1 2 0 7,
     .tsoftmax 1 2 5 0, .trmsn 1 2 3 4 3, .tmask 1 2 3 4 3, .ttrans 1 2 0 1, .ttrans 1 2 4 4, .tcvt 1 2 0 7] = true := by decide

theorem test_ill_formed_m_and_l : refused
    [.mpush 0 0 7 1 0 0, .mpush 0 0 5 0 0 0, .mpush 0 0 0 0 0 1, .mshift 0 5 0, .mdrain 0 0 0 16 0, .mdrain 0 0 0 32 1, .sld 1 2 4 0 0,
     .sst 1 2 7 0, .spl 80 0, .sps 127 0, .scale 0 1 0, .scale 65 1 0, .wmark 1 2 8, .amin 1 2 3 0 3, .amin 1 2 3 1 2, .amax 1 2 3 0 7,
     .amax 1 2 3 1 2, .alogic 1 2 3 0 3, .copy 0 0 0 0 16, .cslice 0 0 0 0 63, .stream 0 0 0 0 16, .npost 0 0 0 0 16, .pldec 0 0 0 0 16,
     .pland 0 0 0 0 16, .plor 0 0 0 0 16, .pltopk 0 0 0 0 16, .plfuse 0 0 0 0 16, .egq 0 0 0 0 16] = true := by decide

/-! ## Decoding: words written out field by field from the formats of the spec, every field at a value of its own -/

/-- Every word is read in slot `k` as the operation beside it. -/
def reads (k : Nat) (ws : List (SlotWord × Instr)) : Bool :=
  ws.all (fun e =>
    match decodeSlot k e.1 with
    | .ok i => i = e.2
    | .error _ => false)

/-- No word is an operation of slot `k`. -/
def rejects (k : Nat) (ws : List SlotWord) : Bool := ws.all (fun w => !(decodes k w))

/-- Format XA with I = 0 (R286, R287). -/
theorem test_words_xa_registers : reads 0 (
    [(0x051A0240#32, .addReg 17 40 9), (0x092A4280#32, .subReg 18 41 10), (0x0D3A82C0#32, .mulReg 19 42 11),
    (0x114AD300#32, .mulhReg 20 43 1 12), (0x155B0340#32, .divReg 21 44 0 13), (0x196B5380#32, .remReg 22 45 1 14),
    (0x1D7B83C0#32, .andReg 23 46 15), (0x218BC400#32, .orReg 24 47 16), (0x259C0440#32, .xorReg 25 48 17),
    (0x29AC4480#32, .shlReg 26 49 18), (0x2DBC84C0#32, .shrReg 27 50 19), (0x31CCC500#32, .sraReg 28 51 20),
    (0x35DD0540#32, .minReg 29 52 0 21), (0x39ED5580#32, .maxReg 30 53 1 22)]) = true := by decide

/-- Format XA with I = 1 (R286, R287). -/
theorem test_words_xa_immediates : reads 0 (
    [(0x051A2ABC#32, .addImm 17 40 2748), (0x092A6ABB#32, .subImm 18 41 2747), (0x0D3AAABA#32, .mulImm 19 42 2746),
    (0x114AFAB9#32, .mulhImm 20 43 1 2745), (0x155B2AB8#32, .divImm 21 44 0 2744), (0x196B7AB7#32, .remImm 22 45 1 2743),
    (0x1D7BAAB6#32, .andImm 23 46 2742), (0x218BEAB5#32, .orImm 24 47 2741), (0x259C2AB4#32, .xorImm 25 48 2740),
    (0x29AC602A#32, .shlImm 26 49 42), (0x2DBCA02B#32, .shrImm 27 50 43), (0x31CCE02C#32, .sraImm 28 51 44),
    (0x35DD2AB0#32, .minImm 29 52 0 2736), (0x39ED7AAF#32, .maxImm 30 53 1 2735)]) = true := by decide

/-- Formats XC, XS, XL, XH, XM, XB and BITC (R286, R287). -/
theorem test_words_x_moves : reads 0 (
    [(0x3C3A57C0#32, .cmpReg 3 41 5 60), (0x3C3A72A5#32, .cmpImm 3 41 4 677), (0x401893D0#32, .sel 1 34 19 52),
    (0x4615A5A5#32, .li 66 370085), (0x4A0F7DDE#32, .lih 65 3 48879), (0x4E18A000#32, .mov 67 10),
    (0x5020C001#32, .bitc 2 3 1), (0x5431082E#32, .bfx 3 4 8 11 1), (0x5851A178#32, .bfi 5 6 33 30)]) = true := by decide

/-- Formats XBR, XJ and XLP, BREAK, BRKM and ERET (R286, R287). -/
theorem test_words_x_transfers : reads 0 (
    [(0x607BFFFC#32, .br 7 5 1 65532), (0x65234567#32, .jmpRel 19088743), (0x66A00000#32, .jmpReg 20),
    (0x68000004#32, .callRel 4), (0x6AA00000#32, .callReg 20), (0x6FF00000#32, .ret 63), (0x73003802#32, .loopImm 4099 2050),
    (0x70480002#32, .loopReg 9 2), (0x77000000#32, .breakOp 6), (0x78000008#32, .brkm 8), (0x7C000000#32, .eret)]) = true := by decide

/-- Format XN (R287), FENCE, DRAIN, the operations of record mode, RELEASE and VETO, and the header (R52, R185, R188, R230, R231, R239, R266). -/
theorem test_words_x_system : reads 0 (
    [(0x00000000#32, .nop), (0xFF20A63F#32, .hdr 1 1 32 2 9 17 31), (0x80000000#32, .yield), (0x84000000#32, .endOp),
    (0x88000007#32, .trap 7), (0x8C000000#32, .dbgbrk), (0x90040838#32, .wait 1 2 3 2), (0x94900400#32, .csrr 9 4),
    (0x98300400#32, .csrw 3 4), (0x9C000000#32, .gsync), (0xA0600000#32, .signal 6), (0xA4C00000#32, .launch 12),
    (0xD0212000#32, .fence 2 4 4), (0xD6800000#32, .drain 5), (0xD8A2C000#32, .recon 10 11 0), (0xDC000000#32, .recoff),
    (0xE0C00000#32, .reverse 12), (0xE4414000#32, .release 4 5), (0xE8414000#32, .veto 4 5)]) = true := by decide

/-- Format VR: float, unary, integer and bitwise operations (R289, R290). -/
theorem test_words_v_lanes : reads 1 (
    [(0x04487200#32, .vadd 4 33 50 0), (0x0858B120#32, .vsub 5 34 49 1), (0x0C68F040#32, .vmul 6 35 48 2),
    (0x10792F00#32, .vfma 7 36 47 0), (0x14896E20#32, .vfms 8 37 46 1), (0x1899AD40#32, .vmax 9 38 45 2),
    (0x1CA9EC00#32, .vmin 10 39 44 0), (0x20484000#32, .vabs 4 33 0), (0x24588020#32, .vneg 5 34 1),
    (0x2868C040#32, .vrcp 6 35 2), (0x2C790000#32, .vrsq 7 36 0), (0x30894020#32, .vsqrt 8 37 1),
    (0x34998040#32, .vexp2 9 38 2), (0x38A9C000#32, .vlog2 10 39 0), (0x3CBA0020#32, .vtanh 11 40 1),
    (0x404872A0#32, .viadd 4 33 50 5), (0x4458B1C0#32, .visub 5 34 49 6), (0x4868F0E0#32, .vimul 6 35 48 7),
    (0x4C792FA0#32, .vand 7 36 47 5), (0x50896EC0#32, .vor 8 37 46 6), (0x5499ADE0#32, .vxor 9 38 45 7),
    (0x58A9ECA0#32, .vshl 10 39 44 5), (0x5CBA2BC0#32, .vshr 11 40 43 6), (0x60CA6AE0#32, .vsra 12 41 42 7)]) = true := by decide

/-- Format VR: comparisons, conversions, movement and masks (R290). -/
theorem test_words_v_moves : reads 1 (
    [(0x640162EA#32, .vcmp 5 34 7 1 2), (0x68188380#32, .vsel 1 34 3 4), (0x6C1880C6#32, .vcvt 1 34 6 1 1 0),
    (0x70188340#32, .vscl 1 34 3 2), (0x74524020#32, .vbcst 5 9 1), (0x7828C0C2#32, .vred 2 35 6 2),
    (0x7C188320#32, .vperm 1 34 3 1), (0x801883E1#32, .vslide 1 34 3 7 1), (0x841883A0#32, .vzip 1 34 3 5),
    (0x881883A0#32, .vunzip 1 34 3 5), (0x8C6000E0#32, .viota 6 7), (0x905886E0#32, .vmovs 5 34 6 7),
    (0x942905E0#32, .vins 2 36 5 7), (0x980840A0#32, .kpush 33 5), (0x9C000000#32, .kinv), (0xA0000000#32, .kpop),
    (0xA4900000#32, .kmovTo 9), (0xA4094001#32, .kmovFrom 37)]) = true := by decide

/-- Formats VT and VT3 (R289, R290). -/
theorem test_words_v_tiles : reads 1 (
    [(0xC0384298#32, .tadd 3 33 2 4 6), (0xC4384234#32, .tmul 3 33 2 1 5), (0xC8284724#32, .tscale 2 33 7 1 1),
    (0xCC284910#32, .tbias 2 33 9 0 4), (0xD0284060#32, .trelu 2 33 3 0), (0xD4484024#32, .tgelu 4 33 1 1),
    (0xD8484044#32, .tsilu 4 33 2 1), (0xDC588020#32, .texp 5 34 1 0), (0xE0484024#32, .tsoftmax 4 33 1 1),
    (0xE468C989#32, .trmsn 6 35 9 34 1), (0xE82843A2#32, .tmask 2 33 3 40 2), (0xEC79C094#32, .ttrans 7 39 4 5),
    (0xF0188030#32, .tcvt 1 34 1 4), (0x00000000#32, .nop)]) = true := by decide

/-- The M slot (R159). -/
theorem test_words_m_beats : reads 2 (
    [(0x00000000#32, .mnop), (0x04D1B400#32, .mpush 3 17 5 1 0 1), (0x08000000#32, .mflip), (0x0E640000#32, .mshift 9 4 1),
    (0x121905A0#32, .macc 33 2309 40), (0x12190502#32, .maccU 33 2309), (0x14289219#32, .mdrain 2 17 9 3 1),
    (0x182905FC#32, .mzero 2 2309 63), (0x21400000#32, .mspan 20), (0x24000000#32, .mend), (0x28AAC000#32, .mgang 10 43),
    (0x2F000000#32, .follow 12)]) = true := by decide

/-- Formats LS, LV, LX, LP and LQ (R292, R293). -/
theorem test_words_l_memory : reads 3 (
    [(0x04935814#32, .sld 9 3 2 1 2068), (0x08426014#32, .sst 4 2 3 20), (0x0E128001#32, .vld 33 2 32769),
    (0x12128001#32, .vst 33 2 32769), (0x14329200#32, .vldx 3 2 36 2), (0x18329300#32, .vstx 3 2 36 3),
    (0x1DFC0A00#32, .spl 63 517), (0x22300A00#32, .sps 70 5), (0x26014001#32, .scale 64 2 16385), (0x00000000#32, .nop)]) = true := by decide

/-- Format LB (R292, R293). -/
theorem test_words_l_units : reads 3 (
    [(0x40A32CC0#32, .barinit 10 3 11 12), (0x44D30000#32, .bararm 13 3), (0x48530000#32, .bararr 5 3),
    (0x4C730000#32, .bartst 7 3), (0x50630000#32, .barwait 6 3), (0x54030002#32, .ringcfg 3 2), (0x58000002#32, .rpop 2),
    (0x5C802402#32, .wmark 8 9 2), (0xA8521800#32, .tagset 5 2 6), (0xAC000000#32, .xinvAll), (0xAE100001#32, .xinvVa 33)]) = true := by decide

/-- The atomic format (R192). -/
theorem test_words_l_atomics : reads 3 (
    [(0x60518800#32, .aadd 5 6 2 0), (0x64518800#32, .afadd 5 6 2), (0x68188C09#32, .amin 1 34 3 1 1),
    (0x6C108C02#32, .amax 1 2 3 0 2), (0x70108C0A#32, .alogic 1 2 3 1 2), (0x74108C08#32, .aswp 1 2 3 1),
    (0x788252A8#32, .acas 8 9 4 42 1)]) = true := by decide

/-- The engine format (R106, R249, R265). -/
theorem test_words_l_engines : reads 3 (
    [(0x80B11D02#32, .copy 5 17 3 20 2), (0x84D22543#32, .cslice 6 18 4 21 3), (0x88F32D84#32, .stream 7 19 5 22 4),
    (0x8D1435C5#32, .npost 8 20 6 23 5), (0x91353E06#32, .pldec 9 21 7 24 6), (0x95564647#32, .pland 10 22 8 25 7),
    (0x99774E88#32, .plor 11 23 9 26 8), (0x9D9856C9#32, .pltopk 12 24 10 27 9), (0xA1B95F0A#32, .plfuse 13 25 11 28 10),
    (0xA5DA674B#32, .egq 14 26 12 29 11)]) = true := by decide

/-- Reserved bits, opcodes and fields that name nothing (R284, R287, R290 to R293), for each slot. -/
theorem test_rejected_x : rejects 0 [0x00000001#32, 0x5C000000#32, 0xA8000000#32, 0xEC000000#32, 0x04001000#32, 0x04000001#32,
    0x40000001#32, 0x48000001#32, 0x4C000001#32, 0x6C020000#32, 0x78100000#32, 0x7C000001#32] = true := by decide
theorem test_rejected_v : rejects 1 [0x00000001#32, 0xA8000000#32, 0xF4000000#32, 0xFC000000#32, 0x04000001#32, 0x20000100#32,
    0xC0000001#32, 0xD0000100#32] = true := by decide
theorem test_rejected_m : rejects 2 [0x00000001#32, 0x1C000000#32, 0x30000000#32, 0xFC000000#32, 0x04000001#32, 0x08000001#32,
    0x10000001#32, 0x20000001#32] = true := by decide
theorem test_rejected_l : rejects 3 [0x00000001#32, 0x28000000#32, 0x7C000000#32, 0xB0000000#32, 0xFC000000#32, 0x08001000#32,
    0x44000010#32, 0x58100002#32, 0xAC000002#32, 0x60000010#32] = true := by decide

/-! ## Single steps -/

/-- Core 0, context 0 with s1 and s2 as given. -/
def scalars (a b : Word) : State := State.reset.modF (fun t => { t with regs := [(1, a), (2, b)] })

/-- Register `r` of the context of the focus after an operation. -/
def after (i : Instr) (s : State) (r : Nat) : Option Word :=
  match exec i s with
  | .next t => some (t.fctx.reg r)
  | _ => none

/-- R307: the sum wraps. -/
theorem test_add_wraps : after (.addImm 3 1 1) (scalars (BitVec.allOnes 64) 0) 3 = some 0 := by decide
/-- R407: SUB with the sign-extended immediate −16. -/
theorem test_sub_immediate : after (.subImm 3 1 0xFF0) (scalars 5 0) 3 = some 21 := by decide
/-- R374: the high half of −1 × −1, signed and unsigned. -/
theorem test_mulh : after (.mulhReg 3 1 0 2) (scalars (BitVec.allOnes 64) (BitVec.allOnes 64)) 3 = some 0 ∧
    after (.mulhReg 3 1 1 2) (scalars (BitVec.allOnes 64) (BitVec.allOnes 64)) 3 = some 0xFFFFFFFFFFFFFFFE := by decide
/-- R341: the table's corners. -/
theorem test_div_corners : after (.divReg 3 1 0 2) (scalars 0x8000000000000000 (BitVec.allOnes 64)) 3 = some 0x8000000000000000 ∧
    after (.divReg 3 1 0 2) (scalars 7 0) 3 = some (BitVec.allOnes 64) := by decide
theorem test_rem_sign : after (.remReg 3 1 0 2) (scalars (-7) 2) 3 = some (-1) ∧
    after (.remReg 3 1 0 2) (scalars 0x8000000000000000 (BitVec.allOnes 64)) 3 = some 0 := by decide
/-- R397: copies of bit 63 in, and zeros in; only the low six bits of the amount count. -/
theorem test_shifts : after (.sraReg 3 1 2) (scalars 0x8000000000000000 0x43) 3 = some 0xF000000000000000 ∧
    after (.shrReg 3 1 2) (scalars 0x8000000000000000 0x43) 3 = some 0x1000000000000000 := by decide
/-- R326, R288: lt is signed, lo unsigned. -/
theorem test_cmp_order : after (.cmpReg 3 1 2 2) (scalars (BitVec.allOnes 64) 1) 3 = some 1 ∧
    after (.cmpReg 3 1 4 2) (scalars (BitVec.allOnes 64) 1) 3 = some 0 := by decide
/-- R360: the base of the local aperture. -/
theorem test_lih : after (.lih 65 3 0xFF00) (scalars 0 0) 65 = some 0xFF00000000000000 := by decide
/-- R316: clz and ctz of 0 give 64. -/
theorem test_bitc_zero : after (.bitc 3 1 0) (scalars 0 0) 3 = some 64 ∧ after (.bitc 3 1 1) (scalars 0 0) 3 = some 64 := by decide
/-- R315: a 4-bit field at bit 8, with its sign. -/
theorem test_bfx_sign : after (.bfx 3 1 8 3 1) (scalars 0xF00 0) 3 = some (BitVec.allOnes 64) := by decide
/-- R388, R66: RET goes to s63 after two delay slots. -/
theorem test_call_links : after (.callRel 4) (scalars 0 0) 63 = some 48 := by decide

/-- Core 0, context 0 with a1 at the aperture's offset 0x100 and the bytes 0x80, 0x7F there. -/
def stored : State := (scalars 0x1122334455667788 0).modF (fun t => { t with regs := t.regs ++ [(65, 0xFF00000000000100)] })
def withBytes : State := stored.writeMem (apAddr 0 0x100) 2 0x7F80

/-- The pending value of an operation. -/
def pending (i : Instr) (s : State) : Option (Option Word) :=
  match exec i s with
  | .next t => (t.fctx.pend.getLast?).map Pend.val
  | _ => none

/-- R401: a signed byte, and an unsigned halfword in little-endian order (R1). -/
theorem test_sld : pending (.sld 3 1 0 1 0) withBytes = some (some 0xFFFFFFFFFFFFFF80) ∧
    pending (.sld 3 1 1 0 0) withBytes = some (some 0x7F80) := by decide
/-- R1: byte 0 of the stored word is its low byte. -/
theorem test_sst : (match exec (.sst 1 1 2 4) stored with
    | .next t => (t.byte (apAddr 0 0x104), t.byte (apAddr 0 0x107), t.byte (apAddr 0 0x108))
    | _ => (0, 0, 0)) = (0x88#8, 0x55#8, 0#8) := by decide
/-- R193: AADD returns the old word and leaves the sum, modulo 2^32. -/
theorem test_aadd : (match exec (.aadd 3 1 1 0) (withBytes.modF (fun t => { t with regs := t.regs.set 1 0xFFFFFFFF })) with
    | .next t => (t.readMem (apAddr 0 0x100) 4, (t.fctx.pend.getLast?).map Pend.val)
    | _ => (0, none)) = (0x7F7F, some (some 0x7F80)) := by decide
/-- R105: an unaligned word raises ALIGN, with the pointer in FADDR (R92, R208). -/
theorem test_sld_unaligned : (match exec (.sld 3 1 2 0 1) stored with
    | .next t => (t.last, t.fctx.csr.faddr, t.fctx.csr.finfo)
    | _ => (Last.idle, 0, 0)) = (Last.trapped, 0xFF00000000000101, 0x0D) := by decide
/-- R420: TRAP 7. -/
theorem test_trap : (match exec (.trap 7) State.reset with
    | .next t => (t.last, t.fctx.csr.faddr, t.fctx.csr.finfo)
    | _ => (Last.idle, 0, 0)) = (Last.trapped, 7, 0x3F) := by decide
/-- R72: BREAK deeper than the stack. -/
theorem test_break : (match exec (.breakOp 1) State.reset with
    | .next t => t.fctx.csr.finfo
    | _ => 0) = 0x05 := by decide

/-- R195, the litmus test after it: AMIN.f of +0 and −0 is −0, AMAX.f leaves +0. -/
theorem test_min_max_zero : (minMaxF .f32 false 0 0x80000000).bits = 0x80000000 ∧ (minMaxF .f32 true 0 0x80000000).bits = 0 := by decide
/-- R143's example: 2^24 + 1 + 1 in program order stays 2^24, and 1 + 1 + 2^24 is exact. -/
theorem test_column_order : r32 (columnSum [v32 0x4B800000, v32 0x3F800000, v32 0x3F800000]) = 0x4B800000 ∧
    r32 (columnSum [v32 0x3F800000, v32 0x3F800000, v32 0x4B800000]) = 0x4B800001 := by decide
/-- R145: 1 + 2^-24 rounds to even, with NX. -/
theorem test_round_even : addF .f32 0x3F800000 0x33800000 = { bits := 0x3F800000, fl := (addF .f32 0x3F800000 0x33800000).fl } ∧
    (addF .f32 0x3F800000 0x33800000).fl ≠ 0 := by decide
/-- R281's example: SKIP 16, RING 1, CORE 2, EVENT 1, POISON and ARM stay in the register. -/
theorem test_error_injection : (match exec (.errorInjectArm 0 0x0000001000104103) State.reset with
    | .next t => (t.owl 0).errctl
    | _ => 0) = 0x0000001000104103 := by decide
/-- R272: MGID. -/
theorem test_mgid : State.reset.mgmtRead 0 = 0x000000000E080100 := by decide

/-- A placed word is what the next step runs: ADD s7, s5, 1 and TRAP 7 (R298, R420). -/
theorem test_step_add : (match step (State.reset.withFetchWord 32 0x04716001) with
    | .next t => ((t.ctx 0 0).reg 7, (t.ctx 0 0).pc)
    | _ => (0, 0)) = (1, 16) := by decide
theorem test_step_trap : (match step (State.reset.withFetchWord 32 0x88000007) with
    | .next t => ((t.ctx 0 0).csr.faddr, (t.ctx 0 0).pc, (t.ctx 0 0).stopped)
    | _ => (0, 0, false)) = (7, 16, true) := by decide

/-- Core 0 with vector registers 1 and 2 as given, and a lane of register 3 after an operation. -/
def vectors (a b : Nat) : State := State.reset.modFCore (fun k => { k with vregs := [(1, BitVec.ofNat 32768 a), (2, BitVec.ofNat 32768 b)] })
def lane3 (i : Instr) (s : State) (w j : Nat) : Nat :=
  match exec i s with
  | .next t => vElem (t.vreg 3) w j
  | _ => 0

/-- R423: lane 1 wraps. -/
theorem test_viadd : lane3 (.viadd 3 1 2 7) (vectors 0xFFFFFFFF00000005 0x0000000200000003) 4 1 = 1 := by decide +kernel
/-- R422: 1 + 2 = 3. -/
theorem test_vadd : lane3 (.vadd 3 1 2 0) (vectors 0x3F800000 0x40000000) 4 0 = 0x40400000 := by decide +kernel
/-- FIPS 202: the SHA3-256 digest of the empty message, its first byte 0xA7 (R269). -/
theorem test_sha3 : sha3 [] = 0x4A43F8804B0AD882FA493BE44DFF80F562D661A05647C15166D71EBFF8C6FFA7 := by decide +kernel


/-! ## The statements' hypotheses can be met: for each statement that has any, states and operands that meet those of its clauses -/

/-- The context of the focus at reset, changed. -/
def ctxed (f : Ctx → Ctx) : State := State.reset.modF f
/-- The core of the focus at reset, changed. -/
def cored (f : Core → Core) : State := State.reset.modFCore f
/-- A queued V operation, a queued M operation. -/
def aQOp (i : Instr) (slot : Nat) : QOp :=
  { seq := 0, addr := 0, slot := slot, ins := i, lent := 0, hdr := false, absd := false, abss := false, caps := [], links := [] }
def aHandler : SetAside :=
  { vq := [], mq := [], lq := [], npc := 0, delay := none, loops := [], masks := [], seq := 0, hold := .none, mdiscard := false }
def aSpan : Span := { addr := 0, seq := 0, shape := 0, gang := none, beat := 0, record := none }
def farLoop : LoopEntry := { start := 0x1000, stop := 0x2000, count := 1 }
def aDelay : Delay := { left := 2, target := none, eret := false, late := false }

theorem mayTransfer_plain (s : State) (h : s.fctx.delay = none) (k : s.fctx.loops = []) : MayTransfer s :=
  ⟨h, fun e r l => by rw [k] at l; cases l⟩
theorem mayTransfer_far (s : State) (r : List LoopEntry) (h : s.fctx.delay = none) (a : s.focus.addr = 0)
    (k : s.fctx.loops = farLoop :: r) : MayTransfer s :=
  ⟨h, fun e q l => by rw [k] at l; cases l; simp [a, farLoop]⟩
theorem mayRealign_reset : MayRealign State.reset := ⟨rfl, rfl, rfl⟩

theorem witness_IntegerArithmetic : (0#12).toNat < 64 ∧ (63#12).toNat < 64 := by decide
theorem witness_ComparisonsAndSelection : (0#3).toNat ≤ 5 ∧ (5#3).toNat ≤ 5 := by decide
theorem witness_MovesAndBitFields : (79#7).toNat < 80 ∧ (63#6).toNat + (0#6).toNat < 64 ∧ (0#6).toNat + (63#6).toNat < 64 := by decide

def inSlot : State := ctxed (fun t => { t with delay := some aDelay, handler := some aHandler })
def inTail (stop : Word) : State :=
  ctxed (fun t => { t with loops := [{ start := 0, stop := stop, count := 2 }], handler := some aHandler })
theorem witness_Transfers : MayTransfer State.reset ∧ inSlot.fctx.delay.isSome = true ∧ (inTail 32).fctx.delay = none ∧
    ¬ MayTransfer (inTail 32) ∧ ¬ MayTransfer (inTail 0) ∧ MayTransfer (inTail 48) ∧ inSlot.fctx.handler.isSome = true ∧
    (inSlot.sOp 1).toNat < 2 ^ 32 ∧ MayRealign inSlot :=
  ⟨mayTransfer_plain _ rfl rfl, rfl, rfl, fun h => h.2 _ _ rfl (by decide), fun h => h.2 _ _ rfl (by decide),
   ⟨rfl, fun e r l => by cases l; decide⟩, rfl, by decide, ⟨rfl, rfl, rfl⟩⟩

theorem witness_DelaySlotsAndLoops :
    ({ Ctx.reset with delay := some { left := 2, target := some 64, eret := false, late := true } }).delay =
      some { left := 2, target := some 64, eret := false, late := true } ∧
    ({ Ctx.reset with delay := some { left := 0, target := some 64, eret := false, late := true } }).delay =
      some { left := 0, target := some 64, eret := false, late := true } ∧
    Ctx.reset.delay = none ∧ Ctx.reset.loops = [] ∧ ({ Ctx.reset with loops := [farLoop] }).loops = farLoop :: [] ∧
    farLoop.stop ≠ 0 ∧ farLoop.stop = 0x2000 ∧ 1 < ({ farLoop with count := 2 }).count.toNat ∧ farLoop.count.toNat ≤ 1 := by decide

def loops (n : Nat) (v : Word) : State := ctxed (fun t => { t with loops := List.replicate n farLoop, regs := [(1, v)] })
theorem witness_LoopsAndBreaks : MayTransfer (loops 0 0) ∧ MayTransfer (loops 5 0xFFFFFFFF) ∧ MayTransfer (loops 6 1) ∧ (1#13) ≠ 0 ∧
    (loops 5 0xFFFFFFFF).fctx.loopDepth < 6 ∧ 6 ≤ (loops 6 1).fctx.loopDepth ∧ (loops 5 0xFFFFFFFF).sOp 1 ≠ 0 ∧
    ((loops 5 0xFFFFFFFF).sOp 1).toNat < 2 ^ 32 ∧ (loops 0 0).sOp 1 = 0 ∧ (loops 6 1).sOp 1 ≠ 0 ∧ ((loops 6 1).sOp 1).toNat < 2 ^ 32 ∧
    2 ^ 32 ≤ ((loops 0 0x100000000).sOp 1).toNat ∧ (6#3).toNat ≤ (loops 6 1).fctx.loops.length ∧
    (loops 5 1).fctx.loops.length < (6#3).toNat :=
  ⟨mayTransfer_plain _ rfl rfl, mayTransfer_far _ _ rfl rfl rfl, mayTransfer_far _ _ rfl rfl rfl, by decide⟩

def busyQueue : State := ctxed (fun t => { t with vq := [aQOp .kinv 1] })
def counting : State := ctxed (fun t => { t with ld := 255, st := 1, cp := 1, mx := 1, tokens := 2, masks := [0] })
theorem witness_RealigningOperations : MayRealign State.reset ∧ MayRealign counting ∧ ¬ MayRealign busyQueue ∧
    (∀ j, j < 8 → (0xFF#8).getLsbD j = true → State.reset.fctx.tokens.getLsbD (8 * (3#2).toNat + j) = false) ∧
    State.reset.fctx.span = none ∧ State.reset.fctx.ld ≤ (0#8).toNat ∧ State.reset.fctx.st ≤ (0#8).toNat ∧
    State.reset.fctx.cp ≤ (0#6).toNat ∧ State.reset.fctx.mx ≤ (0#2).toNat ∧ MayTransfer counting ∧ counting.fctx.masks ≠ [] ∧
    counting.fctx.top = 0 ∧ MayTransfer State.reset ∧ State.reset.fctx.masks = [] ∧
    State.reset.complete State.reset.focus.core State.reset.focus.ctx State.reset.focus.seq 3 (6#3).toNat = true ∧
    (254#8).toNat < counting.fctx.ld ∧ (0#8).toNat < counting.fctx.st ∧ (0#6).toNat < counting.fctx.cp ∧
    (0#2).toNat < counting.fctx.mx ∧ (ctxed (fun t => { t with span := some aSpan })).fctx.span.isSome = true ∧
    (2#8).getLsbD 1 = true ∧ counting.fctx.tokens.getLsbD (8 * (0#2).toNat + 1) = true :=
  ⟨mayRealign_reset, ⟨rfl, rfl, rfl⟩, fun h => absurd h.1 (by decide), by decide, rfl, by decide, by decide, by decide, by decide,
   mayTransfer_plain _ rfl rfl, by decide, rfl, mayTransfer_plain _ rfl rfl, rfl, by decide⟩

def handled : State := ctxed (fun t => { t with hvec := 0x800 })
theorem witness_TakingAFault : (handled.ctx 0 0).span = none ∧ (handled.ctx 0 0).hold = .none ∧ (handled.ctx 0 0).ended = false ∧
    (handled.core 0).outs = [] ∧ (handled.ctx 0 0).hvec ≠ 0 ∧ (handled.ctx 0 0).handler = none ∧ (State.reset.ctx 0 0).hvec = 0 ∧
    (inSlot.ctx 0 0).handler.isSome = true ∧ (inSlot.ctx 0 0).span = none ∧ (inSlot.ctx 0 0).hold = .none := by decide

theorem witness_TrapsAndBreakpoints : State.reset.fctx.span = none ∧ State.reset.fctx.hold = .none ∧ State.reset.fctx.ended = false ∧
    State.reset.fcore.outs = [] := by decide

def handling : State := ctxed (fun t => { t with handler := some aHandler })
def returning : State :=
  ctxed (fun t => { t with handler := some aHandler, delay := some { left := 0, target := none, eret := true, late := false } })
theorem witness_ReturnFromHandler : handling.fctx.handler.isSome = true ∧ MayTransfer handling ∧ State.reset.fctx.handler = none ∧
    (returning.ctx 0 0).handler = some aHandler ∧ (returning.ctx 0 0).delay = some { left := 0, target := none, eret := true, late := false } ∧
    (returning.ctx 0 0).hold = .none ∧ (returning.ctx 0 0).fetchAt ≤ (returning.core 0).clock ∧ (returning.ctx 0 0).drained = true :=
  ⟨rfl, mayTransfer_plain _ rfl rfl, by decide⟩

def aRecord : RecSpan :=
  { addr := 0, word0 := 0, opc := 0, rflag := 1, beats := [], data := [], counts := [], zeroed := [], maccd := [], drained := [], spoiled := [] }
theorem witness_ControlRegisters : (ctxed (fun t => { t with span := some { aSpan with record := some aRecord } })).fctx.span =
      some { aSpan with record := some aRecord } ∧ State.reset.fctx.span = none ∧
    State.reset.fctx.vq = [] ∧ State.reset.fctx.mq = [] ∧ busyQueue.fctx.vq ≠ [] ∧ 0x300 ≤ (0x300#12).toNat ∧
    (0x19 ≤ (0x19#12).toNat ∧ (0x1FF#12).toNat < 0x200) ∧ (0xD ≤ (0xD#12).toNat ∧ (0xF#12).toNat < 0x10) ∧
    (8 ≤ (8#12).toNat ∧ (0xC#12).toNat ≤ 0xC) ∧ (0x10 ≤ (0x10#12).toNat ∧ (0x17#12).toNat ≤ 0x17) ∧
    (0x200 ≤ (0x200#12).toNat ∧ (0x2FF#12).toNat < 0x300) := by decide

theorem witness_VectorFloatLanes : fmtOfType (0#3).toNat = some .f32 ∧ fmtOfType (2#3).toNat ≠ none := by decide

theorem witness_MaskStack : State.reset.fctx.maskDepth < 16 ∧ fmtOfType (0#3).toNat = some .f32 ∧ fmtOfType (7#3).toNat = none ∧
    16 ≤ (ctxed (fun t => { t with masks := List.replicate 16 0 })).fctx.maskDepth ∧ State.reset.fctx.masks = [] ∧
    (ctxed (fun t => { t with masks := [0] })).fctx.masks = [0] ∧
    (ctxed (fun t => { t with masks := [0, 1] })).fctx.masks = 0 :: 1 :: [] :=
  ⟨by decide, by decide, by decide, by decide, rfl, rfl, rfl⟩

theorem witness_TileLanes : State.reset.recordsNow = false ∧ State.reset.fctx.recSpan = none ∧ (4#3).toNat ≤ 4 ∧ (6#3) ≠ 7 ∧ (2#2) ≠ 3 ∧ transFormats 4 5 = true := by decide
theorem witness_TileRows : State.reset.recordsNow = false ∧ State.reset.fctx.recSpan = none ∧ (0#3).toNat ≤ 4 ∧ (0#3) ≠ 7 ∧ (0#2) ≠ 3 := by decide

/-- A context in a span with the array at its disposal, `es` latched and a window of four accumulator rows. -/
def spanned (f : Arr → Arr) : State :=
  (cored (fun k => { k with arr := f { k.arr with owner := some 0 } })).modF (fun t =>
    { t with span := some aSpan, mx := 1, csr := { t.csr with awbLen := 4 }, regs := [(1, 3)] })
def aRow : LatchRow := { row := 0, isInt := true }
theorem inPlainSpan_spanned (f : Arr → Arr) : InPlainSpan (spanned f) := ⟨rfl, aSpan, rfl, rfl, rfl⟩
theorem witness_FlipsAndAccumulation : InPlainSpan (spanned (fun a => { a with latch := [aRow] })) ∧
    (spanned (fun a => { a with latch := [aRow] })).fcore.arr.latch = aRow :: [] ∧
    (spanned id).fctx.accRow (((spanned id).sOp 1).toNat + (0#12).toNat) = some 3 :=
  ⟨inPlainSpan_spanned _, rfl, by decide⟩
theorem witness_ZeroAndDrain : NoGang (spanned id) ∧ ((spanned id).sOp 0).toNat + (0#12).toNat + (3#6).toNat < (spanned id).fctx.csr.awbLen.toNat ∧
    (spanned id).fctx.csr.awbLen.toNat ≤ ((spanned id).sOp 1).toNat + (0#12).toNat + (1#6).toNat ∧
    (31#6).toNat * 64 * drainWidth 1 < 4096 ∧ (spanned id).fctx.accRow (((spanned id).sOp 1).toNat + (0#5).toNat) = some 3 ∧
    (spanned id).fctx.accRow (((spanned id).sOp 1).toNat + (1#5).toNat) = none :=
  ⟨⟨rfl, fun sp h => by cases h; exact ⟨rfl, rfl⟩⟩, by decide⟩

/-- Ring 2 of core 0 with one landed slot of 512 bytes at its cursor. -/
def aInst : RingInst :=
  { sett := 0, base := pairAddr 0, field := 0, loc := 0, count := 2, slotsz := 1, cmask := 1, head := 0, tail := 1, live := [(0, 1)] }
def aRing : Ring := { inst := pairAddr 0, cursor := 0, roff := 0, ctx := 0, present := [(0, 0)] }
def ringed : State := { (spanned id).modFCore (fun k => { k with rings := [(2, aRing)] }) with insts := [aInst] }
theorem rowThere_ringed (n : Nat) (h : n = 128 ∨ n = 64) : RowThere ringed 2 n aRing aInst := by
  rcases h with rfl | rfl <;> exact ⟨rfl, by decide, by decide, by decide, by decide, by decide, by decide, by decide, by decide⟩
theorem witness_PushAndShift : InPlainSpan ringed ∧ (0#3).toNat ≤ 6 ∧ RowThere ringed 2 (rowBytes 0) aRing aInst ∧
    0 ≤ ringed.fcore.arr.scaleq.length ∧ ¬ ((0#1) = 1 ∧ ((0#3) = 0 ∨ (0#3) = 1 ∨ (0#3) = 5) ∧ 64 ≤ 0) ∧ (0#3).toNat ≤ 4 ∧ RowThere ringed 2 128 aRing aInst ∧
    pairOk (0#3).toNat ringed.fcore.arr.activeTag = true ∧ ringed.fcore.arr.inflight.length + ringed.fcore.arr.latch.length < 96 :=
  ⟨⟨rfl, aSpan, rfl, rfl, rfl⟩, by decide, rowThere_ringed _ (by decide), by decide, by decide, by decide, rowThere_ringed _ (Or.inl rfl), by decide⟩
theorem witness_ColumnSums : 63 < 64 ∧ (4 : Nat) = 4 ∧ (3 : Nat) ≤ 3 := by decide
/-- Core 0 leads a ganged span with core 1. -/
def aGang : Gang := { leadCore := 0, leadCtx := 0, members := [(0, 0), (1, 0)], baren := false, baroff := 0, soft := [] }
def ganged : State :=
  ((spanned id).modF (fun t => { t with span := some { aSpan with gang := some aGang } })).modCore 1 (fun k =>
    { k with ctxs := [(0, { Ctx.reset with span := some { aSpan with gang := some aGang } })], arr := { k.arr with owner := some 0 } })
theorem witness_Spans : bits (State.reset.sOp 1) 63 55 = 0 ∧ State.reset.fctx.span = none ∧ State.reset.fcore.arr.owner = none ∧
    State.reset.recordsNow = false ∧ State.reset.fctx.mx < 2 ∧ bits ((scalars 0x80000000000000 0).sOp 1) 63 55 ≠ 0 ∧
    (spanned id).fctx.span.isSome = true ∧ (cored (fun k => { k with arr := { k.arr with owner := some 1 } })).fcore.arr.owner = some 1 ∧
    (spanned id).fcore.arr.inflight = [] ∧ (spanned id).fcore.arr.latch = [] ∧ (spanned id).fcore.arr.scaleq = [] ∧
    (spanned (fun a => { a with latch := [aRow] })).fcore.arr.latch ≠ [] ∧
    (spanned (fun a => { a with scaleq := [0] })).fcore.arr.scaleq ≠ [] ∧
    (ctxed (fun t => { t with mdiscard := true })).fctx.mdiscard = true :=
  ⟨by decide, by decide, by decide, by decide, by decide, by decide, by decide, by decide, by decide, by decide, by decide,
   List.cons_ne_nil _ _, by decide, rfl⟩
theorem witness_ganged : ganged.fctx.mdiscard = false ∧ ganged.fctx.span = some { aSpan with gang := some aGang } ∧
    ∀ m ∈ aGang.members, (ganged.core m.1).arr.inflight = [] ∧ (ganged.core m.1).arr.latch = [] ∧ (ganged.core m.1).arr.scaleq = [] ∧
      (m = (0, 0) ∨ ganged.memberReady .mend m.1 m.2 = true) := by decide
theorem witness_RowsEmergeAndSpansRetire : (767 : Nat) < 768 ∧
    ((cored (fun k => { k with arr := { k.arr with inflight := [aRow] } })).core 0).arr.inflight = aRow :: [] ∧
    ((cored (fun k => { k with retiring := [{ ctx := 0, gang := none, ready := [(0, 5)] }] })).core 0).retiring = { ctx := 0, gang := none, ready := [(0, 5)] } :: [] := ⟨by decide, rfl, rfl⟩

/-! Spans of a gang, memory, barriers, rings -/

def follower : State :=
  ((ctxed (fun t => { t with bound := true, regs := [(2, 2)], mq := [aQOp (.mgang 1 2) 2] })).modFCore (fun k =>
    { k with running := some 0 })).modCore 1 (fun k =>
      { k with running := some 0, ctxs := [(0, { Ctx.reset with bound := true, mq := [aQOp (.follow 0) 2] })] })
/-- The same with the focus on core 1, and the leader's operands captured. -/
def joining : State :=
  { (follower.modCtx 0 0 (fun t => { t with mq := [{ aQOp (.mgang 1 2) 2 with caps := [(1, 0), (2, 2)] }] })) with
    focus := { follower.focus with core := 1 } }
theorem witness_GangsOpen :
    (bits (follower.sOp 1) 63 55 = 0 ∧ bits (follower.sOp 2) 63 33 = 0 ∧ bits (follower.sOp 2) 15 0 ≠ 0 ∧
      bit (follower.sOp 2) (settIdx 0) = false) ∧ follower.fctx.span = none ∧ follower.fctx.csr.recording = false ∧
    (follower.core 0).arr.owner = none ∧ follower.fctx.mx < 2 ∧
    (∀ i, i < 16 → bit (follower.sOp 2) i = true → i = 1) ∧ follower.readyFollow 0 follower.fctx.task 1 = some (0, aQOp (.follow 0) 2) ∧
    (let s := follower.modCtx 1 0 (fun t => { t with mq := [] })
     s.gangFault 0 0 (s.sOp 1) (s.sOp 2) = none ∧ s.readyFollow 0 s.fctx.task 1 = none) ∧
    bits ((scalars 0 0x200000001).sOp 2) 63 33 ≠ 0 ∧
    (cored (fun k => { k with arr := { k.arr with owner := some 1 } })).fcore.arr.owner = some 1 := by decide
theorem witness_joining : (0#4).toNat ≠ settIdx 1 ∧ joining.fctx.span = none ∧ joining.fctx.csr.recording = false ∧
    joining.fcore.arr.owner = none ∧ joining.headBeat 0 = some (0, { aQOp (.mgang 1 2) 2 with caps := [(1, 0), (2, 2)] }) ∧
    (bits (0 : Word) 63 55 = 0 ∧ bits (2 : Word) 63 33 = 0 ∧ bits (2 : Word) 15 0 ≠ 0 ∧ bit (2 : Word) (settIdx 0) = false) ∧
    bit (2 : Word) (settIdx 1) = true ∧ (joining.ctx 0 0).span = none ∧ (joining.ctx 0 0).csr.recording = false ∧
    (joining.core 0).arr.owner = none ∧ (joining.ctx 0 0).mx < 2 ∧ joining.fctx.bound = true ∧
    (joining.ctx 0 0).task = joining.fctx.task ∧ (∀ i, i < 16 → i ≠ settIdx 1 → bit (2 : Word) i = false) ∧
    State.reset.headBeat 0 = none ∧ (1#4).toNat = settIdx 1 := by decide

/-- a1 holds `p`, s1 holds `v`. -/
def pointing (p v : Word) : State := ctxed (fun t => { t with regs := [(1, v), (65, p)] })
def ap (n : Nat) : Word := BitVec.ofNat 64 (0xFF00000000000000 + n)
/-- A watermark register that holds back the first 64 bytes of the aperture. -/
def heldBack (p : Word) : State :=
  (pointing p 0).modFCore (fun k => { k with wm := [(0, { lo := 0, hi := 64, mark := 0, got := [], task := 0 })] })
def poisonedAt (p : Word) (a : Nat) : State := { pointing p 0 with poison := [apAddr 0 a / 8] }
/-- An access of context 0 of core 0 that is outstanding, at physical address `pa`. -/
def anOut (kind : OutKind) (i : Instr) (pa n v : Nat) : Out :=
  { id := 7, ctx := 0, kind := kind, op := aQOp i 3, vals := []
    parts := [{ pieces := [{ pa := pa, len := n, off := 0, val := v }], gran := [], ptr := 0x1000, stage := 4, stamp := 0, done := false }] }
def after_ (o : Out) (s : State) : State := s.modFCore (fun k => { k with outs := [o] })
theorem witness_turns : (after_ (anOut .load (.sld 2 1 3 0 0) (apAddr 0 0) 8 0) (pointing (ap 0) 0)).apWaits (apAddr 0 0) 8 = true ∧
    (after_ (anOut .store (.sst 1 1 3 0) (apAddr 0 0) 8 0) (pointing (ap 0) 0)).apWaits (apAddr 0 0) 8 = true ∧
    (pointing (ap 0) 0).apWaits (apAddr 0 0) 4096 = false ∧ (pointing (ap 0) 0).lineWaits (apAddr 0 0) 8 = false ∧
    (after_ (anOut .store (.sst 1 1 3 0) (apAddr 0 0) 8 0) (pointing (ap 0) 0)).lineWaits (apAddr 0 56) 8 = true ∧
    Quiet State.reset ∧ (pointing (ap 0) 0).poisonNow (apAddr 0 0) 4096 = false ∧ (poisonedAt (ap 0) 8).poisonNow (apAddr 0 8) 8 = true ∧
    (after_ { anOut .load (.sld 2 1 3 0 0) (apAddr 0 0) 8 0 with
      parts := [{ (OutPart.new [] [(apAddr 0 0, 8)] 0) with stage := 0 }] } State.reset).tagWaits (apAddr 0 0) 32 = true ∧
    State.reset.tagWaits (apAddr 0 0) 32 = false :=
  ⟨by decide, by decide, by decide, by decide, by decide, (fun e h => by cases h), by decide, by decide, by decide, by decide⟩
theorem witness_ScalarLoadsAndStores : (3#3).toNat ≤ 3 ∧ ((pointing (ap 3) 0).lsPtr 1 0).toNat % 2 ^ 2 ≠ 0 ∧
    apBad ((pointing (ap 0x400000) 0).lsPtr 1 0) = true ∧ isAp ((pointing (ap 0x400000) 0).lsPtr 1 0) = true ∧
    (heldBack (ap 0)).fcore.wmHeld (vaOf ((heldBack (ap 0)).lsPtr 1 56)) 8 = true ∧
    (heldBack (ap 0)).fcore.wmHeld (vaOf ((heldBack (ap 0)).lsPtr 1 64)) 8 = false ∧
    ApReach (pointing (ap 0x3FFFF8) 0) ((pointing (ap 0x3FFFF8) 0).lsPtr 1 0) 8 ∧
    (poisonedAt (ap 0) 8).poisoned (apAddr 0 8) 8 = true ∧ (pointing (ap 0) 0).poisoned (apAddr 0 0) 8 = false ∧
    MemOk (pointing (ap 0) 0) := ⟨by decide, by decide, by decide, by decide, by decide, by decide, ⟨by decide, by decide, by decide⟩,
  by decide, by decide, rfl⟩

theorem witness_VectorLoadsAndStores : vaOf ((pointing (ap 32) 0).lvPtr 1 0) % 64 ≠ 0 ∧ vaOf ((pointing (ap 64) 0).lvPtr 1 0) % 64 = 0 ∧
    (0 < 4096 ∧ State.reset.mask.getLsbD 0 = true) ∧ (4095 < 4096 ∧ State.reset.mask.getLsbD 4095 = true) ∧
    apOff ((pointing (ap 0x3FF000) 0).lvPtr 1 0) + 4095 < pairSize ∧ pairSize ≤ apOff ((pointing (ap 0x3FF000) 0).lvPtr 1 1) + 4095 ∧
    (heldBack (ap 0)).fcore.wmHeld (vaOf (ap 0) + 63) 1 = true ∧ State.reset.fcore.wmHeld 4095 1 = false ∧ maskRuns State.reset.mask = [(0, 4096)] ∧
    (poisonedAt (ap 0) 8).poisoned (apAddr 0 0 + 8) 1 = true ∧ Sound State.reset (apAddr 0 0) 1 :=
  ⟨by decide, by decide, by decide +kernel, by decide +kernel, by decide, by decide, by decide, by decide, by decide +kernel, by decide,
   ⟨by decide, by decide⟩⟩

theorem witness_IndexedLoadsAndStores : (pointing (ap 1) 0).aOp 1 = ap 1 ∧ (ap 1).toNat % 2 ^ (3#2).toNat ≠ 0 ∧ (ap 0).toNat % 8 = 0 ∧
    isAp (ap 0) = true ∧ (511 < min 1024 (4096 / 8) ∧ State.reset.mask.getLsbD (511 * 8) = true) ∧
    apBad (addPtr (ap 0x3FFFFF) 1) = true ∧ ApReach State.reset (addPtr (ap 0) 0) 8 ∧
    (poisonedAt (ap 0) 0).poisoned (apAddr 0 0) 8 = true :=
  ⟨by decide, by decide, by decide, by decide, by decide +kernel, by decide, ⟨by decide, by decide, by decide⟩, by decide⟩

/-- A context whose range entry 0 maps the first 64 KiB one to one into LPDDR6, readable and writable. -/
def mapped (p : Word) : State :=
  (pointing p 5).modF (fun t => { t with ranges := [(0, 0), (1, 0x10000), (2, 0), (3, 0x3D)] })
def inMap (p : Word) (n : Nat) : Checked := { items := [((vaOf p), n)], tchk := false, level := 5, pages := [] }
theorem witness_TranslatedAccesses : isAp ((mapped 0x1000).lsPtr 1 0) = false ∧
    (mapped 0x1000).fctx.check (mapped 0x1000) 0x1000 8 .rd false = .ok (inMap 0x1000 8) ∧
    (mapped 0x1000).fctx.check (mapped 0x1000) 0x1000 8 .wr false = .ok (inMap 0x1000 8) ∧
    (mapped 0x1000).fctx.check (mapped 0x1000) 0x1000 8 .rw false = .ok (inMap 0x1000 8) ∧
    (mapped 0x1000).fctx.check (mapped 0x1000) 0xFFFF 1 .rd false = .ok (inMap 0xFFFF 1) ∧
    (mapped 0x1000).fctx.check (mapped 0x1000) 0x10000 1 .rd false = .error cXLATE ∧
    (mapped 0x1000).fctx.check (mapped 0x1000) 0x1000000000000000 8 .wr false = .error cALIGN ∧
    ((mapped 0x1000).fcore.wmHeld 0x1000 8 = false ∧ (mapped 0x1000).fcore.outsFull = false) := by decide
theorem witness_NoByteEnabled : maskRuns (State.reset.modF (fun t => { t with masks := [0] })).mask = [] ∧
    indexedElems 0x1000 0 8 (State.reset.modF (fun t => { t with masks := [0] })).mask = [] ∧ isAp 0x1000 = false ∧
    vaOf 0x1000 % 64 = 0 ∧ (0x1000 : Word).toNat % 8 = 0 := by decide +kernel
theorem witness_TranslatedVectors : maskRuns State.reset.mask ≠ [] ∧ (mapped 0x1000).fcore.wmHeldRuns 0x1000 [(0, 4096)] = false ∧
    (match vectorPieces (mapped 0x1000) 0x1000 [(0, 4096)] .rd with
      | .ok q => decide (q.runs = [(0x1000, 4096, 0)]) && (q.parts 0x1000 0).length = 512
      | .error _ => false) = true ∧
    (match vectorPieces (mapped 0x1000) 0x20000 [(0, 4096)] .rd with
      | .ok _ => false
      | .error e => decide (e = cXLATE)) = true ∧
    indexedElems 0x1000 0 8 State.reset.mask ≠ [] ∧
    (match indexedParts (mapped 0x1000) 8 .rd 0 [(0, 0x1000)] with
      | .ok q => decide (q.1.map OutPart.pieces = [[{ pa := 0x1000, len := 8, off := 0, val := 0 }]])
      | .error _ => false) = true ∧
    (match indexedParts (mapped 0x1000) 8 .wr 0 [(0, 0x20000)] with
      | .ok _ => false
      | .error e => decide (e = (cXLATE, 0x20000))) = true := by decide +kernel

theorem witness_SpillsAndScales : State.reset.fctx.spillBad.contains 0 = false ∧
    (ctxed (fun t => { t with spillBad := [1023] })).fctx.spillBad.contains (1023#10).toNat = true ∧
    isAp ((pointing 64 0).lqPtr 1 0) = false ∧ isAp ((pointing (ap 0x3FFFC0) 0).lqPtr 1 0) = true ∧
    apOff ((pointing (ap 0x3FFFC0) 0).lqPtr 1 0) + (64#7).toNat ≤ pairSize ∧
    pairSize < apOff ((pointing (ap 0x3FFFC1) 0).lqPtr 1 0) + (64#7).toNat ∧
    (∀ o ∈ (spanned id).fctx.mq, o.seq < (spanned id).focus.seq → spanOp o.ins = false) ∧ (spanned id).fctx.span.isSome = true ∧
    (spanned id).fcore.arr.scaleq.length + (64#7).toNat ≤ 64 ∧ 64 < (spanned id).fcore.arr.scaleq.length + (65#7).toNat ∧
    Sound State.reset (apAddr 0 0) 64 := by
  refine ⟨by decide, by decide, by decide, by decide, by decide, by decide, ?_, by decide, by decide, by decide, by decide, by decide⟩
  intro o h
  cases h

theorem witness_Atomics : ((pointing (ap 4) 0).aOp 1).toNat % 8 ≠ 0 ∧ ((pointing (ap 4) 0).aOp 1).toNat % 4 = 0 ∧
    apBad (ap 0x400000) = true ∧ ApReach (pointing (ap 0x3FFFF8) 0) (ap 0x3FFFF8) 8 ∧ (poisonedAt (ap 0) 0).poisoned (apAddr 0 0) 4 = true ∧
    Sound (pointing (ap 0) 0) (apAddr 0 0) 8 ∧ MemOk (pointing (ap 0) 0) :=
  ⟨by decide, by decide, by decide, ⟨by decide, by decide, by decide⟩, by decide, ⟨by decide, by decide⟩, rfl⟩

theorem witness_LocksAndHeldTranslations : ((0 : Nat) < 32 ∧ 32 % 32 = 0 ∧ 32 ≤ 2 ^ 20 ∧ (15 : Nat) < 16) ∧
    ¬ ((0 : Nat) < 0) ∧ vaOf (ap 31) % 32 ≠ 0 ∧ vaOf (ap 0x3FFFE0) % 32 = 0 ∧ apOff (ap 0x3FFFE0) + 32 ≤ pairSize ∧
    pairSize < apOff (ap 0x3FFFE0) + 64 ∧ (mapped 0x1000).fctx.checkLock (mapped 0x1000) 0x1000 32 = .ok (inMap 0x1000 32) ∧
    (mapped 0x1000).fctx.checkLock (mapped 0x1000) 0x10000 32 = .error cXLATE ∧ (mapped 0x1000).lostAt 0x1000 = false ∧
    (mapped 0x1000).fcore.outsFull = false := by decide

def awaited (o : Out) : State := (mapped 0x1000).modFCore (fun k => { k with outs := [o] })
def outLoad : Out := anOut .load (.sld 2 1 3 0 0) 0x1000 8 0
def outStore : Out := anOut .store (.sst 1 1 3 0) 0x1000 8 5
def outLock : Out := anOut .tagset (.tagset 1 1 2) 0x1000 32 5
def outLog : Out := anOut .log (.mend) 0x1000 8 5
def outAtomic : Out := { anOut .atomic (.aadd 2 1 1 1) 0x1000 8 0 with vals := [5, 0] }
def aPart (o : Out) : OutPart := o.parts.headD (OutPart.new [] [] 0)
/-- An access of two parts, and one whose store has not left its core. -/
def outTwo : Out := { outLoad with parts := [aPart outLoad, OutPart.new [{ pa := 0x2000, len := 8, off := 8, val := 0 }] [] 0x1000] }
def outYoung : Out := { outStore with parts := [{ aPart outStore with stage := 0 }] }
def clears (o : Out) : Bool :=
  (awaited o).out 0 7 = some o && o.parts[0]? = some (aPart o) && (aPart o).pieces.length = 1 && (awaited o).clear 0 o 0 (aPart o) &&
    (awaited o).outFault 0 o = none
def poisonedLoad : State := { awaited outLoad with poison := [0x200] }
theorem witness_AccessesReturnAndPerform : clears outLoad = true ∧ clears outTwo = true ∧ clears outStore = true ∧
    stagesTo 0 0x1000 ≤ (aPart outStore).stage ∧ clears outYoung = true ∧ (aPart outYoung).stage < stagesTo 0 0x1000 ∧
    clears outLock = true ∧ clears outLog = true ∧ clears outAtomic = true ∧ MemOk (awaited outAtomic) ∧
    (awaited { anOut .value (.aadd 2 1 1 1) 0x1000 8 0 with vals := [9, 0] }).out 0 7 =
      some { anOut .value (.aadd 2 1 1 1) 0x1000 8 0 with vals := [9, 0] } ∧
    (awaited { outLoad with parts := [{ aPart outLoad with done := true }] }).clear 0 outLoad 0 { aPart outLoad with done := true } = false ∧
    (poisonedLoad.outFault 0 outLoad).map Prod.fst = some cPOISON ∧ (poisonedLoad.core 0).outs = [outLoad] ∧
    (poisonedLoad.ctx 0 0).handler = none ∧ bit (poisonedLoad.owl (towerOf 0)).trctl 0 = false :=
  ⟨by decide, by decide, by decide, by decide, by decide, by decide, by decide, by decide, by decide, rfl, by decide, by decide, by decide,
   by decide, by decide, by decide⟩

def barred (v : Word) (b : Bar) : State := (pointing (ap 0x40) v).putBar (barAddr 0 1) b
def aBar : Bar := { expected := 2, arrived := 1, phase := false, armed := true, bind0 := 0, bind1 := 0, status := 0, stop := 0 }
theorem witness_Barriers : isAp ((pointing 64 0).aOp 1) = false ∧ apBad ((pointing (ap 0x400000) 0).aOp 1) = true ∧
    ((pointing (ap 32) 0).aOp 1).toNat % 64 ≠ 0 ∧ (isAp (ap 0x40) = true ∧ apBad (ap 0x40) = false ∧ (ap 0x40).toNat % 64 = 0) ∧
    2 ^ 48 ≤ ((pointing (ap 0x40) 0x1000000000000).sOp 1).toNat ∧ ((pointing (ap 0x40) 0xFFFFFFFFFFFF).sOp 1).toNat < 2 ^ 48 ∧
    2 ≤ ((pointing (ap 0x40) 2).sOp 1).toNat ∧ (barred 2 aBar).bar (barAddr 0 1) = aBar ∧
    aBar.arrived < bits ((barred 2 aBar).sOp 1) 47 0 ∧ (aBar.bind0 = 0 ∧ aBar.bind1 = 0) ∧
    (badBind 2 = false ∧ bits (2 : Word) 2 0 = 2) ∧ aBar.expected ≤ min (aBar.arrived + 2) (2 ^ 48 - 1) ∧
    min (aBar.arrived + 2) (2 ^ 48 - 1) < 2 * aBar.expected ∧ min (aBar.arrived + 0) (2 ^ 48 - 1) < aBar.expected ∧
    aBar.phase = bit (0 : Word) 0 ∧ aBar.phase ≠ bit (1 : Word) 0 := by decide

/-- a1 points to the descriptor of a ring of two slots of 256 bytes at the start of the pair store, for core 0. -/
def ringDesc : State := (pointing (ap 0x1000) 0).writeMem (apAddr 0 0x1008) 8 0x0000000000010020
def aDesc : RingDesc := { w0 := ringDesc.word (apAddr 0 0x1000), w1 := ringDesc.word (apAddr 0 0x1008) }
/-- Core 1 has a ring of the same instance. -/
def ringShared : State :=
  { ringDesc.modCore 1 (fun k => { k with rings := [(0, { inst := apAddr 0 0, cursor := 0, roff := 0, ctx := 0, present := [] })] }) with
    insts := [aDesc.form 0 (apAddr 0 0)] }
theorem witness_RingsAndWatermarks : isAp ((pointing 16 0).aOp 1) = false ∧ ((pointing (ap 8) 0).aOp 1).toNat % 16 ≠ 0 ∧
    (isAp (ap 0x1000) = true ∧ apBad (ap 0x1000) = false ∧ (ap 0x1000).toNat % 16 = 0 ∧ ringDesc.poisoned (apAddr 0 0x1000) 16 = false) ∧
    aDesc.illegal 0 = false ∧ aDesc.illegal 1 = true ∧ aDesc.loc = 0 ∧ aDesc.field % aDesc.size = 0 ∧
    ringDesc.lostAt (apAddr 0 aDesc.field) = false ∧ aDesc.field + aDesc.count * aDesc.size ≤ pairSize ∧
    ringDesc.fcore.rings.find 0 = none ∧ ringDesc.otherRing 0 (apAddr 0 0) 0 0 = false ∧ ringDesc.producer 0 (apAddr 0 0) = false ∧
    ringDesc.inst 0 (apAddr 0 0) = none ∧ ringShared.otherRing 0 (apAddr 0 0) 0 0 = true ∧
    ringShared.inst 0 (apAddr 0 0) = some (aDesc.form 0 (apAddr 0 0)) ∧ aDesc.agrees (aDesc.form 0 (apAddr 0 0)) = true := by decide
theorem witness_PopsAndWatermarks : ringed.fcore.rings.find 2 = some aRing ∧ ringed.inst 0 aRing.inst = some aInst ∧
    aRing.cursor ≠ aInst.tail ∧ ({ aRing with cursor := 1 }).cursor = aInst.tail ∧ ringed.producer aInst.sett aInst.base = false ∧
    vaOf ((scalars 1 0).sOp 2) < vaOf ((scalars 1 0).sOp 1) ∧ vaOf ((scalars 0 0).sOp 1) ≤ vaOf ((scalars 0 0).sOp 2) ∧
    State.reset.cmds = [] := ⟨rfl, by decide, by decide, by decide, by decide, by decide, by decide, by decide⟩

/-! Gangs, signals, record mode, held output, engines -/

def aTask : BoundTask :=
  { tower := 0, graph := 0, idx := 0, desc := [], members := [(0, 0), (1, 0)], freed := [], arrived := [0], pre := none }
def tasked (b : BoundTask) (f : Ctx → Ctx) : State := { ctxed f with tasks := [(0, b)] }
def aWaiting : TaskSt :=
  { desc := [], stage := .waiting, order := 0, queued := false, prio := 0, passed := false, fails := 0, fired := 0xF }
def aGraph : Graph :=
  { order := 0, desc := [0, 0, 0, 4], base := 0, tasks := [(1, aWaiting)], code := 0, ftask := 0, rejected := false, abandoned := false,
    torndown := false, dlaunch := 0, retired := 0 }
def aSignal : SignalMsg := { core := 0, graph := 0, src := 0, idx := 1 }
def signalled (n : Nat) (g : SignalMsg) : Marten := { Marten.reset with signals := [g], graphs := [aGraph], counters := [(1, n)] }
def dispatched (m : Marten) : State := State.reset.setTower 0 { Tower.reset with marten := m }
theorem witness_GangsAndSignals : (ctxed (fun t => { t with hold := .gsyncDone })).fctx.hold = .gsyncDone ∧
    (tasked { aTask with members := [(0, 0)] } id).task 0 = some { aTask with members := [(0, 0)] } ∧ 1 < aTask.members.length ∧
    aTask.arrived ≠ [] ∧ (tasked aTask id).gangArrived aTask = false ∧
    (tasked { aTask with freed := [1] } id).gangArrived { aTask with freed := [1] } = true ∧
    65536 ≤ ((scalars 65536 0).sOp 1).toNat ∧ ((scalars 65535 0).sOp 1).toNat < 65536 ∧
    ((dispatched (signalled 1 aSignal)).marten 0).signals = [aSignal] ∧
    ((dispatched (signalled 1 aSignal)).marten 0).graphs.find? (fun h => h.order = aSignal.graph) = some aGraph ∧
    gNtask aGraph.desc ≤ ({ aSignal with idx := 4 }).idx ∧ aSignal.idx < gNtask aGraph.desc ∧
    (signalled 0 aSignal).counters.get 1 0 = 0 ∧ 2 ≤ (signalled 2 aSignal).counters.get 1 0 ∧
    (aGraph.tasks.find 1).map allFired = some true ∧ State.reset.marten 0 = Marten.reset ∧ Marten.reset.signals = [] := by decide

def aLaunch : Launch := { desc := [], host := none, core := 0, ctx := 0, task := 0, tower := 0, graph := 0, fires := [] }
def launchFrom (p : Word) : State := { pointing 0 p with tasks := [(0, aTask)] }
theorem witness_DeviceLaunches : isAp ((launchFrom 64).sOp 1) = false ∧ apBad ((launchFrom (ap 0x400000)).sOp 1) = true ∧
    vaOf ((launchFrom (ap 8)).sOp 1) % 64 ≠ 0 ∧ (isAp (ap 64) = true ∧ apBad (ap 64) = false ∧ vaOf (ap 64) % 64 = 0) ∧
    (poisonedAt 0 64).poisoned (apAddr 0 64) 64 = true ∧ State.reset.poisoned (apAddr 0 64) 64 = false ∧
    16 ≤ ((dispatched { Marten.reset with inflight := List.replicate 16 aLaunch }).marten 0).deviceInput ∧
    (launchFrom (ap 64)).task 0 = some aTask ∧ (State.reset.marten 0).deviceInput < 16 ∧
    (dispatched { Marten.reset with inflight := [aLaunch] }).tornDown 0 0 = false ∧
    (dispatched { Marten.reset with inflight := [aLaunch], graphs := [{ aGraph with torndown := true }] }).tornDown 0 0 = true := by
  decide

/-- A log of the first 64 KiB of LPDDR6: s1 its base, s2 its limit. -/
def logging (base lim : Word) : State := (mapped 0).modF (fun t => { t with regs := [(1, base), (2, lim)] })
theorem witness_RecordMode : MayRealign (logging 0 0x10000) ∧ (logging 0 0x10000).focus.caps = [] ∧
    (realigned (logging 0 0x10000)).stalled [1, 2] = false ∧
    (bits (0 : Word) 63 60 = 0 ∧ vaOf 0 % 64 = 0 ∧ bits (0x10000 : Word) 63 56 = 0 ∧ (0x10000 : Word).toNat % 64 = 0) ∧
    (logging 0 0x10000).realignF.fctx.check (logging 0 0x10000).realignF 0 1 .wr true = .ok (inMap 0 1) ∧ (inMap 0 1).level ≠ 0 ∧
    vaOf 32 % 64 ≠ 0 ∧ (realigned (ctxed (fun t => { t with csr := { t.csr with recording := true } }))).csr.recording = true ∧
    MayRealign State.reset ∧ (realigned State.reset).csr.recording = false ∧ (realigned State.reset).recSpan = none :=
  ⟨⟨rfl, rfl, rfl⟩, rfl, by decide, by decide, by decide, by decide, by decide, by decide, mayRealign_reset, by decide, by decide⟩

def walking (h : Hold) : State := ctxed (fun t => { t with hold := h, csr := { t.csr with revcur := 64 } })
theorem witness_ReverseWalks : (pointing 0 64).fctx.hold = .none ∧ MayRealign (pointing 0 64) ∧ isAp ((realigned (pointing 0 64)).reg 1) = false ∧
    isAp ((realigned (pointing 0 (ap 64))).reg 1) = true ∧ (realigned (pointing 0 (ap 64))).revAddr = 0 ∧
    (realigned (walking .none)).revAddr ≠ 0 ∧ (realigned handling).handler.isSome = true ∧
    (walking (.walk 64)).fctx.hold = .walk 64 ∧ (walking .walked).fctx.hold = .walked ∧
    (walking (.walkFault 0x29 0)).fctx.hold = .walkFault 0x29 0 ∧
    (match reverseOne 0 (walking (.walk (ap 64))).fctx (ap 64) ((walking (.walk (ap 64))).walker 0 0) with
     | .error e => decide (e.1 = cXLATE)
     | .ok _ => false) = true :=
  ⟨rfl, ⟨rfl, rfl, rfl⟩, by decide, by decide, by decide, by decide, rfl, rfl, rfl, rfl, by decide⟩

def anAsk : EgAsk := { core := 0, ctx := 0, veto := false, stream := 5, q := 2 }
def anItem : EgItem := { stream := 5, seq := 2, last := 2, veto := false, plen := 8, payload := List.replicate 8 0, released := true }
def anEgress (next setl : Nat) : Egress :=
  { streams := [(5, { next := next, setl := setl })], items := [anItem], asks := [anAsk], queue := [] }
def asking (g : Egress) : State := { walking .asked with egress := [(0, g)] }
theorem witness_HeldOutput : MayRealign (scalars 0x2000 0) ∧ 2 ^ 13 ≤ ((realigned (scalars 0x2000 0)).reg 1).toNat ∧
    ((realigned (scalars 0x1FFF 0xFFFFFFFF)).reg 1).toNat < 2 ^ 13 ∧ ((realigned (scalars 0x1FFF 0xFFFFFFFF)).reg 2).toNat < 2 ^ 32 ∧
    (walking (.answered false)).fctx.hold = .answered false ∧ (walking (.answered true)).fctx.hold = .answered true ∧
    ((asking (anEgress 3 1)).egr 0).asks.find? (fun e => e.core = 0 && e.ctx = 0) = some anAsk ∧
    ((asking (anEgress 2 1)).egr 0).stream 5 = { next := 2, setl := 1 } ∧ (2 ≤ anAsk.q ∧ anAsk.q < 3 ∧ anAsk.q < 3 ∧ 1 ≤ anAsk.q) :=
  ⟨⟨rfl, rfl, rfl⟩, by decide, by decide, by decide, rfl, rfl, by decide, by decide, by decide⟩

def aCmd (kind : CmdKind) (w : List Word) : Cmd :=
  { id := 7, kind := kind, core := 0, ctx := 0, task := 0, seq := 0, tok := 3, deps := [], ccb := w, aux := [], row := 0, read := false,
    landed := 0, buf := [], slots := [], error := none, ranges := [], ptbase := 0, tlb := [], refS := 0, refD := 0, lands := [],
    bad := [], credits := [], inp := [], src := none, landing := [], early := [] }
/-- An entry of 8 bytes from the aperture for stream 5, number 3. -/
def anEntry : List Word := [ap 0, 0x800000005, 3]
def aHostRing : HostRing := { base := 0x1000, slots := 2, head := 0, tail := 1 }
def giving (n : Nat) (h : HostRing) : State :=
  { State.reset with egress := [(0, { anEgress 3 1 with asks := [], queue := [aCmd .egq [ap 0, 0x800000005, BitVec.ofNat 64 n]] })],
                     mgmt := { Mgmt.reset with egrings := [(0, h)] } }
theorem witness_OutputRecords : ((giving 3 aHostRing).egr 0).queue = aCmd .egq anEntry :: [] ∧
    (giving 3 aHostRing).depsMet (aCmd .egq anEntry) = true ∧ ccBaren anEntry = false ∧ ((giving 3 aHostRing).egr 0).held < 65536 ∧
    eqSeq anEntry = (((giving 3 aHostRing).egr 0).stream (eqStream anEntry)).next ∧ eqSeq [ap 0, 0x800000005, 4] ≠ 3 ∧
    outItems [] ((giving 3 aHostRing).egr 0).items = [(anItem, [])] ∧
    (giving 3 aHostRing).mgmt.egrings.get 0 HostRing.reset = aHostRing ∧ aHostRing.valid 128 (2 ^ 64) = true ∧
    aHostRing.room (2 ^ 64) = true ∧ ({ aHostRing with tail := 2 }).valid 128 (2 ^ 64) = true ∧
    ({ aHostRing with tail := 2 }).room (2 ^ 64) = false := by decide

def fullBadger : State :=
  { State.reset with towers := [(0, { Tower.reset with badgers := [(0, { queue := List.replicate 256 (aCmd .pland []), running := none })] })] }
theorem witness_EngineCommandsHeld : ¬ MayCommand (ctxed (fun t => { t with cp := 255 })) 0 ∧
    ¬ MayCommand (ctxed (fun t => { t with tokens := 0x80000000 })) 31 ∧ MayCommand (pointing (ap 0x40) 0) 31 ∧
    isAp ((pointing 64 0).opnd (areg 1)) = false ∧ apBad ((pointing (ap 0x400000) 0).opnd (areg 1)) = true ∧
    ((pointing (ap 8) 0).opnd (areg 1)).toNat % 64 ≠ 0 ∧ (poisonedAt (ap 0x40) 0x78).poisoned (apAddr 0 0x40) 64 = true ∧
    (State.reset.badger (badgerFor 0)).cmds.length < 256 ∧ 256 ≤ (fullBadger.badger (badgerFor 0)).cmds.length :=
  ⟨fun h => absurd h.2 (by decide), fun h => absurd h.1 (by decide), ⟨Or.inr (by decide), by decide⟩, by decide, by decide, by decide,
   by decide, by decide, by decide +kernel⟩

/-- A control block of these words at offset 0x40, to which a1 points. -/
def blocked (ws : List (Nat × Nat)) : State := ws.foldl (fun s e => s.writeMem (apAddr 0 (0x40 + 8 * e.1)) 8 e.2) (pointing (ap 0x40) 0)
def capturedAt (s : State) (k : CmdKind) : Cmd := captured s k 0 0 0 0 1
theorem witness_block : MayCommand (blocked []) 0 ∧ BlockThere (blocked []) 1 ∧ (blocked [(0, 0xFF00000000001000)]).word (apAddr 0 0x40) = ap 0x1000 :=
  ⟨⟨Or.inl rfl, by decide⟩, ⟨by decide, by decide, by decide, by decide⟩, by decide⟩

/-- 64 bytes from offset 0x1000 to offset `d`; into a ring; to a bound send queue. -/
def copying (d w6 : Nat) : State :=
  blocked [(0, 0xFF00000000001000), (1, d), (2, 0x0001000100010040), (6, w6)]
theorem witness_CopyCommands :
    (let s := copying 0xFF00000000002000 0
     let k := capturedAt s .copy
     sidePtr (nth k.ccb 0) (k.srcSide.hull k.box) = none ∧ sidePtr (nth k.ccb 1) (k.dstSide.hull k.box) = none ∧ k.rows = 1 ∧
     copyIllegal s k = false ∧ cpSrch k.ccb = false ∧ cpDsth k.ccb = false ∧ cpDkind k.ccb = 0 ∧
     endsDiffer (k.srcSide.ends s s.fctx k.hulls.1) = false ∧ endsDiffer (k.dstSide.ends s s.fctx k.hulls.2) = false ∧
     overlap k.srcSide k.dstSide k.hulls.1 k.hulls.2 (k.srcSide.phys [0] k.hulls.1 (k.srcSide.ends s s.fctx k.hulls.1))
       (k.dstSide.phys [0] k.hulls.2 (k.dstSide.ends s s.fctx k.hulls.2)) = false) ∧
    (let s := copying 0xFF00000000001008 0
     let k := capturedAt s .copy
     overlap k.srcSide k.dstSide k.hulls.1 k.hulls.2 (k.srcSide.phys [0] k.hulls.1 (k.srcSide.ends s s.fctx k.hulls.1))
       (k.dstSide.phys [0] k.hulls.2 (k.dstSide.ends s s.fctx k.hulls.2)) = true) ∧
    (let s := copying 0xFF00000000002000 0x4000
     copyIllegal s (capturedAt s .copy) = true) ∧
    (let s := copying 0 4
     handleBad s.fctx (bits (nth (capturedAt s .copy).ccb 4) 4 0) = true) ∧
    (let s := copying 2 0x20
     let t := s.setSendq 2 { SendQ.reset with word1 := 1 }
     copyIllegal t (capturedAt t .copy) = false ∧ cpDkind (capturedAt t .copy).ccb = 2) ∧
    (let s := { (copying 2 0x10).modFCore (fun k => { k with rings := [(2, aRing)] }) with insts := [aInst] }
     copyIllegal s (capturedAt s .copy) = false ∧ s.ringTargets 0 2 0 = some [(0, pairAddr 0)]) := by decide +kernel

def jobOf (d : Nat) : State := blocked [(0, 0xFF00000000001000), (1, d), (2, 16)]
def sending (w1 : Nat) : State := (blocked [(0, 0xFF00000000001000), (1, w1), (2, 16)]).setSendq w1 { SendQ.reset with word1 := 1 }
def entering (w1 : Nat) : State := blocked [(0, 0xFF00000000001000), (1, w1), (2, 3)]
theorem witness_StreamsAndMessages :
    (let w := (capturedAt (jobOf 0xFF00000000002000) .stream).ccb
     isAp (nth w 0) = true ∧ apOff (nth w 0) + jcSrclen w ≤ pairSize ∧ 0 < jcSrclen w ∧ jcHas w 6 = false ∧ streamIllegal w = false ∧
     jobBad w = false ∧ cpDkind w = 0 ∧ ccMcast w = 0 ∧ apOff (nth w 0) + jcSrclen w ≤ apOff (nth w 1)) ∧
    (npostIllegal (sending 1) (capturedAt (sending 1) .send) = false ∧ npostIllegal (jobOf 1) (capturedAt (jobOf 1) .send) = true) ∧
    (egqIllegal (capturedAt (entering 0x800000005) .egq).ccb = false ∧ eqMen (capturedAt (entering 0x800000005) .egq).ccb = false) ∧
    egqIllegal (capturedAt (entering 0x700000005) .egq).ccb = true ∧
    (egqIllegal (capturedAt (entering 0x800002005) .egq).ccb = false ∧ eqMen (capturedAt (entering 0x800002005) .egq).ccb = true) := by
  decide

/-- The intersection of one empty list: the term table at 0x1000, the result at 0x2000, a capacity of 4. -/
def fusing (w3 : Word) : List Word := [ap 0x1000, ap 0x2000, 0, w3, 0, 0, 0, 0]
theorem witness_PostingListCommands :
    (capturedAt (blocked [(0, 0xFF00000000001000), (1, 0xFF00000000002000), (3, 0x1001)]) .pland).ccb = fusing 0x1001 ∧
    (∀ q ∈ badgerPtrs .pland (fusing 0x1001), isAp q.1 = true ∧ apBad q.1 = false ∧ apOff q.1 % q.2 = 0) ∧
    badgerRegions .pland (fusing 0x1001) 0 = [(0x1000, 16), (0x2000, 48)] ∧ badgerIllegal .pland (fusing 0x1001) = false ∧
    regionsMeet (badgerRegions .pland (fusing 0x1001) 0) = false ∧ lptrFault 0 = none ∧ termBad 0 0 = false ∧
    badgerIllegal .pland (fusing 0x1009) = true ∧ badgerIllegal .pland (fusing 0x1000) = true := by decide

def aWork (e : Engine) : State :=
  { State.reset with
    towers := [(0, { Tower.reset with copyEng := [(0, e)], badgers := [(0, e)] })], hares := [(0, e)] }
def aQueued (k : CmdKind) : Engine := { queue := [aCmd k [ap 0, 0, 16]], running := none }
def aRunning (k : Cmd) : Engine := { queue := [], running := some k }
def sendqd (v : SendQ) : State := State.reset.setSendq 0 v
theorem witness_EnginesStart : ((aWork (aQueued .copy)).copyEngine 0) = aQueued .copy ∧ ((aWork (aQueued .copy)).hare 0) = aQueued .copy ∧
    ((aWork (aQueued .pland)).badger 0) = aQueued .pland ∧ (aWork (aQueued .copy)).depsMet (aCmd .copy [ap 0, 0, 16]) = true ∧
    ((aWork (aRunning (aCmd .copy []))).copyEngine 0).running ≠ none ∧
    ((sendqd { SendQ.reset with queue := [aCmd .send [ap 0, 0, 16]] }).sendq 0).queue = [aCmd .send [ap 0, 0, 16]] ∧
    isAp (npBuf [ap 0, 0, 16]) = true ∧ 0 < npLen [ap 0, 0, 16] := by decide

/-- The copy of `copying`, running. -/
def aCopy : Cmd := aCmd .copy [ap 0x1000, ap 0x2000, 0x0001000100010040]
def aJob : Cmd := aCmd .stream [ap 0x1000, ap 0x2000, 64]
theorem witness_RowsAndBlocks : ((aWork (aRunning aCopy)).copyEngine 0).running = some aCopy ∧ aCopy.row < aCopy.rows ∧
    (aCopy.srcSide.ap = true ∧ aCopy.dstSide.ap = true ∧ aCopy.dstSide.kind = .mem ∧ cpSesz aCopy.ccb = 1 ∧ cpCvt aCopy.ccb = 0 ∧
      ccBaren aCopy.ccb = false ∧ ccWmen aCopy.ccb = false) ∧
    (aCopy.srcSide.addr [63, 0, 0, 0] = some 0x103F ∧ aCopy.dstSide.addr [63, 0, 0, 0] = some 0x203F) ∧
    Sound (aWork (aRunning aCopy)) (pairAddr 0 + 0x1000) 64 ∧
    ((aWork (aRunning aJob)).hare 0).running = some aJob ∧ jcChain aJob.ccb = [] ∧ aJob.inp.length < jcSrclen aJob.ccb ∧
    (let k := { aCopy with ccb := [0x40, ap 0x2000, 0x0001000100010040] }
     match k.srcSide.check State.reset k.view false true k.refS
       (joinRuns ((k.rowEls k.row).filterMap (fun x => x.2.1.map (fun v => (x.1 * k.srcSide.esz, v, k.srcSide.esz))))) with
     | .error e => decide (e = cXLATE)
     | .ok _ => false) = true :=
  ⟨by decide, by decide, by decide, by decide, ⟨by decide, by decide⟩, by decide, by decide, by decide, by decide⟩

def withBarrier (k : Cmd) : Cmd := { k with ccb := k.ccb ++ [0, 0, 0, 0, 0x10000], error := some (0x0C, 0, 5) }
theorem witness_CommandsComplete : ({ aCopy with row := 1, landed := 64 }).gathered = true ∧
    (aCopy.slots = [] ∧ aCopy.lands = [] ∧ aCopy.credits = [] ∧ ccWmen aCopy.ccb = false) ∧ ccBaren aCopy.ccb = false ∧
    (ccBaren (withBarrier aCopy).ccb = false → False) ∧ ccMcast (withBarrier aCopy).ccb = 0 ∧
    ((State.reset.bar (barAddr 0 0)).armed = false ∧ (State.reset.bar (barAddr 0 0)).code = 0) ∧
    (State.reset.bar (barAddr 0 0)).arrived + ((withBarrier aCopy).total - 0) < 2 ^ 48 ∧
    ({ aJob with inp := List.replicate 64 0, read := true, row := 1, landed := 64 }).jobRead = true ∧
    ((sendqd { SendQ.reset with sends := [aCmd .send [ap 0, 0, 16]] }).sendq 0).sends = aCmd .send [ap 0, 0, 16] :: [] ∧
    State.reset.savedTask (aCmd .send []) = none ∧ 16 ≤ (aCmd .send [ap 0, 0, 16]).sendTotal := by decide

def receiving (k : Cmd) : State := sendqd { SendQ.reset with word1 := 1, recvs := [k] }
def aReceive : Cmd := aCmd .recv [ap 0, 16, 16]
theorem witness_NetworkEvents : ((sendqd { SendQ.reset with word1 := 1 }).sendq 0).active = none ∧
    bits ((receiving aReceive).sendq 0).word1 1 0 ≠ 0 ∧ ((receiving aReceive).sendq 0).skip = 0 ∧
    ((receiving aReceive).sendq 0).active = some aReceive ∧ isAp (npBuf aReceive.ccb) = true ∧
    (0 + ([1, 2] : List (BitVec 8)).length ≤ npLen aReceive.ccb ∧ aReceive.landed + 2 ≠ npLen aReceive.ccb) ∧
    ({ aReceive with row := 8, landed := 8, slots := [(0, 8)] }).landed + 8 = npLen aReceive.ccb ∧
    SendQ.reset.cmds = [] ∧ ((receiving aReceive).sendq 0).cmds ≠ [] := by decide

/-! Graphs, pre-emption, modes, the host, Owl, the machine -/

/-- Launch queue 0 at 0x1000 with four slots, one descriptor waiting. -/
def aQueueHeader : State :=
  { ((State.reset.writeMem 0x40 8 0x1000).writeMem 0x48 8 4).writeMem 0x58 8 1 with
    mgmt := { Mgmt.reset with lqtab := 0x40, doorbells := [0] } }
/-- A graph of `n` tasks whose table stands at 0x10000. -/
def aGraphDesc (n : Nat) : List Word := [0x10000, 0x20000, 0, BitVec.ofNat 64 n, 0, 0, 0, 0]
def aTaskTable (s : State) : State := s.writeMem 0x10018 8 1
def arriving (d : List Word) : State :=
  aTaskTable (dispatched { Marten.reset with arrivals := [{ aLaunch with desc := d, host := some 0 }], orders := 1 })
def aReadyGraph : Graph :=
  { aGraph with desc := aGraphDesc 1, tasks := [(0, { aWaiting with stage := .runnable, queued := true })] }
def placing (p : List Placing) : State :=
  aTaskTable (dispatched { Marten.reset with graphs := [aReadyGraph], orders := 1, placing := p })
/-- A task of one member whose configuration image, at 0x40000, is 43 lines of zeros with their CRC. -/
def aPlacing : Placing := { graph := 0, idx := 0, desc := [0x40, 0, 0x40000], members := [(0, 7)], due := 3 }
def withImage (s : State) : State :=
  (List.range 43).foldr (fun k s => s.writeMem (0x40000 + 64 * k + 60) 4 (crc32c (List.replicate 60 0))) s
def recorded (h : HostRing) : State :=
  { dispatched { Marten.reset with records := [List.replicate 8 1] } with mgmt := { Mgmt.reset with fqs := [(0, h)] } }
def endedCtx : State := ctxed (fun t => { t with bound := true, ended := true })
theorem witness_GraphsAndTasks :
    lqBad (aQueueHeader.lqHeader 0) = false ∧ lqWaiting (aQueueHeader.lqHeader 0) = 1 ∧ inLpddr aQueueHeader.mgmt.lqtab.toNat 1024 = true ∧
    recordBad (aGraphDesc 1) = false ∧ graphBad (aGraphDesc 0) = true ∧ graphBad (aGraphDesc 1) = false ∧
    Marten.reset.freeRun 1 = some 0 ∧ taskBad ((arriving (aGraphDesc 1)).taskDesc (aGraphDesc 1) 0) 1 = false ∧
    (((placing []).marten 0).ready TaskSt.queued Ready.before).length = 1 ∧
    taskBad ((placing []).taskDesc (aGraphDesc 1) 0) 1 = false ∧
    ((placing []).fit 0 ((placing []).taskDesc (aGraphDesc 1) 0)).isSome = true ∧ (State.reset.marten 0).ready TaskSt.queued Ready.before = [] ∧
    (((placing []).marten 0).ready (fun k => decide (k.prio < 7)) Ready.older).length = 1 ∧
    (((placing [aPlacing]).image 0x40000).all lineOk = false ∧ aPlacing.members.Nodup) ∧
    (endedCtx.mayFree 0 0 = true ∧ State.reset.mayFree 0 0 = false) ∧
    ((recorded aHostRing).marten 0).records = [List.replicate 8 1] ∧ aHostRing.valid 64 65536 = true ∧ aHostRing.room 65536 = true ∧
    ({ aHostRing with tail := 2 }).room 65536 = false := by decide +kernel
theorem witness_image : ((withImage (placing [aPlacing])).image 0x40000).all lineOk = true ∧
    imgRefused ((withImage (placing [aPlacing])).image 0x40000) = false := by decide +kernel

def onOne (p : Option Preempt) : BoundTask :=
  { tower := 0, graph := 0, idx := 0, desc := [], members := [(0, 0)], freed := [], arrived := [], pre := p }
def aPre (st : PreStage) (landed : List Nat) : Preempt :=
  { areas := [(0x10000, 16)], live := [], landed := landed, stage := st, recorded := [], held := [], saved := [] }
def preempted (b : BoundTask) (f : Ctx → Ctx) : State :=
  (tasked b (fun t => f { t with bound := true })).modFCore (fun k => { k with running := some 0 })
theorem witness_Preemption : (preempted (onOne none) id).task 0 = some (onOne none) ∧ areaOk (0x10000, 1) = true ∧
    areaOk (0x10000, 65535) = true ∧ areaOk (0x10001, 1) = false ∧ areaOk (0x10000, 65536) = false ∧
    (((preempted (onOne none) id).core 0).running = some 0 ∧ ((preempted (onOne none) id).ctx 0 0).stopped = false) ∧
    ((preempted (onOne none) (fun t => { t with stopped := true })).ctx 0 0).stopped = true ∧
    (onOne (some (aPre .requested []))).toLand ≠ [] ∧ (onOne (some (aPre .requested [0]))).toLand = [] ∧
    (preempted (onOne (some (aPre .halted [0]))) id).maySave 0 (onOne (some (aPre .halted [0]))) = true ∧
    (tasked (onOne (some (aPre .saved [0]))) id).mayResume (onOne (some (aPre .saved [0]))) [5] = true := by decide +kernel

def layered (l : Layer) : State := State.reset.setTower 0 { Tower.reset with layers := [(1, l)] }
theorem witness_ModesLayersAndErrors :
    (State.reset.setTower 0 { Tower.reset with nextTmode := some true }).boundIn 0 (fun _ => true) = false ∧
    endedCtx.boundIn 0 (fun _ => true) = true ∧ State.reset.region (layerAddr 0 1) = .layer 0 1 0 ∧
    (layered { Layer.reset with detect := true }).layer 0 1 = { Layer.reset with detect := true } ∧
    State.reset.region 0 = .lpddr ∧ Layer.reset.retired = none ∧
    0 + ([0] : List Nat).length ≤ spareBanks 1 ∧ spareBanks 1 < spareBanks 1 + ([0] : List Nat).length ∧
    ([layerAddr 0 1 / 8] : List Nat).count (layerAddr 0 1 / 8) = 1 ∧
    bit (3 : Word) 0 = true ∧ bits (3 : Word) 9 8 = 0 ∧ bit (3 : Word) 1 = true ∧
    State.reset.region (State.reset.owl 0).erradr.toNat = .lpddr ∧ bits (0x301 : Word) 9 8 = 3 := by decide +kernel

set_option maxRecDepth 100000 in
theorem witness_flit : flitGood (flit 0 ftDATA 0 (List.replicate 244 1)) = true := by decide +kernel
theorem witness_HostAndManagement : State.reset.hostMay 0 64 = true ∧ State.reset.hostMay layerBase 64 = false ∧ layerBase < mgmtBase ∧
    State.reset.link.retraining = false ∧
    flitType (flit 0 ftDATA 0 (List.replicate 244 1)) = ftDATA ∧ flitSeq (flit 0 ftDATA 0 (List.replicate 244 1)) = 0 ∧
    flitGood [] = false ∧ ([flit 4095 ftDATA 0 []] : List (List Byte)).any (fun f => flitSeq f = 4095 % 4096) = true ∧
    lqBad (aQueueHeader.lqHeader 0) = false ∧ lqBad (State.reset.lqHeader 0) = true ∧ inLpddr 0 1024 = true ∧
    inLpddr (2 ^ 55) 1024 = false := by decide +kernel

/-- Owl of tower 0 with a command for core 0, context 0. -/
def owled (cmd : Word) (f : Ctx → Ctx) : State :=
  (ctxed (fun t => f { t with bound := true })).setTower 0 { Tower.reset with owl := { Owl.reset with cmd := cmd, pend := true } }
theorem witness_OwlCommands : bits ((owled 0x401 id).owl 0).cmd 10 4 < 96 ∧ 96 ≤ bits ((owled 0x601 id).owl 0).cmd 10 4 ∧
    owlOp ((owled 2 id).owl 0) = 2 ∧ owlOp ((owled 0 id).owl 0) = 0 ∧ 8 < owlOp ((owled 9 id).owl 0) ∧ (State.reset.owl 0).pend = false ∧
    ((owled 1 id).ctx 0 0).bound = true ∧ (State.reset.ctx 0 0).bound = false ∧
    (owled 2 (fun t => { t with stopped := true })).haltedForPre 0 0 = false ∧
    owlArg ((owled 0x0000044F00000005 id).owl 0) = 0x400 + 79 ∧ (State.reset.csr 0 0 0).isSome = true := by decide

theorem witness_AStepRunsTheDecodedOperation :
    (State.reset.withFetchWord 32 0x04716001).holder 0 = some 0 ∧
    (State.reset.withFetchWord 32 0x04716001).moves[(State.reset.withFetchWord 32 0x04716001).sched.headD 0 %
      max (State.reset.withFetchWord 32 0x04716001).moves.length 1]? = some (.core 0) ∧
    ((State.reset.withFetchWord 32 0x04716001).line 0 0 0).isSome = true ∧ State.reset.line 0 0 0 = none ∧
    (match decodeBundle Ctx.reset 0x04716001 false false with
     | .ok b => decide (b.x = .addImm 7 5 1)
     | .error _ => false) = true ∧
    (match decodeBundle Ctx.reset 0x5C000000 false false with
     | .ok _ => false
     | .error n => decide (n = 0)) = true ∧
    ((State.reset.withFetchWord 32 0x04716001).ctx 0 0).slipFull = false := by decide +kernel
theorem witness_DecodeAndEncodeAgree : (Instr.addImm 7 5 1).wellFormed = true ∧ encode (.addImm 7 5 1) = some 0x04716001 ∧
    Instr.nop.slot = none ∧ (encode .nop).isSome = true := by decide
theorem witness_EveryStepKeepsMemoryCanonical : MemOk withBytes ∧ (∃ t, exec .nop withBytes = .next t) ∧
    (match step State.reset with
     | .next _ => true
     | _ => false) = true :=
  ⟨by unfold MemOk; decide, ⟨_, rfl⟩, by decide +kernel⟩
theorem witness_EveryOperationGoesOn : (encode .nop).isSome = true := by decide

/-! Clauses at their bounds: layers that are gone, rings, launches, record mode, the reverse walk -/

/-- Layer 1 of tower 0 is retired; range entry 0 of the context maps the first 64 KiB of its extent one to one. -/
def overLost (p : Word) : State :=
  (layered { Layer.reset with retired := some 0x10000 }).modF (fun t => { t with
    regs := [(1, 5), (65, p)], ranges := [(0, 0), (1, 0x10000), (2, layerAddr 0 1), (3, 0x39)] })
theorem witness_LostLayer :
    (match (overLost 0x1000).fctx.checkLock (overLost 0x1000) 0x1000 32 with
     | .ok q => q.items.any (fun e => (overLost 0x1000).lostAt e.1)
     | .error _ => false) = true ∧ (overLost 0x1000).lostAt (layerAddr 0 1 + 0xFFFF) = true ∧ (overLost 0x1000).lostAt 0x1000 = false := by
  decide +kernel

/-- As `ringDesc`, with the ring in layer 1, which range entry 0 maps; and in no layer. -/
def ringFar (word3 : Word) : State :=
  (((pointing (ap 0x1000) 0).modF (fun t => { t with ranges := [(0, 0), (1, 0x10000), (2, layerAddr 0 1), (3, word3)] })).writeMem
    (apAddr 0 0x1000) 8 0x4000).writeMem (apAddr 0 0x1008) 8 0x12020
def descAt (s : State) : RingDesc := { w0 := s.wordNow (apAddr 0 0x1000), w1 := s.wordNow (apAddr 0 0x1008) }
def ringLive : State := { ringed with insts := [{ aInst with live := [(0, 1)] }] }
theorem witness_RingCases : ringDesc.apWaits (apAddr 0 0x1000) 16 = false ∧ ringDesc.poisonNow (apAddr 0 0x1000) 16 = false ∧
    (after_ (anOut .load (.sld 2 1 3 0 0) (apAddr 0 0x1008) 8 0) ringDesc).apWaits (apAddr 0 0x1000) 16 = true ∧
    { ringDesc with poison := [apAddr 0 0x1008 / 8] }.poisonNow (apAddr 0 0x1000) 16 = true ∧
    ringDesc.softAt (apAddr 0 0x1000) 16 = false ∧ ringDesc.wordNow (apAddr 0 0x1008) = 0x10020 ∧
    ringLive.inst 0 aRing.inst = some { aInst with live := [(0, 1)] } ∧
    (∃ e ∈ ([(0, 1)] : Tab (BitVec 16)), e.2.getLsbD (settIdx 0) = true) ∧
    aDesc.agrees { aDesc.form 0 (apAddr 0 0) with slotsz := 2 } = false ∧
    ((descAt (ringFar 0x39)).illegal 0 = false ∧ (descAt (ringFar 0x39)).loc = 1 ∧ (descAt (ringFar 0x39)).field = 0x4000) ∧
    ringVa (ringFar 0x39) (ringFar 0x39).fctx 0x4000 512 1 = some (layerAddr 0 1 + 0x4000, []) ∧
    ringVa (ringFar 0x3D) (ringFar 0x3D).fctx 0x4000 512 1 = none ∧
    (ringFar 0x39).lostAt (layerAddr 0 1 + 0x4000) = false := by decide
theorem witness_LaunchCases : (launchFrom (ap 64)).apWaits (apAddr 0 64) 64 = false ∧
    (launchFrom (ap 64)).poisonNow (apAddr 0 64) 64 = false ∧
    (after_ (anOut .store (.sst 1 1 3 0) (apAddr 0 120) 8 0) (launchFrom (ap 64))).apWaits (apAddr 0 64) 64 = true ∧
    (after_ (anOut .load (.sld 2 1 3 0 0) (apAddr 0 120) 8 0) (launchFrom (ap 64))).apWaits (apAddr 0 64) 64 = true ∧
    { launchFrom (ap 64) with poison := [apAddr 0 127 / 8] }.poisonNow (apAddr 0 64) 64 = true := by decide

/-- Record mode on, the log from address 64 to `lim`, in a bundle after RECON's. -/
def logged (lim : Word) : State :=
  let s := (mapped 0x1000).modF (fun t => { t with recSeq := 1, csr := { t.csr with recording := true, logptr := 65, loglim := lim } })
  { s with focus := { s.focus with seq := 2 } }
theorem logTakes_of (s : State) (a n m : Nat) (hm : n ≤ 64 * m)
    (h : (List.range m).all (fun j =>
      match logCheck s s.fctx (a + 64 * j) (min 64 (n - 64 * j)) with
      | .ok _ => true
      | .error _ => false) = true) : LogTakes s a n := by
  intro j hj
  have q := List.all_eq_true.1 h j (List.mem_range.2 (by omega))
  cases e : logCheck s s.fctx (a + 64 * j) (min 64 (n - 64 * j)) with
  | ok k => exact ⟨k, rfl⟩
  | error c => simp [e] at q
theorem logFails_of (s : State) (a n j : Nat) (e : Nat × Nat) (hj : 64 * j < n) (h : LogTakes s a (64 * j))
    (q : (match logCheck s s.fctx (a + 64 * j) (min 64 (n - 64 * j)) with
      | .ok _ => false
      | .error c => decide (c = e)) = true) : LogFails s a n e := by
  refine ⟨j, hj, h, ?_⟩
  cases r : logCheck s s.fctx (a + 64 * j) (min 64 (n - 64 * j)) with
  | ok k => simp [r] at q
  | error c => simp [r] at q; rw [q]
theorem witness_recording : (logged 0x10000).recordsNow = true ∧ (logged 0x10000).fctx.recSpan = none ∧
    (logged 0x40).fctx.logLimit < (logged 0x40).fctx.logAddr + 64 ∧
    (logged 0x10000).fctx.logAddr + 64 ≤ (logged 0x10000).fctx.logLimit ∧ LogTakes (logged 0x10000) 64 64 ∧
    LogTakes (logged 0x10000) 64 65472 ∧ LogFails (logged 0x20000) 0xFFC0 128 (cXLATE, 0) :=
  ⟨by decide, by decide, by decide, by decide, logTakes_of _ _ _ 1 (by decide) (by decide +kernel),
   logTakes_of _ _ _ 1023 (by decide) (by decide +kernel),
   logFails_of _ _ _ 1 _ (by decide) (logTakes_of _ _ _ 1 (by decide) (by decide +kernel)) (by decide +kernel)⟩

/-- In a recorded span, with `n` entries written, `f` of them MFLIPs. -/
def recordedSpan (n f : Nat) (g : State → State) : State :=
  let s := g ((logged 0x10000).modFCore (fun k => { k with arr := { k.arr with owner := some 0 } }))
  s.modF (fun t => { t with
    span := some { aSpan with record := some { aRecord with addr := 64, beats := List.replicate n 0, counts := [(2, f)] } } })
def withRing (s : State) : State := { s.modFCore (fun k => { k with rings := [(2, aRing)] }) with insts := [aInst] }
theorem witness_recordedSpan :
    ((logged 0x10000).recordsNow = true ∧ bits (0 : Word) 63 55 = 0 ∧ (logged 0x10000).fctx.span = none ∧
      (logged 0x10000).fcore.arr.owner = none) ∧ (logged 0x40).fctx.logLimit < 64 + 37952 ∧
    ((logged 0x10000).fctx.logAddr + 37952 ≤ (logged 0x10000).fctx.logLimit ∧ (logged 0x10000).fctx.mx < 2) ∧
    ((recordedSpan 8 63 id).recordsNow = true ∧ (recordedSpan 8 63 id).fctx.mdiscard = false ∧
      (recordedSpan 8 63 id).fctx.span = some { aSpan with record := some { aRecord with
        addr := 64, beats := List.replicate 8 0, counts := [(2, 63)] } }) ∧
    Tab.get [(2, 63)] 2 0 < 64 ∧ 64 ≤ Tab.get [(2, 64)] 2 0 ∧ aRecord.data = [] ∧
    LogTakes (recordedSpan 8 63 id) (64 + 64 + 8 / 8 * 64) 64 ∧
    pairOk (0#3).toNat (recordedSpan 0 0 withRing).fcore.arr.activeTag = true ∧ RowThere (recordedSpan 0 0 withRing) 2 128 aRing aInst ∧
    LogTakes (recordedSpan 0 0 withRing) 192 192 ∧
    ((recordedSpan 8 63 id).fcore.arr.inflight = [] ∧ (recordedSpan 8 63 id).fcore.arr.latch = [] ∧
      (recordedSpan 8 63 id).fcore.arr.scaleq = []) ∧ (recordedSpan 8 63 id).fctx.recSpan.isSome = true :=
  ⟨by decide, by decide, by decide, ⟨by decide, by decide, by decide⟩, by decide, by decide, by decide,
   logTakes_of _ _ _ 1 (by decide) (by decide +kernel), by decide, ⟨rfl, by decide, by decide, by decide, by decide, by decide, by decide, by decide, by decide⟩,
   logTakes_of _ _ _ 3 (by decide) (by decide +kernel), by decide, by decide⟩
/-- A log write of the context is outstanding, or has performed. -/
theorem witness_recoff : MayRealign (after_ outLog (logged 0x10000)) ∧ (realigned (after_ outLog (logged 0x10000))).csr.recording = true ∧
    (∃ e ∈ (after_ outLog (logged 0x10000)).fcore.outs, e.ctx = (logged 0x10000).focus.ctx ∧ e.kind = .log) ∧
    (∀ e ∈ (after_ outLoad (logged 0x10000)).fcore.outs, e.ctx = (logged 0x10000).focus.ctx → e.kind ≠ .log) ∧
    (realigned (recordedSpan 0 0 id)).recSpan.isSome = true ∧ (realigned (logged 0x10000)).recSpan = none :=
  ⟨⟨rfl, rfl, rfl⟩, by decide, ⟨outLog, by decide, rfl, rfl⟩, by decide, by decide, by decide⟩

def anEnt (n : Nat) : GEnt := { gptr := ap 0x100, rstr := 4, glen := n, key := 3, kind := 0 }
def aWalk (n k : Nat) : Walk := { c := 0, t := Ctx.reset, es := [{ anEnt n with kind := k }] }
theorem witness_walks : (pointing 0 (ap 64)).focus.caps = [] ∧ (realigned (pointing 0 (ap 64))).stalled [1] = false ∧
    (63 / 64 = 0 ∧ 64 / 64 = 1 ∧ (0 : Nat) < 64 / 64) ∧ (aWalk 4 0).gptr 0 2 0 0 = none ∧ (aWalk 4 0).gptr 0 3 0 3 = some (ap 0x10C) ∧
    (aWalk 4 0).gptr 0 3 0 4 = none ∧ (aWalk 8 1).gptr 1 3 1 3 = some (ap 0x11C) ∧ (aWalk 8 1).gptr 1 3 0 4 = none ∧
    (isAp (ap 0x10C) = true ∧ apBad (ap 0x10C) = false ∧ apOff (ap 0x10C) + 4 ≤ pairSize ∧ Sound State.reset (apAddr 0 0x10C) 4) :=
  ⟨by decide, by decide, by decide, by decide, by decide, by decide, by decide, by decide, by decide, by decide, by decide, by decide, by decide⟩

/-! Held output, commands, engines -/

theorem witness_askingTurn : (scalars 0x1FFF 0xFFFFFFFF).fctx.hold = .none ∧ (scalars 0x1FFF 0xFFFFFFFF).focus.caps = [] ∧
    (realigned (scalars 0x1FFF 0xFFFFFFFF)).stalled [1, 2] = false ∧
    ((0 : Nat) < numCores ∧ (0 : Nat) < numCtxs ∧ (0 : Nat) < 2 ∧ ∀ e ∈ ((asking (anEgress 3 1)).egr 0).asks, (0 : Nat) = 1 → False) ∧
    (2 ≤ anAsk.q ∧ ¬ anAsk.q < 2) ∧ anAsk.q < 3 := by decide
/-- EGQ has read its payload, one byte of it in error; 65,536 entries are held, or one less. -/
def readEntry : Cmd := { aCmd .egq anEntry with row := 1, buf := List.replicate 8 0 }
def heldItems (n : Nat) : Egress :=
  { anEgress 3 1 with asks := [], queue := [readEntry], items := List.replicate n { anItem with released := false } }
theorem witness_EntriesHeld : (0 < 2 ∧ (aCmd .egq anEntry).row = 0 ∧ Memory.wf (giving 3 aHostRing).mem = true ∧
      (giving 3 aHostRing).softAt (apAddr 0 (apOff (eqPayload anEntry))) (eqPlen anEntry) = false) ∧
    (readEntry.row = 1 ∧ readEntry.slots = [] ∧ ccBaren anEntry = false) ∧
    65536 ≤ (heldItems 65536).held ∧ (heldItems 65535).held < 65536 ∧ (heldItems 0).queue = [readEntry] := by decide +kernel

theorem witness_CommandWaits : (after_ (anOut .load (.sld 2 1 3 0 0) (apAddr 0 0x78) 8 0) (pointing (ap 0x40) 0)).apWaits (apAddr 0 0x40) 64
      = true ∧ (pointing (ap 0x40) 0).apWaits (apAddr 0 0x40) 64 = false ∧
    (poisonedAt (ap 0x40) 0x78).poisonNow (apAddr 0 0x40) 64 = true ∧ (pointing (ap 0x40) 0).poisonNow (apAddr 0 0x40) 64 = false := by decide

/-! Posting lists, engines at work -/

theorem witness_termTable :
    (∀ q ∈ badgerRegions .pland (fusing 0x1001) 0, q.1 + q.2 ≤ pairSize) ∧
    (¬ ∀ q ∈ badgerRegions .pland [ap 0x3FFFF8, ap 0x2000, 0, 0x1001, 0, 0, 0, 0] 0, q.1 + q.2 ≤ pairSize) ∧
    (blocked []).apWaits (apAddr 0 0x1000) 16 = false ∧ (blocked []).poisonNow (apAddr 0 0x1000) 16 = false ∧
    (after_ (anOut .load (.sld 2 1 3 0 0) (apAddr 0 0x100F) 1 0) (blocked [])).apWaits (apAddr 0 0x1000) 16 = true ∧
    { blocked [] with poison := [apAddr 0 0x1008 / 8] }.poisonNow (apAddr 0 0x1000) 16 = true ∧
    (blocked []).softAt (apAddr 0 0x1000) 16 = false ∧ lptrFault (ap 0x3FFFFF) = none ∧ termBad 1 0 = true ∧
    termBad 0 (0x80000001 <<< 32) = true ∧ topkBad [0, 0] = true ∧ topkBad [BitVec.ofNat 64 (4 * 2 ^ 48), 0] = false := by decide

/-- PLTOPK of `n0` records at 0x1000 into the object at 0x2000; PLFUSE of `n0` lexical and `n1` dense ones, mode `m`. -/
def topping (n0 : Nat) : Cmd := { aCmd .pltopk [ap 0x1000, ap 0x2000, 0, BitVec.ofNat 64 (n0 * 2 ^ 16), 0, 0, 0, 0] with aux := [] }
def twoRecords (a b : Nat) : State := (State.reset.writeMem (apAddr 0 0x1000) 8 (5 * 2 ^ 32 + a)).writeMem (apAddr 0 0x1008) 8 (7 * 2 ^ 32 + b)
def runningList (k : Cmd) : State := aWork { queue := [], running := some k }
theorem witness_listRuns : ((runningList (topping 0)).badger 0).running = some (topping 0) ∧ (topping 0).error = none ∧
    (badgerRun (runningList (topping 0)) (topping 0)).err = none ∧ ccBaren (topping 0).ccb = false ∧ Memory.wf (runningList (topping 0)).mem = true ∧
    ([(3, 5), (4, 7)] : List (Nat × Nat)).map Prod.fst = [3, 4] ∧ ([3, 4] : List Nat).Nodup ∧ ¬ ([3, 3] : List Nat).Nodup ∧
    ((twoRecords 3 4).readMem (apAddr 0 0x1008) 4, (twoRecords 3 4).readMem (apAddr 0 0x100C) 4) = (4, 7) ∧
    (twoRecords 3 3).readMem (apAddr 0 0x1000) 4 = (twoRecords 3 3).readMem (apAddr 0 0x1008) 4 ∧
    (twoRecords 3 4).poisoned (apAddr 0 0x1008) 8 = false ∧
    { twoRecords 3 4 with poison := [apAddr 0 0x1008 / 8] }.poisoned (apAddr 0 0x1008) 8 = true := by decide +kernel

/-- A block of two postings, docids 3 and 5 in gaps of one bit, impacts 7 and 9, at offset 0x1000. -/
def aBlock : PBlock := { first := 3, last := 5, count := 2, width := 1, maxImp := 9, off := 0, blen := 32, lastBlk := true, docs := none }
def aList : PList := { ptr := ap 0x1000, weight := 0x3F800000, lim := 32, off := 32, idx := 1, cur := some aBlock, ended := true }
def aPosting : State := State.reset.writeMem (apAddr 0 0x1010) 3 0x090702
theorem witness_block_decodes : Memory.wf aPosting.mem = true ∧ isAp aList.ptr = true ∧ 1 ≤ aBlock.count ∧ aBlock.blen = blockLen 2 1 ∧
    (match aList.decode aPosting (aCmd .pland []) 0 with
     | .ok (l, _) => decide (l.cur.bind PBlock.docs = some [(3, 7), (5, 9)])
     | .error _ => false) = true ∧
    ({ aBlock with docs := some [(3, 7)] }).posts.lookup 3 = some 7 ∧ ({ aBlock with docs := some [(3, 7)] }).posts.lookup 5 = none := by decide +kernel

/-- A send of 16 bytes at the aperture's start; what it has read; a queue under ROD, or one that has taken port 2. -/
def aSend : Cmd := aCmd .send [ap 0, 0, 16]
def readSend16 : Cmd := { aSend with read := true, buf := List.replicate 16 0 }
def twoCopies : Engine := { queue := [aCmd .copy [ap 0, 0, 16]], running := some { aCmd .copy [] with id := 8 } }
theorem witness_turnsOfEngines : ((aWork twoCopies).copyEngine 0).queue.find? (fun j => (aWork twoCopies).depsMet j) = some (aCmd .copy [ap 0, 0, 16]) ∧
    ((aWork twoCopies).copyEngine 0).running.toList ≠ [] ∧ numCopyEngines - 1 < numCopyEngines ∧ numSendQueues - 1 < numSendQueues ∧
    (5 : Nat) < 6 ∧ aSend.kind ≠ .recv ∧ aSend.sendTotal ≠ 0 ∧ ((sendqd { SendQ.reset with sends := [aSend] }).sendq 0).sends = [aSend] ∧
    (isAp (npBuf aSend.ccb) = true ∧ aSend.read = false ∧ aSend.buf = [] ∧ aSend.sent = 0 ∧ 0 < npLen aSend.ccb ∧ npLen aSend.ccb ≤ 4096) ∧
    State.reset.softAt (apAddr 0 0) 16 = false ∧ (readSend16.read = true ∧ 0 < readSend16.buf.length - readSend16.sent) ∧
    bits (SendQ.reset).word1 1 0 ≠ 1 ∧ bits ({ SendQ.reset with word1 := 1 }).word1 1 0 = 1 ∧ SendQ.reset.port = none ∧
    ({ SendQ.reset with port := some 2 }).port ≠ none ∧ ({ SendQ.reset with port := some 2 }).port ≠ some 0 ∧
    ({ readSend16 with lands := [16] }).out = true ∧ readSend16.out = false := by decide

/-- A row on its way in two parts. -/
def aLanding : Landing :=
  { parts := [({ pa := 0x2000, len := 8, off := 0, val := 1 }, false), ({ pa := 0x2008, len := 8, off := 8, val := 2 }, false)]
    vas := [], bytes := 16, code := 0, flags := 0, ix := 0 }
theorem witness_landing : aCopy.src = none ∧ aCopy.landing = [] ∧ ({ aCopy with landing := [aLanding] }).landing = aLanding :: [] ∧
    aLanding.parts = ({ pa := 0x2000, len := 8, off := 0, val := 1 }, false) :: ({ pa := 0x2008, len := 8, off := 8, val := 2 }, false) :: [] ∧
    ((aWork (aRunning { aCopy with landing := [aLanding] })).copyEngine 0).running = some { aCopy with landing := [aLanding] } ∧
    aJob.landing = [] ∧ aJob.src = none ∧ State.reset.savedTask aReceive = none := by decide

theorem witness_packets : 4096 < (List.replicate 4097 (0 : Byte)).length ∧ (List.replicate 4096 (0 : Byte)).length ≤ 4096 ∧
    (let k := { State.reset with link := { State.reset.link with retraining := true } }
     k.link.retraining = true) ∧ State.reset.link.retraining = false ∧ (SendQ.reset).cmds = [] := by
  refine ⟨by rw [List.length_replicate]; decide, by rw [List.length_replicate], rfl, rfl, rfl⟩

/-! Graphs, pre-emption, layers, the link, Owl -/

/-- A task is bound to context 0 of core 0 and holds a valid range entry on layer `n`; its layer has a failing bank. -/
def onLayer (l : Layer) (word3 : Word) : State :=
  { (layered l).modF (fun t => { t with bound := true, ranges := [(0, 0), (1, 0x10000), (2, 0), (3, word3)] }) with tasks := [(0, onOne none)] }
def failing : Layer := { Layer.reset with banks := [0] }
theorem witness_layers : (Layer.reset.retired = none ∧ 32 * spareBanks 1 - 1 < 32 * spareBanks 1 ∧ Layer.reset.banks.contains 1023 = false) ∧
    failing.banks.contains 0 = true ∧ failing.retired = none ∧ failing.forced = false ∧ failing.banks ≠ [] ∧
    (layered failing).tasksOn 0 1 = [] ∧ (onLayer failing 0x39).tasksOn 0 1 = [0] ∧
    (match exec (.preemptRequest 0 [(0x10000, 1)] []) (onLayer failing 0x39) with
     | .next u => decide (u.tasksOn 0 1 = [])
     | _ => false) = true ∧
    (onLayer failing 0x39).boundIn 0 (fun c : Ctx => c.rngList.any (fun i => bits (c.rng i 3) 2 0 = 1)) = true ∧
    (layered failing).boundIn 0 (fun c : Ctx => c.rngList.any (fun i => bits (c.rng i 3) 2 0 = 1)) = false ∧
    failing.spares + failing.banks.length ≤ spareBanks 1 ∧
    spareBanks 1 < ({ failing with spares := spareBanks 1 }).spares + failing.banks.length ∧
    (layered failing).soft = [] ∧ Layer.reset.badLanes = [] ∧ ({ Layer.reset with nextDetect := some true }).nextDetect = some true ∧
    (State.reset.region 0 = .lpddr ∧ State.reset.poison.contains (State.reset.owl 0).erradr.toNat = false) := by decide +kernel

theorem witness_preempting : (onOne none).members = [(0, 0)] ∧ (onOne none).freed = [] ∧
    ((preempted (onOne none) id).ctx 0 0).bound = true ∧ ((preempted (onOne none) id).ctx 0 0).task = 0 ∧
    ((preempted (onOne none) id).ctx 0 0).member = 0 ∧ ((preempted (onOne none) id).ctx 0 0).span = none ∧
    ((preempted (onOne none) id).core 0).outs = [] ∧ bit ((preempted (onOne none) id).owl 0).trctl 0 = false ∧
    (aPre .requested []).stage = .requested ∧ (aPre .requested []).landed = [] := by decide

theorem witness_signals_empty : aQueueHeader.mgmt.lqnext = 0 ∧ aQueueHeader.mgmt.doorbells.contains 0 = true ∧
    ((arriving (aGraphDesc 1)).marten 0).counters.get 0 0 = 0 ∧ aReadyGraph.order < 1 := by decide

/-- Flit 4095 has been refused `n` times. -/
def nakked (n : Nat) : Link := { State.reset.link with replay := [flit 4095 ftDATA 0 []], naks := [(4095, n)] }
theorem witness_links : (nakked 7).naks.get (4095 % 4096) 0 < 8 ∧ (nakked 8).naks.get (4095 % 4096) 0 = 8 ∧
    (nakked 8).naks.any (fun e => decide (8 < e.2)) = false ∧ (nakked 9).naks.any (fun e => decide (8 < e.2)) = true ∧
    (nakked 7).replay.any (fun f => flitSeq f = 4095 % 4096) = true ∧ (nakked 7).replay.length < 256 ∧ (nakked 7).retraining = false ∧
    256 ≤ ({ nakked 0 with replay := List.replicate 256 [] }).replay.length := by decide +kernel

theorem witness_owlFree : ((0 : Nat) < numTowers ∧ ((owled 0x5F1 id).owl 0).pend = true ∧ ((owled 0x5F1 id).owl 0).settling = false ∧
      ((owled 0x5F1 id).owl 0).stepping = false) ∧ bits ((owled 0x5F1 id).owl 0).cmd 10 4 = 95 ∧ bits ((owled 0x601 id).owl 0).cmd 10 4 = 96 ∧
    (State.reset.task 0 = none) ∧ ((owled 1 id).ctx 0 0).stopped = false ∧ ((owled 1 id).ctx 0 0).ended = false ∧
    (∀ p ∈ ((owled 6 id).ctx 0 0).pend, p.reg ≠ 79) ∧
    (∃ p ∈ ((owled 6 (fun t => { t with pend := [{ seq := 0, slot := 0, reg := 79, val := some 0, ready := 9, released := true }] })).ctx 0 0).pend, p.reg = 79) := by
  decide

/-! The machine as a whole -/

theorem witness_units : namesUnits (.loadValueReturn 767 (0, 0)) = true ∧ namesUnits (.loadValueReturn 768 (0, 0)) = false ∧
    namesUnits (.contextFree 0 7) = true ∧ namesUnits (.contextFree 0 8) = false ∧ namesUnits (.graphLaunch 7) = true ∧
    namesUnits (.graphLaunch 8) = false ∧ namesUnits (.failingTsvLane 0 4) = true ∧ namesUnits (.failingTsvLane 0 5) = false ∧
    namesUnits (.failingTsvLane 0 0) = false ∧ namesUnits (.egqRun (1, 0)) = true ∧ namesUnits (.egqRun (2, 0)) = false ∧
    namesUnits (.badgerComplete (15, 3)) = true ∧ namesUnits (.badgerComplete (16, 0)) = false ∧
    namesUnits (.netPacketReceive (127, 1) 0 [] 0) = true ∧ namesUnits (.netPacketReceive (128, 0) 0 [] 0) = false ∧
    namesUnits (.sendQueueStart (127, 0, 11, 0)) = true ∧ namesUnits (.sendQueueStart (128, 0, 5, 0)) = false ∧
    namesUnits (.sendQueueStart (127, 0, 12, 0)) = false ∧ namesUnits .nop = true ∧
    { State.reset with inputs := [.linkRetrained] }.enabled .linkRetrained = false ∧
    { State.reset with inputs := [.mgmtRegisterWrite (true, 0x20) 0] }.enabled (.mgmtRegisterWrite (true, 0x20) 0) = true := by decide +kernel

/-- A first bundle that is resident and decodes; a queued NOP that may issue and one that may not; Sync; a fetch that fails. -/
def oneBundle (w : Nat) : State := State.reset.withFetchWord 32 w
def queuedV (i : Instr) (f : Ctx → Ctx) : State :=
  (ctxed (fun t => f { t with bound := true, vq := [{ aQOp i 1 with caps := [] }] })).modFCore (fun k => { k with running := some 0 })
theorem witness_cycles : ((oneBundle 0x04716001).ctx 0 0).heldBack ((oneBundle 0x04716001).core 0).clock = false ∧
    ((oneBundle 0x04716001).ctx 0 0).returns = false ∧ (returning.ctx 0 0).returns = true ∧
    (∀ e ∈ (oneBundle 0x04716001).inputs, (oneBundle 0x04716001).enabled e = false) ∧
    ((oneBundle 0x04716001).ctx 0 0).stalled (scalarSrcs (.addImm 7 5 1)) = false ∧
    (oneBundle 0x04716001).xReady 0 0 (.addImm 7 5 1) = true ∧ stopsAfter (.addImm 7 5 1) = false ∧
    (oneBundle 0x04716001).breakAt 0 0 ((oneBundle 0x04716001).ctx 0 0).pc 0 = false ∧
    (ctxed id).holder 0 = none ∧
    ((queuedV .kinv id).core 0).running = some 0 ∧ ((queuedV .kinv id).ctx 0 0).queue 1 = aQOp .kinv 1 :: [] ∧
    (queuedV .kinv id).opReady 0 0 (aQOp .kinv 1) = true ∧ (queuedV .kinv id).breakAt 0 0 0 1 = false ∧
    ((queuedV .kinv id).modFCore (fun k => { k with busy := [(rUnit 1, 9)] })).opReady 0 0 (aQOp .kinv 1) = false ∧
    (match State.reset.fetchParts State.reset.fctx 0 with
     | .ok _ => false
     | .error _ => true) = true ∧
    (match (mapped 0).fetchParts (mapped 0).fctx 0 with
     | .ok _ => true
     | .error _ => false) = true := by decide +kernel

/-! Clauses of the second review: words, flags, gangs, outstanding accesses, records, rows in parts, tasks that end -/

theorem witness_wordsAndFlags : (0 < 4 ∧ (1#32 : SlotWord).extractLsb' 26 6 = 0 ∧ (1#32 : SlotWord) ≠ 0) ∧ (3 : Nat) < 4 ∧
    (5 ≤ (5#3).toNat ∧ ¬ (5 ≤ (4#3).toNat ∨ (0b010110#6) = 0b010011#6 ∨ (0b010110#6) = 0b010100#6 ∨ (0b010110#6) = 0b010101#6)) ∧
    (scalars 0 0).mask.getLsbD 0 = true ∧ (ctxed (fun t => { t with masks := [0] })).mask.getLsbD 0 = false ∧
    fmtOfType (0#3).toNat = some .f32 ∧ (match decodeF .f32 0x7FA00000 with
     | .nan q _ => q
     | _ => false) = true ∧ 2 ≤ (2#3).toNat ∧ (1#3).toNat < 2 := by decide +kernel
theorem witness_inPlainSpan : (∀ sp, (spanned id).fctx.span = some sp → sp.gang = none) ∧ (spanned id).fctx.span.isSome = true ∧
    (spanned id).fctx.hold = .none ∧ (spanned id).fctx.ended = false ∧ (spanned id).fcore.outs = [] :=
  ⟨fun sp h => by cases h; rfl, by decide, by decide, by decide, by decide⟩

/-- A closed span of core 0 whose last row is written in cycle 5, at cycle `n`. -/
def retiring (n : Nat) (g : Option Gang) : State :=
  cored (fun k => { k with clock := n, retiring := [{ ctx := 0, gang := g, ready := [(0, 5)] }] })
theorem witness_retiring : (∃ e ∈ [((0 : Nat), 5)], ((retiring 4 none).core e.1).clock < e.2) ∧
    (∀ e ∈ [((0 : Nat), 5)], e.2 ≤ ((retiring 5 none).core e.1).clock) ∧
    ((retiring 5 (some { aGang with baren := true })).core 0).retiring =
      { ctx := 0, gang := some { aGang with baren := true }, ready := [(0, 5)] } :: [] :=
  ⟨⟨(0, 5), by decide, by decide⟩, by decide, rfl⟩

/-- `ganged` with a latched row in both members and a window of `w` rows in the second. -/
def gangedWith (w : BitVec 14) : State :=
  (ganged.modFCore (fun k => { k with arr := { k.arr with latch := [aRow] } })).modCore 1 (fun k =>
    { k with
      arr := { k.arr with latch := [aRow] }
      ctxs := [(0, { Ctx.reset with
        bound := true
        csr := { Ctx.reset.csr with awbLen := w }
        span := some { aSpan with gang := some aGang } })] })
theorem leadsGang_with (w : BitVec 14) : LeadsGang (gangedWith w) aGang :=
  ⟨rfl, ⟨{ aSpan with gang := some aGang }, rfl, rfl, rfl⟩, rfl, rfl, List.mem_cons_self, by decide⟩
/-- An MDRAIN that stands before the FOLLOW of core 1 still waits there. -/
def drainingFirst : State :=
  let s := (gangedWith 4).modCtx 1 0 (fun t => { t with
    mq := [{ aQOp (.mdrain 0 0 0 0 0) 2 with caps := [(0, 0)] }]
    span := some { aSpan with seq := 1, gang := some aGang } })
  { s with focus := { s.focus with caps := [(0, 0)] } }
theorem witness_gangBeats : AllReady (gangedWith 4) aGang .mflip ∧ AllReady (gangedWith 4) aGang (.macc 0 0 0) ∧
    AllReady (gangedWith 4) aGang (.mzero 0 0 3) ∧
    ¬ AllReady drainingFirst aGang (.mzero 0 0 3) ∧
    (∀ m ∈ aGang.members, 0 + (3#6).toNat < ((gangedWith 4).ctx m.1 m.2).csr.awbLen.toNat ∧
      ((gangedWith 4).core m.1).arr.latch = aRow :: []) ∧
    ¬ 0 + (3#6).toNat < ((gangedWith 3).ctx 1 0).csr.awbLen.toNat ∧
    (∀ m ∈ aGang.members, settIdx m.1 < settIdx 1 → 0 + (3#6).toNat < ((gangedWith 3).ctx m.1 m.2).csr.awbLen.toNat) ∧
    (gangedWith 3).memberReady (.mzero 0 0 3) 1 0 = true ∧ (gangedWith 3).breakAt 0 0 (gangedWith 3).focus.addr 2 = false ∧
    ({ gangedWith 3 with focus := { (gangedWith 3).focus with slot := 2 } }).focus.slot = 2 ∧
    ((gangedWith 3).ctx 1 0).span = some { aSpan with gang := some aGang } ∧ ((gangedWith 3).ctx 1 0).hold = .none ∧
    ((gangedWith 3).ctx 1 0).ended = false ∧ ((gangedWith 3).core 1).outs = [] ∧
    bit ((gangedWith 3).owl (towerOf 1)).trctl 0 = false := by
  refine ⟨?_, ?_, ?_, ?_, by decide +kernel⟩ <;> unfold AllReady <;> decide +kernel

/-! Outstanding accesses -/

theorem witness_heldScales : (heldBack (ap 0)).fcore.wmHeld (vaOf (ap 0)) 64 = true ∧
    (pointing (ap 0) 0).fcore.wmHeld (vaOf (ap 0)) 64 = false ∧
    (after_ (anOut .store (.sst 1 1 3 0) (apAddr 0 0) 8 0) (pointing (ap 0) 0)).apWaits (apAddr 0 0) 40 = true := by decide

/-- An atomic `i` of operand 5, and of comparand 7, on `n` bytes at 0x1000; what it returns. -/
def outOf (i : Instr) (n : Nat) : Out := { anOut .atomic i 0x1000 n 0 with vals := [5, 7] }
def returnsOld (i : Instr) : Out := { anOut .value i 0x1000 8 0 with vals := [9, 1] }
theorem witness_translatedAtomics : ([outOf (.afadd 2 1 1) 4, outOf (.amin 2 1 1 0 2) 4, outOf (.amax 2 1 1 1 0) 8,
      outOf (.alogic 2 1 1 1 2) 8, outOf (.aswp 2 1 1 0) 4, outOf (.acas 2 1 1 3 1) 8] : List Out).all (fun o =>
        clears o && (awaited o).fctx.handler.isNone) = true ∧
    (atomicOf (Instr.acas 2 1 1 3 1)).isSome = true ∧
    (awaited (returnsOld (.acas 2 1 1 3 1))).out 0 7 = some (returnsOld (.acas 2 1 1 3 1)) ∧
    (awaited outLoad).partFault 0 outLoad (aPart outLoad) = none ∧ (poisonedLoad.partFault 0 outLoad (aPart outLoad)).isSome = true := by
  decide
theorem witness_faultsWhenPerforming : outLoad.op.links = [] ∧ (poisonedLoad.ctx 0 0).hvec = 0 ∧ (poisonedLoad.ctx 0 0).stopped = false ∧
    (∀ q ∈ (poisonedLoad.core 0).outs, q.ctx = 0 → q.id = 7) ∧ ((poisonedLoad.modF (fun t => { t with hvec := 0x800 })).ctx 0 0).hvec ≠ 0 ∧
    (poisonedLoad.modF (fun t => { t with hvec := 0x800 })).outFault 0 outLoad = poisonedLoad.outFault 0 outLoad := by decide

/-! Record mode -/

theorem witness_badLogs : ¬ (bits (0x20 : Word) 63 56 = 0 ∧ (0x20 : Word).toNat % 64 = 0) ∧
    ¬ vaOf ((realigned (logging 64 64)).reg (sreg 1)) < vaOf ((realigned (logging 64 64)).reg (sreg 2)) ∧
    (logging 0x10000 0x20000).realignF.fctx.check (logging 0x10000 0x20000).realignF 0x10000 1 .wr true = .error cXLATE ∧
    MayRealign (logging 0x10000 0x20000) ∧ (realigned (logging 0x10000 0x20000)).span = none ∧
    (realigned (logging 0x10000 0x20000)).handler = none :=
  ⟨by decide, by decide, by decide, ⟨rfl, rfl, rfl⟩, by decide, by decide⟩

/-- As `recordedSpan`, with `n` beats of kind `k` counted, a window of four rows and a latched row. -/
def recordedBeats (k n : Nat) : State :=
  let s := withRing ((logged 0x10000).modFCore (fun k => { k with arr := { k.arr with owner := some 0, latch := [aRow], scaleq := [1, 2] } }))
  s.modF (fun t => { t with
    csr := { t.csr with awbLen := 4 }
    span := some { aSpan with record := some { aRecord with addr := 64, counts := [(k, n)] } } })
theorem witness_recordedBeats : (recordedBeats 4 63).fctx.accRow 3 = some 3 ∧ Tab.get [(4, 63)] 4 0 < 64 ∧ 64 ≤ Tab.get [(4, 64)] 4 0 ∧
    (recordedBeats 4 63).fcore.arr.latch = aRow :: [] ∧ (recordedBeats 4 63).recordsNow = true ∧ (recordedBeats 4 63).fctx.mdiscard = false ∧
    (recordedBeats 4 63).fctx.span = some { aSpan with record := some { aRecord with addr := 64, counts := [(4, 63)] } } ∧
    LogTakes (recordedBeats 4 63) 128 64 ∧ LogTakes (recordedBeats 4 63) 192 256 ∧ (0#6).toNat * 64 * drainWidth 0 < 4096 ∧
    0 + (3#6).toNat < (recordedBeats 6 63).fctx.csr.awbLen.toNat ∧ (2 ≤ (recordedBeats 1 63).fcore.arr.scaleq.length ∧
      RowThere (recordedBeats 1 63) 2 (rowBytes 0) aRing aInst ∧ RowThere (recordedBeats 1 63) 2 (rowBytes 6) aRing aInst) :=
  ⟨by decide, by decide, by decide, rfl, by decide, by decide, rfl, logTakes_of _ _ _ 1 (by decide) (by decide +kernel),
   logTakes_of _ _ _ 4 (by decide) (by decide +kernel), by decide, by decide, by decide,
   ⟨rfl, by decide, by decide, by decide, by decide, by decide, by decide, by decide, by decide⟩,
   ⟨rfl, by decide, by decide, by decide, by decide, by decide, by decide, by decide, by decide⟩⟩

/-! The reverse walk over a span record -/

def aBeat (i : Instr) : SBeat := { ins := i, x := 1, preg := 3, rowix := 2, scales := [], row := 1, sup := some 0 }
def aScan : RScan := { active := [], shadow := [], tagA := none, tagS := none, shifts := [], pushes := [] }
def aShift : RShift :=
  { ring := 2, rowix := 2, els := [0, 0], plane := ((aScan.beat 0 (aBeat (.mpush 2 0 0 0 0 0))).beat 0 (aBeat .mflip)).active }
/-- No entry of the table covers an element, so that the passes read and write nothing. -/
def noGrads : Walk := { c := 0, t := Ctx.reset, es := [] }
def passes (r : Except (Nat × Nat) (List (List Nat) × State)) : Bool :=
  match r with
  | .ok _ => true
  | .error _ => false
theorem witness_spanPasses : passes (noGrads.pass1 [aBeat (.mdrain 0 0 3 0 0), aBeat (.mzero 0 0 1), aBeat (.macc 0 0 3), aBeat (.maccU 0 0)] []
      [] State.reset) = true ∧
    (match noGrads.takeAll 0 3 0 [0, 63] State.reset with
     | .ok (gs, _) => decide (gs.length = 2)
     | .error _ => false) = true ∧
    aShift.els.length = 2 ∧ (aShift.plane.find (64 * 0 + 0)).isSome = true ∧ (aShift.plane.find (64 * 1 + 0)).isSome = false ∧
    beatRow (aBeat (.mpush 2 0 0 0 0 0)).ins ≠ 0 ∧
    ((aBeat (.mpush 2 0 0 0 0 0)).push 0)[0]?.isSome = true := by decide +kernel

/-! Engines -/

/-- A PLTOPK object at 0x2000 with `n` of `cap` records, for a command that no other runs before. -/
def objectOf (cap n : Nat) : State :=
  (aWork { queue := [topping 1], running := none }).writeMem (apAddr 0 0x2000) 8 (cap * 2 ^ 48 + n)
theorem witness_topkStarts : (((objectOf 4 1).badger 0).running = none ∧ ((objectOf 4 1).badger 0).queue = [topping 1] ∧
      (objectOf 4 1).depsMet (topping 1) = true ∧ (objectOf 4 1).soft = []) ∧
    (let head := (objectOf 4 1).words (apAddr 0 0x2000) 2
     topkBad head = false ∧ (∀ r ∈ badgerRegions .pltopk (topping 1).ccb (hdK head), r.1 + r.2 ≤ pairSize) ∧
       regionsMeet (badgerRegions .pltopk (topping 1).ccb (hdK head)) = false ∧
       (objectOf 4 1).poisoned (apAddr 0 0x2000) (16 + 8 * hdN head) = false) ∧
    topkBad ((objectOf 1 2).words (apAddr 0 0x2000) 2) = true ∧ (objectOf 1 2).poisoned (apAddr 0 0x2000) 16 = false ∧
    ({ objectOf 4 1 with poison := [apAddr 0 0x2008 / 8] }).poisoned (apAddr 0 0x2000) 16 = true := by decide +kernel
theorem witness_listEnds : (topping 1).read = false ∧ tagged (topping 1).refD = false ∧ (runningList (topping 1)).soft = [] ∧
    (topping 1).src = none ∧ ((topping 1).run (runningList (topping 1))).err = none := by decide +kernel

theorem witness_ports : (11 / 6 = 64 / 64 ∧ 6 / 6 = 127 / 64 ∧ 5 / 6 = 63 / 64) ∧ (5 / 6 ≠ 64 / 64 ∧ 6 / 6 ≠ 63 / 64) ∧ (11 : Nat) < 12 := by
  decide

/-- A copy that reads the locked granule 0x1000 with tag 0 of a tag-checked side, part by part; one that lands there. -/
def aSrcPart (d : Bool) : RowPart := { piece := { pa := 0x1000, len := 8, off := 0, val := 0 }, done := d, bad := false, soft := false }
def lockedAt (k : Cmd) : State := { aWork (aRunning k) with locks := [(0x1000 / 32, 5)] }
def checkedCopy : Cmd := { aCopy with refS := 5, refD := 5 }
theorem witness_lockedParts : (∃ f : Nat, tagged f = true ∧ (lockedAt aCopy).locked f 0 0x1000 8 = true ∧ (lockedAt aCopy).locked f 5 0x1000 8 = false) ∧
    ([aSrcPart true, aSrcPart false] : List RowPart)[1]? = some (aSrcPart false) ∧ (aSrcPart false).done = false ∧
    (lockedAt aCopy).locked 0 0 0x1000 8 = false ∧ tagged aCopy.refS = false ∧ tagged aCopy.refD = false := by
  refine ⟨⟨5, by decide, by decide, by decide⟩, by decide, by decide, by decide, by decide, by decide⟩

theorem witness_packetParts : aReceive.landing = [] ∧ tagged aReceive.refD = false ∧ ((receiving aReceive).sendq 0).active = some aReceive ∧
    (∀ r ∈ aReceive.slots, r.2 ≤ 0 ∨ 0 + 2 ≤ r.1) := by decide

/-! Graphs and tasks, what stands over a step -/

/-- A graph of two tasks at 0x10000, of which the second is bad: its COUNT is 0. -/
theorem witness_badTask : taskBad ((arriving (aGraphDesc 2)).taskDesc (aGraphDesc 2) 0) 2 = false ∧
    taskBad ((arriving (aGraphDesc 2)).taskDesc (aGraphDesc 2) 1) 2 = true ∧ (1 : Nat) < 2 ∧ Marten.reset.freeRun 2 = some 0 ∧
    recordBad (aGraphDesc 2) = false ∧ graphBad (aGraphDesc 2) = false ∧ gNtask (aGraphDesc 2) = 2 := by decide +kernel

/-- A task of one member that has ended, of a graph of `n` tasks, with successor 1 named once, whose counter stands at `c`. -/
def aDone : BoundTask := { onOne none with desc := [0, 0, 0, 0x1000, 1, 0, 0, 0] }
def ending (n c : Nat) (d : List Word) : State :=
  { (dispatched { Marten.reset with
      graphs := [{ aGraph with desc := aGraphDesc n, tasks := [(0, { aWaiting with stage := .running }), (1, aWaiting)] }], counters := [(1, c)] }).modF
      (fun t => { t with bound := true, ended := true }) with tasks := [(0, { aDone with desc := d })] }
theorem witness_taskEnds : (ending 2 1 aDone.desc).mayFree 0 0 = true ∧ (ending 2 1 aDone.desc).task 0 = some aDone ∧
    ((ending 2 1 aDone.desc).ctx 0 0).task = 0 ∧ aDone.members.length = aDone.freed.length + 1 ∧
    (let g := { aGraph with desc := aGraphDesc 2, tasks := [(0, { aWaiting with stage := .running }), (1, aWaiting)] }
     ((ending 2 1 aDone.desc).marten 0).graphs.find? (fun h => h.order = 0) = some g ∧ (g.tasks.find 0).isSome = true ∧
       g.retired + 1 ≠ gNtask g.desc ∧ (g.rejected = false ∧ g.abandoned = false ∧ g.torndown = false) ∧ allFired aWaiting = true) ∧
    (gNtask (aGraphDesc 1) = 0 + 1 ∧ dNsucc (List.replicate 8 0) = 0) ∧
    ({ aTask with members := [(0, 0), (1, 0)], freed := [] }).members.length ≠ ([] : List Nat).length + 1 := by decide +kernel
theorem witness_successor : dNsucc aDone.desc = 1 ∧ dSucc aDone.desc 0 = 1 ∧ ((ending 2 1 aDone.desc).marten 0).counters.get (0 + 1) 0 = 1 ∧
    ((ending 2 0 aDone.desc).marten 0).counters.get (0 + 1) 0 < 1 := by decide

theorem witness_moments : State.reset.due = [] ∧ (onLayer failing 0x39).due = [] ∧ (layered failing).due ≠ [] ∧
    (∀ sp, ((preempted (onOne none) id).ctx 0 0).span = some sp → sp.gang = none) ∧
    (∀ sp, ((spanned id).ctx 0 0).span = some sp → sp.gang = none) :=
  ⟨by decide +kernel, by decide +kernel, by decide +kernel, (fun sp h => by cases h), fun sp h => by cases h; rfl⟩
theorem witness_gangWaits : LeadsGang drainingFirst aGang ∧
    ∀ m ∈ aGang.members, 0 + (3#6).toNat < (drainingFirst.ctx m.1 m.2).csr.awbLen.toNat :=
  ⟨⟨rfl, ⟨{ aSpan with gang := some aGang }, rfl, rfl, rfl⟩, rfl, rfl, List.mem_cons_self, by decide⟩, by decide +kernel⟩

/-! Clauses of the third review -/

/-- A span in which an MPUSH of one or two scales (`f` = 5 or 6) at program order `seq` has still to issue, of `n` scales in the queue. -/
def scaling (n seq : Nat) (f : BitVec 3) : State :=
  (spanned (fun a => { a with scaleq := List.replicate n 0 })).modF (fun t => { t with mq := [{ aQOp (.mpush 2 0 f 0 0 0) 2 with seq := seq }] })
theorem witness_scalesPending : (∀ o ∈ (scaling 64 0 6).fctx.mq, spanOp o.ins = false) ∧ (scaling 64 0 6).focus.seq = 0 ∧
    ((scaling 64 0 6).mqBefore.map (fun o => scalesOf o.ins)).sum = 2 ∧
    ((scaling 64 0 6).fcore.arr.scaleq.length - 2 + 2 ≤ 64 ∧ 64 < (scaling 64 0 6).fcore.arr.scaleq.length - 2 + 3) ∧
    (∃ o ∈ (scaling 64 0 6).fctx.mq, o.seq ≤ (scaling 64 0 6).focus.seq ∧ scalesOf o.ins ≠ 0) ∧
    (∀ o ∈ (scaling 64 1 5).fctx.mq, o.seq ≤ (scaling 64 1 5).focus.seq → scalesOf o.ins = 0) ∧
    (∃ o ∈ (joining.ctx 0 0).mq, spanOp o.ins = true) ∧
    (pointing (ap 0x3FFFC0) 0).apWaits (apAddr 0 0x3FFFC0) 64 = false := by decide +kernel

/-- A barrier bound to token 5 of context 0 of core 0, where a command holds the token or has given it back; one in an error that a read
corrects. -/
def boundBar : Bar := { aBar with bind0 := 0xA002 }
def tokened (w : BitVec 32) : State := (barred 2 boundBar).modF (fun t => { t with tokens := w, cp := 1 })
theorem witness_barriersBound : (badBind boundBar.bind0 = false ∧ bits boundBar.bind0 2 0 = 2 ∧ boundBar.bind1 = 0) ∧
    (tokened 2).bar (barAddr 0 1) = boundBar ∧ bits boundBar.bind0 17 13 = 5 ∧ (96 * (0 / 48) + bits boundBar.bind0 9 3, bits boundBar.bind0 12 10) = (0, 0) ∧
    bit ((tokened 0x20).ctx 0 0).tokens 5 = true ∧ bit ((tokened 0).ctx 0 0).tokens 5 = false ∧
    (tokened 0x20).softAt (barAddr 0 1) 40 = false ∧ { tokened 0x20 with soft := [(barAddr 0 1 + 32) / 8] }.softAt (barAddr 0 1) 40 = true ∧
    (tokened 0x20).apWaits (apAddr 0 0x40) 40 = false := by decide

/-- Two SIGNALs on their way, the second from a lower core. -/
def crossing (last : Nat) : Marten :=
  { signalled 1 { aSignal with core := 1 } with signals := [{ aSignal with core := 1 }, aSignal], lastSrc := last }
theorem witness_signalsCross : (dispatched (crossing 0)).turn 1 = (0, dispatched (crossing 0)) ∧
    (crossing 0).signals[((dispatched (crossing 0)).turn 2).1]? = some { aSignal with core := 1 } ∧
    (crossing 0).signals[({ dispatched (crossing 0) with sched := [1] }.turn 2).1]? = some aSignal ∧
    ¬ 2 * 0 + 2 < (crossing 0).lastSrc ∧ 2 * 0 + 2 < (crossing 4).lastSrc := by decide +kernel

/-- A task that became runnable in this round, or in an earlier one. -/
def placingAt (cycle : Nat) (placed : Bool) : Marten := { ((placing [aPlacing]).marten 0) with cycle := cycle, placed := placed }
theorem witness_placing : (placingAt 1 false).placed = false ∧ (placingAt 1 false).placeable.length = 1 ∧ (placingAt 0 false).placeable = [] ∧
    (placingAt 1 true).placed = true ∧ (placingAt 2 false).cycle < aPlacing.due ∧ aPlacing.due ≤ (placingAt 3 false).cycle ∧
    (dispatched (placingAt 1 false)).fit 0 ((placing []).taskDesc (aGraphDesc 1) 0) =
      (placing []).fit 0 ((placing []).taskDesc (aGraphDesc 1) 0) := by decide +kernel

/-- A store of the context is on its way to the gradient element, or to another. -/
theorem witness_gradientWaits : (let s := after_ (anOut .store (.sst 1 1 3 0) (apAddr 0 0x108) 8 0) State.reset
      s.apWaits (apAddr 0 0x10C) 4 = true ∧ s.apWaits (apAddr 0 0x110) 4 = false) ∧
    (let s := (ctxed (fun t => { t with hold := .walk (ap 0x1000), csr := { t.csr with revcur := 0x40 } }))
     (s.ctx 0 0).hold = .walk (ap 0x1000) ∧
     (match reverseOne 0 (s.ctx 0 0) (ap 0x1000) (s.walker 0 0) with
      | .error e => decide (e.1 = cXLATE)
      | .ok _ => false) = true) := by decide +kernel
/-- The log holds the header of a tile record, and `o` is outstanding. -/
def headed (o : List Out) : State :=
  let s := ((mapped 0).modF (fun t => { t with hold := .walk (ap 0x1000), seq := 4, csr := { t.csr with revcur := 0x1000 } })).modFCore (fun k =>
    { k with outs := o })
  (s.writeMem 0x1000 8 2).writeMem 0x1008 8 0x4000000000
theorem witness_recordWaits : ((headed [outLog]).ctx 0 0).hold = .walk (ap 0x1000) ∧
    (match reverseOne 0 ((headed [outLog]).ctx 0 0) (ap 0x1000) ((headed [outLog]).walker 0 0) with
     | .error e => decide (e.1 = 0)
     | .ok _ => false) = true ∧
    (match readHeader 0 ((headed []).ctx 0 0) 0x1000 ((headed []).walker 0 0) with
     | .error _ => false
     | .ok q => decide (q.1.kind = 2)) = true ∧
    (match reverseOne 0 ((headed []).ctx 0 0) (ap 0x1000) ((headed []).walker 0 0) with
     | .error e => decide (e.1 = cILLOP)
     | .ok _ => false) = true := by decide +kernel

/-- Two EGQs are ready, and items of two streams may leave. -/
def twoEntries : State :=
  { State.reset with egress := [(0, { anEgress 3 1 with
      asks := [], items := [anItem, { anItem with stream := 6 }, { anItem with seq := 3 }]
      queue := [aCmd .egq anEntry, { aCmd .egq anEntry with id := 8 }] })] }
theorem witness_entriesInAnyOrder :
    (((twoEntries.egr 0).queue.filter (fun j => twoEntries.depsMet j)).head?.map Cmd.id = some 7 ∧
      (((twoEntries.egr 0).queue.filter (fun j => twoEntries.depsMet j))[1]?).map Cmd.id = some 8 ∧ (twoEntries.mirrorWords 0).length + 1 + 1 = 2) ∧
    (outItems [] (twoEntries.egr 0).items).map (fun q => q.1.stream) = [5, 6] ∧ (twoEntries.turn 2).1 = 0 ∧
    ({ twoEntries with sched := [1] }.turn 2).1 = 1 ∧ outItems [] (anEgress 3 1).items ≠ [] ∧
    outItems [] (heldItems 1).items = [] := by decide +kernel

/-- A host read of bytes in an error that it corrects, and of sound ones. -/
theorem witness_hostReads : State.reset.softAt 0 64 = false ∧ { State.reset with soft := [7] }.softAt 0 64 = true ∧
    { State.reset with soft := [7] }.hostMay 0 64 = true := by decide

/-- A store of the context supplies the bytes of a row that MPUSH reads. -/
theorem witness_rowSuppliers : ringed.suppliers 0 0 ringed.nextOut (pairAddr 0) 512 = [] ∧
    ((ringed.modFCore (fun k => { k with outs := [{ anOut .store (.sst 1 1 3 0) (pairAddr 0) 8 5 with op := aQOp (.sst 1 1 3 0) 0 }] })).suppliers
      0 0 8 (pairAddr 0) 512).length = 1 := by decide +kernel

/-- DBGBRK in a bundle whose stop meets a deferred fault of an older load, or none. -/
def stopping (s : State) : State := s.modF (fun t => { t with bound := true, seq := 4 })
theorem witness_stopsMeetFaults : (stopping poisonedLoad).stopPick 0 0 0 4 ≠ none ∧ (stopping State.reset).stopPick 0 0 0 4 = none ∧
    stopsAfter .dbgbrk = true := by decide +kernel

/-- CMP and SEL at the bounds of what raises ILLOP. -/
theorem witness_compareWords : (0x3C001400#32).extractLsb' 26 6 = (0b001111#6) ∧ ((0x3C001400#32).extractLsb' 10 3).toNat = 5 ∧
    5 < ((0x3C001800#32).extractLsb' 10 3).toNat ∧
    ((0x3C000008#32).extractLsb' 13 1 = (0 : BitVec 1) ∧ (0x3C000008#32).extractLsb' 0 4 ≠ (0 : BitVec 4)) ∧
    (0x3C002008#32).extractLsb' 13 1 = (1 : BitVec 1) ∧ (0x40000002#32).extractLsb' 26 6 = (0b010000#6) ∧
    (0x40000002#32).extractLsb' 0 2 ≠ (0 : BitVec 2) ∧ (0x40000004#32).extractLsb' 0 2 = (0 : BitVec 2) := by decide

end Sys2Proof.Tests
end

section
/-! Decoding and encoding agree (R9, R51, R283 to R293). A word is taken apart into its fields: that a word is the concatenation which
`encode` writes says what each field is, and an opcode map reads nothing else, so both directions compare fields. -/

namespace Sys2Proof

/-! Fields of a word -/

/-- The field of `w` from bit `lo` on, as wide as `x`, is `x`. -/
def HasField {n : Nat} (w : SlotWord) (lo : Nat) (x : BitVec n) : Prop := fld w lo n = x

theorem some_eq_some_iff_hasField (x w : SlotWord) : some x = some w ↔ HasField w 0 x := by
  simp [HasField, fld, eq_comm]

/-- A part of a field is a field. -/
theorem extractLsb'_fld {k m n : Nat} (w : SlotWord) (lo : Nat) (h : k + m ≤ n) :
    (fld w lo n).extractLsb' k m = fld w (lo + k) m := by
  ext i hi
  have hn : k + i < n := by omega
  simp [fld, hn, Nat.add_assoc]

/-- Two neighbouring fields make up one field. -/
theorem fld_append_fld (w : SlotWord) (lo m n : Nat) : fld w (lo + n) m ++ fld w lo n = fld w lo (m + n) :=
  BitVec.extractLsb'_append_extractLsb'_eq_extractLsb' rfl

/-- What a field holds, by its upper and its lower part. -/
theorem fld_eq_iff_parts {m n : Nat} (w : SlotWord) (lo : Nat) (x : BitVec (m + n)) :
    fld w lo (m + n) = x ↔ fld w (lo + n) m = x.extractLsb' n m ∧ fld w lo n = x.extractLsb' 0 n := by
  constructor
  · rintro rfl
    exact ⟨(extractLsb'_fld w lo (Nat.add_comm n m).le).symm, (extractLsb'_fld (k := 0) w lo (by omega)).symm⟩
  · rintro ⟨hhi, hlo⟩
    rw [← fld_append_fld, hhi, hlo, BitVec.extractLsb'_append_extractLsb'_eq_extractLsb' (by simp), BitVec.extractLsb'_eq_self]

/-- A field that is a concatenation is two neighbouring fields. -/
theorem hasField_append {m n : Nat} (w : SlotWord) (lo : Nat) (x : BitVec m) (y : BitVec n) :
    HasField w lo (no_index (x ++ y)) ↔ HasField w (lo + n) x ∧ HasField w lo y := by
  rw [HasField, fld_eq_iff_parts, BitVec.extractLsb'_append_eq_left, BitVec.extractLsb'_append_eq_right]
  rfl

/-- A field that reaches down from the top of the word is the opcode with what lies below it. -/
theorem fld_eq_iff_opcode {lo n : Nat} (w : SlotWord) (x : BitVec n) (hlo : lo < 26) (hn : lo + n = 32) :
    fld w lo n = x ↔ fld w 26 6 = x.extractLsb' (26 - lo) 6 ∧ fld w lo (26 - lo) = x.extractLsb' 0 (26 - lo) := by
  obtain rfl : n = 6 + (26 - lo) := by omega
  rw [fld_eq_iff_parts, Nat.add_sub_cancel' hlo.le]

theorem opcode_eq_iff (w : SlotWord) (c : BitVec 6) : fld w 26 6 = c ↔ (fld w 26 6).toNat = c.toNat := BitVec.toNat_inj.symm

/-- The low bits of a field are the low bits of the word from the same place on. -/
theorem fld_eq_low {k n : Nat} (w : SlotWord) (lo : Nat) (h : k ≤ n) : fld w lo k = (fld w lo n).extractLsb' 0 k := by
  rw [extractLsb'_fld w lo (by omega), Nat.add_zero]

/-- A field is not zero when its low bits are not. -/
theorem fld_ne_zero_of_low {k n : Nat} {w : SlotWord} {lo : Nat} (h : k ≤ n) (hk : fld w lo k ≠ 0) : fld w lo n ≠ 0 := by
  intro hn
  simp [fld_eq_low w lo h, hn] at hk

/-! What an opcode map reads is what `encode` writes: in each branch of a map its tests and the fields that it hands to the operation
are together all the fields of the operation's word. -/

/-- The opcode map of slot `k` (R284). -/
def slotMap (k : Nat) (w : SlotWord) : Option Instr :=
  match k with
  | 0 => decodeX w
  | 1 => decodeV w
  | 2 => decodeM w
  | 3 => decodeL w
  | _ => none

theorem encode_of_slotMap {k : Nat} {w : SlotWord} {i : Instr} : slotMap k w = some i → encode i = some w := by
  fun_cases slotMap k w
  on_goal 4 => fun_cases decodeL w
  on_goal 3 => fun_cases decodeM w
  on_goal 2 => fun_cases decodeV w
  on_goal 1 => fun_cases decodeX w
  all_goals
    intro h
    cases h
  all_goals
    simp [encode, -Option.some.injEq, some_eq_some_iff_hasField, ↓hasField_append, HasField, fld_eq_iff_opcode, opcode_eq_iff, *]

/-! What `encode` writes, the opcode map of the slot reads: the fields of the word choose the operation's branch. Where two operations
share an opcode, the tests of the branch before an operation's own fail on its word; KMOV_FROM, MACC_U and XINV_VA need for this that a
field overlaps another. -/

theorem decodeX_of_encode {w : SlotWord} {i : Instr} (hs : i.slot = some 0) (h : encode i = some w) : decodeX w = some i := by
  cases i <;> cases hs
  all_goals
    simp only [encode, some_eq_some_iff_hasField, ↓hasField_append, HasField, fld_eq_iff_opcode, BitVec.reduceExtractLsb',
      Nat.reduceAdd, Nat.reduceSub, Nat.reduceLT, Nat.ofNat_pos] at h
    simp [decodeX, h]

theorem decodeV_of_encode {w : SlotWord} {i : Instr} (hs : i.slot = some 1) (h : encode i = some w) : decodeV w = some i := by
  cases i <;> cases hs
  all_goals
    simp only [encode, some_eq_some_iff_hasField, ↓hasField_append, HasField, fld_eq_iff_opcode, BitVec.reduceExtractLsb',
      Nat.reduceAdd, Nat.reduceSub, Nat.reduceLT, Nat.ofNat_pos] at h
  case kmovFrom.refl =>
    have hto : fld w 0 20 ≠ 0 := fld_ne_zero_of_low (k := 14) (by decide) (by simp [h])
    simpa [decodeV, h] using hto
  all_goals simp [decodeV, h]

theorem decodeM_of_encode {w : SlotWord} {i : Instr} (hs : i.slot = some 2) (h : encode i = some w) : decodeM w = some i := by
  cases i <;> cases hs
  all_goals
    simp only [encode, some_eq_some_iff_hasField, ↓hasField_append, HasField, fld_eq_iff_opcode, BitVec.reduceExtractLsb',
      Nat.reduceAdd, Nat.reduceSub, Nat.reduceLT, Nat.ofNat_pos] at h
  case maccU.refl =>
    have hlow : fld w 0 2 ≠ 0 := by simp [fld_eq_low w 0 (by decide : 2 ≤ 8), h]
    simpa [decodeM, h] using hlow
  all_goals simp [decodeM, h]

theorem decodeL_of_encode {w : SlotWord} {i : Instr} (hs : i.slot = some 3) (h : encode i = some w) : decodeL w = some i := by
  cases i <;> cases hs
  all_goals
    simp only [encode, some_eq_some_iff_hasField, ↓hasField_append, HasField, fld_eq_iff_opcode, BitVec.reduceExtractLsb',
      Nat.reduceAdd, Nat.reduceSub, Nat.reduceLT, Nat.ofNat_pos] at h
  case xinvVa.refl =>
    have hall : fld w 0 26 ≠ 0 := fld_ne_zero_of_low (k := 20) (by decide) (by simp [h])
    simpa [decodeL, h] using hall
  all_goals simp [decodeL, h]

/-! Slots -/

theorem checked_eq_ok_iff {o : Option Instr} {i : Instr} : checked o = .ok i ↔ o = some i ∧ i.wellFormed = true := by
  fun_cases checked o <;> grind

theorem decodeSlot_eq_ok_iff {k : Nat} {w : SlotWord} {i : Instr} :
    decodeSlot k w = .ok i ↔ slotMap k w = some i ∧ i.wellFormed = true := by
  fun_cases decodeSlot k w <;> simp [slotMap, checked_eq_ok_iff]

theorem slot_lt_four {i : Instr} {k : Nat} (hs : i.slot = some k) : k < 4 := by
  cases i <;> cases hs <;> decide

theorem slotMap_of_encode {i : Instr} {k : Nat} {w : SlotWord} (hs : i.slot = some k) (h : encode i = some w) :
    slotMap k w = some i := by
  match k, slot_lt_four hs with
  | 0, _ => exact decodeX_of_encode hs h
  | 1, _ => exact decodeV_of_encode hs h
  | 2, _ => exact decodeM_of_encode hs h
  | 3, _ => exact decodeL_of_encode hs h

/-- Of the operations with a word, NOP alone has no slot of its own (R376). -/
theorem eq_nop_of_slot_eq_none {i : Instr} {w : SlotWord} (hs : i.slot = none) (h : encode i = some w) : i = .nop := by
  cases i <;> cases hs
  case nop.refl => rfl
  all_goals cases h

/-- Settles O58: both directions compare the fields of a word, slot by slot. -/
theorem decodeAndEncodeAgree : Obligations.DecodeAndEncodeAgree := by
  unfold Obligations.DecodeAndEncodeAgree
  refine ⟨fun i v hwf henc => ⟨fun k hs => ?_, fun hs => ?_⟩, fun k v i hdec => ?_⟩
  · exact decodeSlot_eq_ok_iff.mpr ⟨slotMap_of_encode hs henc, hwf⟩
  · obtain rfl := eq_nop_of_slot_eq_none hs henc
    obtain rfl : 0#32 = v := Option.some.inj henc
    exact ⟨rfl, by decide⟩
  · obtain ⟨hmap, hwf⟩ := decodeSlot_eq_ok_iff.mp hdec
    exact ⟨hwf, encode_of_slotMap hmap⟩

end Sys2Proof
end

section
/-! Which meanings go on (R283, and R15, R16, R18, R22, R31 for the units that an event names): every branch of a meaning ends in a next
state, but for the check with which an event begins; and a step runs nothing but meanings. -/

namespace Sys2Proof

open Machine

/-- The machine goes on if `b` says that the units are there, and stops for want of one if not. -/
def GoesOnIf (b : Bool) (o : Host.Outcome State Fault Refusal) : Prop := if b then GoesOn o else o = .fault .noSuchUnit

@[simp] theorem goesOn_next (t : State) : GoesOn (.next t) := ⟨t, rfl⟩
@[simp] theorem goesOn_happened (s : State) : GoesOn (happened s) := goesOn_next _
@[simp] theorem goesOn_notNow (s : State) : GoesOn (notNow s) := goesOn_next _

@[simp] theorem goesOn_finish (s : State) (r : Res) : GoesOn (finish s r) := by cases r <;> exact goesOn_next _

@[simp] theorem goesOn_fromHost (s t : State) : GoesOn (fromHost s t) := by
  fun_cases fromHost s t <;> exact goesOn_next _

/-- An event checks first that its units are there. -/
theorem goesOnIf_guard {p : Prop} [Decidable p] {b : Bool} {o : Host.Outcome State Fault Refusal} (hb : b = true ↔ ¬ p) (ho : GoesOn o) :
    GoesOnIf b (if p then .fault .noSuchUnit else o) := by
  by_cases h : p <;> simp_all [GoesOnIf]

theorem goesOn_finishBeat (s : State) (b : BeatRes) : GoesOn (finishBeat s b) := by cases b <;> exact goesOn_next _

theorem goesOn_gangBeat (s : State) (ms : List (Nat × Nat)) (ins : Instr) (f : State → Nat → Nat → BeatRes) :
    GoesOn (gangBeat s ms ins f) := by
  fun_cases gangBeat s ms ins f <;> exact goesOn_next _

theorem goesOn_beat (s : State) (ins : Instr) (f : State → Nat → Nat → BeatRes) : GoesOn (beat s ins f) := by
  fun_cases beat s ins f
  · exact goesOn_next _
  · exact goesOn_gangBeat _ _ _ _
  · exact goesOn_finishBeat _ _

theorem goesOn_spanBeat (s : State) (ins : Instr) (f : State → Nat → Nat → BeatRes) : GoesOn (spanBeat s ins f) := by
  fun_cases spanBeat s ins f
  · exact goesOn_next _
  · exact goesOn_beat _ _ _

theorem goesOn_mend (s : State) : GoesOn (execMend s) := by
  fun_cases execMend s
  case case5 => exact goesOn_gangBeat _ _ _ _
  case case6 => exact goesOn_finish _ _
  case case7 => exact goesOn_finishBeat _ _
  all_goals exact goesOn_next _

theorem goesOn_releaseOp (s : State) (veto : Bool) (ss sq : BitVec 6) : GoesOn (releaseOp s veto ss sq) := by
  fun_cases releaseOp s veto ss sq
  case case1 | case5 => exact goesOn_finish _ _
  all_goals exact goesOn_next _

theorem goesOn_reverse (g : BitVec 6) (s : State) : GoesOn (execReverse g s) := by
  unfold execReverse
  dsimp only
  cases s.fctx.hold
  case walk | walked | walkFault => exact goesOn_next _
  all_goals
    cases realigning s [sreg g] .done
    case done =>
      dsimp only
      repeat' split
      all_goals exact goesOn_next _
    all_goals exact goesOn_next _

theorem goesOn_mgmtRegisterWrite (p : Bool × Nat) (v : BitVec 64) (s : State) : GoesOn (execMgmtRegisterWrite p v s) := by
  fun_cases execMgmtRegisterWrite p v s
  case case1 | case3 => exact goesOn_fromHost _ _
  all_goals exact goesOn_next _

@[simp] theorem goesOn_moveOf (s : State) (c : Nat) (o : Out) (j : Nat) : GoesOn (moveOf s c o j) := by
  unfold moveOf
  dsimp only
  repeat' split
  all_goals exact goesOn_next _

@[simp] theorem goesOn_sendPacket (s : State) (q : Nat) (k : Cmd) (port : Nat) : GoesOn (sendPacket s q k port) := by
  fun_cases sendPacket s q k port <;> exact goesOn_next _

@[simp] theorem goesOn_landReceive (s : State) (q i : Nat) : GoesOn (landReceive s q i) := by
  fun_cases landReceive s q i <;> exact goesOn_next _

theorem goesOnIf_owlRun {b : Bool} (s : State) (t op : Nat) (k : Nat → Nat → Nat → State) (hb : b = decide (t < numTowers)) :
    GoesOnIf b (owlRun s t op k) := by
  refine goesOnIf_guard (by simp [hb]) ?_
  dsimp only
  repeat' split
  all_goals exact goesOn_next _

theorem goesOnIf_owlStep (t : Nat) (s : State) : GoesOnIf (decide (t < numTowers)) (execOwlStep t s) := by
  have hrun (k : Nat → Nat → Nat → State) (ht : t < numTowers) : GoesOn (owlRun s t 3 k) := by
    simpa [GoesOnIf, ht] using goesOnIf_owlRun s t 3 k rfl
  fun_cases execOwlStep t s
  all_goals simp_all [GoesOnIf]

/-- No instruction is refused, and one faults only if it names a unit that is not there. -/
theorem goesOnIf_exec (i : Instr) (s : State) : GoesOnIf (namesUnits i) (exec i s) := by
  cases i
  -- events that check for their units, and then end every branch in a next state
  case signalDecrement | deviceLaunchArrive | reverseRecord | egressAnswer | rowEmerge | spanRetire | deferredFault | copyStart |
      copyRow | copyComplete | hareJobStart | hareBlock | hareJobEnd | badgerStart | badgerComplete | npostSendComplete |
      netSendAbandon | egqRun | egressRecordOut | graphLaunch | taskPlace | contextBind | agingTick | contextFree | graphTeardown |
      faultQueueWrite | throttleWindow | timingModeApply | bankFailing | failingTsvLane | recoveryDelayExpire | recoveryPoint |
      owlSettleDone | owlBadCommand | traceSample | bridgeReplay | encodingFault =>
    refine goesOnIf_guard (by simp [namesUnits, Nat.one_le_iff_ne_zero, and_assoc]) ?_
    repeat' ((try dsimp only); split)
    all_goals exact goesOn_next _
  -- those that go on in another meaning
  case loadValueReturn | storePerform | sendQueueStart | netPacketReceive | nqBind | errorInjectArm =>
    refine goesOnIf_guard (by simp [namesUnits]) ?_
    repeat' ((try dsimp only); split)
    all_goals simp
  case owlStop | owlResume | owlSettle | owlRdreg | owlWrreg | owlFlush | owlTagdump =>
    simp only [exec, execOwlStop, execOwlResume, execOwlSettle, execOwlRdreg, execOwlWrreg, execOwlFlush, execOwlTagdump]
    exact goesOnIf_owlRun _ _ _ _ rfl
  case owlStep => exact goesOnIf_owlStep _ _
  -- from here on no units are named
  all_goals change GoesOn _
  case gsync | gsyncRelease | hdr | icacheFill | launchRead | preemptRequest | preemptForcedStop | preemptHalt | preemptSave |
      gangResume | scrubVisit | hostRead | flitReceive | flitNak | linkRetrain | linkRetrained | imginvDone | attestationReport =>
    simp only [exec, execGsync, execGsyncRelease, execHdr, execIcacheFill, execLaunchRead, execPreemptRequest,
      execPreemptForcedStop, execPreemptHalt, execPreemptSave, execGangResume, execScrubVisit, execHostRead, execFlitReceive,
      execFlitNak, execLinkRetrain, execLinkRetrained, execImginvDone, execAttestationReport]
    repeat' split
    all_goals exact goesOn_next _
  -- the beats of the M slot, and the operations that ask or walk
  case mpush | mflip | mshift | macc | maccU => exact goesOn_spanBeat _ _ _
  case mdrain | mzero => exact goesOn_beat _ _ _
  case mend => exact goesOn_mend _
  case reverse => exact goesOn_reverse _ _
  case release | veto => exact goesOn_releaseOp _ _ _ _
  case egressStreamReset | launchDoorbell | imageInvalidate | attestationRequest | hostWrite => exact goesOn_fromHost _ _
  case mgmtRegisterWrite => exact goesOn_mgmtRegisterWrite _ _ _
  -- the other operations answer `finish`, these of a result that is always there
  case nop | addReg | addImm | subReg | subImm | mulReg | mulImm | mulhReg | mulhImm | divReg | divImm | remReg | remImm | andReg |
      andImm | orReg | orImm | xorReg | xorImm | shlReg | shlImm | shrReg | shrImm | sraReg | sraImm | minReg | minImm | maxReg |
      maxImm | cmpReg | cmpImm | sel | li | lih | mov | bitc | bfx | bfi | trap | dbgbrk | viadd | visub | vimul | vand | vor | vxor |
      vshl | vshr | vsra | vsel | vcvt | vbcst | vred | vperm | vslide | vzip | vunzip | viota | vmovs | kmovTo | mnop | sps | xinvAll |
      xinvVa | moduleReset | modesetWrite =>
    exact goesOn_next _
  all_goals exact goesOn_finish _ _

theorem goesOn_exec {i : Instr} (h : namesUnits i = true) (s : State) : GoesOn (exec i s) := by
  simpa [GoesOnIf, h] using goesOnIf_exec i s

theorem exec_eq_fault {i : Instr} (h : namesUnits i = false) (s : State) : exec i s = .fault .noSuchUnit := by
  simpa [GoesOnIf, h] using goesOnIf_exec i s

/-- Operations of a slot name no unit. -/
theorem namesUnits_of_encode {i : Instr} (h : (encode i).isSome = true) : namesUnits i = true := by
  cases i <;> cases h <;> rfl

/-! A step stops only for want of a unit -/

/-- The machine goes on, or stops for want of a unit. -/
def GoesOnOrLacksUnit (o : Host.Outcome State Fault Refusal) : Prop := GoesOn o ∨ o = .fault .noSuchUnit

theorem goesOnOrLacksUnit_next (t : State) : GoesOnOrLacksUnit (.next t) := .inl (goesOn_next t)

theorem goesOnOrLacksUnit_exec (i : Instr) (s : State) : GoesOnOrLacksUnit (exec i s) := by
  cases h : namesUnits i
  · exact .inr (exec_eq_fault h s)
  · exact .inl (goesOn_exec h s)

theorem goesOnOrLacksUnit_andThen {o : Host.Outcome State Fault Refusal} {k : State → Host.Outcome State Fault Refusal}
    (ho : GoesOnOrLacksUnit o) (hk : ∀ t, GoesOnOrLacksUnit (k t)) : GoesOnOrLacksUnit (andThen o k) := by
  obtain ⟨t, rfl⟩ | rfl := ho
  · exact hk t
  · exact .inr rfl

theorem goesOnOrLacksUnit_issueOp (s : State) (c x : Nat) (o : QOp) (step : Bool) : GoesOnOrLacksUnit (issueOp s c x o step) := by
  refine goesOnOrLacksUnit_andThen (goesOnOrLacksUnit_exec _ _) fun t => ?_
  repeat' split
  all_goals exact goesOnOrLacksUnit_next _

theorem goesOnOrLacksUnit_issueHead (s : State) (c x slot : Nat) : GoesOnOrLacksUnit (issueHead s c x slot) := by
  fun_cases issueHead s c x slot
  case case3 => exact goesOnOrLacksUnit_issueOp _ _ _ _ _
  all_goals exact goesOnOrLacksUnit_next _

theorem goesOnOrLacksUnit_issueSlots (ks : List Nat) (s : State) (c x : Nat) : GoesOnOrLacksUnit (issueSlots ks s c x) := by
  induction ks generalizing s with
  | nil => exact goesOnOrLacksUnit_next _
  | cons k r ih =>
    refine goesOnOrLacksUnit_andThen (goesOnOrLacksUnit_issueHead _ _ _ _) fun t => ?_
    split
    · exact goesOnOrLacksUnit_next _
    · exact ih t

theorem goesOnOrLacksUnit_runBundle (s : State) (c x : Nat) (b : Bundle) (present : BitVec 4) (step : Bool) :
    GoesOnOrLacksUnit (runBundle s c x b present step) := by
  fun_cases runBundle s c x b present step
  case case4 => exact goesOnOrLacksUnit_exec _ _
  case case5 =>
    refine goesOnOrLacksUnit_andThen (goesOnOrLacksUnit_exec _ _) fun t => ?_
    dsimp only
    repeat' split
    all_goals exact goesOnOrLacksUnit_next _
  all_goals exact goesOnOrLacksUnit_next _

theorem goesOnOrLacksUnit_dispatchBundle (s : State) (c x : Nat) (step : Bool) : GoesOnOrLacksUnit (dispatchBundle s c x step) := by
  fun_cases dispatchBundle s c x step
  · exact goesOnOrLacksUnit_exec _ _
  · exact goesOnOrLacksUnit_exec _ _
  · exact goesOnOrLacksUnit_runBundle _ _ _ _ _ _

theorem goesOnOrLacksUnit_dispatch (s : State) (c x : Nat) (step : Bool) : GoesOnOrLacksUnit (dispatch s c x step) := by
  fun_cases dispatch s c x step
  case case4 => exact goesOnOrLacksUnit_dispatchBundle _ _ _ _
  all_goals exact goesOnOrLacksUnit_next _

theorem goesOnOrLacksUnit_runCtx (s : State) (c x : Nat) : GoesOnOrLacksUnit (runCtx s c x) := by
  refine goesOnOrLacksUnit_andThen (goesOnOrLacksUnit_dispatch _ _ _ _) fun u => ?_
  split
  · refine goesOnOrLacksUnit_andThen (goesOnOrLacksUnit_issueSlots _ _ _ _) fun v => ?_
    split
    · exact goesOnOrLacksUnit_next _
    · exact goesOnOrLacksUnit_andThen (goesOnOrLacksUnit_dispatch _ _ _ _) fun w => goesOnOrLacksUnit_next _
  · exact goesOnOrLacksUnit_andThen (goesOnOrLacksUnit_issueSlots _ _ _ _) fun v => goesOnOrLacksUnit_next _

theorem goesOnOrLacksUnit_stepEnds (s u : State) (c x : Nat) (addr : Word) (slot : Nat) :
    GoesOnOrLacksUnit (stepEnds s u c x addr slot) := by
  fun_cases stepEnds s u c x addr slot <;> exact goesOnOrLacksUnit_next _

theorem goesOnOrLacksUnit_stepOp (s : State) (c x : Nat) : GoesOnOrLacksUnit (stepOp s c x) := by
  fun_cases stepOp s c x
  · exact goesOnOrLacksUnit_andThen (goesOnOrLacksUnit_issueOp _ _ _ _ _) fun u => goesOnOrLacksUnit_stepEnds _ _ _ _ _ _
  · exact goesOnOrLacksUnit_next _
  · refine goesOnOrLacksUnit_andThen (goesOnOrLacksUnit_dispatch _ _ _ _) fun u => ?_
    split
    · exact goesOnOrLacksUnit_stepEnds _ _ _ _ _ _
    · exact goesOnOrLacksUnit_next _

theorem goesOnOrLacksUnit_coreStep (s : State) (c : Nat) : GoesOnOrLacksUnit (coreStep s c) := by
  fun_cases coreStep s c
  · exact goesOnOrLacksUnit_next _
  · refine goesOnOrLacksUnit_andThen ?_ fun u => goesOnOrLacksUnit_next _
    split
    · exact goesOnOrLacksUnit_stepOp _ _ _
    · exact goesOnOrLacksUnit_runCtx _ _ _

theorem goesOnOrLacksUnit_runMove (m : Move) (s : State) : GoesOnOrLacksUnit (runMove m s) := by
  cases m with
  | event i => exact goesOnOrLacksUnit_exec _ _
  | core c => exact goesOnOrLacksUnit_coreStep _ _

theorem goesOnOrLacksUnit_step (s : State) : GoesOnOrLacksUnit (step s) := by
  unfold step stepOnce
  split
  · exact goesOnOrLacksUnit_runMove _ _
  · exact goesOnOrLacksUnit_next _

/-! The first event from outside -/

/-- An event without its units stops the model, so that it can happen. -/
theorem enabled_of_not_namesUnits {i : Instr} (h : namesUnits i = false) (s : State) : s.enabled i = true := by
  have he : isEvent i = true := by
    cases hi : (encode i).isSome
    · simpa [isEvent] using hi
    · simp [namesUnits_of_encode hi] at h
  simp [State.enabled, he, exec_eq_fault h]

/-- While no moment has come, the first event from outside is the next move if it can happen. -/
theorem step_of_enabled {s : State} {i : Instr} {r : List Instr} (hd : s.due = []) (hi : s.inputs = i :: r) (he : s.enabled i = true) :
    step s = exec i { s with inputs := r } := by
  simp [step, stepOnce, State.nextMove, State.nextInput, hd, hi, he, runMove]

/-- Settles O55: the meaning of every instruction ends in a next state once its units are there, and a step runs nothing but meanings. -/
theorem everyOperationGoesOn : Obligations.EveryOperationGoesOn := by
  unfold Obligations.EveryOperationGoesOn
  refine ⟨fun i s h => goesOn_exec h s, fun i s h => exec_eq_fault h s, fun i s h => goesOn_exec (namesUnits_of_encode h) s,
    fun s i r hd hi => ⟨fun h => ?_, fun h he => ?_⟩, goesOnOrLacksUnit_step⟩
  · rw [step_of_enabled hd hi (enabled_of_not_namesUnits h s)]
    exact exec_eq_fault h _
  · rw [step_of_enabled hd hi he]
    exact goesOn_exec h _

end Sys2Proof
end

section
/-! The module after reset (R18, R29, R30, R102, R153, R206, R269, R272, R275, R278): no unit is listed, so each reads as its reset value. -/

namespace Sys2Proof

open Machine

theorem layer_reset (t n : Nat) : State.reset.layer t n = Layer.reset := rfl

/-- TRCTL and WPTR are zero (R278). -/
theorem read_trctl_reset : Owl.reset.read 0x020 = 0 := rfl

/-- Both words of every breakpoint are zero (R275). -/
theorem read_breakpoint_reset {n : Nat} (h : n < 16) : Owl.reset.read (0x040 + 8 * n) = 0 := by
  interval_cases n <;> rfl

/-- Settles O60: each register is read from a state in which no unit is listed. -/
theorem resetValues : Obligations.ResetValues := by
  refine ⟨rfl, fun a => rfl, fun c => rfl, fun c x => ⟨rfl, rfl, fun j => ⟨rfl, rfl⟩⟩, fun t => ?_, fun t => ⟨rfl, rfl⟩, rfl, rfl, rfl, rfl, rfl,
    fun t => ⟨read_trctl_reset, fun n => read_breakpoint_reset⟩⟩
  simp [layer_reset, Layer.cap, Layer.reset, layerKiB]

end Sys2Proof
end

section
/-! Modes, layers and errors (R24 to R30, R223, R225, R226, R271, R281). First what the shared operations on towers, layers and error marks
change and leave; then one fact for each event. -/

namespace Sys2Proof

open Machine

/-! Towers and layers -/

theorem towerBecomes_setTower {i : Instr} {s : State} {t : Nat} {w : Tower} (h : exec i s = happened (s.setTower t w)) :
    TowerBecomes i s t w :=
  ⟨_, h, rfl, rfl, State.tower_setTower_self s t w, fun j hj => State.tower_setTower_ne s t j w hj⟩

theorem towerBecomes_modLayer {i : Instr} {s : State} {t n : Nat} (f : Layer → Layer) (h : exec i s = happened (s.modLayer t n f)) :
    TowerBecomes i s t { s.tower t with layers := (s.tower t).layers.set n (f (s.layer t n)) } :=
  towerBecomes_setTower h

@[simp] theorem layer_modLayer_self (s : State) (t n : Nat) (f : Layer → Layer) : (s.modLayer t n f).layer t n = f (s.layer t n) := by
  simp [State.modLayer, State.modTower, State.layer, Tower.layer]

theorem layer_modLayer_ne (s : State) (t m n : Nat) (f : Layer → Layer) (h : m ≠ n) : (s.modLayer t n f).layer t m = s.layer t m := by
  simp [State.modLayer, State.modTower, State.layer, Tower.layer, Tab.get_set_ne _ _ _ _ _ h]

theorem modLayer_congr {s : State} {t n : Nat} {f g : Layer → Layer} (h : f (s.layer t n) = g (s.layer t n)) :
    s.modLayer t n f = s.modLayer t n g :=
  congrArg (fun l => s.setTower t { s.tower t with layers := (s.tower t).layers.set n l }) h

@[simp] theorem layer_postRecord (s : State) (t n : Nat) (r : List Word) : (s.postRecord t r).layer t n = s.layer t n := by
  simp [State.postRecord, State.modMarten, State.modTower, State.layer, Tower.layer]

@[simp] theorem marten_modLayer (s : State) (t n : Nat) (f : Layer → Layer) : (s.modLayer t n f).marten t = s.marten t := by
  simp [State.modLayer, State.modTower, State.marten]

@[simp] theorem records_postRecord (s : State) (t : Nat) (r : List Word) :
    ((s.postRecord t r).marten t).records = (s.marten t).records ++ [r] := by
  simp [State.postRecord, State.modMarten, State.modTower, State.marten]

/-! Error marks -/

theorem foldl_markPoison (ws : List Nat) (s : State) : ∃ p, ws.foldl State.markPoison s = { s with poison := p } := by
  induction ws generalizing s with
  | nil => exact ⟨s.poison, rfl⟩
  | cons w ws ih =>
    obtain ⟨p, hp⟩ := ih (s.markPoison w)
    refine ⟨p, hp.trans ?_⟩
    unfold State.markPoison
    split <;> rfl

/-- A correction changes marks and the error log alone: the marks of what it selects go. -/
theorem correctBy_frame (s : State) (p : Nat → Bool) :
    ∃ q m, s.correctBy p = { s with poison := q, soft := s.soft.filter (fun w => !(p w)), mgmt := m } := by
  obtain ⟨q, hq⟩ := foldl_markPoison ((s.soft.filter p).partition (fun w => s.detectOnly (8 * w))).1 _
  exact ⟨q, _, hq⟩

/-- Where no error is selected, nothing changes. -/
theorem correctBy_of_none (s : State) (p : Nat → Bool) (h : ∀ w ∈ s.soft, p w = false) : s.correctBy p = s := by
  have hits : s.soft.filter p = [] := by simpa using h
  have kept : s.soft.filter (fun w => !(p w)) = s.soft := by simpa using h
  simp [State.correctBy, hits, kept]

/-- An error stands in word `w` alone among the words that the word's own bytes touch. -/
theorem touches_word_iff (w x : Nat) : 8 * w < 8 * x + 8 ∧ 8 * x < 8 * w + 8 ↔ x = w := by omega

theorem softAt_word (s : State) (w : Nat) : s.softAt (8 * w) 8 = s.soft.contains w := by
  rw [Bool.eq_iff_iff]
  simp only [State.softAt, List.any_eq_true, Bool.and_eq_true, decide_eq_true_eq, touches_word_iff, List.contains_iff_mem]
  simp

theorem correct_word (s : State) (w : Nat) :
    s.correct (8 * w) 8 = if s.soft.contains w then s.correctBy (fun x => x = w) else s := by
  simp only [State.correct, softAt_word, ← Bool.decide_and, touches_word_iff]

/-- A word that is poisoned once is poisoned. -/
theorem foldl_markPoison_replicate (s : State) (w n : Nat) (h : s.poison.contains w = false) :
    (List.replicate (n + 1) w).foldl State.markPoison s = { s with poison := w :: s.poison } := by
  induction n with
  | zero =>
    show s.markPoison w = _
    simp only [State.markPoison, h, Bool.false_eq_true, if_false]
  | succ n ih => rw [List.replicate_succ', List.foldl_append, ih]; simp [State.markPoison]

/-- The errors of one word in a detect-only layer poison it (R28). -/
theorem correctBy_word_of_detectOnly {s : State} {w : Nat} (hd : s.detectOnly (8 * w) = true) (hs : s.soft.contains w = true)
    (hp : s.poison.contains w = false) :
    s.correctBy (fun x => x = w) = { s with poison := w :: s.poison, soft := s.soft.filter (fun x => x ≠ w) } := by
  obtain ⟨n, hn⟩ : ∃ n, s.soft.count w = n + 1 := Nat.exists_eq_add_one.mpr (List.count_pos_iff.mpr (by simpa using hs))
  have hits : s.soft.filter (fun x => decide (x = w)) = List.replicate (n + 1) w := by rw [← hn, ← List.filter_eq]
  have bad : (List.replicate (n + 1) w).partition (fun x => s.detectOnly (8 * x)) = (List.replicate (n + 1) w, []) := by
    simp [List.partition_eq_filter_filter, hd]
  simp only [State.correctBy, hits, bad]
  rw [foldl_markPoison_replicate _ _ _ (by exact hp)]
  simp

/-- The one error of a word elsewhere is corrected and logged (R223). -/
theorem correctBy_word_of_correctable {s : State} {w : Nat} (hd : s.detectOnly (8 * w) = false) (hc : s.soft.count w = 1) :
    s.correctBy (fun x => x = w) = { s with
      soft := s.soft.filter (fun x => x ≠ w), mgmt := { s.mgmt with errlog := s.mgmt.errlog ++ [s.correction (8 * w)] } } := by
  have hits : s.soft.filter (fun x => decide (x = w)) = [w] := by simp [List.filter_eq, hc]
  simp [State.correctBy, hits, hd]

/-! What a layer that is wiped holds -/

theorem byte_wipeLayer (s : State) (t n a : Nat) :
    (s.wipeLayer t n).byte a = if layerAddr t n ≤ a ∧ a < layerAddr t n + 2 ^ 38 then 0 else s.byte a :=
  Memory.byte_clear s.mem _ _ a

theorem Machine.Tab.find_filter {α : Type} (t : Tab α) (p : Nat → Bool) (k : Nat) :
    Tab.find (t.filter (fun e => p e.1)) k = if p k then t.find k else none := by
  induction t with
  | nil => simp
  | cons e r ih =>
    obtain ⟨j, b⟩ := e
    by_cases hj : p j = true <;> by_cases hk : j = k <;> simp_all [Tab.find]

/-- Granules lie within a layer or outside it. -/
theorem layerAddr_le_granule_iff (t n a : Nat) : layerAddr t n ≤ 32 * (a / 32) ↔ layerAddr t n ≤ a := by
  unfold layerAddr layerBase; omega

theorem granule_lt_layer_end_iff (t n a : Nat) : 32 * (a / 32) < layerAddr t n + 2 ^ 38 ↔ a < layerAddr t n + 2 ^ 38 := by
  unfold layerAddr layerBase; omega

theorem lock_wipeLayer (s : State) (t n a : Nat) :
    (s.wipeLayer t n).lock a = if layerAddr t n ≤ a ∧ a < layerAddr t n + 2 ^ 38 then 0 else s.lock a := by
  have hf : (s.wipeLayer t n).locks.find (a / 32) =
      if layerAddr t n ≤ a ∧ a < layerAddr t n + 2 ^ 38 then none else s.locks.find (a / 32) := by
    refine (Tab.find_filter s.locks
      (fun g => !(decide (layerAddr t n ≤ 32 * g) && decide (32 * g < layerAddr t n + 2 ^ 38))) (a / 32)).trans ?_
    simp only [layerAddr_le_granule_iff, granule_lt_layer_end_iff, Bool.not_eq_true', ← Bool.decide_and, decide_eq_false_iff_not, ite_not]
  unfold State.lock Tab.get
  rw [hf]
  split_ifs <;> rfl

/-! The events of a tower -/

theorem throttle_becomes {s : State} {t n : Nat} (ht : t < numTowers) (hn : n ≤ 32) :
    TowerBecomes (.throttleWindow t n) s t
      { s.tower t with throt := n, plevel := (s.tower t).nextPlevel.getD (s.tower t).plevel, nextPlevel := none } := by
  refine towerBecomes_setTower ?_
  simp [exec, execThrottleWindow, ht.not_ge, hn.not_gt, State.modTower, hn]

/-- The limit cannot be held when that is so in every tower (R29). -/
theorem throttle_alarm {s : State} {t n : Nat} (ht : t < numTowers) (hn : 32 < n) :
    ∃ u, exec (.throttleWindow t n) s = .next u ∧ (u.tower t).throt = 32 ∧
      ((∀ j, j < numTowers → j ≠ t → (s.tower j).throt = 32) → u.mgmt.alarms = s.mgmt.alarms ||| 1) ∧
      (∀ j, j < numTowers → j ≠ t → (s.tower j).throt ≠ 32 → u.mgmt.alarms = s.mgmt.alarms) := by
  let w := { s.tower t with throt := 32, plevel := (s.tower t).nextPlevel.getD (s.tower t).plevel, nextPlevel := none }
  let u := s.setTower t w
  have htower (j : Nat) : ((u.tower j).throt = 32) ↔ (j ≠ t → (s.tower j).throt = 32) := by
    by_cases hj : j = t
    · subst j; simp [u, w]
    · simp [u, State.tower_setTower_ne _ _ _ _ hj, hj]
  have hexec : exec (.throttleWindow t n) s =
      if (List.range numTowers).all (fun k => (u.tower k).throt = 32) then happened (u.alarm 0) else happened u := by
    simp [exec, execThrottleWindow, ht.not_ge, hn, hn.le, u, w, State.modTower]
  simp only [List.all_eq_true, List.mem_range, decide_eq_true_eq, htower] at hexec
  by_cases hall : ∀ j, j < numTowers → j ≠ t → (s.tower j).throt = 32
  · refine ⟨{ u.alarm 0 with last := .issued }, by rw [hexec, if_pos hall]; rfl, by exact (htower t).mpr (by simp), fun _ => rfl, fun j hj hne h => ?_⟩
    exact absurd (hall j hj hne) h
  · exact ⟨{ u with last := .issued }, by rw [hexec, if_neg hall]; rfl, (htower t).mpr (by simp), fun h => absurd h hall, fun _ _ _ _ => rfl⟩

theorem timingMode_becomes {s : State} {t : Nat} {b : Bool} (ht : t < numTowers) (hn : (s.tower t).nextTmode = some b)
    (hb : s.boundIn t (fun _ => true) = false) :
    TowerBecomes (.timingModeApply t) s t { s.tower t with tmode := b, nextTmode := none } := by
  refine towerBecomes_setTower ?_
  simp [exec, execTimingModeApply, ht.not_ge, hn, hb, State.modTower]

theorem timingMode_notNow {s : State} {t : Nat} (ht : t < numTowers)
    (h : (s.tower t).nextTmode = none ∨ s.boundIn t (fun _ => true) = true) : NotNow (.timingModeApply t) s := by
  show exec (.timingModeApply t) s = notNow s
  simp only [exec, execTimingModeApply, if_neg ht.not_ge]
  split
  · rfl
  · simp_all

/-! MODESET -/

/-- What a fold over the numbers below `n` does to the units of these numbers, when each pass changes its own unit alone. -/
theorem foldl_range_unit {σ α : Type} (unit : σ → Nat → α) (g : σ → Nat → σ) (f : Nat → α → α) (self : ∀ s k, unit (g s k) k = f k (unit s k))
    (other : ∀ s k j, j ≠ k → unit (g s k) j = unit s j) (n : Nat) (s : σ) (j : Nat) :
    unit ((List.range n).foldl g s) j = if j < n then f j (unit s j) else unit s j := by
  induction n with
  | zero => rfl
  | succ n ih =>
    rw [List.range_succ, List.foldl_append]
    show unit (g ((List.range n).foldl g s) n) j = _
    by_cases hj : j = n
    · subst j; simp [self, ih]
    · have hlt : j < n + 1 ↔ j < n := by omega
      simp only [other _ _ _ hj, ih, hlt]

/-- A tower without its layers. -/
def Machine.Tower.frame (w : Tower) : Tower := { w with layers := [] }

@[simp] theorem frame_tmode (w : Tower) : w.frame.tmode = w.tmode := rfl
@[simp] theorem frame_plevel (w : Tower) : w.frame.plevel = w.plevel := rfl
@[simp] theorem frame_nextTmode (w : Tower) : w.frame.nextTmode = w.nextTmode := rfl
@[simp] theorem frame_nextPlevel (w : Tower) : w.frame.nextPlevel = w.nextPlevel := rfl

/-- `u` differs from `s` in the layers of tower `t` at most. -/
structure OnlyLayers (s u : State) (t : Nat) : Prop where
  module : u = { s with towers := u.towers }
  own : (u.tower t).frame = (s.tower t).frame
  others : ∀ j, j ≠ t → u.tower j = s.tower j

theorem onlyLayers_refl (s : State) (t : Nat) : OnlyLayers s s t := ⟨rfl, rfl, fun _ _ => rfl⟩

theorem OnlyLayers.modLayer {s u : State} {t : Nat} (h : OnlyLayers s u t) (n : Nat) (f : Layer → Layer) :
    OnlyLayers s (u.modLayer t n f) t where
  module := by
    conv_lhs => rw [h.module]
    rfl
  own := (congrArg Tower.frame (State.tower_setTower_self u t _)).trans h.own
  others j hj := (State.tower_setTower_ne u t j _ hj).trans (h.others j hj)

/-- The protection modes that MODESET asks for in tower `t` (R271). -/
def Machine.State.askLayers (s : State) (v : Word) (t : Nat) : State :=
  (List.range 4).foldl (fun s k => s.modLayer t (k + 1) (fun l => { l with nextDetect := asked (bit v (8 + 4 * t + k)) l.detect })) s

/-- What MODESET asks of tower `t` (R26, R271). -/
def Machine.State.askTower (v : Word) (s : State) (t : Nat) : State :=
  State.askLayers (s.modTower t (fun w => { w with nextTmode := asked (bit v t) w.tmode, nextPlevel := asked (bits v 41 40) w.plevel })) v t

theorem onlyLayers_askLayers (s : State) (v : Word) (t : Nat) : OnlyLayers s (s.askLayers v t) t :=
  List.foldlRecOn (motive := fun u => OnlyLayers s u t) _ _ (onlyLayers_refl s t) fun _ h _ _ => h.modLayer _ _

theorem layer_askLayers (s : State) (v : Word) (t : Nat) {i : Nat} (hi : i < 4) :
    (s.askLayers v t).layer t (i + 1) =
      { s.layer t (i + 1) with nextDetect := asked (bit v (8 + 4 * t + i)) (s.layer t (i + 1)).detect } := by
  have h := foldl_range_unit (fun s i => State.layer s t (i + 1))
    (fun s k => s.modLayer t (k + 1) (fun l => { l with nextDetect := asked (bit v (8 + 4 * t + k)) l.detect }))
    (fun k l => { l with nextDetect := asked (bit v (8 + 4 * t + k)) l.detect })
    (fun s k => layer_modLayer_self s t _ _) (fun s k j hj => layer_modLayer_ne s t _ _ _ (by omega)) 4 s i
  rwa [if_pos hi] at h

/-- MODESET asks nothing of another tower. -/
theorem tower_askTower_ne (s : State) (v : Word) (t j : Nat) (hj : j ≠ t) : (s.askTower v t).tower j = s.tower j :=
  ((onlyLayers_askLayers _ v t).others j hj).trans (State.tower_setTower_ne s t j _ hj)

theorem frame_askTower (s : State) (v : Word) (t : Nat) :
    ((s.askTower v t).tower t).frame =
      { (s.tower t).frame with nextTmode := asked (bit v t) (s.tower t).tmode, nextPlevel := asked (bits v 41 40) (s.tower t).plevel } := by
  refine (onlyLayers_askLayers _ v t).own.trans ?_
  exact congrArg Tower.frame (State.tower_setTower_self s t _)

theorem layer_askTower (s : State) (v : Word) (t : Nat) {i : Nat} (hi : i < 4) :
    (s.askTower v t).layer t (i + 1) =
      { s.layer t (i + 1) with nextDetect := asked (bit v (8 + 4 * t + i)) (s.layer t (i + 1)).detect } := by
  have h := layer_askLayers (s.modTower t (fun w => { w with nextTmode := asked (bit v t) w.tmode, nextPlevel := asked (bits v 41 40) w.plevel })) v t hi
  have hl : (s.modTower t (fun w => { w with nextTmode := asked (bit v t) w.tmode, nextPlevel := asked (bits v 41 40) w.plevel })).layer t (i + 1) = s.layer t (i + 1) := by
    simp [State.modTower, State.layer, Tower.layer]
  rw [hl] at h
  exact h

theorem asked_eq_ite {α : Type} [BEq α] [LawfulBEq α] [DecidableEq α] (v now : α) : asked v now = if v = now then none else some v := by
  simp [asked]

theorem askTower_frame (s : State) (v : Word) (t : Nat) : s.askTower v t = { s with towers := (s.askTower v t).towers } :=
  (onlyLayers_askLayers _ v t).module

theorem foldl_askTower_frame (v : Word) (ts : List Nat) (s : State) :
    ts.foldl (State.askTower v) s = { s with towers := (ts.foldl (State.askTower v) s).towers } := by
  induction ts generalizing s with
  | nil => rfl
  | cons t ts ih =>
    exact (ih (s.askTower v t)).trans
      (congrArg (fun u : State => { u with towers := ((t :: ts).foldl (State.askTower v) s).towers }) (askTower_frame s v t))

/-- What MODESET asks of the first `n` towers. -/
theorem foldl_askTower_asks (s : State) (v : Word) (n : Nat) :
    ∀ j, j < n → (((List.range n).foldl (State.askTower v) s).tower j).frame =
        { (s.tower j).frame with nextTmode := asked (bit v j) (s.tower j).tmode, nextPlevel := asked (bits v 41 40) (s.tower j).plevel } ∧
      ∀ i, i < 4 → ((List.range n).foldl (State.askTower v) s).layer j (i + 1) =
        { s.layer j (i + 1) with nextDetect := asked (bit v (8 + 4 * j + i)) (s.layer j (i + 1)).detect } := by
  refine fun j hj => ⟨?_, fun i hi => ?_⟩
  · have h := foldl_range_unit (fun s j => (State.tower s j).frame) (State.askTower v)
      (fun j w => { w with nextTmode := asked (bit v j) w.tmode, nextPlevel := asked (bits v 41 40) w.plevel })
      (fun s t => frame_askTower s v t) (fun s t j hj => by simp only [tower_askTower_ne s v t j hj]) n s j
    rwa [if_pos hj] at h
  · have h := foldl_range_unit (fun s j => State.layer s j (i + 1)) (State.askTower v)
      (fun j l => { l with nextDetect := asked (bit v (8 + 4 * j + i)) l.detect })
      (fun s t => layer_askTower s v t hi) (fun s t j hj => by simp only [State.layer, tower_askTower_ne s v t j hj]) n s j
    rwa [if_pos hj] at h

theorem exec_modesetWrite (s : State) (v : Word) :
    exec (.modesetWrite v) s = happened ((List.range numTowers).foldl (State.askTower v)
      (s.modMgmt (fun m => { m with modeset := v &&& 0x3FFFFFFFFFF }))) := rfl

theorem modeset_asks (s : State) (v : Word) :
    ∃ u, exec (.modesetWrite v) s = .next u ∧ u.last = .issued ∧ u = { s with towers := u.towers, mgmt := u.mgmt, last := u.last } ∧
      u.mgmt = { s.mgmt with modeset := v &&& 0x3FFFFFFFFFF } ∧
      ∀ j, j < numTowers →
        (u.tower j).tmode = (s.tower j).tmode ∧ (u.tower j).plevel = (s.tower j).plevel ∧
        (u.tower j).nextPlevel = (if bits v 41 40 = (s.tower j).plevel then none else some (bits v 41 40)) ∧
        (u.tower j).nextTmode = (if bit v j = (s.tower j).tmode then none else some (bit v j)) ∧
        ∀ i, i < 4 →
          u.layer j (i + 1) = { s.layer j (i + 1) with
            nextDetect := if bit v (8 + 4 * j + i) = (s.layer j (i + 1)).detect then none else some (bit v (8 + 4 * j + i)) } := by
  rw [exec_modesetWrite]
  have hframe := foldl_askTower_frame v (List.range numTowers) (s.modMgmt (fun m => { m with modeset := v &&& 0x3FFFFFFFFFF }))
  have hasks := foldl_askTower_asks (s.modMgmt (fun m => { m with modeset := v &&& 0x3FFFFFFFFFF })) v numTowers
  generalize (List.range numTowers).foldl (State.askTower v) _ = u at hframe hasks ⊢
  generalize u.towers = ts at hframe
  subst hframe
  simp only [← asked_eq_ite]
  refine ⟨_, rfl, rfl, rfl, rfl, fun j hj => ?_⟩
  obtain ⟨ht, hlayer⟩ := hasks j hj
  have htmode := congrArg Tower.tmode ht
  have hplevel := congrArg Tower.plevel ht
  have hnextPlevel := congrArg Tower.nextPlevel ht
  have hnextTmode := congrArg Tower.nextTmode ht
  exact ⟨htmode, hplevel, hnextPlevel, hnextTmode, hlayer⟩

/-! The scrubber (R28, R223) -/

theorem exec_scrubVisit_of_layer {s : State} {w t n o : Nat} (h : s.region (8 * w) = .layer t n o) :
    exec (.scrubVisit w) s = happened (if s.soft.contains w then s.correctBy (fun x => x = w) else s) := by
  simp only [exec, execScrubVisit, h, correct_word]

theorem detectOnly_of_region {s : State} {a t n o : Nat} (h : s.region a = .layer t n o) : s.detectOnly a = (s.layer t n).detect := by
  simp only [State.detectOnly, h]

theorem correction_of_region {s : State} {a t n o : Nat} (h : s.region a = .layer t n o) :
    s.correction a = .corrected a n (Config.bankOf a) (Config.rowOf a) := by
  simp [State.correction, h, Region.level]

theorem scrubVisit_cases {s : State} {w t n o : Nat} (h : s.region (8 * w) = .layer t n o) :
    (s.soft.contains w = false → Happens (.scrubVisit w) s s) ∧
    ((s.layer t n).detect = true → s.soft.contains w = true → s.poison.contains w = false →
      Happens (.scrubVisit w) s { s with poison := w :: s.poison, soft := s.soft.filter (fun x => x ≠ w) }) ∧
    ((s.layer t n).detect = false → s.soft.count w = 1 →
      Happens (.scrubVisit w) s { s with
        soft := s.soft.filter (fun x => x ≠ w)
        mgmt := { s.mgmt with errlog := s.mgmt.errlog ++ [.corrected (8 * w) n (Config.bankOf (8 * w)) (Config.rowOf (8 * w))] } }) := by
  have hexec := exec_scrubVisit_of_layer h
  refine ⟨fun hs => ?_, fun hd hs hp => ?_, fun hd hc => ?_⟩
  · rwa [if_neg (by simpa using hs)] at hexec
  · rw [if_pos hs, correctBy_word_of_detectOnly (by rw [detectOnly_of_region h, hd]) hs hp] at hexec
    exact hexec
  · have hs : s.soft.contains w = true := by simpa using List.count_pos_iff.mp (by omega)
    rw [if_pos hs, correctBy_word_of_correctable (by rw [detectOnly_of_region h, hd]) hc, correction_of_region h] at hexec
    exact hexec

theorem scrubVisit_notNow {s : State} {w : Nat} (h : ∀ t n o, s.region (8 * w) ≠ .layer t n o) : NotNow (.scrubVisit w) s := by
  show exec (.scrubVisit w) s = notNow s
  simp only [exec, execScrubVisit]

/-! Failing banks and lanes, and the delay of a recovery (R225). The layer is one that the tower has. -/

section layer
variable {s : State} {t n : Nat} (ht : t < numTowers) (h0 : 0 < n) (h4 : n ≤ 4)
include ht h0 h4

theorem bankFailing_becomes {w : Nat} (hr : (s.layer t n).retired = none) (hw : w < 32 * spareBanks n)
    (hb : (s.layer t n).banks.contains w = false) :
    TowerBecomes (.bankFailing t (n, w)) s t
      { s.tower t with layers := (s.tower t).layers.set n { s.layer t n with banks := (s.layer t n).banks ++ [w] } } := by
  refine towerBecomes_modLayer (fun l => { l with banks := l.banks ++ [w] }) ?_
  simp only [exec, execBankFailing, hr, hb]
  simp [ht.not_ge, h0.ne', h4.not_gt, hw.not_ge]

theorem bankFailing_notNow {w : Nat} (hw : w < 32 * spareBanks n) (hb : (s.layer t n).banks.contains w = true) :
    NotNow (.bankFailing t (n, w)) s := by
  show exec (.bankFailing t (n, w)) s = notNow s
  simp only [exec, execBankFailing, hb]
  simp [ht.not_ge, h0.ne', h4.not_gt, hw.not_ge]

theorem failingTsvLane_becomes (hr : (s.layer t n).retired = none) :
    TowerBecomes (.failingTsvLane t n) s t
      { s.tower t with
        layers := (s.tower t).layers.set n { s.layer t n with badLanes := (s.layer t n).badLanes ++ [(s.layer t n).badLanes.length] } } := by
  refine towerBecomes_modLayer (fun l => { l with badLanes := l.badLanes ++ [l.badLanes.length] }) ?_
  simp only [exec, execFailingTsvLane, hr]
  simp [ht.not_ge, h0.ne', h4.not_gt]

/-- The delay of a layer that waits for a recovery expires. -/
theorem exec_recoveryDelayExpire (hn : (s.layer t n).needs = true) (hf : (s.layer t n).forced = false)
    (reqs : List (Nat × List (Nat × Nat) × List (Nat × Nat × Nat))) :
    exec (.recoveryDelayExpire (t, n) reqs) s =
      if (reqs.foldl State.askPreempt s).tasksOn t n = []
      then happened ((reqs.foldl State.askPreempt s).modLayer t n (fun l => { l with forced := true })) else notNow s := by
  simp only [exec, execRecoveryDelayExpire, hn, hf]
  simp [ht.not_ge, h0.ne', h4.not_gt]

end layer

theorem needs_of_waiting {l : Layer} (hr : l.retired = none) (h : l.banks ≠ [] ∨ l.badLanes ≠ [] ∨ l.nextDetect ≠ none) : l.needs = true := by
  obtain h | h | h := h <;> simp [Layer.needs, hr, h, Option.isSome_iff_ne_none]

theorem askPreempt_of_exec {s u : State} {i : Nat} {areas : List (Nat × Nat)} {live : List (Nat × Nat × Nat)}
    (h : exec (.preemptRequest i areas live) s = .next u) : s.askPreempt (i, areas, live) = u := by
  have h' : execPreemptRequest i areas live s = .next u := h
  simp only [State.askPreempt, h']

/-! Recovery points (R28, R225, R226) -/

theorem exec_recoveryPoint {s : State} {t n : Nat} (ht : t < numTowers) (h0 : 0 < n) (h4 : n ≤ 4) (hn : (s.layer t n).needs = true)
    (hb : s.boundIn t (Ctx.onLayer n) = false) (hr : (s.layer t n).retired = none) (hl : (s.layer t n).badLanes = []) :
    exec (.recoveryPoint t n) s = happened ((s.repair t n true).applyProtection t n) := by
  simp only [exec, execRecoveryPoint, hn, hb, hl]
  simp [hr, ht.not_ge, h0.ne', h4.not_gt]

theorem recoveryPoint_notNow {s : State} {t n : Nat} (ht : t < numTowers) (h0 : 0 < n) (h4 : n ≤ 4)
    (h : (s.layer t n).needs = false ∨ s.boundIn t (Ctx.onLayer n) = true) : NotNow (.recoveryPoint t n) s := by
  show exec (.recoveryPoint t n) s = notNow s
  have hcond : (!((s.layer t n).needs) || s.boundIn t (Ctx.onLayer n)) = true := by simpa using h
  simp only [exec, execRecoveryPoint, hcond]
  simp [ht.not_ge, h0.ne', h4.not_gt]

/-- Copying banks changes marks and the error log alone. -/
theorem copyBanks_frame (s : State) (t n : Nat) (bs : List Nat) :
    ∃ q f m, s.copyBanks t n bs = { s with poison := q, soft := f, mgmt := m } := by
  obtain ⟨q, m, h⟩ := correctBy_frame s _
  exact ⟨q, _, m, h⟩

@[simp] theorem layer_copyBanks (s : State) (t n u m : Nat) (bs : List Nat) : (s.copyBanks t n bs).layer u m = s.layer u m := by
  obtain ⟨q, f, m, h⟩ := copyBanks_frame s t n bs
  rw [h]; rfl

/-- Of the layer's errors those in the banks that are copied are gone. -/
theorem not_contains_of_mem_soft_copyBanks {s : State} {t n x o : Nat} {bs : List Nat} (hx : x ∈ (s.copyBanks t n bs).soft)
    (ho : s.region (8 * x) = .layer t n o) : bs.contains (Config.bankOf (8 * x)) = false := by
  obtain ⟨q, m, h⟩ := correctBy_frame s (fun w =>
    match s.region (8 * w) with
    | .layer u m _ => u = t && m = n && bs.contains (Config.bankOf (8 * w))
    | _ => false)
  have hsoft : (s.copyBanks t n bs).soft = _ := congrArg State.soft h
  rw [hsoft, List.mem_filter] at hx
  simpa [ho] using hx.2

/-- Where no word of the layer has an error, copying its banks changes nothing. -/
theorem copyBanks_of_none {s : State} {t n : Nat} {bs : List Nat} (h : bs = [] ∨ ∀ x o, x ∈ s.soft → s.region (8 * x) ≠ .layer t n o) :
    s.copyBanks t n bs = s := by
  refine correctBy_of_none s _ fun w hw => ?_
  split
  · next heq =>
    obtain rfl | h := h
    · simp
    · simp only [Bool.and_eq_false_iff, decide_eq_false_iff_not]
      refine .inl (by_contra fun hc => ?_)
      simp only [not_or, not_not] at hc
      obtain ⟨rfl, rfl⟩ := hc
      exact h _ _ hw heq
  · rfl

/-- The layer after a repair in which every failing bank finds a spare and no lane fails. -/
def Machine.Layer.repaired (l : Layer) : Layer := { l with spares := l.spares + l.banks.length, banks := [], forced := false }

theorem repair_of_spares {s : State} {t n : Nat} (hl : (s.layer t n).badLanes = [])
    (h : (s.layer t n).banks.length ≤ spareBanks n - (s.layer t n).spares) :
    s.repair t n true = (s.copyBanks t n (s.layer t n).banks).modLayer t n Layer.repaired := by
  simp only [State.repair, min_eq_left h, List.take_length, lt_irrefl, decide_false, Bool.not_true, Bool.false_and, Bool.or_false,
    Bool.false_eq_true, if_false]
  refine modLayer_congr ?_
  simp [Layer.repaired, hl]

/-- A layer whose banks find no spare is retired after its repair. -/
theorem repair_of_no_spare {s : State} {t n : Nat} (h : spareBanks n - (s.layer t n).spares < (s.layer t n).banks.length) :
    ∃ bs f, s.repair t n true = ((s.copyBanks t n bs).modLayer t n f).retireLayer t n ∧ (∀ l, (f l).detect = l.detect) ∧
      (∀ l, (f l).retired = l.retired) ∧ ∀ l, (f l).nextDetect = l.nextDetect := by
  refine ⟨_, _, if_pos ?_, fun l => rfl, fun l => rfl, fun l => rfl⟩
  simp [h]

theorem applyProtection_of_none {s : State} {t n : Nat} (h : (s.layer t n).nextDetect = none) : s.applyProtection t n = s := by
  simp only [State.applyProtection, h]

@[simp] theorem layer_wipeLayer (s : State) (t n u m : Nat) : (s.wipeLayer t n).layer u m = s.layer u m := rfl

@[simp] theorem byte_modLayer (s : State) (t n a : Nat) (f : Layer → Layer) : (s.modLayer t n f).byte a = s.byte a := rfl

@[simp] theorem lock_modLayer (s : State) (t n a : Nat) (f : Layer → Layer) : (s.modLayer t n f).lock a = s.lock a := rfl

@[simp] theorem byte_copyBanks (s : State) (t n a : Nat) (bs : List Nat) : (s.copyBanks t n bs).byte a = s.byte a := by
  obtain ⟨q, f, m, h⟩ := copyBanks_frame s t n bs
  rw [h]; rfl

@[simp] theorem marten_copyBanks (s : State) (t n u : Nat) (bs : List Nat) : (s.copyBanks t n bs).marten u = s.marten u := by
  obtain ⟨q, f, m, h⟩ := copyBanks_frame s t n bs
  rw [h]; rfl

/-! A layer that is retired -/

theorem layer_retireLayer (s : State) (t n : Nat) :
    (s.retireLayer t n).layer t n = { s.layer t n with retired := some ((s.layer t n).cap n * 1024) } := by
  simp [State.retireLayer]

theorem byte_retireLayer (s : State) (t n a : Nat) :
    (s.retireLayer t n).byte a = if layerAddr t n ≤ a ∧ a < layerAddr t n + 2 ^ 38 then 0 else s.byte a :=
  byte_wipeLayer s t n a

theorem records_retireLayer (s : State) (t n : Nat) :
    ((s.retireLayer t n).marten t).records = (s.marten t).records ++ [retirementRecord t n] := by
  simp only [State.retireLayer, records_postRecord, marten_modLayer]
  rfl

section recovery
variable {s : State} {t n : Nat} (ht : t < numTowers) (h0 : 0 < n) (h4 : n ≤ 4) (hb : s.boundIn t (Ctx.onLayer n) = false)
  (hr : (s.layer t n).retired = none) (hl : (s.layer t n).badLanes = [])
include ht h0 h4 hb hr hl

/-- Spares for all banks, and no other mode to come: the banks are copied and replaced. -/
theorem exec_recoveryPoint_of_spares (hn : (s.layer t n).nextDetect = none) (hk : (s.layer t n).banks ≠ [])
    (h : (s.layer t n).spares + (s.layer t n).banks.length ≤ spareBanks n) :
    exec (.recoveryPoint t n) s = happened ((s.copyBanks t n (s.layer t n).banks).modLayer t n Layer.repaired) := by
  rw [exec_recoveryPoint ht h0 h4 (needs_of_waiting hr (.inl hk)) hb hr hl, repair_of_spares hl (by omega), applyProtection_of_none]
  simpa [Layer.repaired] using hn

theorem recoveryPoint_corrects (hn : (s.layer t n).nextDetect = none) (hk : (s.layer t n).banks ≠ [])
    (h : (s.layer t n).spares + (s.layer t n).banks.length ≤ spareBanks n) :
    ∃ u, exec (.recoveryPoint t n) s = .next u ∧ u.last = .issued ∧ SameMem s u ∧
      ∀ x o, x ∈ u.soft → s.region (8 * x) = .layer t n o → (s.layer t n).banks.contains (Config.bankOf (8 * x)) = false :=
  ⟨_, exec_recoveryPoint_of_spares ht h0 h4 hb hr hl hn hk h, rfl, fun a => byte_copyBanks s t n a _,
    fun _ _ hx ho => not_contains_of_mem_soft_copyBanks hx ho⟩

theorem recoveryPoint_becomes (hn : (s.layer t n).nextDetect = none) (hk : (s.layer t n).banks ≠ [])
    (h : (s.layer t n).spares + (s.layer t n).banks.length ≤ spareBanks n) (hs : ∀ x o, x ∈ s.soft → s.region (8 * x) ≠ .layer t n o) :
    TowerBecomes (.recoveryPoint t n) s t
      { s.tower t with layers := (s.tower t).layers.set n (s.layer t n).repaired } := by
  refine towerBecomes_modLayer Layer.repaired ?_
  rw [exec_recoveryPoint_of_spares ht h0 h4 hb hr hl hn hk h, copyBanks_of_none (.inr hs)]

/-- A bank without a spare retires the layer (R226). -/
theorem recoveryPoint_retires (hn : (s.layer t n).nextDetect = none) (hk : (s.layer t n).banks ≠ [])
    (h : spareBanks n < (s.layer t n).spares + (s.layer t n).banks.length) :
    ∃ u, exec (.recoveryPoint t n) s = .next u ∧ u.last = .issued ∧ (u.layer t n).retired = some ((s.layer t n).cap n * 1024) ∧
      (u.layer t n).cap n = 0 ∧ SameMemBut s u (layerAddr t n) (2 ^ 38) ∧
      (∀ a, layerAddr t n ≤ a → a < layerAddr t n + 2 ^ 38 → u.byte a = 0) ∧
      (u.marten t).records = (s.marten t).records ++ [retirementRecord t n] := by
  have hpos := List.length_pos_iff.mpr hk
  obtain ⟨bs, f, hrepair, hdetect, hretired, hnext⟩ := repair_of_no_spare (s := s) (t := t) (n := n) (by omega)
  let v := (s.copyBanks t n bs).modLayer t n f
  have hlayer : v.layer t n = f (s.layer t n) := by simp [v]
  have hcap : (v.layer t n).cap n = (s.layer t n).cap n := by simp [hlayer, Layer.cap, hdetect, hretired]
  have hbyte (a : Nat) : (v.retireLayer t n).byte a = if layerAddr t n ≤ a ∧ a < layerAddr t n + 2 ^ 38 then 0 else s.byte a := by
    rw [byte_retireLayer]; simp [v]
  have hu : (v.retireLayer t n).layer t n = { f (s.layer t n) with retired := some ((s.layer t n).cap n * 1024) } := by
    rw [layer_retireLayer, hcap, hlayer]
  have hexec : exec (.recoveryPoint t n) s = happened (v.retireLayer t n) := by
    rw [exec_recoveryPoint ht h0 h4 (needs_of_waiting hr (.inl hk)) hb hr hl, hrepair, applyProtection_of_none]
    exact (congrArg Layer.nextDetect hu).trans ((hnext _).trans hn)
  refine ⟨_, hexec, rfl, congrArg Layer.retired hu, ?_, fun a ha => ?_, fun a hlo hhi => ?_, ?_⟩
  · exact (congrArg (fun l => Layer.cap l n) hu).trans rfl
  · exact (hbyte a).trans (if_neg (by omega))
  · exact (hbyte a).trans (if_pos ⟨hlo, hhi⟩)
  · refine (records_retireLayer v t n).trans ?_
    simp [v]

/-- A new protection mode clears the layer (R28). -/
theorem recoveryPoint_protects {b : Bool} (hk : (s.layer t n).banks = []) (hn : (s.layer t n).nextDetect = some b) :
    ∃ u, exec (.recoveryPoint t n) s = .next u ∧ u.last = .issued ∧
      u.layer t n = { s.layer t n with detect := b, nextDetect := none, forced := false } ∧
      (∀ a, layerAddr t n ≤ a → a < layerAddr t n + 2 ^ 38 → u.byte a = 0 ∧ u.lock a = 0) ∧
      (∀ a, a < layerAddr t n ∨ layerAddr t n + 2 ^ 38 ≤ a → u.byte a = s.byte a ∧ u.lock a = s.lock a) := by
  let v := s.modLayer t n Layer.repaired
  have hexec : exec (.recoveryPoint t n) s =
      happened ((v.wipeLayer t n).modLayer t n (fun l => { l with detect := b, nextDetect := none })) := by
    rw [exec_recoveryPoint ht h0 h4 (needs_of_waiting hr (.inr (.inr (by simp [hn])))) hb hr hl, repair_of_spares hl (by simp [hk]),
      copyBanks_of_none (.inl hk)]
    simp [State.applyProtection, v, Layer.repaired, hn]
  have hlayer : ((v.wipeLayer t n).modLayer t n (fun l => { l with detect := b, nextDetect := none })).layer t n =
      { s.layer t n with detect := b, nextDetect := none, forced := false } := by
    simp [v, Layer.repaired, hk]
  refine ⟨_, hexec, rfl, hlayer, fun a hlo hhi => ⟨?_, ?_⟩, fun a ha => ⟨?_, ?_⟩⟩
  · exact (byte_wipeLayer v t n a).trans (if_pos ⟨hlo, hhi⟩)
  · exact (lock_wipeLayer v t n a).trans (if_pos ⟨hlo, hhi⟩)
  · exact (byte_wipeLayer v t n a).trans (if_neg (by omega))
  · exact (lock_wipeLayer v t n a).trans (if_neg (by omega))

end recovery

/-! Injected errors (R281) -/

theorem lt_lpSize_of_region {s : State} {a : Nat} (h : s.region a = .lpddr) : a < lpSize := by
  by_contra hc
  unfold State.region at h
  rw [if_neg hc] at h
  dsimp only at h
  repeat' split at h
  all_goals cases h

theorem region_of_lt_lpSize (s : State) {a : Nat} (h : a < lpSize) : s.region a = .lpddr := if_pos h

/-- ERRINJCTL holds `c`, and no error has been seen since. -/
def Machine.State.armed (s : State) (t : Nat) (c : Word) : State := s.modOwl t (fun o => { o with errctl := c, errseen := 0 })

theorem tower_armed (s : State) (t : Nat) (c : Word) :
    (s.armed t c).tower t = { s.tower t with owl := { (s.tower t).owl with errctl := c, errseen := 0 } } :=
  State.tower_setTower_self s t _

theorem exec_errorInjectArm {s : State} {t : Nat} (ht : t < numTowers) (hl : s.link.retraining = false) (v : Word) :
    exec (.errorInjectArm t v) s = happened (s.errinj t v) := by
  simp only [exec, execErrorInjectArm, if_neg ht.not_ge, fromHost, hl]
  rfl

theorem errorInjectArm_notNow {s : State} {t : Nat} (ht : t < numTowers) (hl : s.link.retraining = true) (v : Word) :
    NotNow (.errorInjectArm t v) s := by
  show exec (.errorInjectArm t v) s = notNow s
  simp only [exec, execErrorInjectArm, if_neg ht.not_ge, fromHost, hl, if_true]

theorem errorInjectArm_becomes {s : State} {t : Nat} {v c : Word} (ht : t < numTowers) (hl : s.link.retraining = false)
    (h : s.errinj t v = s.armed t c) :
    TowerBecomes (.errorInjectArm t v) s t { s.tower t with owl := { (s.tower t).owl with errctl := c, errseen := 0 } } :=
  towerBecomes_setTower ((exec_errorInjectArm ht hl v).trans (congrArg happened h))

/-- The bits of ERRINJCTL that a write reaches (R281). -/
def errinjBits (v : Word) : Word := v &&& 0x0000FFFF00FFE303

theorem errinj_of_waiting (s : State) (t : Nat) (v : Word)
    (h : bit (errinjBits v) 0 = false ∨ bits (errinjBits v) 9 8 = 1 ∨ bits (errinjBits v) 9 8 = 2) :
    s.errinj t v = s.armed t (errinjBits v) := by
  unfold State.errinj
  obtain h | h | h := h <;> simp [errinjBits] at h <;> simp [h] <;> rfl

theorem errinj_of_refused (s : State) (t : Nat) (v : Word) (h0 : bit (errinjBits v) 0 = true) (h : bits (errinjBits v) 9 8 = 3) :
    s.errinj t v = s.armed t (errinjBits v - 1) := by
  simp only [errinjBits] at h0 h
  simp only [State.errinj, h0, h]
  rfl

theorem errinj_of_now (s : State) (t : Nat) (v : Word) (h0 : bit (errinjBits v) 0 = true) (h : bits (errinjBits v) 9 8 = 0) :
    s.errinj t v = (s.armed t (errinjBits v - 1)).inject (s.owl t).erradr.toNat (bit (errinjBits v) 1) := by
  simp only [errinjBits] at h0 h
  simp only [State.errinj, h0, h]
  rfl

theorem inject_poison {s : State} {a : Nat} (hr : s.region a = .lpddr) (hp : s.poison.contains (a / 8) = false) :
    s.inject a true = { s with poison := a / 8 :: s.poison } := by
  simp only [State.inject, hr, Bool.true_or, if_true, State.markPoison, hp]
  rfl

theorem errorInjectArm_poisons {s : State} {t : Nat} {v : Word} (ht : t < numTowers) (hl : s.link.retraining = false)
    (h0 : bit (errinjBits v) 0 = true) (h : bits (errinjBits v) 9 8 = 0) (h1 : bit (errinjBits v) 1 = true)
    (hr : s.region (s.tower t).owl.erradr.toNat = .lpddr) (hp : s.poison.contains ((s.tower t).owl.erradr.toNat / 8) = false) :
    ∃ u, exec (.errorInjectArm t v) s = .next u ∧ u.last = .issued ∧
      u.tower t = { s.tower t with owl := { (s.tower t).owl with errctl := errinjBits v - 1, errseen := 0 } } ∧
      u = { s with towers := u.towers, poison := (s.tower t).owl.erradr.toNat / 8 :: s.poison, last := u.last } := by
  have hpoison := inject_poison (s := s.armed t (errinjBits v - 1)) (region_of_lt_lpSize _ (lt_lpSize_of_region hr)) hp
  have hexec := exec_errorInjectArm ht hl v
  rw [errinj_of_now s t v h0 h, h1] at hexec
  exact ⟨_, hexec.trans (congrArg happened hpoison), rfl, tower_armed s t _, rfl⟩

/-- Settles O52: each event's case is the fact about that event above. -/
theorem modesLayersAndErrors : Obligations.ModesLayersAndErrors := by
  unfold Obligations.ModesLayersAndErrors
  intro s t n w v b
  refine ⟨throttle_becomes, throttle_alarm, timingMode_becomes, timingMode_notNow, modeset_asks s v,
    fun o h => scrubVisit_cases h, scrubVisit_notNow, fun ht h0 h4 => ?_, fun ht hl => errorInjectArm_notNow ht hl v, fun ht hl => ⟨?_, ?_, ?_⟩⟩
  · have hdelay (hr : (s.layer t n).retired = none) (hf : (s.layer t n).forced = false)
        (hw : (s.layer t n).banks ≠ [] ∨ (s.layer t n).badLanes ≠ [] ∨ (s.layer t n).nextDetect ≠ none) :=
      exec_recoveryDelayExpire ht h0 h4 (needs_of_waiting hr hw) hf
    refine ⟨bankFailing_becomes ht h0 h4, bankFailing_notNow ht h0 h4, failingTsvLane_becomes ht h0 h4, ?_, ?_, ?_,
      fun h => recoveryPoint_notNow ht h0 h4 (.inr h), fun hb hl hn => recoveryPoint_notNow ht h0 h4 (.inl ?_),
      fun hb hr hl hn hk => ⟨recoveryPoint_corrects ht h0 h4 hb hr hl hn hk, recoveryPoint_becomes ht h0 h4 hb hr hl hn hk,
        recoveryPoint_retires ht h0 h4 hb hr hl hn hk⟩,
      fun hb hr hl hk hn => recoveryPoint_protects ht h0 h4 hb hr hl hk hn⟩
    · rintro ⟨hr, hf, hw⟩ htasks
      exact towerBecomes_modLayer (fun l => { l with forced := true }) ((hdelay hr hf hw []).trans (if_pos htasks))
    · rintro ⟨hr, hf, hw⟩ htasks
      exact (hdelay hr hf hw []).trans (if_neg htasks)
    · rintro i areas live u ⟨hr, hf, hw⟩ hu htasks
      have h := hdelay hr hf hw [(i, areas, live)]
      rw [List.foldl_cons, askPreempt_of_exec hu, List.foldl_nil, if_pos htasks] at h
      exact h
    · simp [Layer.needs, hb, hl, hn]
  · exact errorInjectArm_poisons ht hl
  · exact fun h => errorInjectArm_becomes ht hl (errinj_of_waiting s t v h)
  · exact fun h0 h => errorInjectArm_becomes ht hl (errinj_of_refused s t v h0 h)

end Sys2Proof
end

section
/-! How engines start (R62, R113, R125, R245, R251, R261, R331, R379, R383): which command an engine takes, what a PLTOPK makes of its object,
what a send reads and what leaves as a packet. -/

namespace Sys2Proof

open Machine

/-! Units and queues -/

@[simp] theorem badger_setBadger_self (s : State) (b : Nat) (g : Engine) : (s.setBadger b g).badger b = g := by
  simp [State.setBadger, State.modTower, State.badger]

@[simp] theorem sendq_setSendq_self (s : State) (q : Nat) (v : SendQ) : (s.setSendq q v).sendq q = v := by
  simp [State.setSendq, State.modTower, State.sendq]

/-- The first command of a queue whose dependencies are complete is taken, and the others stay (R62). -/
theorem takeReady_of_first {s : State} {q : List Cmd} {k : Cmd} (h : q.find? (fun j => s.depsMet j) = some k) :
    takeReady s q = some (k, q.filter (fun j => j.id ≠ k.id)) := by
  simp only [takeReady, h]

/-! Copy engines and Hares -/

theorem copyStart_happens {s : State} {e : Nat} {k : Cmd} (he : e < numCopyEngines)
    (h : (s.copyEngine e).queue.find? (fun j => s.depsMet j) = some k) :
    Happens (.copyStart e) s (s.setCopyEngine e
      { queue := (s.copyEngine e).queue.filter (fun j => j.id ≠ k.id) ++ (s.copyEngine e).running.toList, running := some k }) := by
  show exec (.copyStart e) s = happened _
  simp only [exec, execCopyStart, if_neg he.not_ge, takeReady_of_first h]

theorem copyStart_notNow {s : State} {e : Nat} (he : e < numCopyEngines) (h : (s.copyEngine e).queue = []) : NotNow (.copyStart e) s := by
  show exec (.copyStart e) s = notNow s
  simp only [exec, execCopyStart, if_neg he.not_ge, h, takeReady, List.find?_nil]

theorem hareJobStart_happens {s : State} {e : Nat} {k : Cmd} (he : e < 4) (hr : (s.hare e).running = none)
    (h : (s.hare e).queue.find? (fun j => s.depsMet j) = some k) :
    Happens (.hareJobStart e) s (s.setHare e { queue := (s.hare e).queue.filter (fun j => j.id ≠ k.id), running := some k }) := by
  show exec (.hareJobStart e) s = happened _
  simp only [exec, execHareJobStart, if_neg he.not_ge, hr, takeReady_of_first h]

theorem hareJobStart_notNow {s : State} {e : Nat} (he : e < 4) (hr : (s.hare e).running ≠ none) : NotNow (.hareJobStart e) s := by
  show exec (.hareJobStart e) s = notNow s
  obtain ⟨k, hk⟩ := Option.ne_none_iff_exists'.mp hr
  simp only [exec, execHareJobStart, if_neg he.not_ge, hk]

/-! Badgers -/

theorem exec_badgerStart {s : State} {e : Nat} {k : Cmd} (he : e < numBadgers) (hr : (s.badger e).running = none)
    (h : (s.badger e).queue.find? (fun j => s.depsMet j) = some k) :
    exec (.badgerStart e) s =
      happened ((if k.kind = .pltopk then startTopk s k else (s, k)).1.setBadger e
        { queue := (s.badger e).queue.filter (fun j => j.id ≠ k.id), running := some (if k.kind = .pltopk then startTopk s k else (s, k)).2 }) := by
  simp only [exec, execBadgerStart, if_neg he.not_ge, hr, takeReady_of_first h]

theorem badgerStart_happens {s : State} {e : Nat} {k : Cmd} (he : e < numBadgers) (hr : (s.badger e).running = none)
    (h : (s.badger e).queue.find? (fun j => s.depsMet j) = some k) (hk : k.kind ≠ .pltopk) :
    Happens (.badgerStart e) s (s.setBadger e { queue := (s.badger e).queue.filter (fun j => j.id ≠ k.id), running := some k }) := by
  have hexec := exec_badgerStart he hr h
  rw [if_neg hk] at hexec
  exact hexec

theorem badgerStart_notNow {s : State} {e : Nat} (he : e < numBadgers) (hr : (s.badger e).running ≠ none) : NotNow (.badgerStart e) s := by
  show exec (.badgerStart e) s = notNow s
  obtain ⟨k, hk⟩ := Option.ne_none_iff_exists'.mp hr
  simp only [exec, execBadgerStart, if_neg he.not_ge, hk]

/-! The object of a PLTOPK (R251, R383) -/

theorem correct_of_softAt {s : State} {a n : Nat} (h : s.softAt a n = false) : s.correct a n = s := by
  simp [State.correct, h]

/-- Where no word has an error, a read changes nothing. -/
theorem readFirst_state {s : State} (hs : s.soft = []) (n : Nat) (ps : List RowPart) : (readFirst n s ps).1 = s := by
  induction ps generalizing n with
  | nil => rfl
  | cons p r ih =>
    have hpart : (readRowPart s p).1 = s := by
      unfold readRowPart
      split
      · rfl
      · exact correct_of_softAt (by simp [State.softAt, hs])
    simp only [readFirst]
    split
    · exact ih n
    · simp [hpart, ih]

theorem readWords_state {s : State} (hs : s.soft = []) (pa n : Nat) : (readWords s pa n).1 = s := readFirst_state hs _ _

/-- Where the object of the PLTOPK `k` stands. -/
def Machine.Cmd.object (k : Cmd) : Nat := apAddr k.core (apOff (bcOut k.ccb))

/-- The header of the object. -/
def Machine.State.objectHead (s : State) (k : Cmd) : List Word := s.words k.object 2

/-- A header that passes R251: its capacity and count, and the regions of the command with it. -/
def Machine.Cmd.objectFits (k : Cmd) (h : List Word) : Prop :=
  topkBad h = false ∧ (∀ r ∈ badgerRegions .pltopk k.ccb (hdK h), r.1 + r.2 ≤ pairSize) ∧
    regionsMeet (badgerRegions .pltopk k.ccb (hdK h)) = false

/-- A word that the bytes of a part touch is touched by the bytes of the whole. -/
theorem poisoned_mono {s : State} {a n b m : Nat} (h : s.poisoned a n = false) (hb : a ≤ b) (hm : b + m ≤ a + n) : s.poisoned b m = false := by
  simp only [State.poisoned, List.any_eq_false, Bool.and_eq_true, decide_eq_true_eq] at h ⊢
  intro w hw hc
  exact h w hw (by omega)

theorem regions_fit_iff (bad : Bool) (rs : List (Nat × Nat)) (size : Nat) (meet : Bool) :
    (bad || rs.any (fun r => decide (size < r.1 + r.2)) || meet) = false ↔
      bad = false ∧ (∀ r ∈ rs, r.1 + r.2 ≤ size) ∧ meet = false := by
  simp only [Bool.or_eq_false_iff, List.any_eq_false, decide_eq_true_eq, not_lt, and_assoc]

/-- What a PLTOPK makes of its object, where a read corrects nothing. The definition is unfolded away from its arguments: the kernel would
otherwise evaluate the read at the head of its first `match`. -/
theorem startTopk_cases {s : State} (hs : s.soft = []) (k : Cmd) : ∃ k', startTopk s k = (s, k') ∧
    (s.poisoned k.object 16 = true ∧ k'.error = some (cPOISON, fgPOISON, 2 ^ 31) ∨
      s.poisoned k.object 16 = false ∧ ¬ k.objectFits (s.objectHead k) ∧ k'.error = some (cPLFORMAT, 0, 0) ∨
      s.poisoned k.object 16 = false ∧ k.objectFits (s.objectHead k) ∧
        (readRecords s (k.object + 16) (hdN (s.objectHead k))).2 ≠ none ∨
      s.poisoned k.object 16 = false ∧ k.objectFits (s.objectHead k) ∧
        k'.aux = s.objectHead k ++ s.words (k.object + 16) (hdN (s.objectHead k)) ∧ k'.error = k.error) := by
  have hread := readWords_state hs
  have hfit := regions_fit_iff (topkBad (s.objectHead k)) (badgerRegions .pltopk k.ccb (hdK (s.objectHead k))) pairSize
    (regionsMeet (badgerRegions .pltopk k.ccb (hdK (s.objectHead k))))
  generalize hf : startTopk = f
  delta startTopk at hf
  generalize hr : f s k = r
  subst hf
  generalize readWords = read at hread hr
  beta_reduce at hr
  extract_lets b pa at hr
  split at hr
  next s₁ hd hd₁ =>
  obtain rfl : s = s₁ := by rw [← hread pa 16, hd₁]
  extract_lets h regions k₀ at hr
  split at hr
  next hp => exact ⟨_, hr.symm, .inl ⟨hp, rfl⟩⟩
  next hp =>
  have hp := Bool.eq_false_of_not_eq_true hp
  split at hr
  next hb => exact ⟨_, hr.symm, .inr (.inl ⟨hp, fun hc => Bool.false_ne_true ((hfit.mpr hc).symm.trans hb), rfl⟩)⟩
  next hb =>
  have hb := hfit.mp (Bool.eq_false_of_not_eq_true hb)
  split at hr
  next s₂ rs hd₂ =>
  obtain rfl : s = s₂ := by rw [← hread (pa + 16) (8 * hdN h), hd₂]
  extract_lets k₁ at hr
  split at hr
  next i hi => exact ⟨_, hr.symm, .inr (.inr (.inl ⟨hp, hb, fun hn => Option.some_ne_none i (hi.symm.trans hn)⟩))⟩
  next => exact ⟨_, hr.symm, .inr (.inr (.inr ⟨hp, hb, rfl, rfl⟩))⟩

theorem startTopk_of_poison {s : State} {k : Cmd} (hs : s.soft = []) (hp : s.poisoned k.object 16 = true) :
    ∃ k', startTopk s k = (s, k') ∧ k'.error = some (cPOISON, flagOf cPOISON, 2 ^ 31) := by
  have hflag : flagOf cPOISON = fgPOISON := if_pos rfl
  obtain ⟨k', hk, ⟨-, he⟩ | ⟨hn, -⟩ | ⟨hn, -⟩ | ⟨hn, -⟩⟩ := startTopk_cases hs k
  · exact ⟨k', hk, hflag ▸ he⟩
  all_goals exact absurd (hn.symm.trans hp) Bool.false_ne_true

theorem startTopk_of_not_fits {s : State} {k : Cmd} (hs : s.soft = []) (hp : s.poisoned k.object 16 = false)
    (hb : ¬ k.objectFits (s.objectHead k)) : ∃ k', startTopk s k = (s, k') ∧ k'.error = some (cPLFORMAT, 0, 0) := by
  obtain ⟨k', hk, ⟨hy, -⟩ | ⟨-, -, he⟩ | ⟨-, hf, -⟩ | ⟨-, hf, -⟩⟩ := startTopk_cases hs k
  · exact absurd (hp.symm.trans hy) Bool.false_ne_true
  · exact ⟨k', hk, he⟩
  all_goals exact absurd hf hb

/-- The records of an object without poison can all be read. -/
theorem readRecords_whole {s : State} {pa n : Nat} (h : s.poisoned pa (8 * n) = false) : (readRecords s pa n).2 = none := by
  refine List.find?_eq_none.mpr fun i hi => ?_
  have := List.mem_range.mp hi
  rw [poisoned_mono h (by omega) (by omega)]
  exact Bool.false_ne_true

theorem words_append (s : State) (pa m n : Nat) : s.words pa m ++ s.words (pa + 8 * m) n = s.words pa (m + n) := by
  simp only [State.words, List.range_add, List.map_append, List.map_map]
  congr 2
  funext i
  simp [Nat.mul_add, Nat.add_assoc]

theorem startTopk_of_fits {s : State} {k : Cmd} (hs : s.soft = []) (hp : s.poisoned k.object (16 + 8 * hdN (s.objectHead k)) = false)
    (hb : k.objectFits (s.objectHead k)) :
    ∃ k', startTopk s k = (s, k') ∧ k'.aux = s.words k.object (2 + hdN (s.objectHead k)) ∧ k'.error = k.error := by
  have hhead : s.poisoned k.object 16 = false := poisoned_mono hp le_rfl (by omega)
  obtain ⟨k', hk, ⟨hy, -⟩ | ⟨-, hn, -⟩ | ⟨-, -, hr⟩ | ⟨-, -, ha, he⟩⟩ := startTopk_cases hs k
  · exact absurd (hhead.symm.trans hy) Bool.false_ne_true
  · exact absurd hb hn
  · exact absurd (readRecords_whole (poisoned_mono hp (by omega) (by omega))) hr
  · exact ⟨k', hk, ha.trans (words_append s _ 2 _), he⟩

/-- A Badger that starts a PLTOPK runs what its object makes of the command. -/
theorem badgerStart_pltopk {s : State} {e : Nat} {k k' : Cmd} (he : e < numBadgers) (hr : (s.badger e).running = none)
    (h : (s.badger e).queue.find? (fun j => s.depsMet j) = some k) (hk : k.kind = .pltopk) (ho : startTopk s k = (s, k')) :
    ∃ u, exec (.badgerStart e) s = .next u ∧ SameMem s u ∧
      u.badger e = { queue := (s.badger e).queue.filter (fun j => j.id ≠ k.id), running := some k' } := by
  have hexec := exec_badgerStart he hr h
  rw [if_pos hk, ho] at hexec
  exact ⟨_, hexec, fun _ => rfl, badger_setBadger_self s e _⟩

/-! What a send queue starts -/

theorem unit_of_lt {q port : Nat} (hq : q < numSendQueues) (hp : port < 12) :
    ¬ (decide (numSendQueues ≤ q) || decide (12 ≤ port)) = true := by
  simp [hq.not_ge, hp.not_ge]

theorem sendQueueStart_recv {s : State} {q port words : Nat} {k : Cmd} (hq : q < numSendQueues) (hp : port < 12)
    (h : (s.sendq q).queue.find? (fun j => s.depsMet j) = some k) (hk : k.kind = .recv) :
    Happens (.sendQueueStart (q, 0, port, words)) s
      ((s.setSendq q { s.sendq q with queue := (s.sendq q).queue.filter (fun j => j.id ≠ k.id) }).setSendq q
        { s.sendq q with queue := (s.sendq q).queue.filter (fun j => j.id ≠ k.id), recvs := (s.sendq q).recvs ++ [k] }) := by
  show exec (.sendQueueStart (q, 0, port, words)) s = happened _
  simp only [exec, execSendQueueStart, unit_of_lt hq hp, takeReady_of_first h, hk]
  rfl

theorem sendQueueStart_send {s : State} {q port words : Nat} {k : Cmd} (hq : q < numSendQueues) (hp : port < 12)
    (h : (s.sendq q).queue.find? (fun j => s.depsMet j) = some k) (hk : k.kind ≠ .recv) (ht : k.sendTotal ≠ 0) :
    Happens (.sendQueueStart (q, 0, port, words)) s
      ((s.setSendq q { s.sendq q with queue := (s.sendq q).queue.filter (fun j => j.id ≠ k.id) }).setSendq q
        { s.sendq q with queue := (s.sendq q).queue.filter (fun j => j.id ≠ k.id), sends := (s.sendq q).sends ++ [k] }) := by
  show exec (.sendQueueStart (q, 0, port, words)) s = happened _
  simp only [exec, execSendQueueStart, unit_of_lt hq hp, takeReady_of_first h, if_neg hk, if_neg ht]
  rfl

/-- The only send that is under way goes on: a packet leaves, or the next part of its data is read. -/
theorem exec_sendQueueStart_only {s : State} {q port words : Nat} {k : Cmd} (hq : q < numSendQueues) (hp : port < 12)
    (hs : (s.sendq q).sends = [k]) : exec (.sendQueueStart (q, 1, port, words)) s =
      if k.packetReady then sendPacket s q k port else if k.read then notNow s else happened (sendRead s q k words) := by
  simp only [exec, execSendQueueStart, unit_of_lt hq hp, hs]
  rfl

theorem packetReady_iff {k : Cmd} :
    k.packetReady = true ↔ 4096 ≤ k.buf.length - k.sent ∨ k.read = true ∧ 0 < k.buf.length - k.sent := by
  simp only [Cmd.packetReady, Bool.or_eq_true, Bool.and_eq_true, decide_eq_true_eq, Nat.sub_pos_iff_lt]
  rfl

theorem exec_sendQueueStart_packet {s : State} {q port words : Nat} {k : Cmd} (hq : q < numSendQueues) (hp : port < 12)
    (hs : (s.sendq q).sends = [k]) (hr : 4096 ≤ k.buf.length - k.sent ∨ k.read = true ∧ 0 < k.buf.length - k.sent) :
    exec (.sendQueueStart (q, 1, port, words)) s = sendPacket s q k port := by
  rw [exec_sendQueueStart_only hq hp hs, if_pos (packetReady_iff.mpr hr)]

theorem sends_putSend_only {v : SendQ} {k : Cmd} (hv : v.sends = [k]) (k' : Cmd) : (v.putSend k.id (some k')).sends = [k'] := by
  simp [SendQ.putSend, hv]

/-! Packets (R22, R261, R379) -/

theorem sendPacket_of_other_die {s : State} {q port : Nat} {k : Cmd} (h : port / 6 ≠ q / 64) : sendPacket s q k port = notNow s := by
  simp only [sendPacket, sendDie, if_pos h]

theorem sendPacket_of_other_port {s : State} {q port : Nat} {k : Cmd} (hrod : bits (s.sendq q).word1 1 0 = 1) (hn : (s.sendq q).port ≠ none)
    (hp : (s.sendq q).port ≠ some port) : sendPacket s q k port = notNow s := by
  obtain ⟨p, hv⟩ := Option.ne_none_iff_exists'.mp hn
  have hne : p ≠ port := fun h => hp (h ▸ hv)
  have hturn : (decide (bits (s.sendq q).word1 1 0 = 1) && ((s.sendq q).port.any (fun p => decide (p ≠ port)) ||
      ((s.sendq q).sends.takeWhile (fun j => decide (j.id ≠ k.id))).any (fun j => !j.out))) = true := by
    simp [hrod, hv, hne]
  simp only [sendPacket, if_pos hturn, ite_self]

/-- The only send under way may leave by any port of its die, under ROD by the queue's. -/
theorem sendPacket_of_only {s : State} {q port : Nat} {k : Cmd} (hd : port / 6 = q / 64) (hs : (s.sendq q).sends = [k])
    (hp : bits (s.sendq q).word1 1 0 ≠ 1 ∨ (s.sendq q).port = none ∨ (s.sendq q).port = some port) :
    ∃ u, sendPacket s q k port = .next u ∧ u.last = .issued ∧ SameMem s u ∧
      u.netOut = s.netOut ++ [(q, port, (k.buf.drop k.sent).take 4096)] ∧
      (u.sendq q).sends = [{ k with lands := [k.sent + ((k.buf.drop k.sent).take 4096).length] }] := by
  have hturn : ¬ (decide (bits (s.sendq q).word1 1 0 = 1) && ((s.sendq q).port.any (fun p => decide (p ≠ port)) ||
      ((s.sendq q).sends.takeWhile (fun j => decide (j.id ≠ k.id))).any (fun j => !j.out))) = true := by
    obtain h | h | h := hp <;> simp [h, hs]
  simp only [sendPacket, sendDie, if_neg (not_not.mpr hd), if_neg hturn]
  exact ⟨_, rfl, rfl, fun _ => rfl, rfl, (congrArg SendQ.sends (sendq_setSendq_self s q _)).trans (sends_putSend_only hs _)⟩

/-! What a send reads (R261, R378) -/

/-- The offset of an aperture pointer is its address in the aperture. -/
theorem vaOf_mod (p : Word) : vaOf p % 2 ^ 22 = apOff p := by
  simp only [vaOf, apOff, bits, Nat.shiftRight_zero]
  exact Nat.mod_mod_of_dvd _ (by decide)

theorem le_alignUp (n m : Nat) (hm : 0 < m) : n ≤ alignUp n m := by
  have := Nat.div_add_mod (n + m - 1) m
  have := Nat.mod_lt (n + m - 1) hm
  rw [alignUp, Nat.mul_comm]
  omega

/-- The bytes of a number read from memory are the bytes that stand there. -/
theorem bytesOf_readMem {s : State} (hm : MemOk s) (a n : Nat) : bytesOf n (s.readMem a n) = (List.range n).map (fun j => s.byte (a + j)) :=
  List.map_congr_left fun j hj => Memory.read_byte s.mem hm a n j (List.mem_range.mp hj)

/-- The data of a send of one packet from the aperture: one piece, where its pointer says. -/
theorem bufPieces_of_ap (s : State) {k : Cmd} (ref n : Nat) (h : isAp (npBuf k.ccb) = true) :
    bufPieces s k false ref 0 n = .ok ([(0, apAddr k.core (apOff (npBuf k.ccb)), n)], 0) := by
  have hbase : (npSide k.ccb).base = apOff (npBuf k.ccb) := by
    simp only [npSide, memSide, if_pos h]
    exact vaOf_mod _
  have hap : (npSide k.ccb).ap = true := h
  simp only [bufPieces, hap, if_true, hbase, apPieces]
  simp [apAddr]

/-- A send of one packet from the aperture reads its data in one part. -/
theorem readSend_of_ap {s : State} {k : Cmd} (ha : isAp (npBuf k.ccb) = true) (hb : k.buf = []) (ht : k.sent = 0)
    (hl : npLen k.ccb ≤ 4096) (hm : MemOk s) (hs : s.softAt (apAddr k.core (apOff (npBuf k.ccb))) (npLen k.ccb) = false) :
    ∃ credits, readSend s k 0 = (s, { k with
      buf := (List.range (npLen k.ccb)).map (fun j => s.byte (apAddr k.core (apOff (npBuf k.ccb)) + j))
      read := true
      credits := credits }) := by
  have hlen (va : Nat) : min (npLen k.ccb) (alignUp (va + packetMax) 8 - va) = npLen k.ccb := by
    have := le_alignUp (va + packetMax) 8 (by decide)
    have : packetMax = 4096 := rfl
    omega
  simp only [readSend, hb, ht, List.length_nil, Nat.sub_zero, Nat.add_zero, if_true, hlen, bufPieces_of_ap s _ _ ha, List.foldl_cons,
    List.foldl_nil, correct_of_softAt hs, List.flatMap_cons, List.flatMap_nil, List.append_nil, List.nil_append, bytesOf_readMem hm,
    Nat.zero_add, le_refl, decide_true]
  exact ⟨_, rfl⟩

theorem sendQueueStart_read {s : State} {q port : Nat} {k : Cmd} (hq : q < numSendQueues) (hp : port < 12) (hv : (s.sendq q).sends = [k])
    (hk : k.kind = .send) (ha : isAp (npBuf k.ccb) = true) (hr : k.read = false) (hb : k.buf = []) (ht : k.sent = 0) (h0 : 0 < npLen k.ccb)
    (hl : npLen k.ccb ≤ 4096) (hm : MemOk s) (hs : s.softAt (apAddr k.core (apOff (npBuf k.ccb))) (npLen k.ccb) = false) :
    ∃ u k', exec (.sendQueueStart (q, 1, port, 0)) s = .next u ∧ u.last = .issued ∧ SameMem s u ∧ u.netOut = s.netOut ∧
      (u.sendq q).sends = [k'] ∧ k'.read = true ∧
      k'.buf = (List.range (npLen k.ccb)).map (fun j => s.byte (apAddr k.core (apOff (npBuf k.ccb)) + j)) := by
  have hready : ¬ k.packetReady = true := by simp [packetReady_iff, hb, hr]
  have hcopy : ¬ k.kind = .copy := by simp [hk]
  have hsome : ¬ (List.range (npLen k.ccb)).map (fun j => s.byte (apAddr k.core (apOff (npBuf k.ccb)) + j)) = [] := by
    simp [h0.ne']
  obtain ⟨credits, hread⟩ := readSend_of_ap ha hb ht hl hm hs
  rw [exec_sendQueueStart_only hq hp hv, if_neg hready, hr]
  simp only [sendRead, if_neg hcopy, hread, Bool.true_and, List.isEmpty_iff, if_neg hsome]
  exact ⟨_, _, rfl, rfl, fun _ => rfl, rfl, (congrArg SendQ.sends (sendq_setSendq_self s q _)).trans (sends_putSend_only hv _), rfl, rfl⟩

/-- Settles O46, engine by engine: the starts of copy engines, Hares and Badgers, the object of a PLTOPK, and what a send queue starts, reads and
lets leave. -/
theorem enginesStart : Obligations.EnginesStart := by
  unfold Obligations.EnginesStart
  intro s e port words k first rest started started' v at' packet obj head regions object sane
  refine ⟨copyStart_happens, copyStart_notNow, hareJobStart_happens, hareJobStart_notNow, badgerStart_happens, badgerStart_notNow,
    ?_, ?_, ?_, sendQueueStart_recv, sendQueueStart_send, sendQueueStart_read, ?_, ?_, ?_⟩
  · intro ⟨he, hr, hf, hk, hs⟩ hp hfits
    obtain ⟨k', ho, haux, herr⟩ := startTopk_of_fits hs hp hfits
    obtain ⟨u, hu, hmem, hb⟩ := badgerStart_pltopk he hr hf hk ho
    exact ⟨u, k', hu, hmem, hb, haux, herr⟩
  · intro ⟨he, hr, hf, hk, hs⟩ hp hfits
    obtain ⟨k', ho, herr⟩ := startTopk_of_not_fits hs hp hfits
    obtain ⟨u, hu, hmem, hb⟩ := badgerStart_pltopk he hr hf hk ho
    exact ⟨u, k', hu, hmem, hb, herr⟩
  · intro ⟨he, hr, hf, hk, hs⟩ hp
    obtain ⟨k', ho, herr⟩ := startTopk_of_poison hs hp
    obtain ⟨u, hu, hmem, hb⟩ := badgerStart_pltopk he hr hf hk ho
    exact ⟨u, k', hu, hmem, hb, herr⟩
  · intro hq hp hd hv hr hturn
    rw [exec_sendQueueStart_packet hq hp hv hr]
    exact sendPacket_of_only hd hv hturn
  · intro hq hp hd hv hr
    exact (exec_sendQueueStart_packet hq hp hv hr).trans (sendPacket_of_other_die hd)
  · intro hq hp hv hr hrod hn hother
    exact (exec_sendQueueStart_packet hq hp hv hr).trans (sendPacket_of_other_port hrod hn hother)

end Sys2Proof
end

section
/-! Realigning operations (R33, R34, R43, R52, R58 to R60, R63, R65, R75, R187, R188, R345). What a context keeps when its pending writes
are released; one lemma for the wait that they share, and one for the effect of each. -/

namespace Sys2Proof

open Machine

/-! Tables and units changed twice -/

theorem Machine.Tab.set_set {α : Type} (t : Tab α) (k : Nat) (a b : α) : (t.set k a).set k b = t.set k b := by
  induction t with
  | nil => simp [Tab.set]
  | cons e r ih =>
    obtain ⟨j, c⟩ := e
    simp only [Tab.set]
    split
    · simp [Tab.set]
    · split
      · simp [Tab.set]
      · simp_all [Tab.set]

theorem Machine.Tab.mem_of_find {α : Type} {t : Tab α} {k : Nat} {a : α} (h : t.find k = some a) : (k, a) ∈ t := by
  induction t with
  | nil => cases h
  | cons e r ih =>
    obtain ⟨j, b⟩ := e
    by_cases hj : j = k
    · simp_all [Tab.find]
    · exact List.mem_cons_of_mem _ (ih (by simpa [Tab.find, hj] using h))

theorem Machine.Tab.mem_set {α : Type} {t : Tab α} {k : Nat} {a : α} {e : Nat × α} (h : e ∈ t.set k a) : e = (k, a) ∨ e ∈ t := by
  induction t with
  | nil => simpa [Tab.set] using h
  | cons f r ih =>
    obtain ⟨j, b⟩ := f
    simp only [Tab.set] at h
    split at h
    · simp only [List.mem_cons] at h ⊢; tauto
    · split at h
      · simpa using h
      · simp only [List.mem_cons] at h ⊢; tauto

/-- What a table listed it lists still when `k` is set, but for the value that `k` had. -/
theorem Machine.Tab.mem_set_or_find {α : Type} {t : Tab α} (k : Nat) (a : α) {e : Nat × α} (h : e ∈ t) :
    e ∈ t.set k a ∨ t.find k = some e.2 := by
  induction t with
  | nil => cases h
  | cons f r ih =>
    obtain ⟨j, b⟩ := f
    simp only [Tab.set, Tab.find]
    split
    · rcases List.mem_cons.mp h with rfl | hr
      · exact .inr rfl
      · exact .inl (List.mem_cons_of_mem _ hr)
    · split
      · exact .inl (List.mem_cons_of_mem _ h)
      · rcases List.mem_cons.mp h with rfl | hr
        · exact .inl List.mem_cons_self
        · exact (ih hr).imp_left (List.mem_cons_of_mem _)

/-- What holds of every listed value holds of them still when `k` is set, if the new value of `k` has it as the old one had. -/
theorem Machine.Tab.forall_mem_set {α : Type} {t : Tab α} {k : Nat} {a : α} {P : α → Prop}
    (hold : ∀ b, t.find k = some b → (P b ↔ P a)) (hnew : t.find k = none → P a) :
    (∀ e ∈ t.set k a, P e.2) ↔ ∀ e ∈ t, P e.2 := by
  refine ⟨fun h e he => ?_, fun h e he => ?_⟩
  · rcases Tab.mem_set_or_find k a he with hset | hfind
    · exact h e hset
    · exact (hold _ hfind).mpr (h _ (Tab.mem_of_find (Tab.find_set_self t k a)))
  · rcases Tab.mem_set he with rfl | ht
    · cases hf : t.find k with
      | none => exact hnew hf
      | some b => exact (hold b hf).mp (h _ (Tab.mem_of_find hf))
    · exact h e ht

theorem Machine.State.setCtx_setCtx (s : State) (c x : Nat) (t u : Ctx) : (s.setCtx c x t).setCtx c x u = s.setCtx c x u := by
  simp [State.setCtx, State.setCore, Core.setCtx, State.core, Tab.set_set]

theorem Machine.State.modF_modF (s : State) (f g : Ctx → Ctx) : (s.modF f).modF g = s.modF (fun t => g (f t)) := by
  show (s.setCtx s.focus.core s.focus.ctx _).setCtx s.focus.core s.focus.ctx (g ((s.modF f).fctx)) = _
  rw [State.setCtx_setCtx, State.fctx_modF]
  rfl

/-! Releasing pending writes -/

/-- What a context has besides registers, pending writes and slot queues stays as it is when writes commit (R60). -/
theorem commit_frame (t : Ctx) (now : Nat) :
    t.commit now = { t with pend := (t.commit now).pend, regs := (t.commit now).regs, late := (t.commit now).late,
                            vq := (t.commit now).vq, mq := (t.commit now).mq, lq := (t.commit now).lq } := by
  unfold Ctx.commit
  split <;> rfl

theorem realign_frame (t : Ctx) (seq now : Nat) :
    t.realign seq now = { t with
      pend := (t.realign seq now).pend, regs := (t.realign seq now).regs, late := (t.realign seq now).late
      vq := (t.realign seq now).vq, mq := (t.realign seq now).mq, lq := (t.realign seq now).lq } :=
  commit_frame _ now

@[simp] theorem commit_lq_of_nil {t : Ctx} (now : Nat) (h : t.lq = []) : (t.commit now).lq = [] := by
  unfold Ctx.commit
  split <;> simp [h, supplyAll]

@[simp] theorem commit_mq_of_nil {t : Ctx} (now : Nat) (h : t.mq = []) : (t.commit now).mq = [] := by
  unfold Ctx.commit
  split <;> simp [h, supplyAll]

section
variable (s : State)

@[simp] theorem fctx_realignF : s.realignF.fctx = realigned s := State.fctx_modF _ _
@[simp] theorem realigned_delay : (realigned s).delay = s.fctx.delay := by rw [realigned, realign_frame]
@[simp] theorem realigned_loops : (realigned s).loops = s.fctx.loops := by rw [realigned, realign_frame]
@[simp] theorem realigned_masks : (realigned s).masks = s.fctx.masks := by rw [realigned, realign_frame]
@[simp] theorem realigned_span : (realigned s).span = s.fctx.span := by rw [realigned, realign_frame]
@[simp] theorem realigned_fences : (realigned s).fences = s.fctx.fences := by rw [realigned, realign_frame]
@[simp] theorem realigned_ld : (realigned s).ld = s.fctx.ld := by rw [realigned, realign_frame]
@[simp] theorem realigned_st : (realigned s).st = s.fctx.st := by rw [realigned, realign_frame]
@[simp] theorem realigned_cp : (realigned s).cp = s.fctx.cp := by rw [realigned, realign_frame]
@[simp] theorem realigned_mx : (realigned s).mx = s.fctx.mx := by rw [realigned, realign_frame]
@[simp] theorem realigned_task : (realigned s).task = s.fctx.task := by rw [realigned, realign_frame]
@[simp] theorem realigned_supplied : (realigned s).supplied = s.fctx.supplied := by rw [realigned, realign_frame]
@[simp] theorem realigned_rowWrites : (realigned s).rowWrites = s.fctx.rowWrites := by rw [realigned, realign_frame]
@[simp] theorem realignF_focus : s.realignF.focus = s.focus := rfl

theorem drained_iff : s.fctx.drained = true ↔ MayRealign s := by
  simp [Ctx.drained, MayRealign, and_assoc]

end

/-! What realigning operations share -/

section
variable {s : State}

/-- A realigning operation that reads no register goes on from the released writes (R58, R60). -/
theorem realigning_of_mayRealign (h : MayRealign s) (k : State → Res) : realigning s [] k = k s.realignF := by
  simp [realigning, (drained_iff s).mpr h, Ctx.stalled]

theorem realigning_of_not_mayRealign (h : ¬ MayRealign s) (rs : List Nat) (k : State → Res) : realigning s rs k = .wait := by
  rw [← drained_iff, Bool.not_eq_true] at h
  simp [realigning, h]

/-- The operation issues, and its context goes on from the released writes by `f`. -/
theorem ctxBecomes_realigned {i : Instr} (f : Ctx → Ctx) (h : exec i s = finish s (.done (s.realignF.modF f))) :
    CtxBecomes i s (f (realigned s)) := by
  refine ctxBecomes_modF i s (fun t => f (t.realign s.focus.seq s.fcore.clock)) (h.trans ?_)
  rw [State.realignF, State.modF_modF]
  rfl

theorem ctxBecomes_realigned_self {i : Instr} (h : exec i s = finish s (.done s.realignF)) : CtxBecomes i s (realigned s) :=
  ctxBecomes_modF i s _ h

theorem waits_of_finish {i : Instr} (h : exec i s = finish s .wait) : Waits i s := h

end

/-! Headers -/

/-- A named token is incomplete where a bit of the mask meets a bit of the group's tokens (R52). -/
theorem maskWaits_iff (t : Ctx) (m : BitVec 8) (g : BitVec 2) :
    t.maskWaits m g = true ↔ ∃ j, j < 8 ∧ m.getLsbD j = true ∧ t.tokens.getLsbD (8 * g.toNat + j) = true := by
  have hbit (j : Nat) : ((t.tokens.toNat >>> (8 * g.toNat)) &&& m.toNat).testBit j =
      (t.tokens.getLsbD (8 * g.toNat + j) && m.getLsbD j) := by
    simp [BitVec.getLsbD]
  simp only [Ctx.maskWaits, decide_eq_true_eq]
  refine ⟨fun h => ?_, fun ⟨j, hj, hm, ht⟩ h => ?_⟩
  · by_contra hn
    refine h (Nat.zero_of_testBit_eq_false fun j => ?_)
    rw [hbit, Bool.eq_false_iff]
    intro hb
    rw [Bool.and_eq_true] at hb
    exact hn ⟨j, BitVec.lt_of_getLsbD hb.2, hb.2, hb.1⟩
  · simpa [h, hm, ht] using hbit j

section
variable {s : State} (y w : BitVec 1) (m : BitVec 8) (g : BitVec 2) (v : BitVec 4) (b d : BitVec 5)

theorem hdr_plain_becomes : CtxBecomes (.hdr 0 0 m g v b d) s s.fctx :=
  ctxBecomes_self _ s (by simp [exec, execHdr, finish])

theorem exec_hdr_of_enabled (h : y = 1 ∨ w = 1) :
    exec (.hdr y w m g v b d) s = if !s.fctx.drained then finish s .wait
      else if w = 1 && s.fctx.maskWaits m g then .next { s.giveUp s.focus.core s.focus.ctx with last := .waits }
      else finish s (.done s.realignF) := by
  have hyw : (y = 0 && w = 0) = false := by
    rcases h with rfl | rfl <;> simp
  show execHdr y w m g v b d s = _
  rw [execHdr, hyw]
  rfl

theorem hdr_becomes (hr : MayRealign s) (h : y = 1 ∨ w = 1)
    (ht : w = 1 → ∀ j, j < 8 → m.getLsbD j = true → s.fctx.tokens.getLsbD (8 * g.toNat + j) = false) :
    CtxBecomes (.hdr y w m g v b d) s (realigned s) := by
  refine ctxBecomes_realigned_self ?_
  have hm : (w = 1 && s.fctx.maskWaits m g) = false := by
    by_contra hc
    simp only [Bool.not_eq_false, Bool.and_eq_true, decide_eq_true_eq, maskWaits_iff] at hc
    obtain ⟨hw, j, hj, hmj, htj⟩ := hc
    simp [ht hw j hj hmj] at htj
  rw [exec_hdr_of_enabled y w m g v b d h, (drained_iff s).mpr hr, hm]
  rfl

/-- A header that waits for a token gives the core up (R33). -/
theorem exec_hdr_of_token (hr : MayRealign s) {j : Nat} (hj : j < 8) (hm : m.getLsbD j = true)
    (ht : s.fctx.tokens.getLsbD (8 * g.toNat + j) = true) :
    exec (.hdr y 1 m g v b d) s = .next { s.giveUp s.focus.core s.focus.ctx with last := .waits } := by
  have hw : s.fctx.maskWaits m g = true := (maskWaits_iff _ _ _).mpr ⟨j, hj, hm, ht⟩
  rw [exec_hdr_of_enabled y 1 m g v b d (.inr rfl), (drained_iff s).mpr hr, hw]
  rfl

theorem hdr_waits (hr : ¬ MayRealign s) (h : y = 1 ∨ w = 1) : Waits (.hdr y w m g v b d) s := by
  rw [← drained_iff, Bool.not_eq_true] at hr
  refine waits_of_finish ?_
  rw [exec_hdr_of_enabled y w m g v b d h, hr]
  rfl

end

/-! YIELD and END -/

section
variable {s : State}

theorem yield_becomes (h : MayRealign s) : CtxBecomes .yield s { realigned s with hold := .switching } :=
  ctxBecomes_realigned (fun t => { t with hold := .switching }) (congrArg (finish s) (realigning_of_mayRealign h _))

/-- What END does once it may issue: it ends the context, or an open span is in its way (R43, R345). -/
theorem exec_endOp (h : MayRealign s) : exec .endOp s = finish s (match s.fctx.span with
    | none => .done (s.realignF.modF (fun t => { t with hold := .ending }))
    | some sp =>
      match sp.gang with
      | some g => if g.leadCore = s.focus.core && g.leadCtx = s.focus.ctx then .trap cILLOP 0 0 else .wait
      | none => .trap cILLOP 0 0) := by
  rw [← realigned_span s, ← fctx_realignF]
  exact congrArg (finish s) (realigning_of_mayRealign h _)

theorem endOp_becomes (h : MayRealign s) (hs : s.fctx.span = none) : CtxBecomes .endOp s { realigned s with hold := .ending } :=
  ctxBecomes_realigned (fun t => { t with hold := .ending }) (by rw [exec_endOp h, hs])

theorem endOp_traps {sp : Span} (h : MayRealign s) (hs : s.fctx.span = some sp)
    (hg : ∀ g, sp.gang = some g → g.leadCore = s.focus.core ∧ g.leadCtx = s.focus.ctx) : Traps .endOp s cILLOP 0 0 := by
  unfold Traps
  rw [exec_endOp h, hs]
  cases hgang : sp.gang with
  | none => simp [hgang, finish]
  | some g =>
    obtain ⟨hcore, hctx⟩ := hg g hgang
    simp [hgang, hcore, hctx, finish]

theorem endOp_waits {sp : Span} {g : Gang} (h : MayRealign s) (hs : s.fctx.span = some sp) (hgang : sp.gang = some g)
    (hg : ¬ (g.leadCore = s.focus.core ∧ g.leadCtx = s.focus.ctx)) : Waits .endOp s := by
  refine waits_of_finish ?_
  rw [exec_endOp h, hs]
  simp [hgang, hg]

/-! WAIT -/

/-- Every counter of `t` is at or below its limit; the all-ones limit is none (R65). -/
def WithinLimits (t : Ctx) (l st : BitVec 8) (c : BitVec 6) (m : BitVec 2) : Prop :=
  (l = 255 ∨ t.ld ≤ l.toNat) ∧ (st = 255 ∨ t.st ≤ st.toNat) ∧ (c = 63 ∨ t.cp ≤ c.toNat) ∧ (m = 3 ∨ t.mx ≤ m.toNat)

theorem exec_wait (h : MayRealign s) (l st : BitVec 8) (c : BitVec 6) (m : BitVec 2) [Decidable (WithinLimits s.fctx l st c m)] :
    exec (.wait l st c m) s = finish s (if WithinLimits s.fctx l st c m then .done s.realignF else .wait) := by
  refine congrArg (finish s) ((realigning_of_mayRealign h _).trans (if_congr ?_ rfl rfl))
  simp [WithinLimits, and_assoc]

theorem wait_becomes (h : MayRealign s) {l st : BitVec 8} {c : BitVec 6} {m : BitVec 2} (hw : WithinLimits s.fctx l st c m) :
    CtxBecomes (.wait l st c m) s (realigned s) :=
  have := decidable_of_iff True (iff_of_true trivial hw)
  ctxBecomes_realigned_self (by rw [exec_wait h, if_pos hw])

theorem wait_waits (h : MayRealign s) {l st : BitVec 8} {c : BitVec 6} {m : BitVec 2} (hw : ¬ WithinLimits s.fctx l st c m) :
    Waits (.wait l st c m) s :=
  have := decidable_of_iff False (iff_of_false not_false hw)
  waits_of_finish (by rw [exec_wait h, if_neg hw])

/-! BRKM -/

/-- No fault meets a transfer that may stand at its bundle, once the pending writes are released (R67, R73). -/
theorem transferFault_realignF (h : MayTransfer s) : s.realignF.transferFault = none := by
  obtain ⟨hd, hl⟩ := h
  rw [State.transferFault, fctx_realignF, realigned_delay, realigned_loops, hd]
  cases hloops : s.fctx.loops with
  | nil => rfl
  | cons e r =>
    exact if_neg (hl e r hloops)

/-- BRKM is taken when the mask stack is not empty and its top enables no lane (R75). -/
theorem exec_brkm (h : MayRealign s) (ht : MayTransfer s) {take : Bool} (i : BitVec 16)
    (hk : (!s.fctx.masks.isEmpty && decide (s.fctx.top = 0)) = take) :
    exec (.brkm i) s = finish s (.done (s.realignF.transfer (if take then some (relTarget s.focus.addr i) else none) take)) := by
  have htop : s.realignF.mask = s.fctx.top := by
    simp [State.mask, Ctx.top]
  refine congrArg (finish s) ((realigning_of_mayRealign h _).trans ?_)
  simp only [transferTo, transferFault_realignF ht, htop, fctx_realignF, realigned_masks, hk]
  rfl

theorem brkm_taken (h : MayRealign s) (ht : MayTransfer s) (i : BitVec 16) (hm : s.fctx.masks ≠ []) (h0 : s.fctx.top = 0) :
    CtxBecomes (.brkm i) s (sentTo (realigned s) (s.focus.addr + 16 * i.signExtend 64) true) :=
  ctxBecomes_realigned (fun t => sentTo t (s.focus.addr + 16 * i.signExtend 64) true)
    (exec_brkm h ht (take := true) i (by simp [hm, h0]))

theorem brkm_not_taken (h : MayRealign s) (ht : MayTransfer s) (i : BitVec 16) (hm : s.fctx.masks = [] ∨ s.fctx.top ≠ 0) :
    CtxBecomes (.brkm i) s (notSent (realigned s) false) :=
  ctxBecomes_realigned (fun t => notSent t false) (exec_brkm h ht (take := false) i (by
    rcases hm with hm | hm
    · simp [hm]
    · rw [decide_eq_false hm, Bool.and_false]))

/-! FENCE and DRAIN -/

theorem fence_without_class (h : MayRealign s) {p q : BitVec 6} (o : BitVec 3) (hpq : p = 0 ∨ q = 0) :
    CtxBecomes (.fence p q o) s (realigned s) := by
  refine ctxBecomes_realigned_self (congrArg (finish s) ((realigning_of_mayRealign h _).trans ?_))
  rcases hpq with rfl | rfl <;> simp

theorem fence_becomes (h : MayRealign s) {p q : BitVec 6} (o : BitVec 3) (hp : p ≠ 0) (hq : q ≠ 0) :
    CtxBecomes (.fence p q o) s { realigned s with
      fences := s.fctx.fences ++ [{ seq := s.focus.seq, pred := p, succ := q, scope := o.toNat }] } := by
  rw [← realigned_fences]
  refine ctxBecomes_realigned
    (fun t => { t with fences := t.fences ++ [{ seq := s.focus.seq, pred := p, succ := q, scope := o.toNat }] })
    (congrArg (finish s) ((realigning_of_mayRealign h _).trans ?_))
  exact if_neg (by simpa using ⟨hp, hq⟩)

theorem core_realignF (s : State) : s.realignF.core s.focus.core = s.fcore.setCtx s.focus.ctx (realigned s) :=
  State.core_setCore_self s s.focus.core _

/-- Releasing writes changes no outstanding access of any core. -/
theorem storeFor_realignF (s : State) (scope c id j : Nat) : s.realignF.storeFor scope c id j = s.storeFor scope c id j := by
  rw [Bool.eq_iff_iff, State.storeFor, State.storeFor, List.all_eq_true, List.all_eq_true]
  refine Tab.forall_mem_set (t := s.cores) (k := s.focus.core) (a := s.fcore.setCtx s.focus.ctx (realigned s))
    (P := fun k => k.outs.all _ = true) (fun b hb => ?_) fun hn => ?_
  · simp [Core.setCtx, State.fcore, State.core, Tab.get, hb]
  · simp [Core.setCtx, State.fcore, State.core, Tab.get, hn, Core.reset]

theorem complete_realignF (h : MayRealign s) (seq scope : Nat) (cl : BitVec 6) :
    s.realignF.complete s.focus.core s.focus.ctx seq cl scope = s.complete s.focus.core s.focus.ctx seq cl scope := by
  obtain ⟨-, hmq, hlq⟩ := h
  have ht : s.realignF.ctx s.focus.core s.focus.ctx = realigned s := fctx_realignF s
  have houts : (s.realignF.core s.focus.core).outs = (s.core s.focus.core).outs := by rw [core_realignF]; rfl
  have hclock : (s.realignF.core s.focus.core).clock = (s.core s.focus.core).clock := by rw [core_realignF]; rfl
  have hmq' : (realigned s).mq = [] := commit_mq_of_nil _ hmq
  have hlq' : (realigned s).lq = [] := commit_lq_of_nil _ hlq
  have hcmds : s.realignF.cmdsOf s.focus.core s.focus.ctx = s.cmdsOf s.focus.core s.focus.ctx := by
    simp only [State.cmdsOf, ht, realigned_task]
    rfl
  simp only [State.complete, ht, houts, hclock, hmq', hlq', hcmds, realigned_supplied, realigned_rowWrites, storeFor_realignF,
    List.append_nil, List.all_nil]
  rw [State.fctx] at *
  simp only [hmq, hlq, List.append_nil, List.all_nil]

theorem drain_becomes (h : MayRealign s) {o : BitVec 3} (hc : s.complete s.focus.core s.focus.ctx s.focus.seq 3 o.toNat = true) :
    CtxBecomes (.drain o) s (realigned s) := by
  refine ctxBecomes_realigned_self (congrArg (finish s) ((realigning_of_mayRealign h _).trans ?_))
  exact if_pos ((complete_realignF h s.focus.seq o.toNat 3).trans hc)

end

/-- Settles O8: each operation goes on from the released writes once the queues of earlier bundles are empty, and waits before. -/
theorem realigningOperations : Obligations.RealigningOperations := by
  unfold Obligations.RealigningOperations
  refine ⟨fun s v m l => hdr_plain_becomes 0 0 v m l, ?_, ?_⟩
  · intro s y w m g v b d l t c x i p q o k hr
    refine ⟨fun h ht => hdr_becomes y w m g v b d hr h ht, yield_becomes hr, endOp_becomes hr,
      fun hl ht hc hx => wait_becomes hr ⟨hl, ht, hc, hx⟩, fun ht hm h0 => brkm_taken hr ht i hm h0, fun ht hm => brkm_not_taken hr ht i hm,
      fence_without_class hr o, fence_becomes hr o, drain_becomes hr⟩
  · intro s y w m g v b d l t c x i p q o
    refine ⟨fun hr => ?_, fun hr hn hl => ?_, fun hr hn hl => ?_, fun hr hn hl => ?_, fun hr hn hl => ?_,
      fun sp hr hs => ⟨endOp_traps hr hs, fun g hg => endOp_waits hr hs hg⟩, fun hr j hj hm ht => exec_hdr_of_token y m g v b d hr hj hm ht⟩
    · have hwait (k : State → Res) : finish s (realigning s [] k) = finish s .wait :=
        congrArg (finish s) (realigning_of_not_mayRealign hr [] k)
      exact ⟨hdr_waits y w m g v b d hr, waits_of_finish (hwait _), waits_of_finish (hwait _), waits_of_finish (hwait _),
        waits_of_finish (hwait _), waits_of_finish (hwait _), waits_of_finish (hwait _)⟩
    all_goals
      refine wait_waits hr ?_
      rintro ⟨h1, h2, h3, h4⟩
      grind

end Sys2Proof
end

section
/-! What a step runs (R45, R46, R51, R53, R55, R57, R59, R212, R225, R260, R283): the move that comes next, a cycle of a core, the bundle at
the program counter, the head of a slot queue, and the two events of dispatch. -/

namespace Sys2Proof

open Machine

/-! The next move -/

/-- No event that is enabled stands among `is`, so that none is next. -/
theorem nextInput_of_none_enabled {s : State} {is : List Instr} (h : ∀ e ∈ is, s.enabled e = false) (n : Nat) (held : Bool) :
    s.nextInput is n held = none := by
  induction is generalizing n held with
  | nil => rfl
  | cons e r ih =>
    rw [State.nextInput, h e List.mem_cons_self, Bool.and_false]
    exact ih (fun f hf => h f (List.mem_cons_of_mem _ hf)) _ _

/-- The first enabled event is next, unless it is an access by the host that would overtake one (R260). -/
theorem nextInput_of_first_enabled {s : State} {i : Instr} (post : List Instr) (hi : s.enabled i = true) {pre : List Instr} (n : Nat)
    {held : Bool} (hpre : ∀ e ∈ pre, s.enabled e = false) (hheld : byHost i = true → held = false)
    (hhost : byHost i = true → ∀ e ∈ pre, byHost e = false) :
    s.nextInput (pre ++ i :: post) n held = some (n + pre.length, i) := by
  induction pre generalizing n held with
  | nil =>
    have hgo : (!(held && byHost i) && s.enabled i) = true := by
      cases hb : byHost i <;> simp_all
    rw [List.nil_append, State.nextInput, if_pos hgo]
    rfl
  | cons e r ih =>
    rw [List.cons_append, State.nextInput, hpre e List.mem_cons_self, Bool.and_false]
    refine (ih (n + 1) (fun f hf => hpre f (List.mem_cons_of_mem _ hf)) (fun hb => ?_)
      (fun hb f hf => hhost hb f (List.mem_cons_of_mem _ hf))).trans ?_
    · simp [hheld hb, hhost hb e List.mem_cons_self]
    · simp [Nat.add_assoc, Nat.add_comm 1]

section
variable {s : State} {m : Move}

/-- The first event from outside that can happen is the next move while no moment has come. -/
theorem step_of_input {i : Instr} {pre post : List Instr} (hd : s.due = []) (hs : s.inputs = pre ++ i :: post)
    (hpre : ∀ e ∈ pre, s.enabled e = false) (hhost : byHost i = true → ∀ e ∈ pre, byHost e = false) (hi : s.enabled i = true) :
    step s = exec i { s with inputs := pre ++ post } := by
  have hn : s.nextInput s.inputs 0 false = some (pre.length, i) := by
    rw [hs, nextInput_of_first_enabled post hi 0 hpre (fun _ => rfl) hhost, Nat.zero_add]
  have he : (pre ++ i :: post).eraseIdx pre.length = pre ++ post := by
    simp [List.eraseIdx_append_of_length_le]
  have hnext : s.nextMove = some (.event i, { s with inputs := pre ++ post }) := by
    rw [State.nextMove, hd, List.isEmpty_nil, if_pos rfl, hn, ← he, ← hs]
  rw [step, stepOnce, hnext]
  rfl

/-- The choice from outside names one of the machine's own moves, while no event from outside comes first. -/
theorem nextMove_of_chosen (hn : s.due ≠ [] ∨ ∀ e ∈ s.inputs, s.enabled e = false)
    (hm : s.moves[s.sched.headD 0 % max s.moves.length 1]? = some m) : s.nextMove = some (m, { s with sched := s.sched.drop 1 }) := by
  have hinput : (if s.due.isEmpty then s.nextInput s.inputs 0 false else none) = none := by
    rcases hn with hd | he
    · simp [hd]
    · simp [nextInput_of_none_enabled he]
  rw [State.nextMove, hinput]
  cases hs : s.sched with
  | nil =>
    have hhead : s.moves.head? = some m := by simpa [hs, ← List.head?_eq_getElem?] using hm
    simp only [hhead, State.takeChoice, hs]
  | cons n r =>
    have hget : s.moves[n % max s.moves.length 1]? = some m := by simpa [hs] using hm
    simp only [hget, State.takeChoice, hs]

theorem step_of_chosen_event {i : Instr} (hn : s.due ≠ [] ∨ ∀ e ∈ s.inputs, s.enabled e = false)
    (hm : s.moves[s.sched.headD 0 % max s.moves.length 1]? = some (.event i)) : step s = exec i { s with sched := s.sched.drop 1 } := by
  simp only [step, stepOnce, nextMove_of_chosen hn hm, runMove]

theorem roundOf_sched (s : State) (c : Nat) (l : List Nat) : ({ s with sched := l } : State).roundOf c = { s.roundOf c with sched := l } := by
  unfold State.roundOf
  split <;> rfl

theorem step_of_chosen_core {c : Nat} (hn : s.due ≠ [] ∨ ∀ e ∈ s.inputs, s.enabled e = false)
    (hm : s.moves[s.sched.headD 0 % max s.moves.length 1]? = some (.core c)) :
    step s = coreStep { s.roundOf c with sched := s.sched.drop 1, nextCore := (c + 1) % numCores } c := by
  simp only [step, stepOnce, nextMove_of_chosen hn hm, runMove, roundOf_sched]

end

/-! A cycle of a core -/

section
variable (s u : State) (c x : Nat)

@[simp] theorem core_modCore_self (f : Core → Core) : (s.modCore c f).core c = f (s.core c) := State.core_setCore_self _ _ _

@[simp] theorem core_setCtx_self (t : Ctx) : (s.setCtx c x t).core c = (s.core c).setCtx x t := State.core_setCore_self _ _ _

theorem cores_traceRecord (t : Nat) (w0 w2 : Word) (rest : List Word) : (s.traceRecord t w0 w2 rest).cores = s.cores := by
  unfold State.traceRecord
  dsimp only
  repeat' split
  all_goals rfl

theorem focus_traceRecord (t : Nat) (w0 w2 : Word) (rest : List Word) : (s.traceRecord t w0 w2 rest).focus = s.focus := by
  unfold State.traceRecord
  dsimp only
  repeat' split
  all_goals rfl

theorem core_profRecord (d : Nat) (e : ProfEntry) (n : Nat) : (s.profRecord c e n).core d = s.core d := by
  rw [State.core, State.profRecord, cores_traceRecord]
  rfl

theorem clock_touchProf (addr : Word) : ((s.touchProf c addr).core c).clock = (s.core c).clock := by
  unfold State.touchProf
  dsimp only
  repeat' split
  all_goals rw [core_modCore_self]
  rw [core_profRecord]

/-- Counting a cycle leaves the clock. -/
theorem clock_charge (addr : Option Word) (k : Nat) : ((s.charge c addr k).core c).clock = (s.core c).clock := by
  cases addr with
  | none => rw [State.charge, core_modCore_self]
  | some a =>
    dsimp only [State.charge]
    rw [core_modCore_self]
    split
    · rfl
    · exact clock_touchProf _ _ _

theorem clock_tick : ((s.tick u c x).core c).clock = (u.core c).clock + 1 := by
  rw [State.tick, clock_charge, core_modCore_self]

theorem clock_landAir (k : Core) (e : Air) : (k.landAir e).clock = k.clock := by
  unfold Core.landAir Core.setRes
  dsimp only
  repeat' split
  all_goals rfl

theorem clock_landAll (n : Nat) (k : Core) : (landAll n k).clock = k.clock := by
  induction n generalizing k with
  | zero => rfl
  | succ n ih =>
    rw [landAll]
    split
    · rfl
    · rw [ih, clock_landAir]

theorem clock_land (k : Core) : k.land.clock = k.clock := by
  unfold Core.land
  split
  · rfl
  · exact clock_landAll _ _

/-- The cycle of a core that no context holds (R174). -/
theorem coreStep_of_no_holder (h : s.holder c = none) : ∃ t, coreStep s c = .next t ∧ (t.core c).clock = (s.core c).clock + 1 := by
  rw [coreStep, h]
  refine ⟨_, rfl, ?_⟩
  show ((State.tick _ _ c _).core c).clock = _
  rw [clock_tick, core_modCore_self]
  exact congrArg (· + 1) (clock_land _)

theorem coreStep_of_holder (h : s.holder c = some x) :
    coreStep s c = andThen (if (s.beginCycle c x).stepping c x then stepOp (s.beginCycle c x) c x else runCtx (s.beginCycle c x) c x)
      (fun t => .next ((s.beginCycle c x).endCycle t c x)) := by
  rw [coreStep, h]

theorem running_beginCycle : ((s.beginCycle c x).core c).running = some x := by
  rw [State.beginCycle, State.modCtx, core_setCtx_self, core_modCore_self]
  rfl

theorem endCycle_eq : s.endCycle u c x =
    if s.line c (s.ctx c x).image (s.ctx c x).pc = none ∧ u.line c (s.ctx c x).image (s.ctx c x).pc ≠ none then u else s.tick u c x := by
  refine if_congr ?_ rfl rfl
  simp [Option.isSome_iff_ne_none]

end

/-! The bundle at the program counter -/

section
variable (s : State) (c x : Nat) (image : BitVec 24) (a : Word)

theorem touchLine_frame : s.touchLine c image a = { s with icaches := (s.touchLine c image a).icaches } := by
  unfold State.touchLine
  split <;> rfl

@[simp] theorem core_touchLine (d : Nat) : (s.touchLine c image a).core d = s.core d := by
  rw [touchLine_frame]; rfl

@[simp] theorem ctx_touchLine (d y : Nat) : (s.touchLine c image a).ctx d y = s.ctx d y :=
  congrArg (fun k : Core => k.ctx y) (core_touchLine s c image a d)

end

section
variable {s : State} {c x : Nat} {step : Bool}

/-- The context dispatches its next bundle: nothing holds it back, and it has not to return from its handler. -/
theorem dispatch_of_goes (h : (s.ctx c x).heldBack (s.core c).clock = false) (hr : (s.ctx c x).returns = false) :
    dispatch s c x step = dispatchBundle s c x step := by
  simp [dispatch, h, hr]

theorem dispatchBundle_of_missing (h : s.line c (s.ctx c x).image (s.ctx c x).pc = none) :
    dispatchBundle s c x step = exec .icacheFill { s with focus := s.xFocus c x false 0 step } := by
  simp [dispatchBundle, h]

theorem dispatchBundle_of_error {w : BundleWord} {n : Nat} (h : s.line c (s.ctx c x).image (s.ctx c x).pc = some w)
    (hb : decodeBundle (s.ctx c x) w ((s.ctx c x).absAt (s.core c).clock).1 ((s.ctx c x).absAt (s.core c).clock).2 = .error n) :
    dispatchBundle s c x step = exec (.encodingFault n) { s.touchLine c (s.ctx c x).image (s.ctx c x).pc with
      focus := (s.touchLine c (s.ctx c x).image (s.ctx c x).pc).xFocus c x false (operationsOf w) step } := by
  simp only [dispatchBundle, h, core_touchLine, hb]

theorem dispatchBundle_of_ok {w : BundleWord} {b : Bundle} (h : s.line c (s.ctx c x).image (s.ctx c x).pc = some w)
    (hb : decodeBundle (s.ctx c x) w ((s.ctx c x).absAt (s.core c).clock).1 ((s.ctx c x).absAt (s.core c).clock).2 = .ok b) :
    dispatchBundle s c x step = runBundle (s.touchLine c (s.ctx c x).image (s.ctx c x).pc) c x b (presentOf w) step := by
  simp only [dispatchBundle, h, core_touchLine, hb]

variable {b : Bundle} {present : BitVec 4} {u : State}

/-- The X slot of a bundle has run: its answer stands, or with it the dispatch of the bundle; a Sync bundle waits for what cannot issue
with it (R59). -/
theorem runBundle_of_exec (hstall : (s.ctx c x).stalled (scalarSrcs b.x) = false) (hx : s.xReady c x b.x = true)
    (hstop : stopsAfter b.x = false) (hb : s.breakAt c x (s.ctx c x).pc 0 = false)
    (he : exec b.x { s with focus := s.xFocus c x b.hdr present false } = .next u) :
    runBundle s c x b present false =
      let d := if u.last = .issued then dispatched s u c x b false else u
      if u.last = .issued && d.last ≠ .trapped && isSync b.x &&
          !(syncReady (((d.ctx c x).heads).filter (fun o => o.seq = (s.ctx c x).seq)) d c x) then notNow s
      else .next d := by
  simp only [runBundle, hstall, hx, hstop, hb, he, andThen, Bool.not_true, Bool.or_self, Bool.false_eq_true, if_false, Bool.and_false,
    Bool.not_false, Bool.and_true, Bool.false_and]

/-- TRAP and DBGBRK stop behind their bundle, unless an older deferred fault comes first (R212). -/
theorem runBundle_of_stopsAfter (hstall : (s.ctx c x).stalled (scalarSrcs b.x) = false) (hx : s.xReady c x b.x = true)
    (hstop : stopsAfter b.x = true) (hb : s.breakAt c x (s.ctx c x).pc 0 = false) :
    runBundle s c x b present false =
      if (s.stopPick c x 0 (s.ctx c x).seq).isSome then stoppedAt (s.breakStop c x 0 (s.ctx c x).seq (s.ctx c x).pc)
      else
        let d := dispatched s { s with last := .idle } c x b false
        if d.last = .trapped then .next d else exec b.x { d with focus := s.xFocus c x b.hdr present false } := by
  simp only [runBundle, hstall, hx, hstop, hb, Bool.not_true, Bool.or_self, Bool.false_eq_true, if_false, Bool.and_false, if_true,
    Bool.false_or]

end

/-! What dispatch leaves in the queues -/

theorem enqueue_frame (t : Ctx) (o : QOp) :
    t.enqueue o = { t with vq := (t.enqueue o).vq, mq := (t.enqueue o).mq, lq := (t.enqueue o).lq } := by
  unfold Ctx.enqueue Ctx.setQueue
  split <;> rfl

theorem foldl_enqueue_frame (ops : List QOp) (t : Ctx) :
    ops.foldl Ctx.enqueue t = { t with
      vq := (ops.foldl Ctx.enqueue t).vq, mq := (ops.foldl Ctx.enqueue t).mq, lq := (ops.foldl Ctx.enqueue t).lq } := by
  induction ops generalizing t with
  | nil => rfl
  | cons o r ih =>
    rw [List.foldl_cons, ih (t.enqueue o), enqueue_frame]

/-- A slot that has a queue. -/
def IsQueue (j : Nat) : Prop := j = 1 ∨ j = 2 ∨ j = 3

theorem queue_enqueue {o : QOp} {j : Nat} (t : Ctx) (ho : IsQueue o.slot) (hj : IsQueue j) :
    (t.enqueue o).queue j = t.queue j ++ [o].filter (fun p => p.slot = j) := by
  rcases ho with h | h | h <;> rcases hj with rfl | rfl | rfl <;> simp [Ctx.enqueue, Ctx.setQueue, Ctx.queue, h]

/-- Operations that enter their queues stand behind those that are there. -/
theorem queue_foldl_enqueue {ops : List QOp} {j : Nat} (t : Ctx) (ho : ∀ o ∈ ops, IsQueue o.slot) (hj : IsQueue j) :
    (ops.foldl Ctx.enqueue t).queue j = t.queue j ++ ops.filter (fun p => p.slot = j) := by
  induction ops generalizing t with
  | nil => simp
  | cons o r ih =>
    rw [List.foldl_cons, ih _ fun p hp => ho p (List.mem_cons_of_mem _ hp), queue_enqueue t (ho o List.mem_cons_self) hj,
      List.append_assoc, ← List.filter_append]
    rfl

theorem isQueue_of_mem_captureAll {t : Ctx} {now seq : Nat} {a : Word} {b : Bundle} {p q : Bool} {o : QOp}
    (h : o ∈ t.captureAll now seq a b p q) : IsQueue o.slot := by
  simp only [Ctx.captureAll, List.mem_filterMap, List.mem_cons, List.not_mem_nil, or_false] at h
  obtain ⟨e, he, ho⟩ := h
  split at ho
  · cases ho
  · cases ho
    rcases he with rfl | rfl | rfl <;> simp [IsQueue, Ctx.capture]

theorem loopTest_frame (t : Ctx) (a : Word) : (t.loopTest a).1 = { t with loops := (t.loopTest a).1.loops } := by
  unfold Ctx.loopTest
  repeat' split
  all_goals rfl

/-- Going on to the next bundle changes the transfer under way, the loop stack and the program counter alone (R66, R68, R71). -/
theorem follow_frame (t : Ctx) (a : Word) (old : Option Delay) (now : Nat) :
    (t.follow a old now).1 = { t with
      loops := (t.follow a old now).1.loops, delay := (t.follow a old now).1.delay
      fetchAt := (t.follow a old now).1.fetchAt, pc := (t.follow a old now).1.pc } := by
  have hl := loopTest_frame t a
  unfold Ctx.follow
  dsimp only
  repeat' split
  all_goals rw [hl]

theorem pc_follow_of_plain {t : Ctx} (a : Word) (now : Nat) (hd : t.delay = none) (hl : t.loops = []) :
    (t.follow a none now).1.pc = a + 16 := by
  simp [Ctx.follow, Ctx.loopTest, hd, hl]

section
variable (s : State) (c x : Nat)

/-- A bundle has dispatched, and no transfer has reached a target that is not aligned (R69). -/
theorem advance_of_not_trapped {a : Word} {ops : List QOp} {old : Option Delay} {step : Bool}
    (h : (s.advance c x a ops old step).last ≠ .trapped) :
    s.advance c x a ops old step = s.setCtx c x (Ctx.follow { ops.foldl Ctx.enqueue (s.ctx c x) with
      seq := (ops.foldl Ctx.enqueue (s.ctx c x)).seq + 1, lastAddr := a } a old (s.core c).clock).1 := by
  unfold State.advance at h ⊢
  dsimp only at h ⊢
  split at h
  · exact absurd rfl h
  · rename_i hj
    rw [if_neg hj]

/-- A change of a core that leaves its contexts. -/
theorem ctx_modCore_of_ctxs {f : Core → Core} (hf : ∀ k, (f k).ctxs = k.ctxs) : (s.modCore c f).ctx c x = s.ctx c x := by
  rw [State.ctx, core_modCore_self, Core.ctx, hf]
  rfl

theorem ctx_occupy (es : List (Nat × Nat)) : (s.occupy c es).ctx c x = s.ctx c x := ctx_modCore_of_ctxs s c x fun _ => rfl

/-- The results of the X slot that are in use change nothing of the context but what the X view still shows. -/
theorem ctx_occupyX (i : Instr) (old : Ctx) (seq : Nat) :
    (s.occupyX c x i old seq).ctx c x = { s.ctx c x with late := ((s.occupyX c x i old seq).ctx c x).late } := by
  unfold State.occupyX
  dsimp only
  split
  · rw [State.modCtx, State.ctx_setCtx_self, ctx_occupy, ctx_occupy]
    rfl
  · rw [ctx_modCore_of_ctxs, ctx_occupy]
    exact fun _ => rfl

theorem last_occupyX (i : Instr) (old : Ctx) (seq : Nat) : (s.occupyX c x i old seq).last = s.last := by
  unfold State.occupyX
  dsimp only
  split <;> rfl

end

/-- The V, M and L operations of bundle `b` as dispatch captures them, `u` being the answer of its X slot (R57, R60). -/
def capturedOps (s u : State) (c x : Nat) (b : Bundle) : List QOp :=
  (if realigns b.x then u.ctx c x else s.ctx c x).captureAll (s.core c).clock (s.ctx c x).seq (s.ctx c x).pc b
    ((s.ctx c x).absAt (s.core c).clock).1 ((s.ctx c x).absAt (s.core c).clock).2

section
variable {s u : State} {c x : Nat} {b : Bundle} {step : Bool}

theorem dispatched_eq : dispatched s u c x b step =
    (u.advance c x (s.ctx c x).pc (capturedOps s u c x b) (s.ctx c x).delay step).occupyX c x b.x (s.ctx c x) (s.ctx c x).seq := rfl

/-- The context once its bundle has dispatched. -/
theorem ctx_dispatched (h : (dispatched s u c x b step).last ≠ .trapped) : ∃ l,
    (dispatched s u c x b step).ctx c x = { (Ctx.follow { (capturedOps s u c x b).foldl Ctx.enqueue (u.ctx c x) with
      seq := ((capturedOps s u c x b).foldl Ctx.enqueue (u.ctx c x)).seq + 1, lastAddr := (s.ctx c x).pc }
      (s.ctx c x).pc (s.ctx c x).delay (u.core c).clock).1 with late := l } := by
  rw [dispatched_eq, last_occupyX] at h
  refine ⟨((dispatched s u c x b step).ctx c x).late, ?_⟩
  rw [dispatched_eq, ctx_occupyX, advance_of_not_trapped _ _ _ h, State.ctx_setCtx_self]

theorem isQueue_of_mem_capturedOps {o : QOp} (h : o ∈ capturedOps s u c x b) : IsQueue o.slot := isQueue_of_mem_captureAll h

theorem seq_dispatched (h : (dispatched s u c x b step).last ≠ .trapped) :
    ((dispatched s u c x b step).ctx c x).seq = (u.ctx c x).seq + 1 := by
  obtain ⟨l, hl⟩ := ctx_dispatched h
  rw [hl, follow_frame, foldl_enqueue_frame]

theorem queue_dispatched (h : (dispatched s u c x b step).last ≠ .trapped) {j : Nat} (hj : IsQueue j) :
    ((dispatched s u c x b step).ctx c x).queue j = (u.ctx c x).queue j ++ (capturedOps s u c x b).filter (fun p => p.slot = j) := by
  obtain ⟨l, hl⟩ := ctx_dispatched h
  rw [hl, follow_frame, ← queue_foldl_enqueue _ (fun o => isQueue_of_mem_capturedOps) hj]
  rcases hj with rfl | rfl | rfl <;> rfl

theorem pc_dispatched (h : (dispatched s u c x b step).last ≠ .trapped) (hs : (s.ctx c x).delay = none) (hd : (u.ctx c x).delay = none)
    (hl : (u.ctx c x).loops = []) : ((dispatched s u c x b step).ctx c x).pc = (s.ctx c x).pc + 16 := by
  obtain ⟨l, ht⟩ := ctx_dispatched h
  rw [ht, hs]
  exact pc_follow_of_plain _ _ (by rw [foldl_enqueue_frame]; exact hd) (by rw [foldl_enqueue_frame]; exact hl)

end

/-! The slots of a bundle, and the head of a queue -/

/-- The operation of each slot is that of its word (R51). -/
theorem decodeSlot_of_decodeBundle {t : Ctx} {w : BundleWord} {p q : Bool} {b : Bundle} (h : decodeBundle t w p q = .ok b) :
    decodeSlot 0 (slotWord w 0) = .ok b.x ∧ decodeSlot 1 (slotWord w 1) = .ok b.v ∧ decodeSlot 2 (slotWord w 2) = .ok b.m ∧
      decodeSlot 3 (slotWord w 3) = .ok b.l := by
  have hok {c : Prop} [Decidable c] {e : Except Nat Bundle} (he : (if c then .error 0 else e) = .ok b) : e = .ok b := by
    split at he
    · cases he
    · exact he
  unfold decodeBundle at h
  cases h0 : decodeSlot 0 (slotWord w 0) with
  | error => simp [h0] at h
  | ok x =>
    simp only [h0] at h
    replace h := hok h
    cases h1 : decodeSlot 1 (slotWord w 1) with
    | error => simp [h1] at h
    | ok v =>
      cases h2 : decodeSlot 2 (slotWord w 2) with
      | error => simp [h1, h2] at h
      | ok m =>
        cases h3 : decodeSlot 3 (slotWord w 3) with
        | error => simp [h1, h2, h3] at h
        | ok l =>
          simp only [h1, h2, h3] at h
          cases h
          exact ⟨rfl, rfl, rfl, rfl⟩

section
variable {s u : State} {c x slot : Nat} {o : QOp} {r : List QOp}

theorem issueHead_of_ready (hrun : (s.core c).running = some x) (hq : (s.ctx c x).queue slot = o :: r) (ho : s.opReady c x o = true)
    (hb : s.breakAt c x o.addr o.slot = false) (he : exec o.ins { s with focus := s.opFocus c x o false } = .next u) :
    issueHead s c x slot = .next (if u.last = .issued then u.popOp c x o (s.core c) else if u.last = .waits then
      u.noteClass c x (u.beatClass o.ins) else u) := by
  simp only [issueHead, hrun, hq, ho, issueOp, he, andThen, hb, ne_eq, not_true_eq_false, if_false, if_true, Bool.and_false,
    Bool.false_and, Bool.false_eq_true]
  cases u.last <;> rfl

theorem issueHead_of_not_ready (hrun : (s.core c).running = some x) (hq : (s.ctx c x).queue slot = o :: r)
    (ho : s.opReady c x o = false) : issueHead s c x slot = .next (s.noteClass c x (s.heldClass c x o)) := by
  simp [issueHead, hrun, hq, ho]

end

/-! Fetching -/

/-- A line that has been put is resident (R45). -/
theorem line_putLine (s : State) (c : Nat) (l : ILine) : (s.putLine c l).line c l.image l.addr = some l.bundle := by
  have ht (ls : List ILine) : (l :: ls).take icacheLines = l :: ls.take 32767 := List.take_succ_cons
  simp [State.line, State.putLine, ht]

theorem correct_frame (s : State) (a n : Nat) :
    ∃ p q m, s.correct a n = { s with poison := p, soft := q, mgmt := m } := by
  unfold State.correct
  split
  · obtain ⟨p, m, h⟩ := correctBy_frame s _
    exact ⟨p, _, m, h⟩
  · exact ⟨s.poison, s.soft, s.mgmt, rfl⟩

theorem correctAll_frame (ps : List (Nat × Nat)) (s : State) :
    ∃ p q m, s.correctAll ps = { s with poison := p, soft := q, mgmt := m } := by
  induction ps generalizing s with
  | nil => exact ⟨s.poison, s.soft, s.mgmt, rfl⟩
  | cons e r ih =>
    obtain ⟨p, q, m, h⟩ := correct_frame s e.1 e.2
    obtain ⟨p', q', m', h'⟩ := ih (s.correct e.1 e.2)
    exact ⟨p', q', m', h'.trans (by rw [h])⟩

theorem icacheFill_fetches {s : State} {l : List (Nat × Nat)} (h : s.fetchParts s.fctx s.focus.addr = .ok l) :
    ∃ t, exec .icacheFill s = .next t ∧ t.last = .issued ∧ t = { s.correctAll l with icaches := t.icaches, last := t.last } ∧
      t.line s.focus.core s.fctx.image s.focus.addr = some (s.bundleAt l) := by
  let v := (s.correctAll l).putLine s.focus.core { image := s.fctx.image, addr := s.focus.addr, bundle := s.bundleAt l }
  refine ⟨{ v with last := .issued }, by simp only [exec, execIcacheFill, h]; rfl, rfl, rfl, ?_⟩
  exact line_putLine (s.correctAll l) s.focus.core { image := s.fctx.image, addr := s.focus.addr, bundle := s.bundleAt l }

/-! What a fault shows (R209, R210) -/

section
variable {s : State} {c x : Nat}

/-- Nothing has still to be done for a context that holds nothing, has not ended and has no access outstanding. -/
theorem quiesce_of_settled (hh : (s.ctx c x).hold = .none) (he : (s.ctx c x).ended = false)
    (ho : ∀ a ∈ (s.core c).outs, a.ctx ≠ x) : (s.quiesce c x).2 = [] ∧ (s.quiesce c x).1.focus = s.focus := by
  have hd : s.dropHold c x = s := by simp [State.dropHold, hh]
  have hf : (s.core c).outs.filter (fun o => o.ctx = x) = [] := by simpa using ho
  simp only [State.quiesce, hd, he, hf, settleOuts, Bool.false_eq_true, if_false]
  exact ⟨trivial, by split <;> rfl⟩

theorem stopPick_of_settled (hh : (s.ctx c x).hold = .none) (he : (s.ctx c x).ended = false)
    (ho : ∀ a ∈ (s.core c).outs, a.ctx ≠ x) (slot seq : Nat) : s.stopPick c x slot seq = none := by
  simp [State.stopPick, (quiesce_of_settled hh he ho).1]

/-- A stop leaves the control registers. -/
theorem csr_halt (s : State) (c x reason : Nat) : ((s.halt c x reason).ctx c x).csr = (s.ctx c x).csr := by
  unfold State.halt
  rw [ctx_modCore_of_ctxs, State.modCtx, State.ctx_setCtx_self]
  intro k
  split <;> rfl

theorem csr_enterHandler (t : Ctx) : t.enterHandler.csr = t.csr := rfl

theorem ctx_traceStop (s : State) (addr : Word) (slot code why : Nat) : (s.traceStop c x addr slot code why).ctx c x = s.ctx c x :=
  congrArg (fun k : Tab Core => (k.get c Core.reset).ctx x) (cores_traceRecord s _ _ _ _)

/-- Where no older deferred fault comes first, the registers show the fault itself (R209). -/
theorem csr_takeFault {slot seq : Nat} {addr : Word} {code : Nat} {faddr : Word} {info : Nat} {done : BitVec 4} {stay : Bool}
    (h : s.stopPick c x slot seq = none) : ∃ k : Csr, ((s.takeFault c x slot seq addr code faddr info false done stay).ctx c x).csr =
      { k with fpc := addr, faddr := faddr, finfo := BitVec.ofNat 64 (code + slot <<< 8 + info), done := done } := by
  refine ⟨((((s.gangAbort (c, x) code).quiesce c x).1).ctx c x).csr, ?_⟩
  simp only [State.takeFault, h, Bool.false_eq_true, if_false]
  split
  · rw [State.modCtx, State.ctx_setCtx_self, csr_enterHandler, ctx_traceStop, State.ctx_setCtx_self]
  · split
    · rw [csr_halt, ctx_traceStop, State.ctx_setCtx_self]
    · show ((State.halt _ _ _ _).ctx c x).csr = _
      rw [csr_halt, ctx_traceStop, State.ctx_setCtx_self]

theorem gangAbort_of_no_gang (f : Nat × Nat) (code : Nat) (h : ∀ sp, (s.ctx f.1 f.2).span = some sp → sp.gang = none) :
    s.gangAbort f code = s := by
  unfold State.gangAbort
  split
  · rfl
  · rw [h _ (by assumption)]

theorem focus_traceStop (s : State) (addr : Word) (slot code why : Nat) : (s.traceStop c x addr slot code why).focus = s.focus :=
  focus_traceRecord _ _ _ _ _

theorem focus_halt (s : State) (reason : Nat) : (s.halt c x reason).focus = s.focus := rfl

theorem focus_takeFault (hg : ∀ sp, (s.ctx c x).span = some sp → sp.gang = none) (hh : (s.ctx c x).hold = .none)
    (he : (s.ctx c x).ended = false) (ho : ∀ a ∈ (s.core c).outs, a.ctx ≠ x) {slot seq : Nat} {addr : Word} {code : Nat} {faddr : Word}
    {info : Nat} {win stay : Bool} {done : BitVec 4} :
    (s.takeFault c x slot seq addr code faddr info win done stay).focus = s.focus := by
  have hq := (quiesce_of_settled hh he ho).2
  simp only [State.takeFault, stopPick_of_settled hh he ho, gangAbort_of_no_gang (c, x) code hg]
  split
  · rw [State.modCtx_focus, focus_traceStop, State.setCtx_focus, hq]
  · split
    · rw [focus_halt, focus_traceStop, State.setCtx_focus, hq]
    · rw [State.postRecord, State.modMarten_focus, focus_halt, focus_traceStop, State.setCtx_focus, hq]

end

section
variable {s : State} (hg : ∀ sp, s.fctx.span = some sp → sp.gang = none) (hh : s.fctx.hold = .none) (he : s.fctx.ended = false)
  (ho : ∀ a ∈ s.fcore.outs, a.ctx ≠ s.focus.ctx)
include hg hh he ho

/-- What the registers show when an event of dispatch takes a fault in slot `slot` of the bundle of the focus. -/
theorem dispatchFault_shows {i : Instr} {slot code : Nat} {faddr : Word} {done : BitVec 4}
    (hi : exec i s = stoppedAt (s.takeFault s.focus.core s.focus.ctx slot s.focus.seq s.focus.addr code faddr 0 false done s.focus.step)) :
    ∃ t, exec i s = .next t ∧ t.last = .trapped ∧ t.fctx.csr.fpc = s.focus.addr ∧ t.fctx.csr.faddr = faddr ∧
      t.fctx.csr.finfo = BitVec.ofNat 64 (code + slot <<< 8) ∧ t.fctx.csr.done = done := by
  obtain ⟨k, hk⟩ := csr_takeFault (addr := s.focus.addr) (code := code) (faddr := faddr) (info := 0) (done := done) (stay := s.focus.step)
    (stopPick_of_settled hh he ho slot s.focus.seq)
  refine ⟨_, hi, rfl, ?_⟩
  have hc (t : State) (l : Last) (ht : t.focus = s.focus) : ({ t with last := l } : State).fctx = t.ctx s.focus.core s.focus.ctx := by
    rw [← ht]
    rfl
  rw [hc _ _ (focus_takeFault hg hh he ho), hk]
  exact ⟨rfl, rfl, rfl, rfl⟩

theorem icacheFill_faults {e : Nat} (hf : s.fetchParts s.fctx s.focus.addr = .error e) :
    ∃ t, exec .icacheFill s = .next t ∧ t.last = .trapped ∧ t.fctx.csr.fpc = s.focus.addr ∧ t.fctx.csr.faddr = s.focus.addr ∧
      t.fctx.csr.finfo = BitVec.ofNat 64 e := by
  obtain ⟨t, ht, hlast, hfpc, hfaddr, hinfo, -⟩ := dispatchFault_shows (i := .icacheFill) (slot := 0) (code := e) (faddr := s.focus.addr)
    (done := 0) hg hh he ho (by simp only [exec, execIcacheFill, hf])
  exact ⟨t, ht, hlast, hfpc, hfaddr, hinfo.trans (by simp)⟩

theorem encodingFault_faults {slot : Nat} (hs : slot < 4) :
    ∃ t, exec (.encodingFault slot) s = .next t ∧ t.last = .trapped ∧ t.fctx.csr.fpc = s.focus.addr ∧
      t.fctx.csr.finfo = BitVec.ofNat 64 (cILLOP + slot * 256) ∧ t.fctx.csr.done = ~~~s.focus.present := by
  obtain ⟨t, ht, hlast, hfpc, -, hinfo, hdone⟩ := dispatchFault_shows (i := .encodingFault slot) (slot := slot) (code := cILLOP) (faddr := 0)
    (done := ~~~s.focus.present) hg hh he ho (if_neg hs.not_ge)
  exact ⟨t, ht, hlast, hfpc, hinfo.trans (by rw [Nat.shiftLeft_eq]), hdone⟩

end

/-- Settles O56, clause by clause: the next move, a cycle of a core, the bundle at the program counter, the heads of the queues, and the two
events of dispatch. -/
theorem aStepRunsTheDecodedOperation : Obligations.AStepRunsTheDecodedOperation := by
  unfold Obligations.AStepRunsTheDecodedOperation
  intro s c x slot n w b o r i pre post y u k v ab goes chosen
  have hdispatch (hg : goes) : dispatch s c x false = dispatchBundle s c x false := dispatch_of_goes hg.1 hg.2
  have hctx : v.ctx c x = k := ctx_touchLine s c k.image k.pc c x
  have hcore : v.core c = s.core c := core_touchLine s c k.image k.pc c
  refine ⟨fun hd hs hpre hhost hi => step_of_input hd hs hpre hhost hi, fun h => step_of_chosen_event h.1 h.2,
    fun h => step_of_chosen_core h.1 h.2, coreStep_of_no_holder s c,
    fun h => ⟨coreStep_of_holder s c x h, running_beginCycle s c x, rfl⟩, ⟨endCycle_eq s u c x, clock_tick s u c x⟩, ?_,
    fun hg hl => (hdispatch hg).trans (dispatchBundle_of_missing hl),
    fun hg hl hb => (hdispatch hg).trans (dispatchBundle_of_error hl hb), ?_, ?_, decodeSlot_of_decodeBundle,
    issueHead_of_ready, issueHead_of_not_ready, fun l => icacheFill_fetches,
    fun e hgang hh he ho => ⟨icacheFill_faults hgang hh he ho, encodingFault_faults hgang hh he ho⟩⟩
  · intro hu hlast
    simp [runCtx, hu, andThen, hlast]
  · intro hg hl hb hstall hx hstop hbreak he d ops sync
    have hrun := runBundle_of_exec (present := presentOf w) (by rw [hctx]; exact hstall) hx hstop (by rw [hctx]; exact hbreak) he
    rw [← dispatchBundle_of_ok hl hb, ← hdispatch hg, hctx] at hrun
    have hissued (hlast : u.last = .issued) :
        dispatch s c x false = if d.last ≠ .trapped && isSync b.x && !sync then notNow v else .next d := by
      simpa only [hlast, if_true, decide_true, Bool.true_and] using hrun
    have hops : capturedOps v u c x b = ops := by rw [capturedOps, hctx, hcore]
    refine ⟨fun hlast => ?_, fun hlast => ?_, fun hlast h => ?_, fun h0 h1 h2 h3 => ?_, fun hlast hd => ?_⟩
    · simpa [hlast] using hrun
    · simpa [hlast] using hrun
    · refine (hissued hlast).trans (if_neg ?_)
      rcases h with h | h | h <;> simp [h]
    · exact (hissued h0).trans (if_pos (by simp [h1, h2, h3]))
    · refine ⟨seq_dispatched hd, fun j hj => ?_, fun hk hu hl => ?_⟩
      · rw [← hops]
        exact queue_dispatched hd hj
      · rw [← hctx] at hk ⊢
        exact pc_dispatched hd hk hu hl
  · intro hg hl hb hstall hx hstop hbreak d
    have hrun := runBundle_of_stopsAfter (present := presentOf w) (by rw [hctx]; exact hstall) hx hstop (by rw [hctx]; exact hbreak)
    rw [← dispatchBundle_of_ok hl hb, ← hdispatch hg, hctx] at hrun
    refine ⟨fun hp => hrun.trans (if_pos (Option.isSome_iff_ne_none.mpr hp)), fun hp hd => hrun.trans ?_⟩
    rw [if_neg (by simp [hp])]
    exact if_neg hd

end Sys2Proof
end

section
/-! Gangs and signals (R41, R203, R351, R398, R399): the arrival at a GSYNC and the release of its members; a SIGNAL on its way to the Marten
and the decrement that it makes there. -/

namespace Sys2Proof

open Machine

/-! Bound tasks -/

section
variable {s : State} {k : Nat} {b : BoundTask}

theorem modTask_of_some (h : s.task k = some b) (f : BoundTask → BoundTask) : s.modTask k f = { s with tasks := s.tasks.set k (f b) } := by
  have h' : s.tasks.find k = some b := h
  rw [State.modTask, h']

theorem task_modTask_self (h : s.task k = some b) (f : BoundTask → BoundTask) : (s.modTask k f).task k = some (f b) := by
  rw [modTask_of_some h]
  exact Tab.find_set_self _ _ _

theorem task_modTask_ne (s : State) (k : Nat) (f : BoundTask → BoundTask) {j : Nat} (hj : j ≠ k) : (s.modTask k f).task j = s.task j := by
  unfold State.modTask
  split
  · rfl
  · exact Tab.find_set_ne _ _ _ _ hj

theorem modTask_frame (s : State) (k : Nat) (f : BoundTask → BoundTask) : s.modTask k f = { s with tasks := (s.modTask k f).tasks } := by
  unfold State.modTask
  split <;> rfl

@[simp] theorem ctx_modTask (s : State) (k : Nat) (f : BoundTask → BoundTask) (c x : Nat) : (s.modTask k f).ctx c x = s.ctx c x := by
  rw [modTask_frame]
  rfl

@[simp] theorem byte_modTask (s : State) (k : Nat) (f : BoundTask → BoundTask) (a : Nat) : (s.modTask k f).byte a = s.byte a := by
  rw [modTask_frame]
  rfl

end

@[simp] theorem ctx_modCtx_self (s : State) (c x : Nat) (f : Ctx → Ctx) : (s.modCtx c x f).ctx c x = f (s.ctx c x) := State.ctx_setCtx_self _ _ _ _

theorem ctx_modCtx_of_ne (s : State) {c x d y : Nat} (f : Ctx → Ctx) (h : (d, y) ≠ (c, x)) : (s.modCtx c x f).ctx d y = s.ctx d y := by
  refine State.ctx_setCtx_other _ _ _ _ _ _ ?_
  by_contra hn
  simp_all

/-! GSYNC -/

section
variable {s : State} {b : BoundTask}

theorem gsync_released (h : s.fctx.hold = .gsyncDone) : CtxBecomes .gsync s { s.fctx with hold := .none } :=
  ctxBecomes_modF .gsync s (fun t => { t with hold := .none }) (by simp only [exec, execGsync, h]; rfl)

theorem gsync_waits (h : s.fctx.hold = .gsync) : Waits .gsync s :=
  waits_of_finish (by simp only [exec, execGsync, h])

theorem gsync_alone (h : s.fctx.hold = .none) (hb : s.task s.fctx.task = some b) (hm : b.members.length ≤ 1) : CtxBecomes .gsync s s.fctx :=
  ctxBecomes_self .gsync s (by simp only [exec, execGsync, h, hb, if_pos hm]; rfl)

theorem gsync_arrives (h : s.fctx.hold = .none) (hb : s.task s.fctx.task = some b) (hm : 1 < b.members.length) :
    ∃ u, exec .gsync s = .next u ∧ u.last = .waits ∧ SameMem s u ∧ u.fctx = { s.fctx with hold := .gsync } ∧
      u.task s.fctx.task = some { b with arrived := b.arrived ++ [s.fctx.member] } ∧
      (∀ j, j ≠ s.fctx.task → u.task j = s.task j) ∧ ∀ c x, (c, x) ≠ (s.focus.core, s.focus.ctx) → u.ctx c x = s.ctx c x := by
  let v := s.modTask s.fctx.task (fun b => { b with arrived := b.arrived ++ [s.fctx.member] })
  have hfocus : v.focus = s.focus := by rw [show v = _ from modTask_frame _ _ _]
  refine ⟨{ v.modF (fun t => { t with hold := .gsync }) with last := .waits }, ?_, rfl, byte_modTask s _ _, ?_, task_modTask_self hb _,
    fun j hj => task_modTask_ne s _ _ hj, fun c x hc => ?_⟩
  · simp only [exec, execGsync, h, hb, if_neg hm.not_ge]
    rfl
  · have hv : v.fctx = s.fctx := by rw [State.fctx, hfocus]; exact ctx_modTask _ _ _ _ _
    rw [← hv]
    exact fctx_modF_last v _ _
  · rw [← hfocus] at hc
    exact (ctx_modCtx_of_ne v (fun t => { t with hold := .gsync }) hc).trans (ctx_modTask _ _ _ _ _)

end

/-- Member `i` of a gang is freed from the phase. -/
def freeMember (b : BoundTask) (s : State) (i : Nat) : State :=
  match b.members[i]? with
  | some m => s.modCtx m.1 m.2 (fun t => { t with hold := .gsyncDone })
  | none => s

section
variable (b : BoundTask) (s : State) (is : List Nat)

theorem freeMember_frame (i : Nat) : freeMember b s i = { s with cores := (freeMember b s i).cores } := by
  unfold freeMember
  split <;> rfl

theorem foldl_freeMember_frame : is.foldl (freeMember b) s = { s with cores := (is.foldl (freeMember b) s).cores } := by
  induction is generalizing s with
  | nil => rfl
  | cons i r ih => rw [List.foldl_cons, ih, freeMember_frame]

variable {b s is} {c x : Nat}

theorem ctx_freeMember {i : Nat} (h : b.members[i]? = some (c, x)) :
    (freeMember b s i).ctx c x = { s.ctx c x with hold := .gsyncDone } := by
  rw [freeMember, h]
  exact ctx_modCtx_self _ _ _ _

theorem ctx_freeMember_of_ne {i : Nat} (h : b.members[i]? ≠ some (c, x)) : (freeMember b s i).ctx c x = s.ctx c x := by
  unfold freeMember
  split
  next m hm => exact ctx_modCtx_of_ne s _ fun heq => h (hm.trans (congrArg some heq.symm))
  next => rfl

theorem ctx_foldl_freeMember_of_ne (h : ∀ i ∈ is, b.members[i]? ≠ some (c, x)) : (is.foldl (freeMember b) s).ctx c x = s.ctx c x := by
  induction is generalizing s with
  | nil => rfl
  | cons i r ih =>
    rw [List.foldl_cons, ih fun j hj => h j (List.mem_cons_of_mem _ hj), ctx_freeMember_of_ne (h i List.mem_cons_self)]

theorem ctx_foldl_freeMember (h : ∃ i ∈ is, b.members[i]? = some (c, x)) :
    (is.foldl (freeMember b) s).ctx c x = { s.ctx c x with hold := .gsyncDone } := by
  induction is generalizing s with
  | nil => simp at h
  | cons j r ih =>
    rw [List.foldl_cons]
    by_cases hr : ∃ i ∈ r, b.members[i]? = some (c, x)
    · rw [ih hr]
      by_cases hj : b.members[j]? = some (c, x)
      · rw [ctx_freeMember hj]
      · rw [ctx_freeMember_of_ne hj]
    · have hj : b.members[j]? = some (c, x) := by simpa [hr] using h
      rw [ctx_foldl_freeMember_of_ne fun i hi hm => hr ⟨i, hi, hm⟩, ctx_freeMember hj]

end

section
variable {s : State} {b : BoundTask} {k : Nat}

theorem exec_gsyncRelease (hb : s.task k = some b) :
    exec (.gsyncRelease k) s = if b.arrived.isEmpty || !s.gangArrived b then notNow s
      else happened (b.arrived.foldl (freeMember b) (s.modTask k (fun b => { b with arrived := [] }))) := by
  simp only [exec, execGsyncRelease, hb]
  rfl

theorem gsyncRelease_frees (hb : s.task k = some b) (ha : b.arrived ≠ []) (hg : s.gangArrived b = true) :
    ∃ u, exec (.gsyncRelease k) s = .next u ∧ u.last = .issued ∧ SameMem s u ∧ u.task k = some { b with arrived := [] } ∧
      (∀ i ∈ b.arrived, ∀ m, b.members[i]? = some m → u.ctx m.1 m.2 = { s.ctx m.1 m.2 with hold := .gsyncDone }) ∧
      ∀ c x, (∀ i ∈ b.arrived, b.members[i]? ≠ some (c, x)) → u.ctx c x = s.ctx c x := by
  let v := s.modTask k (fun b => { b with arrived := [] })
  let w := b.arrived.foldl (freeMember b) v
  have hw : w = { v with cores := w.cores } := foldl_freeMember_frame b v b.arrived
  refine ⟨{ w with last := .issued }, ?_, rfl, fun a => ?_, ?_, fun i hi m hm => ?_, fun c x h => ?_⟩
  · rw [exec_gsyncRelease hb, if_neg (by simp [ha, hg])]
    rfl
  · show w.byte a = _
    rw [hw]
    exact byte_modTask s _ _ a
  · show w.task k = _
    rw [hw]
    exact task_modTask_self hb _
  · exact (ctx_foldl_freeMember ⟨i, hi, hm⟩).trans (by rw [ctx_modTask])
  · exact (ctx_foldl_freeMember_of_ne h).trans (ctx_modTask _ _ _ _ _)

theorem gsyncRelease_notNow (hb : s.task k = some b) (hg : s.gangArrived b = false) : NotNow (.gsyncRelease k) s := by
  rw [NotNow, exec_gsyncRelease hb, if_pos (by simp [hg])]
  rfl

end

/-! SIGNAL -/

section
variable {s : State} {a : BitVec 6}

theorem signal_traps (h : 65536 ≤ (s.sOp a).toNat) : Traps (.signal a) s cILLOP 0 0 := by
  have hb : bits (s.sOp a) 63 16 ≠ 0 := by
    have hlt := (s.sOp a).isLt
    simp only [bits, Nat.shiftRight_eq_div_pow]
    omega
  simp only [Traps, exec, execSignal, if_pos hb, finish]

theorem signal_sends {b : BoundTask} (h : (s.sOp a).toNat < 65536) (hb : s.task s.fctx.task = some b) :
    MartenBecomes (.signal a) s b.tower { s.marten b.tower with
      signals := (s.marten b.tower).signals ++ [{ core := s.focus.core, graph := b.graph, src := b.idx, idx := (s.sOp a).toNat }] } := by
  have hn : ¬ bits (s.sOp a) 63 16 ≠ 0 := by
    simp only [bits, Nat.shiftRight_eq_div_pow]
    omega
  exact towerBecomes_setTower (by simp only [exec, execSignal, if_neg hn, hb]; rfl)

end

/-! The decrement of a SIGNAL -/

/-- What one decrement on behalf of SIGNAL `g` makes of its Marten and its graph (R203, R399). -/
def signalled (g : SignalMsg) (m : Marten) (h : Graph) : Marten × Graph :=
  if h.abandoned || h.torndown || h.rejected then (m, h)
  else if gNtask h.desc ≤ g.idx then (m, h.note cILLOP g.src)
  else
    let c := m.counters.get (h.base + g.idx) 0
    if c = 0 then (m, h.note cCTRUNDER g.idx)
    else
      let m := { m with counters := m.counters.set (h.base + g.idx) (c - 1) }
      if c = 1 then m.test h g.idx else (m, h)

theorem turn_frame (s : State) (n : Nat) : (s.turn n).2 = { s with sched := (s.turn n).2.sched } := by
  unfold State.turn State.choose
  repeat' split
  all_goals rfl

theorem modGraph_of_find {m m' : Marten} {o : Nat} {f : Marten → Graph → Marten × Graph} {h h' : Graph}
    (hf : m.graphs.find? (fun g => g.order = o) = some h) (hs : f m h = (m', h')) :
    m.modGraph o f = { m' with graphs := m'.graphs.map (fun k => if k.order = o then h' else k) } := by
  simp only [Marten.modGraph, hf, hs]

section
variable {s : State} {t : Nat} {g : SignalMsg} {h : Graph}

theorem signalDecrement_notNow (ht : t < numTowers) (hm : (s.marten t).signals = []) : NotNow (.signalDecrement t) s := by
  have hturn : s.turn 0 = (0, s) := rfl
  simp only [NotNow, exec, execSignalDecrement, if_neg ht.not_ge, hm, List.length_nil, hturn, List.getElem?_nil]
  rfl

/-- The Marten `m` in the cycle of a decrement from source `src`: a lower one than the last belongs to a later cycle (R203). -/
def cycleOf (m : Marten) (src : Nat) : Marten :=
  if src < m.lastSrc then { m with cycle := m.cycle + 1, placed := false, lastSrc := src } else { m with lastSrc := src }

theorem cycleOf_signals (m : Marten) (l : List SignalMsg) (src : Nat) :
    cycleOf { m with signals := l } src = { cycleOf m src with signals := l } := by
  unfold cycleOf
  split <;> rfl

theorem source_eq_cycleOf {m : Marten} (h : m.graphs ≠ []) (src : Nat) : m.source src = cycleOf m src := by
  simp [Marten.source, cycleOf, Marten.nextCycle, h]

theorem marten_turn (s : State) (n t : Nat) : (s.turn n).2.marten t = s.marten t := by
  rw [turn_frame]
  rfl

theorem exec_signalDecrement (ht : t < numTowers) (hg : (s.marten t).signals[(s.turn (s.marten t).signals.length).1]? = some g) :
    exec (.signalDecrement t) s = happened ((s.turn (s.marten t).signals.length).2.modMarten t fun m =>
      ({ m with signals := m.signals.eraseIdx (s.turn (s.marten t).signals.length).1 }.source (srcSignal g.core)).modGraph
        g.graph (signalled g)) := by
  simp only [exec, execSignalDecrement, if_neg ht.not_ge, marten_turn, hg]
  rfl

theorem tower_modMarten_self (s : State) (t : Nat) (f : Marten → Marten) :
    (s.modMarten t f).tower t = { s.tower t with marten := f (s.marten t) } := State.tower_setTower_self _ _ _

theorem tower_modMarten_ne (s : State) {t j : Nat} (f : Marten → Marten) (h : j ≠ t) : (s.modMarten t f).tower j = s.tower j :=
  State.tower_setTower_ne _ _ _ _ h

theorem tower_turn (s : State) (n t : Nat) : (s.turn n).2.tower t = s.tower t := by
  rw [turn_frame]
  rfl

/-- One decrement of a live graph. -/
theorem signalled_live {g : SignalMsg} {m : Marten} {h : Graph} (ha : h.abandoned = false) (ht : h.torndown = false)
    (hr : h.rejected = false) : signalled g m h =
      if gNtask h.desc ≤ g.idx then (m, h.note cILLOP g.src)
      else if m.counters.get (h.base + g.idx) 0 = 0 then (m, h.note cCTRUNDER g.idx)
      else if m.counters.get (h.base + g.idx) 0 = 1 then
        Marten.test { m with counters := m.counters.set (h.base + g.idx) (m.counters.get (h.base + g.idx) 0 - 1) } h g.idx
      else ({ m with counters := m.counters.set (h.base + g.idx) (m.counters.get (h.base + g.idx) 0 - 1) }, h) := by
  simp only [signalled, ha, ht, hr]
  rfl

/-- The Marten of tower `t` and the graph of SIGNAL `g` once its decrement has come: the counters are `cs`, the graph is `h'`. -/
def Decremented (s : State) (t : Nat) (g : SignalMsg) (cs : Tab Nat) (h' : Graph) : Prop :=
  let pick := s.turn (s.marten t).signals.length
  ∃ u, exec (.signalDecrement t) s = .next u ∧ u.last = .issued ∧ u = { pick.2 with towers := u.towers, last := u.last } ∧
    (∀ j, j ≠ t → u.tower j = s.tower j) ∧
    u.tower t = { s.tower t with marten := { cycleOf (s.marten t) (2 * g.core + 2) with
      signals := (s.marten t).signals.eraseIdx pick.1, counters := cs
      graphs := (s.marten t).graphs.map (fun k => if k.order = g.graph then h' else k) } }

section
variable (ht : t < numTowers) (hg : (s.marten t).signals[(s.turn (s.marten t).signals.length).1]? = some g)
  (hf : (s.marten t).graphs.find? (fun h => h.order = g.graph) = some h)
include ht hg hf

theorem decremented_of_signalled {cs : Tab Nat} {h' : Graph}
    (hs : ∀ m, m.counters = (s.marten t).counters → m.graphs = (s.marten t).graphs → m.cycle = (cycleOf (s.marten t) (2 * g.core + 2)).cycle →
      signalled g m h = ({ m with counters := cs }, h')) : Decremented s t g cs h' := by
  let pick := s.turn (s.marten t).signals.length
  let m : Marten := { cycleOf (s.marten t) (2 * g.core + 2) with signals := (s.marten t).signals.eraseIdx pick.1 }
  have hgraphs : m.graphs = (s.marten t).graphs := by
    show (cycleOf _ _).graphs = _
    unfold cycleOf
    split <;> rfl
  have hcounters : m.counters = (s.marten t).counters := by
    show (cycleOf _ _).counters = _
    unfold cycleOf
    split <;> rfl
  have hsource : ({ s.marten t with signals := (s.marten t).signals.eraseIdx pick.1 } : Marten).source (srcSignal g.core) = m := by
    exact (source_eq_cycleOf (fun hnil => by simp [show (s.marten t).graphs = [] from hnil] at hf) _).trans (cycleOf_signals _ _ _)
  have hmod := modGraph_of_find (m := m) (hgraphs ▸ hf) (hs m hcounters hgraphs rfl)
  let f (m : Marten) : Marten := ({ m with signals := m.signals.eraseIdx pick.1 }.source (srcSignal g.core)).modGraph g.graph (signalled g)
  let v := pick.2.modMarten t f
  refine ⟨{ v with last := .issued }, exec_signalDecrement ht hg, rfl, rfl, fun j hj => ?_, ?_⟩
  · exact (tower_modMarten_ne pick.2 f hj).trans (tower_turn _ _ _)
  · have hf : f (s.marten t) = _ := (congrArg (fun m => m.modGraph g.graph (signalled g)) hsource).trans hmod
    refine (tower_modMarten_self pick.2 t f).trans ?_
    rw [tower_turn, marten_turn, hf, hgraphs]

variable (ha : h.abandoned = false) (hd : h.torndown = false) (hr : h.rejected = false)
include ha hd hr

theorem decremented_beyond_tasks (hi : gNtask h.desc ≤ g.idx) : Decremented s t g (s.marten t).counters (h.note cILLOP g.src) :=
  decremented_of_signalled ht hg hf fun m hc _ _ => by rw [signalled_live ha hd hr, if_pos hi, ← hc]

theorem decremented_below_zero (hi : g.idx < gNtask h.desc) (hn : (s.marten t).counters.get (h.base + g.idx) 0 = 0) :
    Decremented s t g (s.marten t).counters (h.note cCTRUNDER g.idx) :=
  decremented_of_signalled ht hg hf fun m hc _ _ => by rw [signalled_live ha hd hr, if_neg hi.not_ge, hc, if_pos hn, ← hc]

theorem decremented_above_zero (hi : g.idx < gNtask h.desc) (hn : 2 ≤ (s.marten t).counters.get (h.base + g.idx) 0) :
    Decremented s t g ((s.marten t).counters.set (h.base + g.idx) ((s.marten t).counters.get (h.base + g.idx) 0 - 1)) h :=
  decremented_of_signalled ht hg hf fun m hc _ _ => by
    rw [signalled_live ha hd hr, if_neg hi.not_ge, hc, if_neg (by omega), if_neg (by omega)]

/-- The task whose counter reaches zero enters the ready queue, if its named barriers have fired (R41). -/
theorem decremented_to_zero {z : TaskSt} (hi : g.idx < gNtask h.desc) (hn : (s.marten t).counters.get (h.base + g.idx) 0 = 1)
    (hz : h.tasks.find g.idx = some z) (hw : z.stage = .waiting) (hfired : allFired z = true) :
    Decremented s t g ((s.marten t).counters.set (h.base + g.idx) 0) { h with tasks := h.tasks.set g.idx { z with
      stage := .runnable, order := (cycleOf (s.marten t) (2 * g.core + 2)).cycle, queued := decide ((s.marten t).queued h < 4096) } } :=
  decremented_of_signalled ht hg hf fun m hc hgr hcy => by
    have hqueued : Marten.queued m h = (s.marten t).queued h := by rw [Marten.queued, hgr, Marten.queued]
    rw [signalled_live ha hd hr, if_neg hi.not_ge, hc, hn, if_neg Nat.one_ne_zero, if_pos rfl]
    simp only [Marten.test, hz]
    rw [if_pos (by simp [hw, hfired, ha, hd, hr]), ← hqueued, ← hcy]
    rfl

end

end

/-- Settles O36: a member's arrival and its release at GSYNC, and the way of a SIGNAL from its context to the counter that it names. -/
theorem gangsAndSignals : Obligations.GangsAndSignals := by
  unfold Obligations.GangsAndSignals
  refine ⟨fun s k b => ⟨gsync_released, gsync_waits, gsync_alone, gsync_arrives, gsyncRelease_frees, fun hb _ => gsyncRelease_notNow hb⟩, ?_⟩
  intro s a t b g h z v m n pick src m' live up after
  have hafter (cs : Tab Nat) (h' : Graph) (hd : Decremented s t g cs h') : after cs h' := hd
  refine ⟨signal_traps, signal_sends, ?_, ?_, ?_, ?_, signalDecrement_notNow⟩
  · rintro ⟨ht, hg, hf, ha, hd, hr⟩ hi
    exact decremented_beyond_tasks ht hg hf ha hd hr hi
  · rintro ⟨ht, hg, hf, ha, hd, hr⟩ hi hn
    exact decremented_below_zero ht hg hf ha hd hr hi hn
  · rintro ⟨ht, hg, hf, ha, hd, hr⟩ hi hn
    exact decremented_above_zero ht hg hf ha hd hr hi hn
  · rintro ⟨ht, hg, hf, ha, hd, hr⟩ hi hn hz hw hfired
    exact decremented_to_zero ht hg hf ha hd hr hi hn hz hw hfired

end Sys2Proof
end

section
/-! The host and the management side (R45, R196, R259, R260, R268 to R273): bytes as they pass the link, accesses by the host, flits, the
registers that do something, attestation, module reset, and who may write what. -/

namespace Sys2Proof

open Machine

/-! Bytes of a number -/

theorem natOfBytes_eq_joinNat (bs : List Byte) : natOfBytes bs = joinNat 8 (bs.map BitVec.toNat) := by
  induction bs with
  | nil => rfl
  | cons b r ih =>
    rw [List.map_cons, joinNat_cons, ← ih, Nat.mod_eq_of_lt b.isLt]
    rfl

/-- Byte `j` of the number whose bytes are `bs`. -/
theorem byte_natOfBytes {bs : List Byte} {j : Nat} {x : Byte} (h : bs[j]? = some x) : BitVec.ofNat 8 (natOfBytes bs >>> (8 * j)) = x := by
  refine BitVec.eq_of_toNat_eq ?_
  rw [BitVec.toNat_ofNat, natOfBytes_eq_joinNat, joinNat_get, List.getD_eq_getElem?_getD, List.getElem?_map, h]
  exact Nat.mod_eq_of_lt x.isLt

theorem bytesOf_succ (n x : Nat) : bytesOf (n + 1) x = BitVec.ofNat 8 x :: bytesOf n (x >>> 8) := by
  rw [bytesOf, List.range_succ_eq_map, List.map_cons, List.map_map, Nat.mul_zero, Nat.shiftRight_zero]
  refine congrArg _ (List.map_congr_left fun j _ => ?_)
  simp [← Nat.shiftRight_add, Nat.mul_succ, Nat.add_comm 8]

@[simp] theorem length_bytesOf (n x : Nat) : (bytesOf n x).length = n := by simp [bytesOf]

theorem natOfBytes_bytesOf (n x : Nat) : natOfBytes (bytesOf n x) = x % 2 ^ (8 * n) := by
  induction n generalizing x with
  | zero => simp [bytesOf, natOfBytes, Nat.mod_one]
  | succ n ih =>
    have hpow : 2 ^ (8 * (n + 1)) = 2 ^ 8 * 2 ^ (8 * n) := by rw [← Nat.pow_add, Nat.mul_succ, Nat.add_comm]
    rw [bytesOf_succ, natOfBytes, List.foldr_cons, ← natOfBytes, ih, BitVec.toNat_ofNat, Nat.shiftRight_eq_div_pow, hpow, Nat.mod_mul,
      Nat.mul_comm, Nat.add_comm]
    rfl

theorem ofNat_natOfBytes_bytesOf (v : Word) : BitVec.ofNat 64 (natOfBytes (bytesOf 8 v.toNat)) = v := by
  rw [natOfBytes_bytesOf, Nat.mod_eq_of_lt v.isLt, BitVec.ofNat_toNat, BitVec.setWidth_eq]

/-! Reads that correct -/

theorem mgmt_foldl_markPoison (ws : List Nat) (s : State) : (ws.foldl State.markPoison s).mgmt = s.mgmt := by
  obtain ⟨q, hq⟩ := foldl_markPoison ws s
  rw [hq]

/-- Of the management side a correction changes the error log alone. -/
theorem mgmt_correctBy (s : State) (p : Nat → Bool) : ∃ l, (s.correctBy p).mgmt = { s.mgmt with errlog := l } :=
  ⟨_, mgmt_foldl_markPoison _ _⟩

theorem failedStage_correct (s : State) (a n : Nat) : (s.correct a n).mgmt.failedStage = s.mgmt.failedStage := by
  unfold State.correct
  split
  · obtain ⟨l, hl⟩ := mgmt_correctBy s _
    rw [hl]
  · rfl

/-- A read leaves no correctable error where it has read (R223). -/
theorem softAt_correct (s : State) (a n : Nat) : (s.correct a n).softAt a n = false := by
  unfold State.correct
  split
  · obtain ⟨q, m, hc⟩ := correctBy_frame s (fun w => decide (a < 8 * w + 8) && decide (8 * w < a + n))
    rw [hc, State.softAt, List.any_eq_false]
    intro w hw
    have hkept := (List.mem_filter.mp hw).2
    simp only [Bool.not_eq_true', Bool.and_eq_false_iff, Bool.and_eq_true, decide_eq_true_eq, decide_eq_false_iff_not] at hkept ⊢
    omega
  · simp_all

/-! Accesses by the host -/

theorem fromHost_of_up {s : State} (h : s.link.retraining = false) (t : State) : fromHost s t = happened t := by
  simp [fromHost, h]

theorem fromHost_of_retraining {s : State} (h : s.link.retraining = true) (t : State) : fromHost s t = notNow s := by
  simp [fromHost, h]

theorem windowBytes_word {s : State} {off : Nat} (h : off % 8 = 0) : s.windowBytes off 8 = bytesOf 8 (s.mgmtRead off).toNat := by
  refine List.map_congr_left fun j hj => ?_
  have hj : j < 8 := List.mem_range.mp hj
  rw [show (off + j) / 8 * 8 = off by omega, show (off + j) % 8 = j by omega]

theorem lt_mgmtBase_of_hostMay {s : State} {pa n : Nat} (h : s.hostMay pa n = true) : pa < mgmtBase := by
  simp only [State.hostMay, inLpddr, Bool.and_eq_true, Bool.or_eq_true, decide_eq_true_eq] at h
  have hl : lpSize = 1099511627776 := rfl
  have hp : pairBase + numPairs * pairSize = 35184372088832 + 384 * 4194304 := rfl
  have hm : mgmtBase = 72057594037927936 := rfl
  omega

section
variable {s : State} (hup : s.link.retraining = false) (hroom : s.link.replay.length < 256)
include hup hroom

theorem exec_hostRead (pa len : Nat) : exec (.hostRead pa len) s =
    if mgmtBase ≤ pa then happened (s.answerHost false (s.windowBytes (pa - mgmtBase) len))
    else if s.hostMay pa len then happened ((s.correct pa len).answerHost false (bytesOf len (s.readMem pa len)))
    else happened ((s.refuseHost pa false).answerHost true (List.replicate len 0xFF)) := by
  have hgo : (s.link.retraining || decide (256 ≤ s.link.replay.length)) = false := by simp [hup, hroom]
  simp only [exec, execHostRead, hgo]
  rfl

theorem hostRead_corrects {pa len : Nat} (h : s.hostMay pa len = true) :
    exec (.hostRead pa len) s = exec (.hostRead pa len) (s.correct pa len) := by
  obtain ⟨p, q, m, hc⟩ := correct_frame s pa len
  have hlink : (s.correct pa len).link = s.link := by rw [hc]
  have hread : (s.correct pa len).readMem pa len = s.readMem pa len := by rw [hc]; rfl
  have hmay : (s.correct pa len).hostMay pa len = true := by rw [State.hostMay, failedStage_correct, ← State.hostMay, h]
  have hpa := (lt_mgmtBase_of_hostMay h).not_ge
  rw [exec_hostRead hup hroom, exec_hostRead (hlink ▸ hup) (hlink ▸ hroom), if_neg hpa, if_neg hpa, if_pos h, if_pos hmay,
    correct_of_softAt (softAt_correct s pa len), hread]

theorem hostRead_answers {pa len : Nat} (h : s.hostMay pa len = true) (hs : s.softAt pa len = false) :
    ∃ u, exec (.hostRead pa len) s = .next u ∧ u.last = .issued ∧ SameMem s u ∧
      u = { s with hostOut := s.hostOut ++ [(false, bytesOf len (s.readMem pa len))], link := u.link, free := u.free, last := u.last } := by
  refine ⟨{ s.answerHost false (bytesOf len (s.readMem pa len)) with last := .issued }, ?_, rfl, fun a => rfl, rfl⟩
  rw [exec_hostRead hup hroom, if_neg (lt_mgmtBase_of_hostMay h).not_ge, if_pos h, correct_of_softAt hs]
  rfl

/-- A read elsewhere is refused: all-ones data, an entry in the error log, and ALARMS.HOSTREF. -/
theorem hostRead_refused {pa len : Nat} (hpa : pa < mgmtBase) (h : s.hostMay pa len = false) :
    ∃ u, exec (.hostRead pa len) s = .next u ∧ u.last = .issued ∧ SameMem s u ∧
      u.hostOut = s.hostOut ++ [(true, List.replicate len 0xFF)] ∧
      u.mgmt = { s.mgmt with errlog := s.mgmt.errlog ++ [.hostRefused pa false], alarms := s.mgmt.alarms ||| 4 } := by
  refine ⟨{ (s.refuseHost pa false).answerHost true (List.replicate len 0xFF) with last := .issued }, ?_, rfl, fun a => rfl, rfl, rfl⟩
  rw [exec_hostRead hup hroom, if_neg hpa.not_ge, h]
  rfl

theorem hostRead_window {off : Nat} (h : off % 8 = 0) :
    ∃ u, exec (.hostRead (mgmtBase + off) 8) s = .next u ∧ u.last = .issued ∧
      u.hostOut = s.hostOut ++ [(false, bytesOf 8 (s.mgmtRead off).toNat)] := by
  refine ⟨{ s.answerHost false (s.windowBytes off 8) with last := .issued }, ?_, rfl, by rw [← windowBytes_word h]; rfl⟩
  rw [exec_hostRead hup hroom, if_pos (Nat.le_add_right _ _), Nat.add_sub_cancel_left]
  rfl

end

section
variable {s : State}

theorem hostRead_notNow (pa len : Nat) (h : s.link.retraining = true ∨ 256 ≤ s.link.replay.length) : NotNow (.hostRead pa len) s :=
  if_pos (by simpa using h)

variable (hup : s.link.retraining = false)
include hup

theorem exec_hostWrite (pa : Nat) (dat : List Byte) : exec (.hostWrite pa dat) s = happened (
    if mgmtBase ≤ pa then
      if pa % 8 = 0 && dat.length = 8 then s.hostMgmtWrite (pa - mgmtBase) (BitVec.ofNat 64 (natOfBytes dat)) else s
    else if s.hostMay pa dat.length then s.writeBytes pa dat
    else s.refuseHost pa true) := fromHost_of_up hup _

theorem hostWrite_performs {pa : Nat} {dat : List Byte} (h : s.hostMay pa dat.length = true) :
    ∃ u, exec (.hostWrite pa dat) s = .next u ∧ OnlyMem s u ∧ u.last = .issued ∧ SameMemBut s u pa dat.length ∧
      ∀ j x, dat[j]? = some x → u.byte (pa + j) = x := by
  refine ⟨{ s.writeBytes pa dat with last := .issued }, ?_, rfl, rfl, fun a ha => ?_, fun j x hx => ?_⟩
  · rw [exec_hostWrite hup, if_neg (lt_mgmtBase_of_hostMay h).not_ge, if_pos h]
    rfl
  · exact State.byte_writeMem_outside s _ _ _ _ ha
  · obtain ⟨hj, -⟩ := List.getElem?_eq_some_iff.mp hx
    refine (State.byte_writeMem_inside s pa dat.length _ _ (Nat.le_add_right _ _) (by omega)).trans ?_
    rw [Nat.add_sub_cancel_left]
    exact byte_natOfBytes hx

theorem hostWrite_refused {pa : Nat} {dat : List Byte} (hpa : pa < mgmtBase) (h : s.hostMay pa dat.length = false) :
    Happens (.hostWrite pa dat) s
      { s with mgmt := { s.mgmt with errlog := s.mgmt.errlog ++ [.hostRefused pa true], alarms := s.mgmt.alarms ||| 4 } } := by
  rw [Happens, exec_hostWrite hup, if_neg hpa.not_ge, h]
  rfl

theorem hostWrite_register {off : Nat} (v : Word) (h : off % 8 = 0) :
    Happens (.hostWrite (mgmtBase + off) (bytesOf 8 v.toNat)) s (s.hostMgmtWrite off v) := by
  have hw : (decide ((mgmtBase + off) % 8 = 0) && decide ((bytesOf 8 v.toNat).length = 8)) = true := by
    have : mgmtBase = 8 * 2 ^ 53 := rfl
    simp; omega
  rw [Happens, exec_hostWrite hup, if_pos (Nat.le_add_right _ _), if_pos hw, Nat.add_sub_cancel_left, ofNat_natOfBytes_bytesOf]
  rfl

end

/-! Flits -/

theorem refused_eq {l : Link} {q : Nat} (hr : l.replay.any (fun f => flitSeq f = q) = true) (hc : l.naks.get q 0 ≤ 8) :
    l.refused q = if l.naks.get q 0 < 8 then { l with
      naks := l.naks.set q (l.naks.get q 0 + 1), sent := l.sent ++ l.replay.filter (fun f => decide ((flitSeq f + 4096 - q) % 4096 < 2048)) }
      else { l with naks := l.naks.set q (l.naks.get q 0 + 1) } :=
  if_neg (by rw [hr]; simpa using hc)

section
variable {s : State}

theorem flitReceive_notNow (h : s.link.retraining = true) (dat : List Byte) : NotNow (.flitReceive dat) s := if_pos h

variable (hup : s.link.retraining = false)
include hup

theorem exec_flitReceive (dat : List Byte) : exec (.flitReceive dat) s = happened { s with link := s.link.receive dat } :=
  if_neg (by simp [hup])

theorem flitReceive_accepts {dat : List Byte} (hg : flitGood dat = true) (ht : flitType dat = ftDATA) (hs : flitSeq dat = s.link.rxSeq.toNat) :
    ∃ u, exec (.flitReceive dat) s = .next u ∧ u.last = .issued ∧ u = { s with link := u.link, last := u.last } ∧
      u.link.accepted = s.link.accepted ++ [(dat.drop 4).take 244] ∧ u.link.rxSeq = s.link.rxSeq + 1 ∧
      u.link.sent = s.link.sent ++ [flit s.link.txSeq.toNat ftACK (flitSeq dat) (List.replicate 244 0)] := by
  have hl : s.link.receive dat = Link.answer { s.link.ack (flitAck dat) with
      rxSeq := s.link.rxSeq + 1, accepted := s.link.accepted ++ [(dat.drop 4).take 244] } ftACK := by
    simp only [Link.receive, hg, ht]
    exact if_pos hs
  have hlast : (s.link.rxSeq + 1 - 1).toNat = flitSeq dat := by rw [hs, BitVec.add_sub_cancel]
  refine ⟨{ s with link := s.link.receive dat, last := .issued }, exec_flitReceive hup dat, rfl, rfl, ?_⟩
  rw [hl, ← hlast]
  exact ⟨rfl, rfl, rfl⟩

theorem flitReceive_refuses {dat : List Byte} (hg : flitGood dat = false) : Happens (.flitReceive dat) s { s with link := { s.link with
    sent := s.link.sent ++ [flit s.link.txSeq.toNat ftNAK (s.link.rxSeq - 1).toNat (List.replicate 244 0)] } } := by
  rw [Happens, exec_flitReceive hup, Link.receive, hg]
  rfl

theorem exec_flitNak {q : Nat} (hf : s.link.failed = false) (hr : s.link.replay.any (fun f => flitSeq f = q % 4096) = true) :
    exec (.flitNak q) s = happened { s with link := s.link.refused (q % 4096) } :=
  if_neg (by rw [hup, hf, hr]; simp)

/-- A flit that has been refused seven times at most goes again with every later one (R259). -/
theorem flitNak_replays {q : Nat} (hf : s.link.failed = false) (hr : s.link.replay.any (fun f => flitSeq f = q % 4096) = true)
    (hc : s.link.naks.get (q % 4096) 0 < 8) : Happens (.flitNak q) s { s with link := { s.link with
      sent := s.link.sent ++ s.link.replay.filter (fun f => decide ((flitSeq f + 4096 - q % 4096) % 4096 < 2048))
      naks := s.link.naks.set (q % 4096) (s.link.naks.get (q % 4096) 0 + 1) } } := by
  rw [Happens, exec_flitNak hup hf hr, refused_eq hr hc.le, if_pos hc]
  rfl

/-- Where the eighth replay fails, nothing is sent. -/
theorem flitNak_fails {q : Nat} (hf : s.link.failed = false) (hr : s.link.replay.any (fun f => flitSeq f = q % 4096) = true)
    (hc : s.link.naks.get (q % 4096) 0 = 8) : Happens (.flitNak q) s { s with link := { s.link with naks := s.link.naks.set (q % 4096) 9 } } := by
  rw [Happens, exec_flitNak hup hf hr, refused_eq hr hc.le, if_neg hc.not_lt, hc]
  rfl

theorem linkRetrain_happens (hf : s.link.failed = true) : Happens .linkRetrain s { s with link := { s.link with retraining := true } } :=
  if_neg (by rw [hup, hf]; simp)

end

theorem linkRetrain_notNow {s : State} (hf : s.link.failed = false) : NotNow .linkRetrain s := if_pos (by rw [hf]; simp)

theorem linkRetrained_happens {s : State} (h : s.link.retraining = true) : Happens .linkRetrained s
    { s with link := { s.link with retraining := false, naks := [], sent := s.link.sent ++ s.link.replay } } := if_pos h

/-! Doorbells, images, streams and the report -/

theorem mem_get_mapV {α : Type} (t : Tab (List α)) (p : α → Bool) (k : Nat) (x : α) :
    x ∈ (t.mapV (fun l => l.filter p)).get k [] ↔ x ∈ t.get k [] ∧ p x = true := by
  rw [Tab.get, Tab.find_mapV, Tab.get]
  cases t.find k <;> simp

/-- IMGINV shows its image in bits 23 to 0 and PEND in bit 31. -/
theorem pend_of_imgpend {u : State} (h : u.mgmt.imgpend ≠ []) : bit (u.mgmtRead 0x148) 31 = true := by
  have hread : u.mgmtRead 0x148 = BitVec.ofNat 64 (u.mgmt.imginv.toNat + 2 ^ 31) := by
    show BitVec.ofNat 64 (u.mgmt.imginv.toNat + bnat (!u.mgmt.imgpend.isEmpty) <<< 31) = _
    rw [List.isEmpty_eq_false_iff.mpr h]
    rfl
  have hlt := u.mgmt.imginv.isLt
  rw [hread, bit, BitVec.getLsbD_ofNat, Nat.testBit_eq_decide_div_mod_eq]
  simp
  omega

section
variable {s : State} {v : Word}

theorem fromHost_notNow {i : Instr} {t : State} (hr : s.link.retraining = true) (h : exec i s = fromHost s t) : NotNow i s :=
  h.trans (fromHost_of_retraining hr t)

variable (hup : s.link.retraining = false)
include hup

/-- A doorbell names its queue, or raises the launch-queue alarm (R196, R272). -/
theorem exec_launchDoorbell : exec (.launchDoorbell v) s = happened (
    let u := s.modMgmt (fun m => { m with ldoorbell := BitVec.ofNat 64 (bits v 3 0) })
    if !(inLpddr s.mgmt.lqtab.toNat 1024) then u.launchAlarm 0
    else if lqBad (s.lqHeader (bits v 3 0)) then u.launchAlarm (bits v 3 0)
    else if s.mgmt.doorbells.contains (bits v 3 0) then u
    else u.modMgmt (fun m => { m with doorbells := m.doorbells ++ [bits v 3 0] })) := fromHost_of_up hup _

theorem launchDoorbell_names (ht : inLpddr s.mgmt.lqtab.toNat 1024 = true) (hb : lqBad (s.lqHeader (bits v 3 0)) = false)
    (hn : s.mgmt.doorbells.contains (bits v 3 0) = false) : Happens (.launchDoorbell v) s { s with mgmt := { s.mgmt with
      ldoorbell := BitVec.ofNat 64 (bits v 3 0), doorbells := s.mgmt.doorbells ++ [bits v 3 0] } } := by
  rw [Happens, exec_launchDoorbell hup, ht, hb, hn]
  rfl

theorem launchDoorbell_bad (ht : inLpddr s.mgmt.lqtab.toNat 1024 = true) (hb : lqBad (s.lqHeader (bits v 3 0)) = true) :
    Happens (.launchDoorbell v) s { s with mgmt := { s.mgmt with
      ldoorbell := BitVec.ofNat 64 (bits v 3 0), alarms := s.mgmt.alarms ||| 2, lqnum := BitVec.ofNat 4 (bits v 3 0) } } := by
  rw [Happens, exec_launchDoorbell hup, ht, hb]
  rfl

theorem launchDoorbell_no_table (ht : inLpddr s.mgmt.lqtab.toNat 1024 = false) :
    Happens (.launchDoorbell v) s { s with mgmt := { s.mgmt with
      ldoorbell := BitVec.ofNat 64 (bits v 3 0), alarms := s.mgmt.alarms ||| 2, lqnum := 0 } } := by
  rw [Happens, exec_launchDoorbell hup, ht]
  rfl

theorem imageInvalidate_removes :
    ∃ u, exec (.imageInvalidate v) s = .next u ∧ u.last = .issued ∧ u = { s with icaches := u.icaches, mgmt := u.mgmt, last := u.last } ∧
      bits v 23 0 ∈ u.mgmt.imgpend ∧ bit (u.mgmtRead 0x148) 31 = true ∧
      ∀ p x, x ∈ u.icaches.get p [] ↔ x ∈ s.icaches.get p [] ∧ x.image.toNat ≠ bits v 23 0 := by
  have hmem : bits v 23 0 ∈ (s.imageInvalidate v).mgmt.imgpend := by
    show _ ∈ if _ then _ else _
    split
    next h => simpa using h
    next => simp
  refine ⟨{ s.imageInvalidate v with last := .issued }, fromHost_of_up hup _, rfl, rfl, hmem, pend_of_imgpend (List.ne_nil_of_mem hmem),
    fun p x => ?_⟩
  refine (mem_get_mapV s.icaches _ p x).trans ?_
  simp

theorem egressStreamReset_discards :
    ∃ u, exec (.egressStreamReset v) s = .next u ∧ u.last = .issued ∧
      u = { s with egress := u.egress, mgmt := { s.mgmt with egrst := v &&& 0x1FFF }, last := u.last } ∧
      (u.egr (bits v 12 12)).stream (bits v 11 0) = { next := 0, setl := 0 } ∧
      (∀ j, j ≠ bits v 11 0 → (u.egr (bits v 12 12)).stream j = (s.egr (bits v 12 12)).stream j) ∧
      (u.egr (bits v 12 12)).items = (s.egr (bits v 12 12)).items.filter (fun x => x.stream ≠ bits v 11 0 || x.released) := by
  have hegr : (s.streamReset v).egr (bits v 12 12) = Egress.setStream { s.egr (bits v 12 12) with
      items := (s.egr (bits v 12 12)).items.filter (fun i => i.stream ≠ bits v 11 0 || i.released) } (bits v 11 0) EgStream.reset :=
    Tab.get_set_self _ _ _ _
  refine ⟨{ s.streamReset v with last := .issued }, fromHost_of_up hup _, rfl, rfl, ?_⟩
  show Egress.stream ((s.streamReset v).egr _) _ = _ ∧ (∀ j, _ → Egress.stream ((s.streamReset v).egr _) j = _) ∧ ((s.streamReset v).egr _).items = _
  rw [hegr]
  exact ⟨Tab.get_set_self _ _ _ _, fun j hj => Tab.get_set_ne _ _ _ _ _ hj, rfl⟩

theorem attestationRequest_happens :
    Happens (.attestationRequest v) s (if bit v 0 = true then { s with mgmt := { s.mgmt with attreq := true } } else s) :=
  fromHost_of_up hup _

end

section
variable {s : State}

theorem imginvDone_happens (h : s.mgmt.imgpend ≠ []) : Happens .imginvDone s { s with mgmt := { s.mgmt with imgpend := [] } } :=
  if_neg (by simpa using h)

theorem imginvDone_notNow (h : s.mgmt.imgpend = []) : NotNow .imginvDone s := if_pos (by simp [h])

theorem attestationReport_stands (h : s.mgmt.attreq = true) :
    ∃ u, exec .attestationReport s = .next u ∧ u.last = .issued ∧ u.mgmt.attreq = false ∧
      u.mgmt.attwin.take s.mgmt.reportBody.length = s.mgmt.reportBody ∧ u.mgmt.attwin.length = s.mgmt.reportBody.length + 2420 :=
  ⟨_, if_pos h, rfl, rfl, List.take_left' rfl, by
    show (s.mgmt.reportBody ++ bytesOf 2420 _).length = _
    rw [List.length_append, length_bytesOf]⟩

theorem attestationReport_notNow (h : s.mgmt.attreq = false) : NotNow .attestationReport s := if_neg (by simp [h])

end

/-! Module reset -/

/-- Verifying stages changes the measurement, the digests and the failed stage alone (R269). -/
theorem verify_frame (stages : List (BitVec 256 × Bool)) (m : Mgmt) (k : Nat) : m.verify k stages = { m with
    measure := (m.verify k stages).measure, digests := (m.verify k stages).digests, failedStage := (m.verify k stages).failedStage } := by
  induction stages generalizing m k with
  | nil => rfl
  | cons e r ih =>
    rw [Mgmt.verify]
    split
    · rw [ih]
    · rfl

/-- Stages whose signatures hold extend the measurement in order, and verification goes on behind them. -/
theorem verify_append {pre : List (BitVec 256 × Bool)} (h : ∀ x ∈ pre, x.2 = true) (rest : List (BitVec 256 × Bool)) (m : Mgmt) (k : Nat) :
    m.verify k (pre ++ rest) = Mgmt.verify { m with
      measure := pre.foldl (fun a x => sha3 (bytesOf 32 a.toNat ++ bytesOf 32 x.1.toNat)) m.measure
      digests := m.digests ++ pre.map Prod.fst } (k + pre.length) rest := by
  induction pre generalizing m k with
  | nil => simp
  | cons e r ih =>
    obtain ⟨d, ok⟩ := e
    obtain rfl : ok = true := h (d, ok) List.mem_cons_self
    rw [List.cons_append, Mgmt.verify, if_pos rfl, ih fun x hx => h x (List.mem_cons_of_mem _ hx)]
    simp [Nat.add_assoc, Nat.add_comm 1]

theorem moduleReset_verifies (s : State) (stages pre post : List (BitVec 256 × Bool)) (d : BitVec 256) :
    ∃ u, exec (.moduleReset stages) s = .next u ∧
      u = { State.reset with mgmt := u.mgmt, netOut := s.netOut, hostOut := s.hostOut, inputs := s.inputs, sched := s.sched,
                             free := s.free, last := .issued } ∧
      u.mgmt = { Mgmt.reset with measure := u.mgmt.measure, digests := u.mgmt.digests, failedStage := u.mgmt.failedStage } ∧
      ((∀ x ∈ stages, x.2 = true) →
        u.mgmt.failedStage = none ∧ u.mgmt.digests = stages.map Prod.fst ∧
        u.mgmt.measure = stages.foldl (fun a x => sha3 (bytesOf 32 a.toNat ++ bytesOf 32 x.1.toNat)) 0) ∧
      (stages = pre ++ (d, false) :: post → (∀ x ∈ pre, x.2 = true) →
        u.mgmt.failedStage = some pre.length ∧ u.mgmt.digests = pre.map Prod.fst) := by
  refine ⟨_, rfl, rfl, verify_frame stages Mgmt.reset 0, fun h => ?_, fun hs h => ?_⟩
  · have hv := verify_append h [] Mgmt.reset 0
    rw [List.append_nil] at hv
    show (Mgmt.verify Mgmt.reset 0 stages).failedStage = _ ∧ (Mgmt.verify Mgmt.reset 0 stages).digests = _ ∧
      (Mgmt.verify Mgmt.reset 0 stages).measure = _
    rw [hv]
    exact ⟨rfl, rfl, rfl⟩
  · show (Mgmt.verify Mgmt.reset 0 stages).failedStage = _ ∧ (Mgmt.verify Mgmt.reset 0 stages).digests = _
    rw [hs, verify_append h]
    exact ⟨congrArg some (Nat.zero_add _), rfl⟩

/-! Who may write what (R271, R273) -/

theorem ushiftRight_shiftLeft_eq_and {w : Nat} (v : BitVec w) (n : Nat) : (v >>> n) <<< n = v &&& (BitVec.allOnes w <<< n) := by
  ext j hj
  by_cases h : j < n
  · simp [h]
  · simp [h, show n + (j - n) = j by omega, BitVec.getLsbD_eq_getElem hj]

/-- Bits 5 to 0 cleared. -/
theorem putBits_low_six (v : Word) : putBits v 0 6 0 = v &&& 0xFFFFFFFFFFFFFFC0 := by
  have h : putBits v 0 6 0 = (v >>> 6) <<< 6 := by
    refine BitVec.eq_of_toNat_eq ?_
    simp only [putBits, BitVec.toNat_ofNat, BitVec.toNat_shiftLeft, BitVec.toNat_ushiftRight, Nat.shiftRight_eq_div_pow, Nat.shiftLeft_eq]
    omega
  rw [h]
  exact ushiftRight_shiftLeft_eq_and v 6

section
variable {s : State} {v : Word}

theorem exec_mgmtRegisterWrite {h : Bool} (hup : h = true → s.link.retraining = false) {off : Nat} (ho : off % 8 = 0) :
    exec (.mgmtRegisterWrite (h, off) v) s = happened (if h then s.hostMgmtWrite off v else s.mgmtWrite off v) := by
  cases h with
  | false => simp [exec, execMgmtRegisterWrite, ho]
  | true => simp [exec, execMgmtRegisterWrite, ho, fromHost_of_up (hup rfl)]

theorem mgmtRegisterWrite_notNow (hr : s.link.retraining = true) (off : Nat) : NotNow (.mgmtRegisterWrite (true, off) v) s := by
  by_cases ho : off % 8 = 0
  · exact fromHost_notNow (t := s.hostMgmtWrite off v) hr (by simp [exec, execMgmtRegisterWrite, ho])
  · exact fromHost_notNow (t := s) hr (by simp [exec, execMgmtRegisterWrite, ho])

variable {h : Bool} (hup : h = true → s.link.retraining = false)
include hup

/-- Offsets that name no register, and the read-only ones, ignore a write. -/
theorem mgmtRegisterWrite_ignored {off : Nat} (ho : off % 8 ≠ 0 ∨ off = 0x0000 ∨ off = 0x0008) :
    Happens (.mgmtRegisterWrite (h, off) v) s s := by
  rcases ho with ho | rfl | rfl
  · cases h with
    | false => simp [Happens, exec, execMgmtRegisterWrite, ho, happened]
    | true => simp [Happens, exec, execMgmtRegisterWrite, ho, fromHost_of_up (hup rfl), happened]
  all_goals
    rw [Happens, exec_mgmtRegisterWrite hup rfl]
    cases h <;> rfl

/-- The tail of an egress ring has one writer, the device. -/
theorem mgmtRegisterWrite_ring_tail {j : Nat} (hj : j < 2) :
    ∃ u, exec (.mgmtRegisterWrite (h, 0x0118 + 32 * j) v) s = .next u ∧
      ∀ i, u.mgmt.egrings.get i HostRing.reset = s.mgmt.egrings.get i HostRing.reset := by
  refine ⟨_, exec_mgmtRegisterWrite hup (by omega), fun i => ?_⟩
  have hset : (s.mgmt.egrings.set j (s.mgmt.egrings.get j HostRing.reset)).get i HostRing.reset = s.mgmt.egrings.get i HostRing.reset := by
    by_cases hi : i = j
    · rw [hi, Tab.get_set_self]
    · exact Tab.get_set_ne _ _ _ _ _ hi
  interval_cases j <;> cases h <;> exact hset

/-- The head of an egress ring has one writer, the host. -/
theorem mgmtRegisterWrite_ring_head {j : Nat} (hj : j < 2) :
    ∃ u, exec (.mgmtRegisterWrite (h, 0x0110 + 32 * j) v) s = .next u ∧ u.last = .issued ∧
      u.mgmt.egrings.get j HostRing.reset =
        { s.mgmt.egrings.get j HostRing.reset with head := if h then v else (s.mgmt.egrings.get j HostRing.reset).head } := by
  refine ⟨_, exec_mgmtRegisterWrite hup (by omega), rfl, ?_⟩
  interval_cases j <;> cases h <;> exact Tab.get_set_self _ _ _ _

theorem mgmtRegisterWrite_alarms : Happens (.mgmtRegisterWrite (h, 0x0020) v) s
    { s with mgmt := { s.mgmt with alarms := s.mgmt.alarms &&& ~~~(BitVec.ofNat 4 (bits v 3 0)) } } := by
  rw [Happens, exec_mgmtRegisterWrite hup rfl]
  cases h <;> rfl

theorem mgmtRegisterWrite_lqtab :
    ∃ u, exec (.mgmtRegisterWrite (h, 0x0018) v) s = .next u ∧ u.last = .issued ∧ u.mgmtRead 0x0018 = v &&& 0xFFFFFFFFFFFFFFC0 := by
  refine ⟨_, exec_mgmtRegisterWrite hup rfl, rfl, ?_⟩
  rw [← putBits_low_six]
  cases h <;> rfl

/-- Of a fault queue the host writes the head, firmware the slot count, and neither the tail. -/
theorem mgmtRegisterWrite_faultQueue {t : Nat} (ht : t < numTowers) :
    ∃ u, exec (.mgmtRegisterWrite (h, 0x0048 + 16 * t) v) s = .next u ∧ u.last = .issued ∧
      (u.mgmt.fqs.get t HostRing.reset).tail = (s.mgmt.fqs.get t HostRing.reset).tail ∧
      (u.mgmt.fqs.get t HostRing.reset).head = (if h then BitVec.ofNat 64 (bits v 47 32) else (s.mgmt.fqs.get t HostRing.reset).head) ∧
      (u.mgmt.fqs.get t HostRing.reset).slots = if h then (s.mgmt.fqs.get t HostRing.reset).slots else BitVec.ofNat 64 (bits v 15 0) := by
  refine ⟨_, exec_mgmtRegisterWrite hup (by omega), rfl, ?_⟩
  have hq : (if h then s.hostMgmtWrite (0x0048 + 16 * t) v else s.mgmtWrite (0x0048 + 16 * t) v).mgmt.fqs.get t HostRing.reset =
      if h then { s.mgmt.fqs.get t HostRing.reset with head := BitVec.ofNat 64 (bits v 47 32) }
      else { s.mgmt.fqs.get t HostRing.reset with slots := BitVec.ofNat 64 (bits v 15 0) } := by
    have ht : t < 8 := ht
    interval_cases t <;> cases h <;> exact Tab.get_set_self _ _ _ _
  rw [show ∀ (u : State) (l : Last), ({ u with last := l } : State).mgmt = u.mgmt from fun _ _ => rfl, hq]
  cases h <;> exact ⟨rfl, rfl, rfl⟩

end

/-- Settles O53, access by access and register by register. -/
theorem hostAndManagement : Obligations.HostAndManagement := by
  unfold Obligations.HostAndManagement
  intro s pa len off q dat v stages pre post d m k i die stream g zeros count tired up
  refine ⟨fun hup hroom => ⟨fun hm => ⟨hostRead_corrects hup hroom hm, hostRead_answers hup hroom hm⟩, hostRead_refused hup hroom,
      hostRead_window hup hroom⟩, hostRead_notNow pa len,
    fun hr => ⟨fromHost_notNow hr rfl, flitReceive_notNow hr dat, fromHost_notNow hr rfl, fromHost_notNow hr rfl, fromHost_notNow hr rfl,
      fromHost_notNow hr rfl, mgmtRegisterWrite_notNow hr off⟩,
    fun hup => ⟨hostWrite_performs hup, hostWrite_refused hup, hostWrite_register hup v, flitReceive_accepts hup, flitReceive_refuses hup,
      flitNak_replays hup, flitNak_fails hup, linkRetrain_happens hup, linkRetrain_notNow⟩,
    linkRetrained_happens, fun hup ht => ⟨launchDoorbell_names hup ht, launchDoorbell_bad hup ht⟩, launchDoorbell_no_table,
    imageInvalidate_removes, imginvDone_happens, imginvDone_notNow, egressStreamReset_discards, attestationRequest_happens,
    attestationReport_stands, attestationReport_notNow, moduleReset_verifies s stages pre post d,
    fun h hup => ⟨mgmtRegisterWrite_ignored hup, fun j => mgmtRegisterWrite_ring_tail hup, fun j => mgmtRegisterWrite_ring_head hup,
      mgmtRegisterWrite_alarms hup, mgmtRegisterWrite_lqtab hup, fun t => mgmtRegisterWrite_faultQueue hup⟩,
    fun hup ho => ?_, exec_mgmtRegisterWrite (fun h => absurd h (by simp)) rfl, exec_mgmtRegisterWrite (fun h => absurd h (by simp)) rfl,
    rfl, rfl⟩
  rcases ho with rfl | rfl | rfl <;> exact exec_mgmtRegisterWrite (fun _ => hup) rfl

end Sys2Proof
end

section
/-! The binding of a task (R32, R206): what a placement whose lines are good does to the core of its member, and a placement whose member
bears the number that marks a write on its way as nobody's. -/

namespace Sys2Proof

open Machine

/-! Binding, and the cores that it changes -/

theorem cores_preparePair (ls : List Nat) (s : State) (q : Nat) : (s.preparePair ls q).cores = s.cores := by
  have hset : (if imgPslen ls = 0 then s else (s.correct (imgPsimg ls) (imgPslen ls)).writeMem (pairAddr q + imgPsoff ls) (imgPslen ls)
      (s.readMem (imgPsimg ls) (imgPslen ls))).cores = s.cores := by
    obtain ⟨p, f, m, h⟩ := correct_frame s (imgPsimg ls) (imgPslen ls)
    rw [h]
    split <;> rfl
  unfold State.preparePair
  refine List.foldlRecOn (motive := fun v : State => v.cores = s.cores) (List.range 4) _ hset (fun v hv k _ => ?_)
  cases imgBarrier ls k <;> exact hv

theorem cores_foldl_preparePair (ls : List Nat) (qs : List Nat) (s : State) :
    (qs.foldl (fun (s : State) q => s.preparePair ls q) s).cores = s.cores :=
  List.foldlRecOn (motive := fun v : State => v.cores = s.cores) qs _ rfl (fun v hv q _ => (cores_preparePair ls v q).trans hv)

theorem cores_correctAll (s : State) (ps : List (Nat × Nat)) : (s.correctAll ps).cores = s.cores := by
  obtain ⟨p, f, m, h⟩ := correctAll_frame ps s
  rw [h]

/-- A member whose image makes no ring: binding gives its context a value and clears its windows. -/
theorem core_bindMember {ls : List Nat} (hr : imgRings ls = []) (s : State) (d : List Word) (key idx gid n i c x : Nat) :
    ∃ z, (s.bindMember ls d key idx gid n i (c, x)).core c = ((s.core c).setCtx x z).clearWindows x (imgCsr ls) := by
  have hcut : ∃ ps z, (s.bindMember ls d key idx gid n i (c, x)).core c =
      (((s.correctAll ps).setCtx c x z).modCore c (fun k => k.clearWindows x (imgCsr ls))).core c := by
    unfold State.bindMember
    rw [hr]
    exact ⟨_, _, rfl⟩
  obtain ⟨ps, z, hz⟩ := hcut
  exact ⟨z, by rw [hz, core_modCore_self, core_setCtx_self, State.core, cores_correctAll]; rfl⟩

/-- A gang of one binds by its only member. -/
theorem core_bindTask_of_single {s : State} {p : Placing} {c x : Nat} {ls : List Nat} (hm : p.members = [(c, x)]) (hr : imgRings ls = [])
    (t gid : Nat) : ∃ z, (s.bindTask t p gid ls).core c = ((s.core c).setCtx x z).clearWindows x (imgCsr ls) := by
  have hone : ∃ (v : State) (key : Nat), v.cores = s.cores ∧
      (s.bindTask t p gid ls).core c = (v.bindMember ls p.desc key p.idx gid 1 0 (c, x)).core c := by
    let v := [pairOf c].foldl (fun (s : State) q => s.preparePair ls q) s
    let b : BoundTask :=
      { tower := t, graph := p.graph, idx := p.idx, desc := p.desc, members := [(c, x)], freed := [], arrived := [], pre := none }
    refine ⟨{ v with nextTask := s.nextTask + 1, tasks := v.tasks.set s.nextTask b }, s.nextTask, cores_foldl_preparePair ls _ s, ?_⟩
    unfold State.bindTask
    rw [hm]
    rfl
  obtain ⟨v, key, hv, hb⟩ := hone
  obtain ⟨z, hz⟩ := core_bindMember hr v p.desc key p.idx gid 1 0 c x
  exact ⟨z, by rw [hb, hz, State.core, hv]; rfl⟩

/-- What happened changes no core but by what it did. -/
theorem exists_core_of_happened (s : State) (c : Nat) : ∃ u, happened s = .next u ∧ u.core c = s.core c := ⟨_, rfl, rfl⟩

/-- The only choice among one thing. -/
theorem choose_one (s : State) : ∃ r, s.choose 1 = (0, { s with sched := r }) := by
  unfold State.choose
  split
  · exact ⟨s.sched, rfl⟩
  · exact ⟨_, by rw [Nat.max_self, Nat.mod_one]⟩

/-- A placement alone in its Marten, received, and good in every line binds. -/
theorem exec_contextBind_of_good {s : State} {t : Nat} {p : Placing} {g : Graph} (ht : t < numTowers) (hp : (s.marten t).placing = [p])
    (hd : p.due ≤ (s.marten t).cycle) (hg : (s.marten t).graphs.find? (fun h => h.order = p.graph) = some g)
    (hl : (s.image (nth p.desc 2).toNat).all lineOk = true) (hr : imgRefused (s.image (nth p.desc 2).toNat) = false) :
    ∃ v : State, v.cores = s.cores ∧
      exec (.contextBind t) s = happened (v.bindTask t p (gGid g.desc) (s.image (nth p.desc 2).toNat)) := by
  obtain ⟨r, hc⟩ := choose_one s
  let v := ({ s with sched := r } : State).modMarten t (fun m =>
    { m with placing := m.placing.filter (fun q => q.graph ≠ p.graph || q.idx ≠ p.idx) })
  have hv : (v.marten t).graphs = (s.marten t).graphs := by
    show ((State.setTower _ t _).tower t).marten.graphs = _
    rw [State.tower_setTower_self]
    rfl
  obtain ⟨po, so, mg, hread⟩ := correct_frame v (nth p.desc 2).toNat (43 * 64)
  refine ⟨v.readImage (nth p.desc 2).toNat, (congrArg State.cores hread : _), ?_⟩
  show execContextBind t s = _
  have hrun : execContextBind t s = match (v.marten t).graphs.find? (fun h => h.order = p.graph) with
    | none => happened v
    | some g =>
      let ls := v.image (nth p.desc 2).toNat
      let s := v.readImage (nth p.desc 2).toNat
      if ls.all lineOk && !(imgRefused ls) then happened (s.bindTask t p (gGid g.desc) ls) else happened (s.bindFails t p ls) := by
    simp only [execContextBind, if_neg (Nat.not_le.mpr ht), hp, List.filter_cons, decide_eq_true hd, if_true, List.filter_nil, List.length_nil,
      Nat.zero_add, hc]
    rfl
  rw [hrun, hv, hg]
  have hi : v.image (nth p.desc 2).toNat = s.image (nth p.desc 2).toNat := rfl
  simp only [hi, hl, hr, Bool.not_false, Bool.and_true, if_true]

/-! A write on its way that the clearing of the windows leaves to the context it binds -/

/-- The clearing of R32 hands a context's own writes on their way to the number beyond the last context. A context of that number goes on
reading them as its own. -/
theorem vregFor_clearWindows_numCtxs {k : Core} {v : Csr} {n ready old w : Nat} {late : Bool} (hn : n < 1024) (hh : v.holds n = true)
    (ha : k.air = [{ res := n, ctx := numCtxs, ready := ready, old := old, val := w, cover := none, beaten := late }]) :
    (k.clearWindows numCtxs v).vregFor numCtxs n = BitVec.ofNat 32768 w := by
  have hreg : (k.clearWindows numCtxs v).vregFor numCtxs n = BitVec.ofNat 32768 (BitVec.ofNat 32768 w).toNat := by
    simp only [Core.clearWindows, clearAir, Core.vregFor, Core.seen, ha, hh, hn, coverOver, Core.setRes, Core.vreg, if_true, List.map_cons,
      List.map_nil, List.filter_cons, List.filter_nil, List.foldl_cons, List.foldl_nil, List.isEmpty_cons, Tab.get_set_self, decide_true,
      List.any_cons, Bool.true_or, Bool.false_eq_true, if_false]
  rw [hreg, BitVec.ofNat_toNat, BitVec.setWidth_eq]

/-- A line of zeros under its CRC. -/
def zeroLine : Nat := crc32c (bytesOf 60 0) <<< 480

/-- An image of 43 such lines at address 0. -/
def zeroImage : List Host.Cell :=
  (List.range 43).flatMap (fun i => (List.range 4).map (fun k => (64 * i + 60 + k, BitVec.ofNat 8 (crc32c (bytesOf 60 0) >>> (8 * k)))))

/-- A placement of one member, a context 8 of core 0, that is due. -/
def strayPlacing : Placing := { graph := 0, idx := 0, desc := [], members := [(0, numCtxs)], due := 0 }

/-- A write of 1 on its way to register 0 of the core. -/
def strayAir : Air := { res := 0, ctx := numCtxs, ready := 0, old := 0, val := 1, cover := none, beaten := false }

def strayGraph : Graph := newGraph 0 0 [] [] []

def strayState : State :=
  { State.reset with
    mem := zeroImage
    towers := [(0, { Tower.reset with marten := { Marten.reset with graphs := [strayGraph], placing := [strayPlacing] } })]
    cores := [(0, { Core.reset with air := [strayAir] })] }

theorem image_strayState : strayState.image 0 = List.replicate 43 zeroLine := by decide +kernel

theorem lineOk_zeroLine : lineOk zeroLine = true := by decide +kernel

theorem all_lineOk_strayState : (strayState.image 0).all lineOk = true := by
  rw [image_strayState, List.all_replicate, lineOk_zeroLine]
  rfl

theorem imgRefused_strayState : imgRefused (strayState.image 0) = false := by
  rw [image_strayState]
  decide +kernel

theorem imgRings_strayState : imgRings (strayState.image 0) = [] := by
  rw [image_strayState]
  decide +kernel

theorem vwbBase_strayState : (imgCsr (strayState.image 0)).vwbBase = 0 := by
  rw [image_strayState]
  decide +kernel

/-- Bound, the member still reads the write: its register 0 is not clear. -/
theorem exec_contextBind_strayState :
    ∃ u, exec (.contextBind 0) strayState = .next u ∧ ((u.core 0).vregFor numCtxs 0).getLsbD 0 = true := by
  obtain ⟨v, hv, hx⟩ := exec_contextBind_of_good (s := strayState) (t := 0) (p := strayPlacing) (g := strayGraph) (by decide) rfl
    (Nat.le_refl 0) rfl all_lineOk_strayState imgRefused_strayState
  obtain ⟨z, hz⟩ := core_bindTask_of_single (s := v) (p := strayPlacing) (c := 0) (x := numCtxs) rfl imgRings_strayState 0
    (gGid strayGraph.desc)
  have hair : ((v.core 0).setCtx numCtxs z).air = [strayAir] := congrArg (fun cs : Tab Core => (cs.get 0 Core.reset).air) hv
  have hold : (imgCsr (strayState.image 0)).holds 0 = true := by
    rw [Csr.holds, vwbBase_strayState]
    decide
  have hreg := vregFor_clearWindows_numCtxs (by decide) hold hair
  obtain ⟨u, hu, hcore⟩ := exists_core_of_happened (v.bindTask 0 strayPlacing (gGid strayGraph.desc) (strayState.image 0)) 0
  refine ⟨u, hx.trans hu, ?_⟩
  rw [hcore, hz, hreg, BitVec.getLsbD_ofNat]
  rfl

/-- Refutes O50: the clause on binding says that a member's registers read zero, of every member that a placement names and not of contexts 0 to
7 alone. For a placement that names a context 8, the number that R32's clearing of the windows gives to writes on their way that are nobody's, a
write already on its way to register 0 is read as the member's own. -/
theorem not_graphsAndTasks : ¬ Obligations.GraphsAndTasks := by
  unfold Obligations.GraphsAndTasks
  intro h
  let l : Launch := { desc := [], host := none, core := 0, ctx := 0, task := 0, tower := 0, graph := 0, fires := [] }
  let k : TaskSt := { desc := [], stage := .waiting, order := 0, queued := false, prio := 0, passed := false, fails := 0, fired := 0 }
  obtain ⟨-, -, -, -, -, -, -, -, hbind, -⟩ :=
    h strayState 0 0 0 0 l [] { graph := strayGraph, idx := 0, task := k } [] [] strayPlacing strayGraph [] []
  obtain ⟨u, hu, -, hmembers⟩ := hbind (by decide) rfl (Nat.le_refl 0) rfl all_lineOk_strayState imgRefused_strayState (by decide)
  obtain ⟨-, -, -, hcsr, -, -, -, -, -, -, -, -, hclear⟩ := hmembers 0 (0, numCtxs) rfl
  obtain ⟨u', hu', hone⟩ := exec_contextBind_strayState
  obtain rfl : u = u' := Host.Outcome.next.inj (hu.symm.trans hu')
  have hbase : (u.ctx 0 numCtxs).csr = imgCsr (strayState.image 0) := hcsr
  have hphys : (u.ctx 0 numCtxs).vphys 0 = 0 := by
    rw [Ctx.vphys, hbase, vwbBase_strayState]
    rfl
  have hzero : (u.core 0).vregFor numCtxs ((u.ctx 0 numCtxs).vphys 0) = 0 := hclear 0 (by decide)
  rw [hphys] at hzero
  rw [hzero] at hone
  exact Bool.false_ne_true (BitVec.getLsbD_zero.symm.trans hone)

end Sys2Proof
end

section
/-! Transfers, loops and the return from a handler (R66 to R73, R211, R214, R318, R321, R324, R346, R353, R362, R388). First what the checks of
a transfer answer (R67, R73); then each operation is one change of its context, or one fault. -/

namespace Sys2Proof

open Machine

/-! Where a transfer may stand -/

section
variable {s : State}

theorem transferFault_of_mayTransfer (h : MayTransfer s) : s.transferFault = none := by
  obtain ⟨hd, hl⟩ := h
  rw [State.transferFault, hd]
  cases hloops : s.fctx.loops with
  | nil => rfl
  | cons e r => exact if_neg (hl e r hloops)

theorem transferFault_of_delay (h : s.fctx.delay.isSome) : s.transferFault = some cDELAYBR := if_pos h

theorem transferFault_of_tail (hd : s.fctx.delay = none) (h : ¬ MayTransfer s) : s.transferFault = some cLOOPTAIL := by
  rw [State.transferFault, hd]
  cases hloops : s.fctx.loops with
  | nil => exact absurd ⟨hd, by simp [hloops]⟩ h
  | cons e r =>
    have htail : e.start.toNat ≤ s.focus.addr.toNat ∧ e.stop.toNat ≤ s.focus.addr.toNat + 32 ∧ s.focus.addr.toNat ≤ e.stop.toNat := by
      by_contra hn
      refine h ⟨hd, fun e' r' he => ?_⟩
      obtain ⟨rfl, rfl⟩ := List.cons.inj (hloops.symm.trans he)
      exact hn
    exact if_pos htail

/-- Releasing pending writes changes neither the transfer under way nor the loop stack. -/
theorem transferFault_realignF_eq (s : State) : s.realignF.transferFault = s.transferFault := by
  rw [State.transferFault, fctx_realignF, realigned_delay, realigned_loops]
  rfl

/-! Transfers -/

theorem traps_of_finish {i : Instr} {code : Nat} {faddr : Word} {info : Nat} (h : exec i s = finish s (.trap code faddr info)) :
    Traps i s code faddr info := h

theorem ctxBecomes_of_finish {i : Instr} (f : Ctx → Ctx) (h : exec i s = finish s (.done (s.modF f))) : CtxBecomes i s (f s.fctx) :=
  ctxBecomes_modF i s f h

/-- A transfer that may stand at its bundle is taken or not after two delay slots (R66). -/
theorem transfer_becomes {i : Instr} {target : Option Word} {late : Bool} (ht : MayTransfer s)
    (h : exec i s = finish s (transferTo s target late id)) :
    CtxBecomes i s { s.fctx with delay := some { left := 2, target := target, eret := false, late := late } } := by
  refine ctxBecomes_of_finish (fun t => { t with delay := some { left := 2, target := target, eret := false, late := late } }) ?_
  rw [h, transferTo, transferFault_of_mayTransfer ht]
  rfl

/-- A call is a transfer that leaves in s63 where it returns to (R324). -/
theorem call_becomes {i : Instr} {target : Option Word} {late : Bool} (ht : MayTransfer s)
    (h : exec i s = finish s (transferTo s target late State.putLink)) :
    CtxBecomes i s { s.fctx with
      regs := s.fctx.regs.set 63 (s.focus.addr + 48), xw := s.fctx.xw.set 63 s.focus.seq
      late := s.fctx.late.filter (fun e => e.1 ≠ 63)
      delay := some { left := 2, target := target, eret := false, late := late } } := by
  refine ctxBecomes_of_finish (fun t => { t with
    regs := t.regs.set 63 (s.focus.addr + 48), xw := t.xw.set 63 s.focus.seq, late := t.late.filter (fun e => e.1 ≠ 63)
    delay := some { left := 2, target := target, eret := false, late := late } }) ?_
  rw [h, transferTo, transferFault_of_mayTransfer ht]
  refine congrArg (fun u => finish s (.done u)) ?_
  rw [State.putLink, State.writeX, State.transfer, State.modF_modF]
  rfl

theorem transfer_traps {i : Instr} {target : Option Word} {late : Bool} {k : State → State} {code : Nat} (hf : s.transferFault = some code)
    (h : exec i s = finish s (transferTo s target late k)) : Traps i s code 0 0 := by
  refine traps_of_finish ?_
  rw [h, transferTo, hf]

/-- BR's condition by its number (R318), as comparisons of bit vectors. -/
theorem branchTaken_eq {c : BitVec 3} {x : Word} {taken : Bool}
    (h : (c = 0 ∧ taken = (x == 0)) ∨ (c = 1 ∧ taken = (x != 0)) ∨ (c = 2 ∧ taken = x.slt 0) ∨ (c = 3 ∧ taken = !(x.slt 0)) ∨
      (c = 4 ∧ taken = (0#64).slt x) ∨ (c = 5 ∧ taken = !((0#64).slt x)) ∨ (c = 6 ∧ taken = true)) :
    branchTaken c.toNat x = taken := by
  rcases h with ⟨rfl, rfl⟩ | ⟨rfl, rfl⟩ | ⟨rfl, rfl⟩ | ⟨rfl, rfl⟩ | ⟨rfl, rfl⟩ | ⟨rfl, rfl⟩ | ⟨rfl, rfl⟩ <;>
    simp [branchTaken, BitVec.slt, beq_eq_decide, bne]
  all_goals exact (decide_eq_decide.mpr not_lt.symm).trans decide_not

/-- BR is late where its hint names the other way (R68). -/
theorem br_becomes (ht : MayTransfer s) {a : BitVec 6} {c : BitVec 3} (h : BitVec 1) (v : BitVec 16) {taken : Bool}
    (hc : branchTaken c.toNat (s.sOp a) = taken) :
    CtxBecomes (.br a c h v) s (if taken then sentTo s.fctx (s.focus.addr + 16 * v.signExtend 64) (decide (h = 0))
      else notSent s.fctx (decide (h = 1))) := by
  have hexec : exec (.br a c h v) s =
      finish s (transferTo s (if taken then some (relTarget s.focus.addr v) else none) (taken ≠ (h = 1)) id) := by
    rw [← hc]; rfl
  have hlate : (!decide (h = 1#1)) = decide (h = 0#1) := by
    rcases BitVec.eq_zero_or_eq_one h with rfl | rfl <;> rfl
  cases taken with
  | true =>
    have hb := transfer_becomes ht hexec
    simpa [sentTo, relTarget, hlate] using hb
  | false =>
    have hb := transfer_becomes ht hexec
    simpa [notSent] using hb

/-! Loops -/

theorem bits_eq_zero_iff_lt (n : Word) : bits n 63 32 = 0 ↔ n.toNat < 2 ^ 32 := by
  have hn := n.isLt
  simp only [bits, Nat.shiftRight_eq_div_pow]
  omega

/-- A LOOP whose count has 32 bits and that may stand at its bundle pushes its entry, skips its body or finds the stack full (R70). -/
theorem loopBy_of_mayTransfer (ht : MayTransfer s) {n : Word} (e : BitVec 12) (hn : n.toNat < 2 ^ 32) :
    loopBy s n e =
      if n = 0 then .done (s.modF (fun t => { t with
        delay := some { left := 0, target := some (s.focus.addr + 16#64 * e.setWidth 64 + 16), eret := false, late := true } }))
      else if 6 ≤ s.fctx.loopDepth then .trap cLOOPOVF 0 0
      else .done (s.modF (fun t => { t with
        loops := { start := s.focus.addr + 16, stop := s.focus.addr + 16#64 * e.setWidth 64, count := n } :: t.loops })) := by
  rw [loopBy, if_neg (not_not.mpr ((bits_eq_zero_iff_lt n).mpr hn)), transferFault_of_mayTransfer ht]

section
variable {i : Instr} {n : Word} {e : BitVec 12} (h : exec i s = finish s (loopBy s n e))
include h

theorem loop_pushes (ht : MayTransfer s) (hn : n.toNat < 2 ^ 32) (h0 : n ≠ 0) (hd : s.fctx.loopDepth < 6) :
    CtxBecomes i s { s.fctx with
      loops := { start := s.focus.addr + 16, stop := s.focus.addr + 16 * e.setWidth 64, count := n } :: s.fctx.loops } := by
  refine ctxBecomes_of_finish (fun t => { t with
    loops := { start := s.focus.addr + 16, stop := s.focus.addr + 16 * e.setWidth 64, count := n } :: t.loops }) ?_
  rw [h, loopBy_of_mayTransfer ht e hn, if_neg h0, if_neg (Nat.not_le.mpr hd)]
  rfl

theorem loop_skips (ht : MayTransfer s) (h0 : n = 0) :
    CtxBecomes i s { s.fctx with
      delay := some { left := 0, target := some (s.focus.addr + 16 * e.setWidth 64 + 16), eret := false, late := true } } := by
  refine ctxBecomes_of_finish (fun t => { t with
    delay := some { left := 0, target := some (s.focus.addr + 16 * e.setWidth 64 + 16), eret := false, late := true } }) ?_
  rw [h, loopBy_of_mayTransfer ht e (by simp [h0]), if_pos h0]
  rfl

theorem loop_overflows (ht : MayTransfer s) (hn : n.toNat < 2 ^ 32) (h0 : n ≠ 0) (hd : 6 ≤ s.fctx.loopDepth) : Traps i s cLOOPOVF 0 0 := by
  refine traps_of_finish ?_
  rw [h, loopBy_of_mayTransfer ht e hn, if_neg h0, if_pos hd]

theorem loop_illegal (hn : 2 ^ 32 ≤ n.toNat) : Traps i s cILLOP 0 0 := by
  refine traps_of_finish ?_
  rw [h, loopBy, if_pos (mt (bits_eq_zero_iff_lt n).mp (Nat.not_lt.mpr hn))]

theorem loop_traps {code : Nat} (hf : s.transferFault = some code) (hn : n.toNat < 2 ^ 32) : Traps i s code 0 0 := by
  refine traps_of_finish ?_
  rw [h, loopBy, if_neg (not_not.mpr ((bits_eq_zero_iff_lt n).mpr hn)), hf]

end

theorem toNat_loopImm_lt (n : BitVec 13) : (n.setWidth 64 : Word).toNat < 2 ^ 32 := by
  have hn := n.isLt
  simp only [BitVec.toNat_setWidth]
  omega

theorem loopImm_ne_zero {n : BitVec 13} (h : n ≠ 0) : (n.setWidth 64 : Word) ≠ 0 := by
  bv_omega

theorem break_pops {b : BitVec 3} (h : b.toNat ≤ s.fctx.loops.length) :
    CtxBecomes (.breakOp b) s { s.fctx with loops := s.fctx.loops.drop b.toNat } :=
  ctxBecomes_of_finish (fun t => { t with loops := t.loops.drop b.toNat }) (congrArg (finish s) (if_neg (Nat.not_lt.mpr h)))

theorem break_underflows {b : BitVec 3} (h : s.fctx.loops.length < b.toNat) : Traps (.breakOp b) s cLOOPUNF 0 0 :=
  traps_of_finish (congrArg (finish s) (if_pos h))

/-! ERET -/

theorem eret_becomes (hh : s.fctx.handler.isSome) (ht : MayTransfer s) :
    CtxBecomes .eret s { s.fctx with delay := some { left := 2, target := none, eret := true, late := false } } := by
  refine ctxBecomes_of_finish (fun t => { t with delay := some { left := 2, target := none, eret := true, late := false } }) ?_
  show execEret s = _
  rw [execEret, if_neg (by simpa [Option.isSome_iff_ne_none] using hh), transferFault_of_mayTransfer ht]

theorem eret_traps {code : Nat} (hh : s.fctx.handler.isSome) (hf : s.transferFault = some code) : Traps .eret s code 0 0 := by
  refine traps_of_finish ?_
  show execEret s = _
  rw [execEret, if_neg (by simpa [Option.isSome_iff_ne_none] using hh), hf]

theorem eret_illegal (hh : s.fctx.handler = none) : Traps .eret s cILLOP 0 0 :=
  traps_of_finish (congrArg (finish s) (if_pos (by rw [hh]; rfl)))

theorem brkm_traps {code : Nat} (hr : MayRealign s) (hf : s.transferFault = some code) (v : BitVec 16) : Traps (.brkm v) s code 0 0 := by
  refine traps_of_finish (congrArg (finish s) ((realigning_of_mayRealign hr _).trans ?_))
  simp only [transferTo, transferFault_realignF_eq, hf]

/-- What the first part of the return from a handler asks of a context: its queues are empty, and nothing else holds it back (R214). -/
theorem heldBack_of_drained {t : Ctx} {now : Nat} (hd : t.drained = true) (hh : t.hold = .none) (hf : t.fetchAt ≤ now) :
    t.heldBack now = false := by
  simp only [Ctx.drained, Bool.and_eq_true, List.isEmpty_iff] at hd
  obtain ⟨⟨hv, hm⟩, hl⟩ := hd
  simp [Ctx.heldBack, Ctx.slipFull, Ctx.queued, hv, hm, hl, hh, hf]

theorem dispatch_returns {c x : Nat} {h : SetAside} (hh : (s.ctx c x).handler = some h)
    (hd : (s.ctx c x).delay = some { left := 0, target := none, eret := true, late := false }) (ho : (s.ctx c x).hold = .none)
    (hf : (s.ctx c x).fetchAt ≤ (s.core c).clock) (hq : (s.ctx c x).drained = true) :
    ∃ t, dispatch s c x false = .next t ∧
      t.ctx c x = { s.ctx c x with
        handler := none, vq := h.vq, mq := h.mq, lq := h.lq, pc := h.npc, delay := h.delay, loops := h.loops, masks := h.masks,
        hold := h.hold, mdiscard := h.mdiscard, replay := h.seq } := by
  have hr : (s.ctx c x).returns = true := by simp [Ctx.returns, hd]
  refine ⟨{ s.modCtx c x Ctx.leaveHandler with last := .issued }, ?_, ?_⟩
  · rw [dispatch]
    simp only [heldBack_of_drained hq ho hf, hr, hq, if_true]
    rfl
  · refine (ctx_modCtx_self s c x Ctx.leaveHandler).trans ?_
    rw [Ctx.leaveHandler, hh]

end

/-- Settles O7: LOOP with either form of its count, and BREAK. -/
theorem loopsAndBreaks : Obligations.LoopsAndBreaks := by
  unfold Obligations.LoopsAndBreaks
  intro s a n e b
  refine ⟨fun ht h0 hd => loop_pushes rfl ht (toNat_loopImm_lt n) (loopImm_ne_zero h0) hd, fun ht => loop_skips rfl ht rfl,
    fun ht h0 hd => loop_overflows rfl ht (toNat_loopImm_lt n) (loopImm_ne_zero h0) hd, fun ht h0 hn hd => loop_pushes rfl ht hn h0 hd,
    fun ht h0 => loop_skips rfl ht h0, fun ht h0 hn hd => loop_overflows rfl ht hn h0 hd, fun hn => loop_illegal rfl hn,
    break_pops, break_underflows⟩

/-- Settles O11: ERET as a transfer, and the bundle's place taken by the return once its delay slots have dispatched. -/
theorem returnFromHandler : Obligations.ReturnFromHandler := by
  unfold Obligations.ReturnFromHandler
  exact fun s => ⟨eret_becomes, eret_illegal, fun c x h hh hd ho hf hq => dispatch_returns hh hd ho hf hq⟩

/-- Settles O5: each operation is a transfer to its target, and every transfer meets the same two faults. -/
theorem transfers : Obligations.Transfers := by
  unfold Obligations.Transfers
  refine ⟨fun s a v w h => ?_, fun s a c h v w n e => ?_⟩
  · intro near far linked x ht
    exact ⟨fun c taken hc => br_becomes ht h v (branchTaken_eq hc), transfer_becomes ht rfl, transfer_becomes ht rfl,
      call_becomes ht rfl, call_becomes ht rfl, transfer_becomes ht rfl⟩
  · intro all
    have hall (code : Nat) (hf : s.transferFault = some code) : all code :=
      ⟨transfer_traps hf rfl, transfer_traps hf rfl, transfer_traps hf rfl, transfer_traps hf rfl, transfer_traps hf rfl,
        transfer_traps hf rfl, loop_traps rfl hf (toNat_loopImm_lt n), fun hh => eret_traps hh hf, fun hn => loop_traps rfl hf hn,
        fun hr => brkm_traps hr hf v⟩
    exact ⟨fun hd => hall _ (transferFault_of_delay hd), fun hd ht => hall _ (transferFault_of_tail hd ht)⟩

/-! Where a bundle leads -/

section
variable {t : Ctx} {a : Word} {e : LoopEntry} {r : List LoopEntry}

theorem loopTest_of_not_end (h : t.loops = [] ∨ t.loops = e :: r ∧ e.stop ≠ a) : t.loopTest a = (t, none) := by
  rcases h with h | ⟨h, hs⟩ <;> simp [Ctx.loopTest, *]

theorem loopTest_again (h : t.loops = e :: r) (hs : e.stop = a) (hc : 1 < e.count.toNat) :
    t.loopTest a = ({ t with loops := { e with count := e.count - 1 } :: r }, some e.start) := by
  simp [Ctx.loopTest, *]

theorem loopTest_pops (h : t.loops = e :: r) (hs : e.stop = a) (hc : e.count.toNat ≤ 1) :
    t.loopTest a = ({ t with loops := r }, none) := by
  simp [Ctx.loopTest, h, hs, Nat.not_lt.mpr hc]

/-- A bundle that is no delay slot goes on where the loop test says (R66, R71). -/
theorem follow_plain {u : Ctx} {start : Option Word} (now : Nat) (h : t.loopTest a = (u, start)) (hd : u.delay = none) :
    t.follow a none now = ({ u with pc := start.getD (a + 16) }, false) := by
  simp [Ctx.follow, h, hd]

/-- The bundle of a transfer goes on to its delay slots (R66). -/
theorem follow_of_slots {u : Ctx} {start : Option Word} (now : Nat) {d : Delay} (h : t.loopTest a = (u, start)) (hd : u.delay = some d)
    (hl : d.left ≠ 0) : t.follow a none now = ({ u with pc := a + 16, delay := some d }, false) := by
  simp [Ctx.follow, h, hd, hl]

/-- While delay slots are to come, or the return from a handler, the bundles go on in memory (R66, R214). -/
theorem follow_old_waits {u : Ctx} {start : Option Word} (now : Nat) {d : Delay} (h : t.loopTest a = (u, start))
    (hl : d.left - 1 ≠ 0 ∨ d.eret = true) :
    t.follow a (some d) now = ({ u with pc := a + 16, delay := some { d with left := d.left - 1 } }, false) := by
  have hc : (decide (d.left - 1 ≠ 0) || d.eret) = true := by simpa using hl
  simp only [Ctx.follow, h, hc, if_true]

/-- Behind the last delay slot comes the target of the transfer (R66), 6 cycles later if fetch did not expect it (R68). -/
theorem follow_old_jumps {u : Ctx} {start : Option Word} (now : Nat) {d : Delay} (h : t.loopTest a = (u, start)) (hl : d.left = 1)
    (he : d.eret = false) :
    t.follow a (some d) now = ({ u with
      pc := d.target.getD (start.getD (a + 16)), delay := none, fetchAt := if d.late then now + 6 else u.fetchAt }, d.target.isSome) := by
  cases hp : d.target <;> simp [Ctx.follow, h, hl, he, hp]

end

/-- Settles O6: what the loop test leaves in each case, and where the transfer under way then leads. -/
theorem delaySlotsAndLoops : Obligations.DelaySlotsAndLoops := by
  unfold Obligations.DelaySlotsAndLoops
  intro t a p now late r e slots back again popped from_
  refine ⟨fun q hd hl => ?_, fun hd hl => ?_, fun hd => ⟨fun hl => ?_, fun h hs hc => ?_, fun h hs hc => ?_⟩, fun u on h => ?_⟩
  · rw [follow_of_slots now (loopTest_of_not_end hl) hd (by simp [slots]), ← hd]
  · simp [Ctx.follow, loopTest_of_not_end hl, hd, slots, from_]
  · exact follow_plain now (loopTest_of_not_end hl) hd
  · exact follow_plain now (loopTest_again h hs hc) hd
  · exact follow_plain now (loopTest_pops h hs hc) hd
  · obtain ⟨start, htest, hon, hfetch⟩ : ∃ start, t.loopTest a = (u, start) ∧ start.getD (a + 16) = on ∧ u.fetchAt = t.fetchAt := by
      rcases h with ⟨hl, rfl, rfl⟩ | ⟨hl, hs, hc, rfl, rfl⟩ | ⟨hl, hs, hc, rfl, rfl⟩
      · exact ⟨_, loopTest_of_not_end hl, rfl, rfl⟩
      · exact ⟨_, loopTest_again hl hs hc, rfl, rfl⟩
      · exact ⟨_, loopTest_pops hl hs hc, rfl, rfl⟩
    refine ⟨fun q => follow_old_waits now htest (.inl (by simp [slots])), ?_, ?_, follow_old_waits now htest (.inr rfl)⟩
    · rw [follow_old_jumps now htest rfl rfl, hfetch]
      rfl
    · rw [follow_old_jumps now htest rfl rfl, hon, hfetch]
      rfl

end Sys2Proof
end

section
/-! The mask stack (R74, R87, R355, R426): which lanes a mask of elements enables, which flags a comparison raises, and what a push leaves. -/

namespace Sys2Proof

open Machine

/-! Masks of elements -/

theorem typeBytes_dvd (t : BitVec 3) : typeBytes t.toNat ∣ 4096 := by
  revert t; decide

theorem zipWith_lanes {α : Type} (v u : VReg) (w : Nat) (f : Nat → Nat → α) :
    List.zipWith f (lanes v w) (lanes u w) = (List.range (4096 / w)).map (fun j => f (vElem v w j) (vElem u w j)) := by
  rw [← List.map_id (lanes v w), ← List.map_id (lanes u w), lanes_map, lanes_map]
  exact zip_map _ _ _ _

/-- A mask of elements of `w` bytes gives each lane the bit of its element. -/
theorem getLsbD_maskOf {w : Nat} (hw : w ∣ 4096) (f : Nat → Bool) {j : Nat} (hj : j < 4096) :
    (maskOf w ((List.range (4096 / w)).map f)).getLsbD j = f (j / w) := by
  have hw0 : 0 < w := Nat.pos_of_dvd_of_pos hw (by decide)
  have hlt : j / w < 4096 / w := Nat.div_lt_div_of_lt_of_dvd hw hj
  have hmod : j % w < w := Nat.mod_lt _ hw0
  have hget := joinNat_get w (((List.range (4096 / w)).map f).map (fun b => if b then 2 ^ w - 1 else 0)) (j / w)
  have hbit := congrArg (fun x => x.testBit (j % w)) hget
  simp only [Nat.testBit_mod_two_pow, Nat.testBit_shiftRight, hmod, Nat.div_add_mod, decide_true, Bool.true_and] at hbit
  simp only [maskOf, BitVec.getLsbD_ofNat, hj, decide_true, Bool.true_and, hbit]
  cases hf : f (j / w) <;> simp [hlt, hf, hmod]

/-! Flags of a comparison -/

theorem getLsbD_gatedFlags (m : Mask) (w c : Nat) (fs : List Fl) (i : Nat) :
    (gatedFlags m w i fs).getLsbD c = true ↔ ∃ j, ∃ h : j < fs.length, gated m w (i + j) = true ∧ fs[j].getLsbD c = true := by
  induction fs generalizing i with
  | nil => simp [gatedFlags]
  | cons f r ih =>
    have hsplit : (∃ j, ∃ h : j < (f :: r).length, gated m w (i + j) = true ∧ (f :: r)[j].getLsbD c = true) ↔
        gated m w i = true ∧ f.getLsbD c = true ∨ ∃ j, ∃ h : j < r.length, gated m w (i + 1 + j) = true ∧ r[j].getLsbD c = true := by
      rw [← Nat.or_exists_add_one]
      simp [Nat.add_assoc, Nat.add_comm 1]
    rw [hsplit, ← ih (i + 1), gatedFlags]
    split <;> simp_all

theorem getLsbD_flNV (c : Nat) : flNV.getLsbD c = decide (c = 0) := BitVec.getLsbD_one.trans (by simp)

theorem isSnan_iff (v : Val) : v.isSnan = true ↔ ∃ g, v = .nan true g := by cases v <;> simp [Val.isSnan]

theorem isNan_iff (v : Val) : v.isNan = true ↔ ∃ g, v = .nan true g ∨ v = .nan false g := by
  cases v with
  | nan sg _ => cases sg <;> simp [Val.isNan]
  | inf _ => simp [Val.isNan]
  | num _ _ _ => simp [Val.isNan]

/-- The invalid flag is the one that a comparison can raise: for a signalling NaN, or for an order with a NaN (R426). -/
theorem getLsbD_cmpFlags (r : Nat) (a b : Val) (c : Nat) : (cmpFlags r a b).getLsbD c = true ↔
    c = 0 ∧ ∃ g, a = .nan true g ∨ b = .nan true g ∨ 2 ≤ r ∧ (a = .nan false g ∨ b = .nan false g) := by
  have hcond : (cmpFlags r a b).getLsbD c = true ↔ c = 0 ∧ (a.isSnan = true ∨ b.isSnan = true ∨ 2 ≤ r ∧ (a.isNan = true ∨ b.isNan = true)) := by
    unfold cmpFlags
    split_ifs with hs hn <;> rw [Bool.or_eq_true] at hs <;> simp [getLsbD_flNV] <;> grind
  rw [hcond, isSnan_iff, isSnan_iff, isNan_iff, isNan_iff]
  grind

/-! Pushes -/

section
variable {s : State}

theorem pushMask_of_room (h : s.fctx.maskDepth < 16) (m : Mask) :
    pushMask s m = .done (s.modF (fun t => { t with masks := m :: t.masks })) := if_neg (Nat.not_le.mpr h)

theorem pushMask_of_full (h : 16 ≤ s.fctx.maskDepth) (m : Mask) : pushMask s m = .trap cILLOP 0 0 := if_pos h

/-- An operation that pushes `m` changes nothing but the mask stack. -/
theorem push_becomes {i : Instr} {m : Mask} (h : s.fctx.maskDepth < 16) (he : exec i s = finish s (pushMask s m)) :
    CtxBecomes i s { s.fctx with masks := m :: s.fctx.masks } :=
  ctxBecomes_of_finish (fun t => { t with masks := m :: t.masks }) (by rw [he, pushMask_of_room h])

theorem push_traps {i : Instr} {m : Mask} (h : 16 ≤ s.fctx.maskDepth) (he : exec i s = finish s (pushMask s m)) : Traps i s cILLOP 0 0 :=
  traps_of_finish (by rw [he, pushMask_of_full h])

/-- The flags of the context once an operation raises `f`, to reach FPCSR in `l` cycles (R87). -/
def flagsWith (s : State) (l : Nat) (f : Fl) : List (Nat × BitVec 6) :=
  if f = 0 then s.fctx.flags else s.fctx.flags ++ [(s.fcore.clock + l, f)]

theorem clock_modF (s : State) (g : Ctx → Ctx) : (s.modF g).fcore.clock = s.fcore.clock :=
  (congrArg Core.clock (State.core_setCore_self s s.focus.core _)).trans rfl

/-- A push whose operation raises flags besides. -/
theorem push_raises {i : Instr} {m : Mask} {l : Nat} {f : Fl} (h : s.fctx.maskDepth < 16)
    (he : exec i s = finish s ((pushMask s m).bind (fun u => .done (u.raiseFlags l f)))) :
    CtxBecomes i s { s.fctx with masks := m :: s.fctx.masks, flags := flagsWith s l f } := by
  rw [pushMask_of_room h, Res.bind] at he
  by_cases hf : f = 0
  · rw [State.raiseFlags, if_pos hf] at he
    rw [flagsWith, if_pos hf]
    exact ctxBecomes_of_finish _ he
  · rw [State.raiseFlags, if_neg hf, State.modF_modF, clock_modF] at he
    rw [flagsWith, if_neg hf]
    exact ctxBecomes_of_finish _ he

theorem kmovTo_becomes (d : BitVec 6) : VregBecomes (.kmovTo d) s (s.vDst d) (s.mask.setWidth 32768) :=
  ⟨_, rfl, rfl, (onlyVreg_setVreg s (s.vDst d) _).mark .issued, vreg_setVreg s (s.vDst d) _⟩

/-! Operations that push the mask of their elements -/

/-- Element `j` of the sources that a mask operation of type `t` reads. -/
abbrev srcElem (s : State) (a : BitVec 6) (t : BitVec 3) (j : Nat) : Nat := vElem (s.vreg (s.vSrc a)) (typeBytes t.toNat) j
abbrev winElem (s : State) (b : BitVec 6) (t : BitVec 3) (j : Nat) : Nat := vElem (s.vreg (s.vWin b)) (typeBytes t.toNat) j

/-- The mask of the elements of type `t` that `want` chooses, under the mask in force. -/
def elemMask (s : State) (t : BitVec 3) (want : Nat → Bool) : Mask :=
  maskOf (typeBytes t.toNat) ((List.range (4096 / typeBytes t.toNat)).map want) &&& s.mask

theorem getLsbD_elemMask (s : State) (t : BitVec 3) (want : Nat → Bool) {j : Nat} (hj : j < 4096) :
    (elemMask s t want).getLsbD j = (want (j / typeBytes t.toNat) && s.mask.getLsbD j) := by
  rw [elemMask, BitVec.getLsbD_and, getLsbD_maskOf (typeBytes_dvd t) want hj]

/-- The flags of a comparison of the elements (R426). -/
def elemFlags (s : State) (a b : BitVec 6) (t r : BitVec 3) (k : Fmt) : Fl :=
  gatedFlags s.mask (typeBytes t.toNat) 0 ((List.range (4096 / typeBytes t.toNat)).map (fun j =>
    cmpFlags r.toNat (decodeF k (srcElem s a t j)) (decodeF k (winElem s b t j))))

theorem getLsbD_elemFlags (s : State) (a b : BitVec 6) (t r : BitVec 3) (k : Fmt) (c : Nat) :
    (elemFlags s a b t r k).getLsbD c = true ↔ ∃ j, j < 4096 / typeBytes t.toNat ∧ s.mask.getLsbD (j * typeBytes t.toNat) = true ∧
      (cmpFlags r.toNat (decodeF k (srcElem s a t j)) (decodeF k (winElem s b t j))).getLsbD c = true := by
  rw [elemFlags, getLsbD_gatedFlags]
  simp [gated, and_left_comm]

section
variable (a b : BitVec 6) (t r : BitVec 3) (u : BitVec 1)

theorem exec_vcmp_float {k : Fmt} (hk : fmtOfType t.toNat = some k) :
    exec (.vcmp a b t u r) s = finish s ((pushMask s (elemMask s t (fun j =>
      relF r.toNat (decodeF k (srcElem s a t j)) (decodeF k (winElem s b t j))))).bind
        (fun v => .done (v.raiseFlags latFloat (elemFlags s a b t r k)))) := by
  show execVcmp a b t u r s = _
  simp only [execVcmp, hk, zipWith_lanes, List.map_map]
  rfl

theorem exec_vcmp_int (hk : fmtOfType t.toNat = none) :
    exec (.vcmp a b t u r) s = finish s (pushMask s (elemMask s t (fun j =>
      relI r.toNat (8 * typeBytes t.toNat) (u = 1) (srcElem s a t j) (winElem s b t j)))) := by
  show execVcmp a b t u r s = _
  simp only [execVcmp, hk, zipWith_lanes]
  rfl

theorem exec_kpush : exec (.kpush a t) s = finish s (pushMask s (elemMask s t (fun j => srcElem s a t j ≠ 0))) := by
  show execKpush a t s = _
  simp only [execKpush, lanes_map]
  rfl

theorem vcmp_traps (h : 16 ≤ s.fctx.maskDepth) : Traps (.vcmp a b t u r) s cILLOP 0 0 := by
  cases hk : fmtOfType t.toNat with
  | some k =>
    refine traps_of_finish ?_
    rw [exec_vcmp_float a b t r u hk, pushMask_of_full h]
    rfl
  | none => exact push_traps h (exec_vcmp_int a b t r u hk)

end

/-- What the mask stack holds once an operation has pushed the mask of its elements. -/
theorem exists_pushed {i : Instr} {t : BitVec 3} {want : Nat → Bool} {fs : List (Nat × BitVec 6)}
    (h : CtxBecomes i s { s.fctx with masks := elemMask s t want :: s.fctx.masks, flags := fs }) :
    ∃ k m, exec i s = .next k ∧ k.last = .issued ∧ OnlyCtx s k ∧
      k.fctx = { s.fctx with masks := m :: s.fctx.masks, flags := k.fctx.flags } ∧
      ∀ j, j < 4096 → m.getLsbD j = (want (j / typeBytes t.toNat) && s.mask.getLsbD j) := by
  obtain ⟨k, he, hl, ho, hk⟩ := h
  exact ⟨k, _, he, hl, ho, by rw [hk], fun j hj => getLsbD_elemMask s t want hj⟩

theorem kinv_replaces_only {m : Mask} (h : s.fctx.masks = [m]) : CtxBecomes .kinv s { s.fctx with masks := [~~~m] } :=
  ctxBecomes_of_finish (fun t => { t with masks := [~~~m] }) (by show execKinv s = _; simp only [execKinv, h])

theorem kinv_replaces_top {m n : Mask} {k : List Mask} (h : s.fctx.masks = m :: n :: k) :
    CtxBecomes .kinv s { s.fctx with masks := (~~~m &&& n) :: n :: k } :=
  ctxBecomes_of_finish (fun t => { t with masks := (~~~m &&& n) :: n :: k }) (by show execKinv s = _; simp only [execKinv, h])

theorem kinv_traps (h : s.fctx.masks = []) : Traps .kinv s cILLOP 0 0 :=
  traps_of_finish (by show execKinv s = _; simp only [execKinv, h])

theorem kpop_removes {m : Mask} {k : List Mask} (h : s.fctx.masks = m :: k) : CtxBecomes .kpop s { s.fctx with masks := k } :=
  ctxBecomes_of_finish (fun t => { t with masks := k }) (by show execKpop s = _; simp only [execKpop, h])

theorem kpop_traps (h : s.fctx.masks = []) : Traps .kpop s cILLOP 0 0 :=
  traps_of_finish (by show execKpop s = _; simp only [execKpop, h])

end

/-- Settles O16: the pushes, element by element, the flags of a comparison, and the operations on the stack itself. -/
theorem maskStack : Obligations.MaskStack := by
  unfold Obligations.MaskStack
  intro s d a b t r u w x y pushes
  refine ⟨fun hroom => ⟨fun k hk => ?_, fun hk => ?_, exists_pushed (push_becomes hroom (exec_kpush a t)), push_becomes hroom rfl⟩,
    fun hfull => ⟨vcmp_traps a b t r u hfull, push_traps hfull (exec_kpush a t), push_traps hfull rfl⟩,
    fun h => ⟨kinv_traps h, kpop_traps h⟩, fun m h => kinv_replaces_only h, fun m n k h => kinv_replaces_top h, fun m k h => kpop_removes h,
    kmovTo_becomes d, fun h j hj => ?_, fun m k h => ?_⟩
  · have hb := push_raises hroom (exec_vcmp_float a b t r u hk)
    refine ⟨exists_pushed hb, ?_⟩
    obtain ⟨v, he, -, -, hv⟩ := hb
    refine ⟨v, elemFlags s a b t r k, he, by rw [FlagsRaised, hv]; rfl, fun c hc => ?_, ?_⟩
    · rw [Bool.eq_false_iff, Ne, getLsbD_elemFlags]
      simp [getLsbD_cmpFlags, hc]
    · simp only [getLsbD_elemFlags, getLsbD_cmpFlags, true_and]
      rfl
  · have hb := push_becomes hroom (exec_vcmp_int a b t r u hk)
    refine ⟨exists_pushed hb, fun v hv => ?_⟩
    obtain ⟨v', he, -, -, hv'⟩ := hb
    obtain rfl : v' = v := by simpa using he.symm.trans hv
    rw [hv']
  · rw [State.mask, Ctx.top, h]
    exact BitVec.getLsbD_allOnes.trans (decide_eq_true hj)
  · simp [State.mask, Ctx.top, h]

end Sys2Proof
end

section
/-! Words written out from the spec's examples (R52, R284 to R293): each is the word that its operation encodes to. -/

namespace Sys2Proof

open Machine

/-- The word of a well-formed operation decodes, in the operation's own slot, to that operation. -/
theorem decodeSlot_of_encode {k : Nat} {w : SlotWord} {i : Instr} (hs : i.slot = some k) (hwf : i.wellFormed = true)
    (he : encode i = some w) : decodeSlot k w = .ok i :=
  (decodeAndEncodeAgree.1 i w hwf he).1 k hs

/-- Settles O57: every word is what its operation encodes to, so it decodes to that operation. -/
theorem writtenOutWordsDecode : Obligations.WrittenOutWordsDecode := by
  unfold Obligations.WrittenOutWordsDecode
  refine ⟨?_, ?_, ?_, ?_, ?_, ?_, ?_, ?_, ?_, ?_, ?_, ?_, ?_, ?_, ?_, ?_, ?_, ?_, ?_, ?_, ?_, ?_, ?_, ?_⟩ <;>
    exact decodeSlot_of_encode rfl rfl rfl

end Sys2Proof
end

section
/-! Engine commands that do not issue (R61, R64, R107, R245): what `engineOp` answers before it looks at the control block, said once for every
command. -/

namespace Sys2Proof

open Machine

section
variable {s : State} {kind : CmdKind} {t a b c : BitVec 5} {r : BitVec 6} {k : Cmd → Res}

theorem mayCommand_iff : MayCommand s t ↔ ((t ≠ 0 && bit s.fctx.tokens t.toNat) || decide (255 ≤ s.fctx.cp)) = false := by
  simp only [MayCommand, bit, Bool.or_eq_false_iff, Bool.and_eq_false_iff, decide_eq_false_iff_not, not_not, Nat.not_le]

theorem engineOp_of_not_mayCommand (h : ¬ MayCommand s t) : engineOp s kind t a b c r k = .wait := by
  rw [mayCommand_iff, Bool.not_eq_false] at h
  exact if_pos h

theorem engineOp_of_mayCommand (h : MayCommand s t) : engineOp s kind t a b c r k =
    match apFault (s.opnd (areg r.toNat)) 64 with
    | some e => .trap e (s.opnd (areg r.toNat)) 0
    | none =>
      if s.poisonNow (apAddr s.focus.core (apOff (s.opnd (areg r.toNat)))) 64 then .trap cPOISON (s.opnd (areg r.toNat)) 0
      else (k (s.newCmd kind t [a, b, c] (s.wordsNow (apAddr s.focus.core (apOff (s.opnd (areg r.toNat)))) 8))).bind
        (fun s' => .done (s'.correct (apAddr s.focus.core (apOff (s.opnd (areg r.toNat)))) 64)) := by
  rw [mayCommand_iff] at h
  exact if_neg (by rw [h]; exact Bool.false_ne_true)

/-- What stops a command before its block is read stops it whatever its kind. -/
theorem engineOp_of_apFault {e : Nat} (h : MayCommand s t) (he : apFault (s.opnd (areg r.toNat)) 64 = some e) :
    engineOp s kind t a b c r k = .trap e (s.opnd (areg r.toNat)) 0 := by
  rw [engineOp_of_mayCommand h, he]

theorem engineOp_of_poison (h : MayCommand s t) (he : apFault (s.opnd (areg r.toNat)) 64 = none)
    (hp : s.poisonNow (apAddr s.focus.core (apOff (s.opnd (areg r.toNat)))) 64 = true) :
    engineOp s kind t a b c r k = .trap cPOISON (s.opnd (areg r.toNat)) 0 := by
  rw [engineOp_of_mayCommand h, he]
  exact if_pos hp

end

section
variable (s : State) (t a b c : BitVec 5) (r : BitVec 6)

/-- `f` holds of every engine command, of the posting-list commands if their engine has room for one more (R245). -/
def EveryCommand (f : Instr → Prop) : Prop :=
  f (.copy t a b c r) ∧ f (.cslice t a b c r) ∧ f (.stream t a b c r) ∧ f (.npost t a b c r) ∧ f (.egq t a b c r) ∧
    ((s.badger (badgerFor s.focus.core)).cmds.length < 256 →
      f (.pldec t a b c r) ∧ f (.pland t a b c r) ∧ f (.plor t a b c r) ∧ f (.pltopk t a b c r) ∧ f (.plfuse t a b c r))

variable {s t a b c r}

theorem badgerOp_of_room (h : (s.badger (badgerFor s.focus.core)).cmds.length < 256) (kind : CmdKind) :
    badgerOp s kind t a b c r = engineOp s kind t a b c r (badgerIssue s) := if_neg (by simpa using h)

theorem badgerOp_of_full (h : 256 ≤ (s.badger (badgerFor s.focus.core)).cmds.length) (kind : CmdKind) :
    badgerOp s kind t a b c r = .wait := if_pos (by simpa using h)

/-- Every engine command answers what `engineOp` answers, where that does not depend on the command. -/
theorem everyCommand_of_engineOp {out : Res} (h : ∀ kind k, engineOp s kind t a b c r k = out) {f : Instr → Prop}
    (hf : ∀ i, exec i s = finish s out → f i) : EveryCommand s t a b c r f := by
  have hb (hroom : (s.badger (badgerFor s.focus.core)).cmds.length < 256) (kind : CmdKind) : badgerOp s kind t a b c r = out :=
    (badgerOp_of_room hroom kind).trans (h kind _)
  exact ⟨hf _ (congrArg (finish s) (h _ _)), hf _ (congrArg (finish s) (h _ _)), hf _ (congrArg (finish s) (h _ _)),
    hf _ (congrArg (finish s) (h _ _)), hf _ (congrArg (finish s) (h _ _)), fun hroom =>
      ⟨hf _ (congrArg (finish s) (hb hroom _)), hf _ (congrArg (finish s) (hb hroom _)), hf _ (congrArg (finish s) (hb hroom _)),
        hf _ (congrArg (finish s) (hb hroom _)), hf _ (congrArg (finish s) (hb hroom _))⟩⟩

end

/-- Settles O42: each check of `engineOp` in its order, and the room of the posting-list engine before them. -/
theorem engineCommandsHeld : Obligations.EngineCommandsHeld := by
  unfold Obligations.EngineCommandsHeld
  intro s t a b c r p all
  refine ⟨fun h => ?_, fun h hp => ?_, fun h hp hb => ?_, fun h hp hb hm => ?_, fun h hp hb hm hpo => ?_, fun hfull => ?_⟩
  · exact everyCommand_of_engineOp (fun _ _ => engineOp_of_not_mayCommand h) fun _ => waits_of_finish
  · exact everyCommand_of_engineOp (fun _ _ => engineOp_of_apFault h (by simp [apFault, hp, p])) fun _ => traps_of_finish
  · exact everyCommand_of_engineOp (fun _ _ => engineOp_of_apFault h (by simp [apFault, hp, hb, p])) fun _ => traps_of_finish
  · exact everyCommand_of_engineOp (fun _ _ => engineOp_of_apFault h (by simp [apFault, hp, hb, hm, p])) fun _ => traps_of_finish
  · exact everyCommand_of_engineOp (fun _ _ => engineOp_of_poison h (by simp [apFault, hp, hb, hm, p]) hpo) fun _ => traps_of_finish
  · have hw (kind : CmdKind) : finish s (badgerOp s kind t a b c r) = finish s .wait := congrArg (finish s) (badgerOp_of_full hfull kind)
    exact ⟨waits_of_finish (hw _), waits_of_finish (hw _), waits_of_finish (hw _), waits_of_finish (hw _), waits_of_finish (hw _)⟩

end Sys2Proof
end

section
/-! Commands end (R61, R64, R115, R258, R263, R330, R378, R406). First what stays as it is while credits are made and results land; then the
barrier that a credit writes; then the ends, engine by engine. -/

namespace Sys2Proof

open Machine

/-! What credits and landings leave alone -/

/-- No engine of the posting-list kind has changed. -/
def SameBadgers (s u : State) : Prop := ∀ b, u.badger b = s.badger b

/-- No context has changed. -/
def SameCtxs (s u : State) : Prop := ∀ c x, u.ctx c x = s.ctx c x

theorem SameBadgers.trans {s u v : State} (h : SameBadgers s u) (h' : SameBadgers u v) : SameBadgers s v := fun b => (h' b).trans (h b)

theorem SameCtxs.trans {s u v : State} (h : SameCtxs s u) (h' : SameCtxs u v) : SameCtxs s v := fun c x => (h' c x).trans (h c x)

theorem sameBadgers_of_towers {s u : State} (h : u.towers = s.towers) : SameBadgers s u := fun b => by
  rw [State.badger, State.badger, State.tower, State.tower, h]

theorem sameCtxs_of_cores {s u : State} (h : u.cores = s.cores) : SameCtxs s u := fun c x => by
  rw [State.ctx, State.ctx, State.core, State.core, h]

theorem sameBadgers_modTower (s : State) (t : Nat) {f : Tower → Tower} (hf : (f (s.tower t)).badgers = (s.tower t).badgers) :
    SameBadgers s (s.modTower t f) := fun b => by
  rw [State.badger, State.badger]
  by_cases h : b / 2 = t
  · rw [← h] at hf ⊢
    rw [State.modTower, State.tower_setTower_self, hf]
  · rw [State.modTower, State.tower_setTower_ne _ _ _ _ h]

theorem sameCtxs_modCore (s : State) (c : Nat) {f : Core → Core} (hf : (f (s.core c)).ctxs = (s.core c).ctxs) : SameCtxs s (s.modCore c f) :=
  fun d x => by
  by_cases h : d = c
  · rw [h, State.ctx, core_modCore_self, Core.ctx, hf]
    rfl
  · exact congrArg (fun k => Core.ctx k x) (State.core_setCore_ne s c d _ h)

/-- What every step of a walk over a list keeps, the walk keeps. -/
theorem foldl_keeps {α : Type} {R : State → State → Prop} (hr : ∀ s, R s s) (ht : ∀ {s u v}, R s u → R u v → R s v) (g : State → α → State)
    (hg : ∀ s a, R s (g s a)) (l : List α) (s : State) : R s (l.foldl g s) := by
  induction l generalizing s with
  | nil => exact hr s
  | cons a r ih => exact ht (hg s a) (ih _)

theorem sameBadgers_foldl {α : Type} (g : State → α → State) (hg : ∀ s a, SameBadgers s (g s a)) (l : List α) (s : State) :
    SameBadgers s (l.foldl g s) := foldl_keeps (R := SameBadgers) (fun _ _ => rfl) SameBadgers.trans g hg l s

theorem sameCtxs_foldl {α : Type} (g : State → α → State) (hg : ∀ s a, SameCtxs s (g s a)) (l : List α) (s : State) :
    SameCtxs s (l.foldl g s) := foldl_keeps (R := SameCtxs) (fun _ _ _ => rfl) SameCtxs.trans g hg l s

theorem towers_correct (s : State) (a n : Nat) : (s.correct a n).towers = s.towers := by
  obtain ⟨p, q, m, h⟩ := correct_frame s a n
  rw [h]

theorem cores_correct (s : State) (a n : Nat) : (s.correct a n).cores = s.cores := by
  obtain ⟨p, q, m, h⟩ := correct_frame s a n
  rw [h]

theorem mem_correct (s : State) (a n : Nat) : (s.correct a n).mem = s.mem := by
  obtain ⟨p, q, m, h⟩ := correct_frame s a n
  rw [h]

theorem landPart_frame (s : State) (p : Piece × Bool) : ∃ m q r, s.landPart p = { s with mem := m, poison := q, soft := r } := by
  by_cases hp : p.2 = true
  · obtain ⟨q, hq⟩ := foldl_markPoison [p.1.pa / 8] (s.writeMem p.1.pa p.1.len p.1.val)
    rw [List.foldl_cons, List.foldl_nil] at hq
    exact ⟨_, q, _, by rw [State.landPart, if_pos hp, hq]; rfl⟩
  · exact ⟨_, _, _, if_neg hp⟩

theorem landPart_towers_cores (s : State) (p : Piece × Bool) : (s.landPart p).towers = s.towers ∧ (s.landPart p).cores = s.cores := by
  obtain ⟨m, q, r, h⟩ := landPart_frame s p
  rw [h]
  exact ⟨rfl, rfl⟩

theorem modTask_towers_cores (s : State) (k : Nat) (f : BoundTask → BoundTask) :
    (s.modTask k f).towers = s.towers ∧ (s.modTask k f).cores = s.cores := by
  rw [modTask_frame]
  exact ⟨rfl, rfl⟩

/-! Credits -/

theorem sameBadgers_completeToken (s : State) (c x d : Nat) : SameBadgers s (s.completeToken c x d) := sameBadgers_of_towers rfl

theorem sameBadgers_act (s : State) (q off : Nat) (w : Word) : SameBadgers s (s.act q off w) := by
  unfold State.act
  dsimp only
  split
  · exact sameBadgers_modTower _ _ rfl
  · exact sameBadgers_completeToken _ _ _ _
  · exact sameBadgers_modTower _ _ rfl
  · exact fun _ => rfl

theorem sameBadgers_notify (s : State) (q off : Nat) (b : Bar) (w : Word) : SameBadgers s (notify s q off b w).1 := by
  unfold notify
  split
  · exact fun _ => rfl
  · exact sameBadgers_act s q off w

theorem sameBadgers_fire (s : State) (q off : Nat) (b : Bar) : SameBadgers s (fire s q off b).1 :=
  (sameBadgers_notify _ _ _ _ _).trans (sameBadgers_notify _ _ _ _ _)

theorem sameBadgers_fireTimes (n : Nat) (s : State) (q off : Nat) (b : Bar) : SameBadgers s (fireTimes n s q off b).1 := by
  induction n generalizing s b with
  | zero => exact fun _ => rfl
  | succ n ih => exact (sameBadgers_fire s q off b).trans (ih _ _)

theorem sameBadgers_settle (s : State) (q off : Nat) (b : Bar) : SameBadgers s (settle s q off b).1 := by
  unfold settle
  dsimp only
  split_ifs
  · exact sameBadgers_fire s q off b
  · exact sameBadgers_fireTimes _ _ _ _ _
  · exact fun _ => rfl

theorem sameBadgers_credit (s : State) (q off n unit code flags stop : Nat) : SameBadgers s (s.credit q off n unit code flags stop) :=
  (sameBadgers_of_towers (towers_correct s _ _)).trans (sameBadgers_settle (s.readBar q off) q off _)

theorem sameBadgers_creditCmd (s : State) (k : Cmd) (unit n code flags stop : Nat) :
    SameBadgers s (s.creditCmd k unit n code flags stop) := by
  unfold State.creditCmd
  split
  · exact sameBadgers_foldl _ (fun _ _ => sameBadgers_credit _ _ _ _ _ _ _ _) _ s
  · exact fun _ => rfl

theorem sameBadgers_creditNet (s : State) (k : Cmd) (unit n code flags stop : Nat) :
    SameBadgers s (s.creditNet k unit n code flags stop) := by
  unfold State.creditNet State.holdBack
  repeat' split
  · exact sameBadgers_of_towers (modTask_towers_cores _ _ _).1
  · exact sameBadgers_credit _ _ _ _ _ _ _ _
  · exact fun _ => rfl

section
variable {k : Cmd} (hb : ccBaren k.ccb = false)
include hb

/-- A command without a barrier credits none. -/
theorem creditCmd_of_no_barrier (s : State) (unit n code flags stop : Nat) : s.creditCmd k unit n code flags stop = s :=
  if_neg (by simp [hb])

theorem creditNet_of_no_barrier (s : State) (unit n code flags stop : Nat) : s.creditNet k unit n code flags stop = s :=
  if_neg (by simp [hb])

end

/-! Rows and results on their way -/

theorem sameBadgers_modWm (s : State) (k : Cmd) (f : WMark → WMark) : SameBadgers s (s.modWm k f) := by
  unfold State.modWm
  split
  · refine sameBadgers_foldl _ (fun _ _ => ?_) _ s
    exact sameBadgers_of_towers rfl
  · exact fun _ => rfl

theorem sameCtxs_modWm (s : State) (k : Cmd) (f : WMark → WMark) : SameCtxs s (s.modWm k f) := by
  unfold State.modWm
  split
  · exact sameCtxs_foldl _ (fun _ _ => sameCtxs_modCore _ _ rfl) _ s
  · exact fun _ _ => rfl

/-- What a command shows in its control block and by its context and token, whatever has landed. -/
def SameIssue (k k' : Cmd) : Prop := k'.core = k.core ∧ k'.ctx = k.ctx ∧ k'.tok = k.tok ∧ k'.ccb = k.ccb

/-- What landing keeps of state and command: the engines; the contexts, unless a barrier is credited; that every result has been read. -/
structure Lands (s : State) (k : Cmd) (u : State) (k' : Cmd) : Prop where
  badgers : SameBadgers s u
  ctxs : ccBaren k.ccb = false → SameCtxs s u
  issue : SameIssue k k'
  read : k.read = true → k'.read = true

theorem Lands.refl (s : State) (k : Cmd) : Lands s k s k := ⟨fun _ => rfl, fun _ _ _ => rfl, ⟨rfl, rfl, rfl, rfl⟩, id⟩

theorem Lands.trans {s u v : State} {k k' k'' : Cmd} (h : Lands s k u k') (h' : Lands u k' v k'') : Lands s k v k'' := by
  obtain ⟨hcore, hctx, htok, hccb⟩ := h.issue
  obtain ⟨hcore', hctx', htok', hccb'⟩ := h'.issue
  exact ⟨h.badgers.trans h'.badgers, fun hb => (h.ctxs hb).trans (h'.ctxs (hccb ▸ hb)),
    ⟨hcore'.trans hcore, hctx'.trans hctx, htok'.trans htok, hccb'.trans hccb⟩, fun hr => h'.read (h.read hr)⟩

/-- Every part of the row has landed. -/
def Machine.Landing.done (l : Landing) : Bool := l.parts.isEmpty

/-- Rows whose parts have all landed are paid for (R115): those that stand first. -/
theorem payRows_lands (unit : Nat) (ls : List Landing) (s : State) (k : Cmd) :
    Lands s k (payRows unit ls s k).1 (payRows unit ls s k).2 ∧
      (payRows unit ls s k).2.landing = ls.dropWhile Landing.done := by
  induction ls generalizing s k with
  | nil => exact ⟨⟨fun _ => rfl, fun _ _ _ => rfl, ⟨rfl, rfl, rfl, rfl⟩, id⟩, rfl⟩
  | cons l r ih =>
    by_cases hl : l.done = true
    · let s' := l.vas.foldl (fun (s : State) v => s.modWm k (fun w => w.land v.1 (v.1 + v.2))) s
      let s'' := if k.kind = .recv then s'.creditNet k unit l.bytes l.code l.flags l.ix else s'.creditCmd k unit l.bytes l.code l.flags l.ix
      have heq : payRows unit (l :: r) s k = payRows unit r s'' { k with landed := k.landed + l.bytes } := if_pos hl
      have hwm : SameBadgers s s' := sameBadgers_foldl _ (fun _ _ => sameBadgers_modWm _ _ _) _ _
      have hwmc : SameCtxs s s' := sameCtxs_foldl _ (fun _ _ => sameCtxs_modWm _ _ _) _ _
      have hcr : SameBadgers s' s'' := by
        dsimp only [s'']
        split
        · exact sameBadgers_creditNet _ _ _ _ _ _ _
        · exact sameBadgers_creditCmd _ _ _ _ _ _ _
      have hcrc (hb : ccBaren k.ccb = false) : s'' = s' := by
        dsimp only [s'']
        rw [creditNet_of_no_barrier hb, creditCmd_of_no_barrier hb, ite_self]
      have hpaid : Lands s k s'' { k with landed := k.landed + l.bytes } :=
        ⟨hwm.trans hcr, fun hb => hcrc hb ▸ hwmc, ⟨rfl, rfl, rfl, rfl⟩, id⟩
      rw [heq, List.dropWhile_cons_of_pos hl]
      exact ⟨hpaid.trans (ih _ _).1, (ih _ _).2⟩
    · have heq : payRows unit (l :: r) s k = (s, { k with landing := l :: r }) := if_neg hl
      rw [heq, List.dropWhile_cons_of_neg hl]
      exact ⟨⟨fun _ => rfl, fun _ _ _ => rfl, ⟨rfl, rfl, rfl, rfl⟩, id⟩, rfl⟩

/-- The parts on their way. -/
def partCount (ls : List Landing) : Nat := (ls.map (fun l => l.parts.length)).sum

theorem length_pending (k : Cmd) : k.pending.length = partCount k.landing := by
  rw [Cmd.pending, List.length_flatMap, partCount]
  simp only [List.length_map, List.length_range]
  conv_rhs => rw [← List.zipIdx_map_fst 0 k.landing, List.map_map]
  rfl

theorem partCount_dropWhile (ls : List Landing) : partCount (ls.dropWhile Landing.done) = partCount ls := by
  induction ls with
  | nil => rfl
  | cons l r ih =>
    by_cases hl : l.done = true
    · rw [List.dropWhile_cons_of_pos hl, ih]
      simp_all [partCount, Landing.done]
    · rw [List.dropWhile_cons_of_neg hl]

/-- The next part that lands: the first of the first row that has one, if no lock is in its way. -/
theorem landOf_first {s : State} {k : Cmd} {l : Landing} {r : List Landing} {p : Piece × Bool} {ps : List (Piece × Bool)} (unit : Nat)
    (hk : k.landing = l :: r) (hl : l.parts = p :: ps) : landOf s unit k 0 0 =
      some (if s.locked k.refD k.dstKey p.1.pa p.1.len then (s, k.lockedOut 0)
        else payRows unit ({ l with parts := ps } :: r) (s.landPart p) k) := by
  simp only [landOf, hk, hl, List.getElem?_cons_zero, Option.bind_some, List.take_zero, List.flatMap_nil, List.drop_zero, List.take_succ_cons,
    List.flatMap_cons, List.append_nil, List.any_nil, Bool.false_eq_true, if_false, List.modify_zero_cons, List.eraseIdx_zero, List.tail_cons]
  split <;> rfl

theorem lockedOut_lands (s : State) (k : Cmd) : Lands s k s (k.lockedOut 0) :=
  ⟨fun _ => rfl, fun _ _ _ => rfl, ⟨rfl, rfl, rfl, rfl⟩, fun _ => rfl⟩

theorem dropWhile_done_of_count {ls : List Landing} (h : partCount ls = 0) : ls.dropWhile Landing.done = [] := by
  rw [List.dropWhile_eq_nil_iff]
  intro l hl
  have h0 := List.sum_eq_zero_iff.mp h _ (List.mem_map_of_mem hl)
  rwa [Landing.done, List.isEmpty_iff_length_eq_zero]

theorem head_not_done {l : Landing} {r : List Landing} (h : (l :: r).dropWhile Landing.done = l :: r) : l.done = false := by
  by_contra hl
  rw [List.dropWhile_cons_of_pos (by simpa using hl)] at h
  exact absurd (congrArg List.length h) (Nat.ne_of_lt (Nat.lt_succ_of_le (List.length_dropWhile_le _ r)))

/-- Parts land one by one until none is on its way. -/
theorem landParts_lands (unit n : Nat) (s : State) (k : Cmd) (hn : partCount k.landing ≤ n)
    (hh : k.landing.dropWhile Landing.done = k.landing) :
    Lands s k (landParts n s unit k).1 (landParts n s unit k).2 ∧ (landParts n s unit k).2.landing = [] := by
  induction n generalizing s k with
  | zero => exact ⟨.refl s k, hh.symm.trans (dropWhile_done_of_count (Nat.le_zero.mp hn))⟩
  | succ n ih =>
    cases hk : k.landing with
    | nil =>
      have hnone : landOf s unit k 0 0 = none := by simp [landOf, hk]
      rw [landParts, hnone]
      exact ⟨.refl s k, hk⟩
    | cons l r =>
      rw [hk] at hh
      obtain ⟨p, ps, hl⟩ : ∃ p ps, l.parts = p :: ps := List.exists_cons_of_ne_nil (by simpa [Landing.done] using head_not_done hh)
      rw [landParts, landOf_first unit hk hl]
      by_cases hlock : s.locked k.refD k.dstKey p.1.pa p.1.len = true
      · rw [if_pos hlock]
        obtain ⟨hlands, hnil⟩ := ih s (k.lockedOut 0) (by simp [Cmd.lockedOut, partCount]) rfl
        exact ⟨(lockedOut_lands s k).trans hlands, hnil⟩
      · rw [if_neg hlock]
        obtain ⟨hpaid, hleft⟩ := payRows_lands unit ({ l with parts := ps } :: r) (s.landPart p) k
        have hpart : Lands s k (s.landPart p) k := ⟨sameBadgers_of_towers (landPart_towers_cores s p).1,
          fun _ => sameCtxs_of_cores (landPart_towers_cores s p).2, ⟨rfl, rfl, rfl, rfl⟩, id⟩
        have hcount : partCount ({ l with parts := ps } :: r) + 1 = partCount k.landing := by
          simp [hk, hl, partCount]
          omega
        obtain ⟨hlands, hnil⟩ := ih _ (payRows unit ({ l with parts := ps } :: r) (s.landPart p) k).2
          (by rw [hleft, partCount_dropWhile]; omega) (by rw [hleft, List.dropWhile_idempotent])
        exact ⟨(hpart.trans hpaid).trans hlands, hnil⟩

/-- Everything on its way lands, or the command stops at a lock and drops it. -/
theorem landRows_lands (unit : Nat) (s : State) (k : Cmd) :
    Lands s k (landRows s unit k).1 (landRows s unit k).2 ∧ (landRows s unit k).2.landing = [] := by
  obtain ⟨hpaid, hleft⟩ := payRows_lands unit k.landing s k
  obtain ⟨hlands, hnil⟩ := landParts_lands unit k.pending.length (payRows unit k.landing s k).1 (payRows unit k.landing s k).2
    (by rw [hleft, partCount_dropWhile, length_pending]) (by rw [hleft, List.dropWhile_idempotent])
  exact ⟨hpaid.trans hlands, hnil⟩

/-! The run of a posting-list command -/

theorem sameBadgers_foldl_correct (l : List Piece) (s : State) :
    SameBadgers s (l.foldl (fun (s : State) p => s.correct p.pa p.len) s) :=
  sameBadgers_foldl _ (fun _ _ => sameBadgers_of_towers (towers_correct _ _ _)) l s

theorem sameCtxs_foldl_correct (l : List Piece) (s : State) : SameCtxs s (l.foldl (fun (s : State) p => s.correct p.pa p.len) s) :=
  sameCtxs_foldl _ (fun _ _ => sameCtxs_of_cores (cores_correct _ _ _)) l s

theorem finishRun_lands (s : State) (k : Cmd) : Lands s k (finishRun s k).1 (finishRun s k).2 ∧ (finishRun s k).2.read = true :=
  ⟨⟨sameBadgers_foldl_correct _ s, fun _ => sameCtxs_foldl_correct _ s, ⟨rfl, rfl, rfl, rfl⟩, fun _ => rfl⟩, rfl⟩

/-! The end of a command -/

theorem and_not_bit_of_clear {w : BitVec 32} {d : Nat} (h : w.getLsbD d = false) : w &&& ~~~(1#32 <<< d) = w := by
  refine BitVec.eq_of_getLsbD_eq fun j hj => ?_
  by_cases hjd : j = d
  · simp [hjd, h]
  · have hne : j < d ∨ ¬ j - d = 0 := by omega
    simp [hj, hne]

/-- A command ends in a state whose context is as it was: its token completes, and cp is one lower (R61, R64, R119). -/
theorem completed_completeCmd {s u : State} {k k' : Cmd} (hi : SameIssue k k') (h : u.ctx k.core k.ctx = s.ctx k.core k.ctx) :
    Completed s (u.completeCmd k') k := by
  obtain ⟨hcore, hctx, htok, -⟩ := hi
  rw [Completed, State.completeCmd, hcore, hctx, htok, State.endToken]
  by_cases h0 : k.tok = 0
  · simp [h0, h]
  · cases hb : (s.ctx k.core k.ctx).tokens.getLsbD k.tok with
    | true => simp [h0, h, State.completeToken, bit, hb]
    | false =>
      simp [h0, h, State.completeToken, bit, hb, and_not_bit_of_clear hb]

theorem completeCmd_frame (s : State) (k : Cmd) : s.completeCmd k = { s with cores := (s.completeCmd k).cores } := by
  unfold State.completeCmd State.endToken
  split <;> rfl

theorem badger_completeCmd (s : State) (k : Cmd) (b : Nat) : (s.completeCmd k).badger b = s.badger b := by
  rw [completeCmd_frame]; rfl

/-- The running command runs to its end: its results land, its credit is made, its engine is free (R258). -/
theorem badgerComplete_ends {s : State} {e : Nat} {k : Cmd} (he : e < numBadgers) (hr : (s.badger e).running = some k) :
    ∃ u, exec (.badgerComplete (e, 0)) s = .next u ∧ u.last = .issued ∧ u.badger e = { s.badger e with running := none } ∧
      (ccBaren k.ccb = false → Completed s u k) := by
  obtain ⟨v, kv, hrun, hlands, hread⟩ : ∃ v kv, (if k.read then (s, k) else finishRun s k) = (v, kv) ∧ Lands s k v kv ∧ kv.read = true := by
    cases h : k.read with
    | true => exact ⟨s, k, rfl, .refl s k, h⟩
    | false => exact ⟨_, _, rfl, finishRun_lands s k⟩
  obtain ⟨hrows, hnil⟩ := landRows_lands (0x20 + e % 2) v kv
  have hall := hlands.trans hrows
  have hexec : exec (.badgerComplete (e, 0)) s =
      happened (putBadger (landRows v (0x20 + e % 2) kv).1 e (landRows v (0x20 + e % 2) kv).2) := by
    show execBadgerComplete (e, 0) s = _
    simp only [execBadgerComplete, if_neg (Nat.not_le.mpr he), hr, hrun]
  have hput : putBadger (landRows v (0x20 + e % 2) kv).1 e (landRows v (0x20 + e % 2) kv).2 =
      ((landRows v (0x20 + e % 2) kv).1.setBadger e { s.badger e with running := none }).completeCmd (landRows v (0x20 + e % 2) kv).2 := by
    have hk : (landRows v (0x20 + e % 2) kv).2.read = true := hrows.read hread
    rw [putBadger, hk, hnil, hall.badgers e]
    rfl
  refine ⟨_, hexec, rfl, ?_, fun hb => ?_⟩
  · rw [hput]
    exact (badger_completeCmd _ _ _).trans (badger_setBadger_self _ _ _)
  · rw [hput]
    exact completed_completeCmd (u := (landRows v (0x20 + e % 2) kv).1.setBadger e { s.badger e with running := none }) hall.issue
      (hall.ctxs hb k.core k.ctx)

/-! Ends without a barrier -/

@[simp] theorem copyEngine_setCopyEngine_self (s : State) (e : Nat) (g : Engine) : (s.setCopyEngine e g).copyEngine e = g := by
  unfold State.copyEngine State.setCopyEngine
  split <;> simp [State.modTower]

theorem setCopyEngine_frame (s : State) (e : Nat) (g : Engine) : s.setCopyEngine e g = { s with towers := (s.setCopyEngine e g).towers } := by
  unfold State.setCopyEngine
  split <;> rfl

theorem payCredits_nil (unit : Nat) (s : State) {k : Cmd} (h : k.credits = []) : payCredits unit k.credits s k = (s, k) := by
  rw [h, payCredits]
  cases k
  subst h
  rfl

/-- A command that lands in no ring, has nothing on its way and moves no watermark. -/
structure Quieted (k : Cmd) : Prop where
  slots : k.slots = []
  lands : k.lands = []
  landing : k.landing = []
  credits : k.credits = []
  wmen : ccWmen k.ccb = false

section
variable {s : State} {e : Nat} {k : Cmd} (hq : Quieted k)
include hq

theorem exec_copyComplete (he : e < numCopyEngines) (hr : (s.copyEngine e).running = some k) (hg : k.gathered = true) :
    exec (.copyComplete e) s = happened (((lastCredit s (copyUnit e) k k.total).setCopyEngine e
      { s.copyEngine e with running := none }).completeCmd k) := by
  have hf : k.flushed = true := by simp [Cmd.flushed, hq.landing, hq.lands]
  show execCopyComplete e s = _
  simp only [execCopyComplete, if_neg (Nat.not_le.mpr he), hr, hg, hf, payCredits_nil _ _ hq.credits, State.endWm, State.modWm, hq.wmen,
    State.dropInsts, hq.slots]
  rfl

theorem exec_hareJobEnd (he : e < 4) (hr : (s.hare e).running = some k) (hj : k.jobRead = true) (hb : ccBaren k.ccb = false) :
    exec (.hareJobEnd e) s = happened ((s.setHare e { s.hare e with running := none }).completeCmd k) := by
  have hf : k.flushed = true := by simp [Cmd.flushed, hq.landing, hq.lands]
  show execHareJobEnd e s = _
  simp only [execHareJobEnd, if_neg (Nat.not_le.mpr he), hr, hj, hf, payCredits_nil _ _ hq.credits, creditCmd_of_no_barrier hb,
    State.endWm, State.modWm, hq.wmen, State.dropInsts, hq.slots]
  cases k.error <;> rfl

/-- A copy ends behind its last credit: its engine is free, and its token complete. -/
theorem copyComplete_frees (he : e < numCopyEngines) (hr : (s.copyEngine e).running = some k) (hg : k.gathered = true)
    (hb : ccBaren k.ccb = false) :
    ∃ u, exec (.copyComplete e) s = .next u ∧ SameMem s u ∧ u.copyEngine e = { s.copyEngine e with running := none } ∧ Completed s u k := by
  have hlast : lastCredit s (copyUnit e) k k.total = s := by
    unfold lastCredit
    simp only [creditCmd_of_no_barrier hb, ite_self]
    split <;> rfl
  refine ⟨_, (exec_copyComplete hq he hr hg).trans (by rw [hlast]; rfl), ?_, ?_, ?_⟩
  · intro a
    rw [completeCmd_frame, setCopyEngine_frame]
    rfl
  · rw [completeCmd_frame]
    exact copyEngine_setCopyEngine_self s e _
  · refine completed_completeCmd (u := s.setCopyEngine e { s.copyEngine e with running := none }) ⟨rfl, rfl, rfl, rfl⟩ ?_
    rw [setCopyEngine_frame]
    rfl

theorem hareJobEnd_frees (he : e < 4) (hr : (s.hare e).running = some k) (hj : k.jobRead = true) (hb : ccBaren k.ccb = false) :
    ∃ u, exec (.hareJobEnd e) s = .next u ∧ SameMem s u ∧ u.hare e = { s.hare e with running := none } ∧ Completed s u k := by
  refine ⟨_, exec_hareJobEnd hq he hr hj hb, ?_, ?_,
    completed_completeCmd (u := s.setHare e { s.hare e with running := none }) ⟨rfl, rfl, rfl, rfl⟩ rfl⟩
  · intro a
    rw [completeCmd_frame]
    rfl
  · rw [completeCmd_frame]
    exact Tab.get_set_self _ _ _ _

end

/-! Sends -/

section
variable {s : State} {q : Nat} {k : Cmd} {r : List Cmd} (hb : ccBaren k.ccb = false)
include hb

theorem payNet_of_no_barrier (cs : List (List Nat)) (u : State) : (payNet cs u k).1 = u := by
  induction cs generalizing u with
  | nil => rfl
  | cons c cs ih =>
    rw [payNet, creditNet_of_no_barrier hb]
    exact ih u

theorem endSend_of_no_barrier {u : State} (hp : u.savedTask k = none) : endSend u k = u.completeCmd k := by
  have hcredit : endSend u k = u.completeNet k := by
    simp only [endSend, payNet_of_no_barrier hb, creditNet_of_no_barrier hb, ite_self]
    cases k.error <;> rfl
  rw [hcredit, State.completeNet, hp]

variable (hs : (s.sendq q).sends = k :: r) (hp : s.savedTask k = none) (hq : q < numSendQueues)
include hs hp hq

/-- An acknowledged send ends (R330, R378). -/
theorem npostSendComplete_ends (ho : k.out = true) (hu : ∀ j ∈ r, j.id ≠ k.id) :
    ∃ u, exec (.npostSendComplete q) s = .next u ∧ SameMem s u ∧ (u.sendq q).sends = r ∧ Completed s u k := by
  have hfind : (s.sendq q).sends.find? Cmd.out = some k := by rw [hs, List.find?_cons_of_pos ho]
  have hput : ((s.sendq q).putSend k.id none).sends = r := by
    simp only [SendQ.putSend, hs]
    rw [List.filter_cons_of_neg (by simp), List.filter_eq_self]
    simpa using hu
  have hexec : exec (.npostSendComplete q) s = happened ((s.setSendq q ((s.sendq q).putSend k.id none)).completeCmd k) := by
    show execNpostSendComplete q s = _
    simp only [execNpostSendComplete, if_neg (Nat.not_le.mpr hq), hfind,
      endSend_of_no_barrier hb (u := s.setSendq q ((s.sendq q).putSend k.id none)) hp]
  refine ⟨_, hexec, fun a => ?_, ?_,
    completed_completeCmd (u := s.setSendq q ((s.sendq q).putSend k.id none)) ⟨rfl, rfl, rfl, rfl⟩ rfl⟩
  · rw [completeCmd_frame]
    rfl
  · rw [completeCmd_frame]
    exact (congrArg SendQ.sends (sendq_setSendq_self _ _ _)).trans hput

/-- An abandoned send ends, and its queue and peer are logged (R263). -/
theorem netSendAbandon_ends {sent : Nat} (hsent : sent ≤ k.sendTotal) :
    ∃ u, exec (.netSendAbandon q sent) s = .next u ∧ SameMem s u ∧ (u.sendq q).sends = r ∧ Completed s u k ∧
      u.mgmt = { s.mgmt with errlog := s.mgmt.errlog ++ [.sendAbandoned q (s.sendq q).peer] } := by
  let u := (s.setSendq q { s.sendq q with sends := r }).logError (.sendAbandoned q (s.sendq q).peer)
  have hnet : u.completeNet k = u.completeCmd k := by
    have hu : u.savedTask k = none := hp
    rw [State.completeNet, hu]
  have hexec : exec (.netSendAbandon q sent) s = happened (u.completeCmd k) := by
    show execNetSendAbandon q sent s = _
    simp only [execNetSendAbandon, if_neg (Nat.not_le.mpr hq), hs, if_neg (Nat.not_lt.mpr hsent), creditNet_of_no_barrier hb]
    exact congrArg happened hnet
  refine ⟨_, hexec, fun a => ?_, ?_, completed_completeCmd (u := u) ⟨rfl, rfl, rfl, rfl⟩ rfl, ?_⟩
  · rw [completeCmd_frame]
    rfl
  · rw [completeCmd_frame]
    exact congrArg SendQ.sends (sendq_setSendq_self s q { s.sendq q with sends := r })
  · rw [completeCmd_frame]
    rfl

end

/-! The barrier of a command that stops on a fault (R115, R120) -/

theorem Machine.Memory.cells_add (m n : Nat) (a v : Nat) :
    Memory.cells a (m + n) v = Memory.cells a m v ++ Memory.cells (a + m) n (v >>> (8 * m)) := by
  induction m generalizing a v with
  | zero => simp [Memory.cells]
  | succ m ih =>
    have hshift : v >>> 8 >>> (8 * m) = v >>> (8 * (m + 1)) := by rw [← Nat.shiftRight_add]; congr 1; omega
    rw [Nat.add_right_comm, Memory.cells, Memory.cells, ih, hshift, Nat.add_assoc a 1 m, Nat.add_comm 1 m]
    split <;> rfl

/-- A part of a number that has been written is read back (R1). -/
theorem Machine.Memory.read_write_part (l : List Host.Cell) {a n v j m : Nat} (h : j + m ≤ n) :
    Memory.read (Memory.write l a n v) (a + j) m = (v >>> (8 * j)) % 2 ^ (8 * m) := by
  obtain ⟨r, rfl⟩ := Nat.exists_eq_add_of_le h
  have hlow : ∀ c ∈ l.filter (fun c => decide (c.1 < a)), ¬ (a + j ≤ c.1 ∧ c.1 < a + j + m) := fun c hc => by
    have := (List.mem_filter.mp hc).2
    simp only [decide_eq_true_eq] at this
    omega
  have hhigh : ∀ c ∈ l.filter (fun c => decide (a + (j + m + r) ≤ c.1)), ¬ (a + j ≤ c.1 ∧ c.1 < a + j + m) := fun c hc => by
    have := (List.mem_filter.mp hc).2
    simp only [decide_eq_true_eq] at this
    omega
  have hbefore : ∀ c ∈ Memory.cells a j v, ¬ (a + j ≤ c.1 ∧ c.1 < a + j + m) := fun c hc => by
    have := Memory.cells_range j a v c hc
    omega
  have hafter : ∀ c ∈ Memory.cells (a + (j + m)) r (v >>> (8 * (j + m))), ¬ (a + j ≤ c.1 ∧ c.1 < a + j + m) := fun c hc => by
    have := Memory.cells_range r _ _ c hc
    omega
  rw [Memory.write, Memory.cells_add (j + m) r, Memory.cells_add j m, Memory.read_append, Memory.read_append, Memory.read_append,
    Memory.read_append, Memory.read_none _ _ _ hlow, Memory.read_none _ _ _ hbefore, Memory.read_none _ _ _ hafter,
    Memory.read_none _ _ _ hhigh, Memory.read_cells]
  omega

theorem word_writeWords (s : State) (a : Nat) (ws : List Word) {j : Nat} (hj : j < ws.length) :
    (s.writeWords a ws).word (a + 8 * j) = nth ws j := by
  have hread : (s.writeWords a ws).readMem (a + 8 * j) 8 = (joinNat 64 (ws.map BitVec.toNat) >>> (64 * j)) % 2 ^ 64 := by
    rw [State.readMem, State.writeWords, State.writeMem, Memory.read_write_part s.mem (by omega), ← Nat.mul_assoc]
  rw [State.word, hread, joinNat_get, nth]
  apply BitVec.eq_of_toNat_eq
  simpa [hj] using ws[j].isLt

theorem byte_writeWords_outside (s : State) (pa : Nat) (ws : List Word) {a : Nat} (h : a < pa ∨ pa + 8 * ws.length ≤ a) :
    (s.writeWords pa ws).byte a = s.byte a := State.byte_writeMem_outside s _ _ _ _ h

/-- The words of a barrier as they are written back (R117, R118). -/
def barWords (b : Bar) : List Word :=
  [BitVec.ofNat 64 (b.expected + bnat b.phase <<< 48 + bnat b.armed <<< 49), BitVec.ofNat 64 b.arrived, b.bind0, b.bind1,
    BitVec.ofNat 64 (b.status.toNat + b.stop.toNat <<< 32)]

theorem putBar_eq (s : State) (pa : Nat) (b : Bar) : s.putBar pa b = s.writeWords pa (barWords b) := rfl

/-! What is read back of a barrier that has been written, of the fields that a credit changes. -/

theorem bar_putBar_arrived (s : State) (pa : Nat) (b : Bar) (h : b.arrived < 2 ^ 48) : ((s.putBar pa b).bar pa).arrived = b.arrived := by
  have hw : (s.putBar pa b).word (pa + 8) = BitVec.ofNat 64 b.arrived := word_writeWords s pa (barWords b) (j := 1) (by simp [barWords])
  show bits ((s.putBar pa b).word (pa + 8)) 47 0 = _
  rw [hw]
  simp [bits]
  omega

theorem word_putBar_status (s : State) (pa : Nat) (b : Bar) :
    (s.putBar pa b).word (pa + 32) = BitVec.ofNat 64 (b.status.toNat + b.stop.toNat <<< 32) :=
  word_writeWords s pa (barWords b) (j := 4) (by simp [barWords])

theorem bar_putBar_status (s : State) (pa : Nat) (b : Bar) (h : b.status.toNat < 2 ^ 29) : ((s.putBar pa b).bar pa).status = b.status := by
  show BitVec.ofNat 32 (bits ((s.putBar pa b).word (pa + 32)) 28 0) = _
  rw [word_putBar_status]
  apply BitVec.eq_of_toNat_eq
  simp [bits, Nat.shiftLeft_eq]
  omega

theorem bar_putBar_stop (s : State) (pa : Nat) (b : Bar) : ((s.putBar pa b).bar pa).stop = b.stop := by
  show BitVec.ofNat 32 (bits ((s.putBar pa b).word (pa + 32)) 63 32) = _
  rw [word_putBar_status]
  apply BitVec.eq_of_toNat_eq
  have hstatus := b.status.isLt
  have hstop := b.stop.isLt
  simp [bits, Nat.shiftLeft_eq, Nat.shiftRight_eq_div_pow]
  omega

/-- A barrier with a credit, before it settles (R120). -/
def credited (b : Bar) (n unit code flags stop : Nat) : Bar :=
  let b := { b with arrived := min (b.arrived + n) (2 ^ 48 - 1) }
  let b := if code ≠ 0 then b.report code unit stop true else b
  { b with status := b.status ||| BitVec.ofNat 32 ((flags % 32) <<< 24) }

theorem armed_credited (b : Bar) (n unit code flags stop : Nat) : (credited b n unit code flags stop).armed = b.armed := by
  unfold credited Bar.report
  dsimp only
  split <;> rfl

theorem arrived_credited (b : Bar) (n unit code flags stop : Nat) :
    (credited b n unit code flags stop).arrived = min (b.arrived + n) (2 ^ 48 - 1) := by
  unfold credited Bar.report
  dsimp only
  split <;> rfl

theorem arrived_credited_of_room {b : Bar} {n : Nat} (h : b.arrived + n < 2 ^ 48) (unit code flags stop : Nat) :
    (credited b n unit code flags stop).arrived = b.arrived + n := by
  rw [arrived_credited]
  exact Nat.min_eq_left (Nat.le_sub_one_of_lt h)

/-- A barrier that is not armed takes a credit and does not fire. -/
theorem credit_of_unarmed {s : State} {q off : Nat} (h : (s.bar (barAddr q off)).armed = false) (n unit code flags stop : Nat) :
    s.credit q off n unit code flags stop =
      (s.readBar q off).putBar (barAddr q off) (credited (s.bar (barAddr q off)) n unit code flags stop) := by
  have hbar : (s.readBar q off).bar (barAddr q off) = s.bar (barAddr q off) := by
    simp only [State.bar, State.word, State.readMem, State.readBar, mem_correct]
  have hcredit : s.credit q off n unit code flags stop =
      (s.readBar q off).settleBar q off (credited ((s.readBar q off).bar (barAddr q off)) n unit code flags stop) := rfl
  rw [hcredit, hbar, State.settleBar, settle, armed_credited, h]
  rfl

section
variable {b : Bar} {n unit code flags stop : Nat} (hc : b.code = 0) (h0 : 0 < code)
include hc h0

/-- The first report of a barrier writes its code, its unit and its place, and counts itself (R118, R120). -/
theorem status_credited : (credited b n unit code flags stop).status =
    BitVec.ofNat 32 (bits b.status 28 24 <<< 24 + unit <<< 16 + min (b.count + 1) 255 <<< 8 + code) ||| BitVec.ofNat 32 ((flags % 32) <<< 24) := by
  have hb : bits b.status 7 0 = 0 := hc
  simp [credited, Nat.pos_iff_ne_zero.mp h0, Bar.report, Bar.code, Bar.count, hb]

theorem stop_credited : (credited b n unit code flags stop).stop = BitVec.ofNat 32 stop := by
  have hb : bits b.status 7 0 = 0 := hc
  simp [credited, Nat.pos_iff_ne_zero.mp h0, Bar.report, Bar.code, hb]

variable (hcode : code < 256) (hunit : unit < 256) (hflags : flags < 32)
include hcode hunit hflags

theorem toNat_status_credited : (credited b n unit code flags stop).status.toNat =
    (2 ^ 24 * bits b.status 28 24 + 2 ^ 16 * unit + 2 ^ 8 * min (b.count + 1) 255 + code) ||| (2 ^ 24 * flags) := by
  have ha : bits b.status 28 24 < 2 ^ 5 := Nat.mod_lt _ (by decide)
  have hn : min (b.count + 1) 255 ≤ 255 := Nat.min_le_right _ _
  rw [status_credited hc h0, BitVec.toNat_or, BitVec.toNat_ofNat, BitVec.toNat_ofNat]
  simp only [Nat.shiftLeft_eq]
  congr 1 <;> omega

theorem status_credited_lt : (credited b n unit code flags stop).status.toNat < 2 ^ 29 := by
  have ha : bits b.status 28 24 < 2 ^ 5 := Nat.mod_lt _ (by decide)
  have hn : min (b.count + 1) 255 ≤ 255 := Nat.min_le_right _ _
  rw [toNat_status_credited hc h0 hcode hunit hflags]
  exact Nat.or_lt_two_pow (by omega) (by omega)

theorem code_credited : (credited b n unit code flags stop).code = code := by
  rw [Bar.code, bits, toNat_status_credited hc h0 hcode hunit hflags, Nat.shiftRight_zero, Nat.or_mod_two_pow]
  rw [show (2 ^ 24 * flags) % 2 ^ (7 + 1 - 0) = 0 by omega, Nat.or_zero]
  omega

theorem unit_credited : bits (credited b n unit code flags stop).status 23 16 = unit := by
  have hn : min (b.count + 1) 255 ≤ 255 := Nat.min_le_right _ _
  rw [bits, toNat_status_credited hc h0 hcode hunit hflags, Nat.shiftRight_or_distrib, Nat.or_mod_two_pow]
  simp only [Nat.shiftRight_eq_div_pow]
  rw [show 2 ^ 24 * flags / 2 ^ 16 % 2 ^ (23 + 1 - 16) = 0 by omega, Nat.or_zero]
  omega

/-- What a reader of the barrier finds once its first fault has been reported (R118, R120). -/
theorem bar_putBar_credited (u : State) (pa : Nat) (hstop : stop < 2 ^ 32) (harr : b.arrived + n < 2 ^ 48) :
    let r := (u.putBar pa (credited b n unit code flags stop)).bar pa
    r.code = code ∧ bits r.status 23 16 = unit ∧ r.stop.toNat = stop ∧ r.arrived = b.arrived + n := by
  have hsum := arrived_credited_of_room harr unit code flags stop
  have hstatus := bar_putBar_status u pa _ (status_credited_lt (n := n) (stop := stop) hc h0 hcode hunit hflags)
  refine ⟨?_, ?_, ?_, ?_⟩
  · rw [Bar.code, hstatus]
    exact code_credited hc h0 hcode hunit hflags
  · rw [hstatus]
    exact unit_credited hc h0 hcode hunit hflags
  · rw [bar_putBar_stop, stop_credited hc h0, BitVec.toNat_ofNat, Nat.mod_eq_of_lt hstop]
  · rw [bar_putBar_arrived u pa _ (hsum ▸ harr), hsum]

end

theorem copyUnit_lt (e : Nat) : copyUnit e < 256 := by
  unfold copyUnit
  split <;> omega

section
variable {s : State} {e : Nat} {k : Cmd} {code flags stop : Nat} (hq : Quieted k) (he : e < numCopyEngines)
  (hr : (s.copyEngine e).running = some k) (herr : k.error = some (code, flags, stop)) (hb : ccBaren k.ccb = true) (hm : ccMcast k.ccb = 0)
  (harmed : (s.bar (barAddr (pairOf k.core) (ccBaroff k.ccb))).armed = false)
include hq he hr herr hb hm harmed

/-- A copy that stops on a fault tells its barrier (R115): the code, the engine, the row, and the bytes that it has not delivered. -/
theorem exec_copyComplete_reports :
    exec (.copyComplete e) s = happened ((((s.readBar (pairOf k.core) (ccBaroff k.ccb)).putBar (barAddr (pairOf k.core) (ccBaroff k.ccb))
      (credited (s.bar (barAddr (pairOf k.core) (ccBaroff k.ccb))) (k.total - k.landed) (copyUnit e) code flags stop)).setCopyEngine e
        { s.copyEngine e with running := none }).completeCmd k) := by
  have hpairs : targetPairs k.core 0 = [pairOf k.core] := by simp [targetPairs, targetCores]
  have hlast : lastCredit s (copyUnit e) k k.total =
      s.credit (pairOf k.core) (ccBaroff k.ccb) (k.total - k.landed) (copyUnit e) code flags stop := by
    simp [lastCredit, herr, State.creditCmd, hb, hm, hpairs]
  rw [exec_copyComplete hq he hr (by simp [Cmd.gathered, herr]), hlast, credit_of_unarmed harmed]

theorem copyComplete_reports :
    ∃ u, exec (.copyComplete e) s = .next u ∧ SameMemBut s u (barAddr (pairOf k.core) (ccBaroff k.ccb)) 40 ∧ Completed s u k ∧
      u.bar (barAddr (pairOf k.core) (ccBaroff k.ccb)) =
        ((s.readBar (pairOf k.core) (ccBaroff k.ccb)).putBar (barAddr (pairOf k.core) (ccBaroff k.ccb))
          (credited (s.bar (barAddr (pairOf k.core) (ccBaroff k.ccb))) (k.total - k.landed) (copyUnit e) code flags stop)).bar
            (barAddr (pairOf k.core) (ccBaroff k.ccb)) := by
  refine ⟨_, exec_copyComplete_reports hq he hr herr hb hm harmed, ?_⟩
  generalize credited (s.bar (barAddr (pairOf k.core) (ccBaroff k.ccb))) (k.total - k.landed) (copyUnit e) code flags stop = b
  generalize barAddr (pairOf k.core) (ccBaroff k.ccb) = pa
  refine ⟨fun a ha => ?_, ?_, ?_⟩
  · rw [completeCmd_frame, setCopyEngine_frame]
    exact (byte_writeWords_outside _ pa (barWords b) ha).trans (congrArg (fun m => Memory.byte m a) (mem_correct s _ _))
  · refine completed_completeCmd (u := State.setCopyEngine _ e _) ⟨rfl, rfl, rfl, rfl⟩ ?_
    rw [setCopyEngine_frame]
    exact sameCtxs_of_cores (cores_correct s _ _) k.core k.ctx
  · rw [completeCmd_frame, setCopyEngine_frame]
    rfl

end

/-- Settles O48: the ends of commands, engine by engine. -/
theorem commandsComplete : Obligations.CommandsComplete := by
  unfold Obligations.CommandsComplete
  intro s e k r sent code flags stop quiet pa old v
  have hquiet (h : quiet) : Quieted k := by
    obtain ⟨hs, hl, hg, hc, hw⟩ := h
    exact ⟨hs, hl, hg, hc, hw⟩
  refine ⟨fun he hr hg hq hb => copyComplete_frees (hquiet hq) he hr hg hb, ?_,
    fun he hr hj hq hb => hareJobEnd_frees (hquiet hq) he hr hj hb, fun he hr => badgerComplete_ends he hr,
    fun he hv ho hu hb hp => npostSendComplete_ends hb hv hp he ho hu, fun he hv hb hp hs => netSendAbandon_ends hb hv hp he hs⟩
  intro he hr hq herr hb hm harmed hcode h0 hlt hflags hstop harr
  obtain ⟨u, hu, hmem, hdone, hbar⟩ := copyComplete_reports (hquiet hq) he hr herr hb hm harmed
  obtain ⟨hwcode, hwunit, hwstop, hwarr⟩ := bar_putBar_credited hcode h0 hlt (copyUnit_lt e) hflags
    (s.readBar (pairOf k.core) (ccBaroff k.ccb)) pa hstop harr
  rw [← hbar] at hwcode hwunit hwstop hwarr
  exact ⟨u, hu, hmem, hdone, hwcode, hwunit, hwstop, hwarr⟩

end Sys2Proof
end

section
/-! Spans of the matrix engine: MSPAN, MEND and the beats of an aborted span (R167, R168, R172, R173). First what the opening and the closing
of a span change in a core; then what the members of a gang do when the MEND issues in them. -/

namespace Sys2Proof

open Machine

section
variable {s : State}

theorem fcore_of_focus {t : State} (h : t.focus = s.focus) : t.fcore = t.core s.focus.core := congrArg (fun f : Focus => t.core f.core) h

theorem fctx_of_focus {t : State} (h : t.focus = s.focus) : t.fctx = t.ctx s.focus.core s.focus.ctx := congrArg (fun f : Focus => t.ctx f.core f.ctx) h

/-! The core of a span that opens or closes -/

theorem core_modCtx_self (c x : Nat) (f : Ctx → Ctx) : (s.modCtx c x f).core c = (s.core c).setCtx x (f (s.ctx c x)) := State.core_setCore_self _ _ _

theorem core_modCtx_ne {c d : Nat} (x : Nat) (f : Ctx → Ctx) (h : d ≠ c) : (s.modCtx c x f).core d = s.core d := State.core_setCore_ne _ _ _ _ h

theorem core_closeSpan_self (c x : Nat) : (s.closeSpan (c, x)).core c =
    { s.core c with arr := { (s.core c).arr with owner := none } }.setCtx x { s.ctx c x with span := none } := by
  rw [State.closeSpan, core_modCtx_self, State.ctx, core_modCore_self]
  rfl

theorem core_closeSpan_ne {c d : Nat} (x : Nat) (h : d ≠ c) : (s.closeSpan (c, x)).core d = s.core d := by
  rw [State.closeSpan, core_modCtx_ne x _ h, State.modCore, State.core_setCore_ne _ _ _ _ h]

theorem core_openSpan (c x : Nat) (sp : Span) : (s.openSpan c x sp).core c =
    { s.core c with arr := { (s.core c).arr with owner := some x } }.setCtx x { s.ctx c x with span := some sp, mdiscard := false } := by
  rw [State.openSpan, core_modCtx_self, State.ctx, core_modCore_self]
  rfl

theorem ctx_openSpan (c x : Nat) (sp : Span) : (s.openSpan c x sp).ctx c x = { s.ctx c x with span := some sp, mdiscard := false } := by
  rw [State.ctx, core_openSpan, Core.ctx_setCtx_self]

/-- Opening an entry of the span table changes the table alone. -/
theorem core_touchProf (c : Nat) (addr : Word) :
    (∃ p, (s.touchProf c addr).core c = { s.core c with prof := p }) ∧ (s.touchProf c addr).focus = s.focus := by
  unfold State.touchProf
  dsimp only
  split
  · exact ⟨⟨_, core_modCore_self _ _ _⟩, rfl⟩
  · split
    · exact ⟨⟨_, core_modCore_self _ _ _⟩, rfl⟩
    · split
      · exact ⟨⟨_, by rw [core_modCore_self, core_profRecord]⟩, focus_traceRecord _ _ _ _ _⟩
      · exact ⟨⟨_, core_modCore_self _ _ _⟩, rfl⟩

/-! MSPAN -/

theorem ownedByOther_eq_false_iff (k : Core) (x : Nat) : k.ownedByOther x = false ↔ ∀ y, k.arr.owner = some y → y = x := by
  unfold Core.ownedByOther
  cases k.arr.owner <;> simp

/-- The span that an MSPAN outside record mode opens. -/
def plainSpan (s : State) (shape : Word) : Span :=
  { addr := s.focus.addr, seq := s.focus.seq, shape := shape, gang := none, beat := 0, record := none }

theorem exec_mspan (r : BitVec 6) (hs : bits (s.sOp r) 63 55 = 0) (hsp : s.fctx.span = none)
    (hfree : s.fcore.ownedByOther s.focus.ctx = false) (hrec : s.recordsNow = false) (hmx : s.fctx.mx < 2) :
    exec (.mspan r) s = finish s (.done (((s.openSpan s.focus.core s.focus.ctx (plainSpan s (s.sOp r))).modF
      (fun t => { t with mx := t.mx + 1 })).touchProf s.focus.core s.focus.addr)) := by
  show execMspan r s = _
  simp only [execMspan, openRecord, hs, hsp, hfree, hrec, Nat.not_le.mpr hmx]
  rfl

theorem mspan_opens (r : BitVec 6) (hs : bits (s.sOp r) 63 55 = 0) (hsp : s.fctx.span = none)
    (hfree : ∀ x, s.fcore.arr.owner = some x → x = s.focus.ctx) (hrec : s.recordsNow = false) (hmx : s.fctx.mx < 2) :
    ∃ t, exec (.mspan r) s = .next t ∧ t.last = .issued ∧ t.fcore.arr = { s.fcore.arr with owner := some s.focus.ctx } ∧
      t.fctx = { s.fctx with span := some (plainSpan s (s.sOp r)), mdiscard := false, mx := s.fctx.mx + 1 } ∧
      t.fcore.acc = s.fcore.acc ∧ t.fcore.vregs = s.fcore.vregs := by
  refine ⟨_, exec_mspan r hs hsp ((ownedByOther_eq_false_iff _ _).mpr hfree) hrec hmx, rfl, ?_⟩
  generalize hu : (s.openSpan s.focus.core s.focus.ctx (plainSpan s (s.sOp r))).modF (fun t => { t with mx := t.mx + 1 }) = u
  obtain ⟨n, hcore⟩ : ∃ n, u.core s.focus.core = { s.fcore with arr := { s.fcore.arr with owner := some s.focus.ctx }, ctxs := n } := by
    rw [← hu]
    exact ⟨_, (core_modCtx_self s.focus.core s.focus.ctx _).trans (by rw [core_openSpan]; rfl)⟩
  have hctx : u.ctx s.focus.core s.focus.ctx =
      { s.fctx with span := some (plainSpan s (s.sOp r)), mdiscard := false, mx := s.fctx.mx + 1 } := by
    rw [← hu]
    refine (ctx_modCtx_self _ _ _ _).trans ?_
    exact congrArg (fun t : Ctx => { t with mx := t.mx + 1 }) (ctx_openSpan _ _ _)
  have hfocus : u.focus = s.focus := by rw [← hu]; rfl
  obtain ⟨⟨p, hp⟩, hf⟩ := core_touchProf (s := u) s.focus.core s.focus.addr
  rw [hfocus] at hf
  have hfc : ({ u.touchProf s.focus.core s.focus.addr with last := .issued } : State).fcore = { u.core s.focus.core with prof := p } :=
    (fcore_of_focus hf).trans hp
  have hfx : ({ u.touchProf s.focus.core s.focus.addr with last := .issued } : State).fctx = u.ctx s.focus.core s.focus.ctx :=
    (fctx_of_focus hf).trans (show Core.ctx _ _ = _ by rw [hp]; rfl)
  rw [hfc, hfx, hcore]
  exact ⟨rfl, hctx, rfl, rfl⟩

theorem mspan_illegal (r : BitVec 6) (h : bits (s.sOp r) 63 55 ≠ 0 ∨ s.fctx.span.isSome) : Traps (.mspan r) s cILLOP 0 0 := by
  refine traps_of_finish ?_
  show execMspan r s = _
  rw [execMspan, if_pos (by simpa using h)]

theorem mspan_owned (r : BitVec 6) (hs : bits (s.sOp r) 63 55 = 0) (hsp : s.fctx.span = none)
    (h : ¬ ∀ x, s.fcore.arr.owner = some x → x = s.focus.ctx) : Traps (.mspan r) s cPERM 0 0 := by
  have ho : s.fcore.ownedByOther s.focus.ctx = true := by
    rw [← Bool.not_eq_false, ownedByOther_eq_false_iff]; exact h
  refine traps_of_finish ?_
  show execMspan r s = _
  rw [execMspan, if_neg (by simp [hs, hsp]), if_pos ho]

/-! MEND of a span that is not ganged -/

/-- The span of the focus waits for its retirement (R168). -/
def retired (s : State) (r : Retiring) : State := s.modFCore (fun k => { k with retiring := k.retiring ++ [r] })

theorem ctx_arr_retired (s : State) (r : Retiring) (c x : Nat) :
    (retired s r).ctx c x = s.ctx c x ∧ ((retired s r).core c).arr = (s.core c).arr := by
  refine ⟨sameCtxs_modCore s s.focus.core rfl c x, ?_⟩
  by_cases h : c = s.focus.core
  · rw [h]
    exact (congrArg Core.arr (State.core_setCore_self _ _ _)).trans rfl
  · exact congrArg Core.arr (State.core_setCore_ne _ _ _ _ h)

theorem exec_mend_plain (h : InPlainSpan s) : exec .mend s =
    match mendIn s s.focus.core s.focus.ctx with
    | .done s' => finish s (Res.bind (closeRecord s') (fun s' => .done (retired (s'.closeSpan (s.focus.core, s.focus.ctx))
        { ctx := s.focus.ctx, gang := none, ready := [(s.focus.core, s.fcore.drain)] })))
    | b => finishBeat s b := by
  obtain ⟨hm, sp, hsp, hg, -⟩ := h
  show execMend s = _
  rw [execMend, if_neg (by simp [hm])]
  simp only [hsp, hg]
  rfl

section
variable {c x : Nat}

theorem mendIn_done (hi : (s.core c).arr.inflight = []) (hl : (s.core c).arr.latch = []) (hq : (s.core c).arr.scaleq = []) :
    mendIn s c x = .done s := by simp [mendIn, hi, hl, hq]

theorem mendIn_latched (h : (s.core c).arr.inflight ≠ [] ∨ (s.core c).arr.latch ≠ []) : mendIn s c x = .trap s cLATCHOVF 0 0 :=
  if_pos (by simpa [imp_iff_not_or] using h)

theorem mendIn_queued (hi : (s.core c).arr.inflight = []) (hl : (s.core c).arr.latch = []) (hq : (s.core c).arr.scaleq ≠ []) :
    mendIn s c x = .trap s cQIMB 0 0 := by simp [mendIn, hi, hl, hq]

end

theorem mendIn_cases (s : State) (c x : Nat) : mendIn s c x = .done s ∨ ∃ code, mendIn s c x = .trap s code 0 0 := by
  unfold mendIn
  dsimp only
  split_ifs
  · exact .inr ⟨_, rfl⟩
  · exact .inr ⟨_, rfl⟩
  · exact .inl rfl

theorem closeRecord_of_unrecorded (h : s.fctx.recSpan = none) : closeRecord s = .done s := by
  unfold closeRecord
  dsimp only
  rw [h]
  cases s.fctx.span <;> rfl

theorem mend_closes (h : InPlainSpan s) (hi : s.fcore.arr.inflight = []) (hl : s.fcore.arr.latch = []) (hq : s.fcore.arr.scaleq = []) :
    ∃ t, exec .mend s = .next t ∧ t.last = .issued ∧ OnlyCore s t ∧ t.fctx = { s.fctx with span := none } ∧
      t.fcore.arr = { s.fcore.arr with owner := none } ∧
      t.fcore.retiring = s.fcore.retiring ++ [{ ctx := s.focus.ctx, gang := none, ready := [(s.focus.core, s.fcore.drain)] }] := by
  have hrec : closeRecord s = .done s := by
    obtain ⟨-, sp, hsp, -, hr⟩ := h
    exact closeRecord_of_unrecorded (by rw [Ctx.recSpan, hsp]; exact hr)
  have hexec := exec_mend_plain h
  rw [mendIn_done hi hl hq] at hexec
  simp only [hrec] at hexec
  generalize hr : ({ ctx := s.focus.ctx, gang := none, ready := [(s.focus.core, s.fcore.drain)] } : Retiring) = r at hexec ⊢
  have hcore : (retired (s.closeSpan (s.focus.core, s.focus.ctx)) r).core s.focus.core =
      { (s.closeSpan (s.focus.core, s.focus.ctx)).core s.focus.core with
        retiring := ((s.closeSpan (s.focus.core, s.focus.ctx)).core s.focus.core).retiring ++ [r] } := State.core_setCore_self _ _ _
  rw [core_closeSpan_self] at hcore
  refine ⟨_, hexec, rfl, ⟨rfl, fun d hd => ?_⟩, ?_, congrArg Core.arr hcore, congrArg Core.retiring hcore⟩
  · exact (State.core_setCore_ne _ _ _ _ hd).trans (core_closeSpan_ne _ hd)
  · exact (congrArg (fun k => Core.ctx k s.focus.ctx) hcore).trans (Core.ctx_setCtx_self _ _ _)

/-! MEND of a ganged span -/

/-- What the last steps of a ganged span leave as it was: memory, the focus, and the spans that wait for their retirement. -/
structure KeepsRetiring (s u : State) : Prop where
  mem : u.mem = s.mem
  focus : u.focus = s.focus
  retiring : ∀ c, (u.core c).retiring = (s.core c).retiring

theorem KeepsRetiring.refl (s : State) : KeepsRetiring s s := ⟨rfl, rfl, fun _ => rfl⟩

theorem KeepsRetiring.trans {s u v : State} (h : KeepsRetiring s u) (h' : KeepsRetiring u v) : KeepsRetiring s v :=
  ⟨h'.mem.trans h.mem, h'.focus.trans h.focus, fun c => (h'.retiring c).trans (h.retiring c)⟩

theorem keepsRetiring_setCore (s : State) (c : Nat) {k : Core} (h : k.retiring = (s.core c).retiring) : KeepsRetiring s (s.setCore c k) where
  mem := rfl
  focus := rfl
  retiring := fun d => by
    by_cases hd : d = c
    · rw [hd, State.core_setCore_self, h]
    · rw [State.core_setCore_ne _ _ _ _ hd]

theorem keepsRetiring_modCore (s : State) (c : Nat) {f : Core → Core} (h : ∀ k, (f k).retiring = k.retiring := by exact fun _ => rfl) :
    KeepsRetiring s (s.modCore c f) := keepsRetiring_setCore s c (h _)

theorem keepsRetiring_modCtx (s : State) (c x : Nat) (f : Ctx → Ctx) : KeepsRetiring s (s.modCtx c x f) := keepsRetiring_setCore s c rfl

theorem keepsRetiring_countBeat (s : State) : KeepsRetiring s s.countBeat := by
  unfold State.countBeat State.modF
  exact keepsRetiring_modCtx _ _ _ _

theorem keepsRetiring_closeSpan (s : State) (m : Nat × Nat) : KeepsRetiring s (s.closeSpan m) :=
  (keepsRetiring_modCore s m.1).trans (keepsRetiring_modCtx _ _ _ _)

theorem keepsRetiring_occupyBy (s : State) (c x : Nat) (o : QOp) : KeepsRetiring s (s.occupyBy c x o) := by
  unfold State.occupyBy
  dsimp only
  split
  · exact (keepsRetiring_modCore s c).trans (keepsRetiring_modCore _ c)
  · exact keepsRetiring_modCore s c

theorem retiring_foldl_launch (x : Nat) (old ready : Nat → Nat) (cover : Nat → Option Mask) (ns : List Nat) (k : Core) :
    (ns.foldl (fun k n => k.launch x n (old n) (k.clock + ready n) (cover n)) k).retiring = k.retiring := by
  induction ns generalizing k with
  | nil => rfl
  | cons n r ih => exact ih _

theorem keepsRetiring_launchBy (s : State) (c x : Nat) (o : QOp) (old : Core) : KeepsRetiring s (s.launchBy c x o old) :=
  keepsRetiring_setCore s c (retiring_foldl_launch x (fun n => old.res n) (fun _ => o.time.2) _ _ _)

theorem keepsRetiring_memberIssued (s : State) (i : Instr) (c x : Nat) (old : Core) : KeepsRetiring s (s.memberIssued i c x old) :=
  (keepsRetiring_occupyBy s c x _).trans (keepsRetiring_launchBy _ _ _ _ _)

/-- MEND in one member of the gang, the others with it: the member's core notes that it has issued. -/
def mendMember (s : State) (m : Nat × Nat) : State :=
  match mendIn s m.1 m.2 with
  | .done s' => if m = (s.focus.core, s.focus.ctx) then s' else s'.memberIssued .mend m.1 m.2 (s.core m.1)
  | _ => s

theorem keepsRetiring_mendMember (s : State) (m : Nat × Nat) : KeepsRetiring s (mendMember s m) := by
  unfold mendMember
  rcases mendIn_cases s m.1 m.2 with h | ⟨code, h⟩
  · simp only [h]
    split_ifs
    · exact .refl s
    · exact keepsRetiring_memberIssued _ _ _ _ _
  · simp only [h]
    exact .refl s

/-- The MEND of a ganged span, ready in every member with nothing left over, issues in all of them. -/
theorem gangBeat_mend {ms : List (Nat × Nat)} (h : ∀ m ∈ ms, memberBeat s .mend mendIn m = .done s) :
    gangBeat s ms .mend mendIn = finish s (.done (ms.foldl mendMember s).countBeat) := by
  have htrap : (ms.map (fun m => (m, memberBeat s .mend mendIn m))).find? (fun r => r.2.isTrap) = none := by
    simp only [List.find?_eq_none, List.mem_map]
    rintro r ⟨m, hm, rfl⟩
    simp [h m hm, BeatRes.isTrap]
  have hwait : (ms.map (fun m => (m, memberBeat s .mend mendIn m))).any (fun r => r.2.isWait) = false := by
    simp only [List.any_eq_false, List.mem_map]
    rintro r ⟨m, hm, rfl⟩
    simp [h m hm, BeatRes.isWait]
  unfold gangBeat
  simp only [htrap, hwait]
  rfl

/-- Closing the spans of the members leaves none of them open and none of their arrays owned. -/
theorem closed_foldl_closeSpan (ms : List (Nat × Nat)) (s : State) (m : Nat × Nat)
    (h : m ∈ ms ∨ (s.ctx m.1 m.2).span = none ∧ (s.core m.1).arr.owner = none) :
    ((ms.foldl State.closeSpan s).ctx m.1 m.2).span = none ∧ ((ms.foldl State.closeSpan s).core m.1).arr.owner = none := by
  induction ms generalizing s with
  | nil => simpa using h
  | cons n r ih =>
    refine ih _ ?_
    by_cases hr : m ∈ r
    · exact .inl hr
    · refine .inr ?_
      obtain ⟨d, y⟩ := m
      obtain ⟨c, x⟩ := n
      by_cases hd : d = c
      · subst hd
        rw [State.ctx, core_closeSpan_self]
        by_cases hy : y = x
        · subst hy
          rw [Core.ctx_setCtx_self]
          exact ⟨rfl, rfl⟩
        · rw [Core.ctx_setCtx_ne _ _ _ _ hy]
          have ho := h.resolve_left (by simp [hr, hy])
          exact ⟨ho.1, rfl⟩
      · rw [State.ctx, core_closeSpan_ne _ hd]
        exact h.resolve_left (by simp [hr, hd])

theorem last_foldl_closeSpan (ms : List (Nat × Nat)) (s : State) : (ms.foldl State.closeSpan s).last = s.last := by
  induction ms generalizing s with
  | nil => rfl
  | cons m r ih => exact ih _

theorem mend_closes_gang {sp : Span} {g : Gang} (hm : s.fctx.mdiscard = false) (hsp : s.fctx.span = some sp) (hg : sp.gang = some g)
    (h : ∀ m ∈ g.members, (s.core m.1).arr.inflight = [] ∧ (s.core m.1).arr.latch = [] ∧ (s.core m.1).arr.scaleq = [] ∧
      (m = (s.focus.core, s.focus.ctx) ∨ s.memberReady .mend m.1 m.2 = true)) :
    ∃ t, exec .mend s = .next t ∧ t.last = .issued ∧ SameMem s t ∧
      (∀ m ∈ g.members, (t.ctx m.1 m.2).span = none ∧ (t.core m.1).arr.owner = none) ∧
      t.fcore.retiring = s.fcore.retiring ++
        [{ ctx := s.focus.ctx, gang := some g, ready := g.members.map (fun m => (m.1, (s.core m.1).drain)) }] := by
  have hbeat : ∀ m ∈ g.members, memberBeat s .mend mendIn m = .done s := fun m hmem => by
    obtain ⟨hi, hl, hq, hr⟩ := h m hmem
    rw [memberBeat, if_pos (by simpa using hr), mendIn_done hi hl hq]
  generalize hr : ({ ctx := s.focus.ctx, gang := some g, ready := g.members.map (fun m => (m.1, (s.core m.1).drain)) } : Retiring) = r
  have hexec : exec .mend s = .next (retired (g.members.foldl State.closeSpan
      { (g.members.foldl mendMember s).countBeat with last := .issued }) r) := by
    show execMend s = _
    rw [execMend, if_neg (by simp [hm])]
    simp only [hsp, hg, gangBeat_mend hbeat, ← hr, List.map_map]
    rfl
  have hissued : KeepsRetiring s { (g.members.foldl mendMember s).countBeat with last := .issued } ∧
      ({ (g.members.foldl mendMember s).countBeat with last := .issued } : State).last = .issued := by
    have hfold := foldl_keeps KeepsRetiring.refl KeepsRetiring.trans mendMember keepsRetiring_mendMember g.members s
    obtain ⟨hmem, hfocus, hret⟩ := hfold.trans (keepsRetiring_countBeat _)
    exact ⟨⟨hmem, hfocus, hret⟩, rfl⟩
  generalize { (g.members.foldl mendMember s).countBeat with last := .issued } = u at hexec hissued
  obtain ⟨hmem, hfocus, hret⟩ :=
    hissued.1.trans (foldl_keeps KeepsRetiring.refl KeepsRetiring.trans State.closeSpan keepsRetiring_closeSpan g.members u)
  have hfc := fcore_of_focus (t := retired (g.members.foldl State.closeSpan u) r) hfocus
  have hcore : (retired (g.members.foldl State.closeSpan u) r).fcore =
      { (g.members.foldl State.closeSpan u).fcore with retiring := (g.members.foldl State.closeSpan u).fcore.retiring ++ [r] } :=
    State.fcore_modFCore _ _
  refine ⟨_, hexec, ?_, fun a => congrArg (fun m => Memory.byte m a) hmem, fun m hm => ?_, ?_⟩
  · exact (last_foldl_closeSpan _ _).trans hissued.2
  · obtain ⟨hspan, howner⟩ := closed_foldl_closeSpan g.members u m (.inl hm)
    obtain ⟨hctx, harr⟩ := ctx_arr_retired (g.members.foldl State.closeSpan u) r m.1 m.2
    rw [hctx, harr]
    exact ⟨hspan, howner⟩
  · rw [hcore, fcore_of_focus hfocus, hret]
    rfl

/-! The operations of an aborted span -/

theorem beat_discarded (hm : s.fctx.mdiscard = true) {i : Instr} {j : Instr} {f : State → Nat → Nat → BeatRes} (h : exec i s = beat s j f) :
    CtxBecomes i s s.fctx := ctxBecomes_self i s (h.trans (if_pos hm))

theorem spanBeat_discarded (hm : s.fctx.mdiscard = true) {i : Instr} {j : Instr} {f : State → Nat → Nat → BeatRes}
    (h : exec i s = spanBeat s j f) : CtxBecomes i s s.fctx :=
  beat_discarded hm (h.trans (if_neg (by simp [hm])))

theorem mend_discarded (hm : s.fctx.mdiscard = true) : CtxBecomes .mend s { s.fctx with mdiscard := false } :=
  ctxBecomes_of_finish (fun t => { t with mdiscard := false }) (if_pos hm)

end

/-- Settles O23: each operation by the state of the span it meets; a MEND of a gang by what the members keep while it issues in them. -/
theorem spans : Obligations.Spans := by
  unfold Obligations.Spans
  intro s r shape free
  refine ⟨mspan_opens r, mspan_illegal r, mspan_owned r, mend_closes, fun h hl => ?_, fun h hi hl hq => ?_, fun sp g hm hsp hg h => ?_,
    fun hm q i v l f tr keep p n m => ?_⟩
  · exact traps_of_finish ((exec_mend_plain h).trans (by rw [mendIn_latched hl]; rfl))
  · exact traps_of_finish ((exec_mend_plain h).trans (by rw [mendIn_queued hi hl hq]; rfl))
  · exact mend_closes_gang hm hsp hg h
  · exact ⟨mend_discarded hm, spanBeat_discarded hm rfl, spanBeat_discarded hm rfl, spanBeat_discarded hm rfl, spanBeat_discarded hm rfl,
      spanBeat_discarded hm rfl, beat_discarded hm rfl, beat_discarded hm rfl⟩

end Sys2Proof
end

section
/-! Accesses through translation (R64, R92, R99, R105, R179, R402): what an access that has passed its checks leaves outstanding; then each access
by the checks it makes. -/

namespace Sys2Proof

open Machine

section
variable {s : State}

/-! An access becomes outstanding -/

/-- An access in the core's list, its counters still as they were. -/
def listed (s : State) (o : Out) : State := State.modFCore { s with nextOut := s.nextOut + 1 } (fun k => { k with outs := k.outs ++ [o] })

theorem fcore_listed (o : Out) : (listed s o).fcore = { s.fcore with outs := s.fcore.outs ++ [o] } := State.core_setCore_self _ _ _

theorem ctx_listed (o : Out) (x : Nat) : (listed s o).ctx s.focus.core x = s.ctx s.focus.core x :=
  (congrArg (fun k => Core.ctx k x) (fcore_listed o)).trans rfl

/-- What an access counts in its context, with the pages that its walks completed (R64, R99). -/
def counting (kind : OutKind) (pages : List Held) (t : Ctx) : Ctx := { t.hold_ pages with ld := t.ld + kind.loads, st := t.st + kind.stores }

theorem addOut_eq {kind : OutKind} {i : Instr} {parts : List OutPart} {vals : List Nat} {pages : List Held} (hp : parts ≠ []) :
    s.addOut kind i parts vals pages =
      (listed s { id := s.nextOut, ctx := s.focus.ctx, kind := kind, op := s.focusOp i, parts := parts, vals := vals }).modF
        (counting kind pages) := by
  rw [State.addOut, if_neg (by simpa using hp)]
  rfl

/-- An access of the focus that becomes outstanding changes its core's list and its own context, and nothing else. -/
theorem outstanding_of_listed {kind : OutKind} {i : Instr} {parts : List OutPart} {vals : List Nat} (f : Ctx → Ctx)
    (h : exec i s = finish s (.done ((listed s
      { id := s.nextOut, ctx := s.focus.ctx, kind := kind, op := s.focusOp i, parts := parts, vals := vals }).modF f))) :
    Outstanding i s kind parts vals (f s.fctx) := by
  obtain ⟨hcore, hown, hothers⟩ := onlyCtx_modF (listed s _) f .issued
  refine ⟨_, h, rfl, rfl, fun c hc => ?_, ?_, fun x hx => (hothers x hx).trans (ctx_listed _ x), ?_⟩
  · exact (hcore.others c hc).trans (State.core_setCore_ne _ _ _ _ hc)
  · rw [fcore_listed] at hown
    exact hown
  · exact (fctx_modF_last _ _ _).trans (congrArg f (ctx_listed _ _))

section
variable {kind : OutKind} {i : Instr} {parts : List OutPart} {vals : List Nat} {pages : List Held} (hp : parts ≠ [])
include hp

theorem outstanding_of_addOut (h : exec i s = finish s (.done (s.addOut kind i parts vals pages))) :
    Outstanding i s kind parts vals (counting kind pages s.fctx) :=
  outstanding_of_listed (counting kind pages) (by rw [h, addOut_eq hp])

/-- The same with a pending write whose value is still to return. -/
theorem outstanding_of_expected {d : Nat} (h : exec i s = finish s (.done ((s.addOut kind i parts vals pages).expectPending d))) :
    Outstanding i s kind parts vals (awaiting s (counting kind pages s.fctx) d) := by
  refine outstanding_of_listed (fun t => awaiting s (counting kind pages t) d) ?_
  rw [h, addOut_eq hp, State.expectPending, State.modF_modF]
  rfl

end

/-! Scalars and atomics -/

/-- What an access of `n` bytes through translation comes to by its checks (R92, R99). -/
def translated (s : State) (p : Word) (n : Nat) (a : Acc) (f : Checked → State) : Res :=
  match s.fctx.check s p n a false with
  | .error e => .trap e p 0
  | .ok k => if s.fcore.wmHeld (vaOf p) n || s.fcore.outsFull then .wait else .done (f k)

section
variable {i : Instr} {p : Word} {n : Nat} {a : Acc} {f : Checked → State}

theorem translated_ok {k : Checked} (h : s.fctx.check s p n a false = .ok k)
    (hf : s.fcore.wmHeld (vaOf p) n = false ∧ s.fcore.outsFull = false) : translated s p n a f = .done (f k) := by
  rw [translated, h]
  exact if_neg (by simp [hf.1, hf.2])

theorem translated_error {code : Nat} (h : s.fctx.check s p n a false = .error code) : translated s p n a f = .trap code p 0 := by
  rw [translated, h]

theorem loadScalar_translated (hap : isAp p = false) (hal : p.toNat % n = 0) (sx : Bool) (d : Nat) : loadScalar s i p n sx d =
    translated s p n .rd (fun k => (s.addOut .load i [k.part p 0 0] [] k.pages).expectPending d) := by
  rw [loadScalar, if_neg (not_not.mpr hal), if_neg (by simp [hap])]
  rfl

theorem storeScalar_translated (hap : isAp p = false) (hal : p.toNat % n = 0) (v : Word) : storeScalar s i p n v =
    translated s p n .wr (fun k => s.addOut .store i [k.part p 0 v.toNat] [] k.pages) := by
  rw [storeScalar, if_neg (not_not.mpr hal), if_neg (by simp [hap])]
  rfl

theorem atomic_translated (hap : isAp p = false) (hal : p.toNat % n = 0) (op : AtomicOp) (o : Nat) (v c : Word) (d : Nat) :
    atomic s i op o p n v c d =
      translated s p n .rw (fun k => (s.addOut .atomic i [k.part p 0 0] [v.toNat, c.toNat] k.pages).expectPending d) := by
  rw [atomic, if_neg (not_not.mpr hal), if_neg (by simp [hap])]
  rfl

/-- An atomic through translation faults at issue or is outstanding (R64, R304). -/
theorem atomic_issues {op : AtomicOp} {o : Nat} {v c : Word} {d : Nat} (h : exec i s = finish s (atomic s i op o p n v c d))
    (hap : isAp p = false) (hal : p.toNat % n = 0) {k : Checked} {code : Nat} :
    (s.fctx.check s p n .rw false = .error code → Traps i s code p 0) ∧
    (s.fctx.check s p n .rw false = .ok k → s.fcore.wmHeld (vaOf p) n = false ∧ s.fcore.outsFull = false →
      Outstanding i s .atomic [k.part p 0 0] [v.toNat, c.toNat] (awaiting s (counting .atomic k.pages s.fctx) d)) := by
  rw [atomic_translated hap hal] at h
  refine ⟨fun he => traps_of_finish (h.trans (by rw [translated_error he])), fun hk hf => ?_⟩
  exact outstanding_of_expected (List.cons_ne_nil _ _) (h.trans (by rw [translated_ok hk hf]))

end

/-! Vectors -/

section
variable {i : Instr} {p : Word} {vr : VecRuns} {code : Nat}

/-- What a vector access through translation comes to once its runs are checked (R105, R432). -/
def vectorIssues (s : State) (p : Word) (v : VecRuns) (f : VecRuns → State) : Res :=
  if s.fcore.wmHeldRuns p (maskRuns s.mask) then .wait
  else if (maskRuns s.mask).isEmpty then .done s
  else if s.fcore.outsFull then .wait
  else .done (f v)

theorem vectorIssues_of_enabled {f : VecRuns → State} (hruns : maskRuns s.mask ≠ []) (hw : s.fcore.wmHeldRuns p (maskRuns s.mask) = false)
    (ho : s.fcore.outsFull = false) : vectorIssues s p vr f = .done (f vr) := by
  simp [vectorIssues, hruns, hw, ho]

theorem vectorIssues_of_none {f : VecRuns → State} (hruns : maskRuns s.mask = []) : vectorIssues s p vr f = .done s := by
  simp [vectorIssues, hruns, Core.wmHeldRuns]

theorem loadVector_error {d : Nat} (h : vectorPieces s p (maskRuns s.mask) .rd = .error code) : loadVector s i p d = .trap code p 0 := by
  simp only [loadVector, h]

theorem storeVector_error {r : VReg} (h : vectorPieces s p (maskRuns s.mask) .wr = .error code) : storeVector s i p r = .trap code p 0 := by
  simp only [storeVector, h]

theorem loadVector_translated {d : Nat} (hap : isAp p = false) (h : vectorPieces s p (maskRuns s.mask) .rd = .ok vr) :
    loadVector s i p d = vectorIssues s p vr (fun v => s.addOut .load i (v.parts p 0) [] v.pages) := by
  simp only [loadVector, h, hap]
  rfl

theorem storeVector_translated {r : VReg} (hap : isAp p = false) (h : vectorPieces s p (maskRuns s.mask) .wr = .ok vr) :
    storeVector s i p r = vectorIssues s p vr (fun v => s.addOut .store i (v.parts p r) [] v.pages) := by
  simp only [storeVector, h, hap]
  rfl

theorem vectorPieces_of_none (a : Acc) (hruns : maskRuns s.mask = []) (hal : vaOf p % 64 = 0) :
    vectorPieces s p (maskRuns s.mask) a = .ok { runs := [], hull := [], pages := [] } := by
  have h0 : bits p 5 0 = 0 := by
    simp only [vaOf, bits] at hal ⊢
    omega
  simp [vectorPieces, hruns, h0]

/-- A run cut at the register's 8-byte blocks gives each block the bytes that lie in it (R179). -/
theorem block_of_mem_blocksOf {run : Nat × Nat × Nat} {e : Nat × Nat × Nat × Nat} (h : e ∈ blocksOf run) : e.2.2.2 / 8 = e.1 := by
  obtain ⟨j, -, rfl⟩ := List.mem_map.mp h
  show max run.2.2 (8 * (run.2.2 / 8 + j)) / 8 = run.2.2 / 8 + j
  omega

/-- The pieces of a vector part hold the bytes of the register at their places, in one aligned 8-byte block (R179). -/
theorem vectorParts_hold (v : VecRuns) (p : Word) (r : VReg) {part : OutPart} (hpart : part ∈ v.parts p r) {pc : Piece}
    (hpc : pc ∈ part.pieces) : pc.val = getBytes r pc.off pc.len ∧ ∀ pd ∈ part.pieces, pc.off / 8 = pd.off / 8 := by
  obtain ⟨b, -, rfl⟩ := List.mem_map.mp hpart
  have hin : ∀ pd ∈ ((v.runs.flatMap blocksOf).filter (fun e => e.1 = b)).map (fun e =>
      ({ pa := e.2.1, len := e.2.2.1, off := e.2.2.2, val := getBytes r e.2.2.2 e.2.2.1 } : Piece)),
      pd.val = getBytes r pd.off pd.len ∧ pd.off / 8 = b := fun pd hpd => by
    obtain ⟨e, he, rfl⟩ := List.mem_map.mp hpd
    obtain ⟨hmem, hb⟩ := List.mem_filter.mp he
    obtain ⟨run, -, hrun⟩ := List.mem_flatMap.mp hmem
    exact ⟨rfl, (block_of_mem_blocksOf hrun).trans (of_decide_eq_true hb)⟩
  exact ⟨(hin pc hpc).1, fun pd hpd => (hin pc hpc).2.trans (hin pd hpd).2.symm⟩

end

/-! Elements -/

section
variable {i : Instr} {a : Word} {z : Nat} {parts : List OutPart} {pages : List Held} {code : Nat} {q : Word}

theorem length_indexedParts {acc : Acc} {r : VReg} {es : List (Nat × Word)} (h : indexedParts s z acc r es = .ok (parts, pages)) :
    parts.length = es.length := by
  induction es generalizing parts pages with
  | nil =>
    obtain ⟨rfl, -⟩ := Prod.mk.inj (Except.ok.inj h)
    rfl
  | cons e es ih =>
    rw [indexedParts] at h
    split at h
    · cases h
    · split at h
      · cases h
      · rename_i hrest
        obtain ⟨rfl, -⟩ := Prod.mk.inj (Except.ok.inj h)
        exact congrArg (· + 1) (ih hrest)

variable {vi : VReg}

theorem loadIndexed_error {d : Nat} (hal : a.toNat % z = 0) (h : indexedParts s z .rd 0 (indexedElems a vi z s.mask) = .error (code, q)) :
    loadIndexed s i a z vi d = .trap code q 0 := by
  rw [loadIndexed, if_neg (not_not.mpr hal)]
  simp only [h]

theorem storeIndexed_error {r : VReg} (hal : a.toNat % z = 0) (h : indexedParts s z .wr r (indexedElems a vi z s.mask) = .error (code, q)) :
    storeIndexed s i a z vi r = .trap code q 0 := by
  rw [storeIndexed, if_neg (not_not.mpr hal)]
  simp only [h]

/-- What an indexed access through translation comes to once its elements are checked (R434). -/
def elementsIssue (s : State) (z : Nat) (es : List (Nat × Word)) (u : State) : Res :=
  if es.any (fun e => s.fcore.wmHeld (vaOf e.2) z) then .wait
  else if es.isEmpty then .done s
  else if s.fcore.outsFull then .wait
  else .done u

theorem elementsIssue_of_some {es : List (Nat × Word)} (u : State) (hes : es ≠ [])
    (hw : ∀ e ∈ es, s.fcore.wmHeld (vaOf e.2) z = false) (ho : s.fcore.outsFull = false) : elementsIssue s z es u = .done u := by
  have hany : es.any (fun e => s.fcore.wmHeld (vaOf e.2) z) = false := List.any_eq_false.mpr fun e he => by simp [hw e he]
  simp [elementsIssue, hany, hes, ho]

theorem elementsIssue_of_none {es : List (Nat × Word)} (u : State) (hes : es = []) : elementsIssue s z es u = .done s := by
  simp [elementsIssue, hes]

theorem loadIndexed_translated {d : Nat} (hap : isAp a = false) (hal : a.toNat % z = 0)
    (h : indexedParts s z .rd 0 (indexedElems a vi z s.mask) = .ok (parts, pages)) :
    loadIndexed s i a z vi d = elementsIssue s z (indexedElems a vi z s.mask) (s.addOut .load i parts [] pages) := by
  rw [loadIndexed, if_neg (not_not.mpr hal)]
  simp only [h, hap]
  rfl

theorem storeIndexed_translated {r : VReg} (hap : isAp a = false) (hal : a.toNat % z = 0)
    (h : indexedParts s z .wr r (indexedElems a vi z s.mask) = .ok (parts, pages)) :
    storeIndexed s i a z vi r = elementsIssue s z (indexedElems a vi z s.mask) (s.addOut .store i parts [] pages) := by
  rw [storeIndexed, if_neg (not_not.mpr hal)]
  simp only [h, hap]
  rfl

end

end

/-- Settles O29: a failed check is its fault; one that passes is the access listed and counted; a vector access enabled nowhere is none. -/
theorem translatedAccesses : Obligations.TranslatedAccesses := by
  unfold Obligations.TranslatedAccesses
  intro s d v c b z y x i j o e k vr parts pages code q p n r a m free kept runs wide reg l es each atomics
  refine ⟨fun hap hal hk hf => ?_, fun hap hal hk hf => ?_, fun hap hal he => ?_, fun hap hal he => ?_, fun hw hp hne => ?_, fun hw hp hne => ?_,
    fun part hpart pc hpc => vectorParts_hold vr r reg hpart hpc, fun _ he => ?_, fun _ he => ?_, fun hruns hap hal => ?_,
    fun hes hap hal => ?_, fun h hp => ?_, fun h hp => ?_, fun hal he => ?_, fun hal he => ?_, ?_⟩
  · exact outstanding_of_expected (List.cons_ne_nil _ _)
      (congrArg (finish s) ((loadScalar_translated hap hal _ _).trans (translated_ok hk hf)))
  · exact outstanding_of_addOut (List.cons_ne_nil _ _) (congrArg (finish s) ((storeScalar_translated hap hal _).trans (translated_ok hk hf)))
  · exact traps_of_finish (congrArg (finish s) ((loadScalar_translated hap hal _ _).trans (translated_error he)))
  · exact traps_of_finish (congrArg (finish s) ((storeScalar_translated hap hal _).trans (translated_error he)))
  · obtain ⟨hruns, hap, hheld, hfull⟩ := hw
    exact outstanding_of_addOut hne
      (congrArg (finish s) ((loadVector_translated hap hp).trans (vectorIssues_of_enabled hruns hheld hfull)))
  · obtain ⟨hruns, hap, hheld, hfull⟩ := hw
    exact outstanding_of_addOut hne
      (congrArg (finish s) ((storeVector_translated hap hp).trans (vectorIssues_of_enabled hruns hheld hfull)))
  · exact traps_of_finish (congrArg (finish s) (loadVector_error he))
  · exact traps_of_finish (congrArg (finish s) (storeVector_error he))
  · exact ⟨congrArg (finish s) ((loadVector_translated hap (vectorPieces_of_none .rd hruns hal)).trans (vectorIssues_of_none hruns)),
      congrArg (finish s) ((storeVector_translated hap (vectorPieces_of_none .wr hruns hal)).trans (vectorIssues_of_none hruns))⟩
  · have hparts : ∀ acc w, indexedParts s l acc w es = .ok ([], []) := fun acc w => by rw [hes]; rfl
    exact ⟨congrArg (finish s) ((loadIndexed_translated hap hal (hparts .rd 0)).trans (elementsIssue_of_none _ hes)),
      congrArg (finish s) ((storeIndexed_translated hap hal (hparts .wr _)).trans (elementsIssue_of_none _ hes))⟩
  · obtain ⟨hap, hal, hes, hheld, hfull⟩ := h
    have hlen := length_indexedParts hp
    exact ⟨hlen, outstanding_of_addOut (List.ne_nil_of_length_pos (hlen ▸ List.length_pos_of_ne_nil hes))
      (congrArg (finish s) ((loadIndexed_translated hap hal hp).trans (elementsIssue_of_some _ hes hheld hfull)))⟩
  · obtain ⟨hap, hal, hes, hheld, hfull⟩ := h
    have hlen := length_indexedParts hp
    exact ⟨hlen, outstanding_of_addOut (List.ne_nil_of_length_pos (hlen ▸ List.length_pos_of_ne_nil hes))
      (congrArg (finish s) ((storeIndexed_translated hap hal hp).trans (elementsIssue_of_some _ hes hheld hfull)))⟩
  · exact traps_of_finish (congrArg (finish s) (loadIndexed_error hal he))
  · exact traps_of_finish (congrArg (finish s) (storeIndexed_error hal he))
  · exact ⟨fun hap hal => atomic_issues rfl hap hal, fun hap hal => atomic_issues rfl hap hal, fun hap hal => atomic_issues rfl hap hal,
      fun hap hal => atomic_issues rfl hap hal, fun hap hal => atomic_issues rfl hap hal, fun hap hal => atomic_issues rfl hap hal,
      fun hap hal => atomic_issues rfl hap hal⟩

end Sys2Proof
end

section
/-! Outstanding accesses return and perform (R64, R177, R178, R179, R193, R194). First what the notes beside a move leave as they are, and when an
access has finished; then each move, of a load's part, of a store, lock write or log write, and of an atomic. -/

namespace Sys2Proof

open Machine

/-! What the notes beside a move leave -/

/-- The accesses, memory, locks and contexts of `s` and `u` are the same but for the suppliers that contexts remember (R178). -/
structure KeepsAccesses (s u : State) : Prop where
  mem : u.mem = s.mem
  locks : u.locks = s.locks
  outs : ∀ c, (u.core c).outs = (s.core c).outs
  ctx : ∀ c x, ∃ l, u.ctx c x = { s.ctx c x with supplied := l }

theorem KeepsAccesses.refl (s : State) : KeepsAccesses s s := ⟨rfl, rfl, fun _ => rfl, fun c x => ⟨(s.ctx c x).supplied, rfl⟩⟩

theorem KeepsAccesses.trans {s u v : State} (h : KeepsAccesses s u) (h' : KeepsAccesses u v) : KeepsAccesses s v where
  mem := h'.mem.trans h.mem
  locks := h'.locks.trans h.locks
  outs := fun c => (h'.outs c).trans (h.outs c)
  ctx := fun c x => by
    obtain ⟨l, hl⟩ := h'.ctx c x
    obtain ⟨m, hm⟩ := h.ctx c x
    exact ⟨l, by rw [hl, hm]⟩

theorem outs_modCtx (s : State) (c x d : Nat) (f : Ctx → Ctx) : ((s.modCtx c x f).core d).outs = (s.core d).outs := by
  by_cases h : d = c
  · rw [h, core_modCtx_self]
    rfl
  · rw [core_modCtx_ne _ _ h]

theorem keepsAccesses_noteSuppliers (s : State) (c x : Nat) (load : Option Nat) (id pa n : Nat) :
    KeepsAccesses s (s.noteSuppliers c x load id pa n) := by
  unfold State.noteSuppliers
  split
  · exact .refl s
  · refine ⟨rfl, rfl, fun d => outs_modCtx s c x d _, fun d y => ?_⟩
    by_cases h : (d, y) = (c, x)
    · obtain ⟨rfl, rfl⟩ := Prod.mk.inj h
      exact ⟨_, ctx_modCtx_self s d y _⟩
    · exact ⟨(s.ctx d y).supplied, ctx_modCtx_of_ne s _ h⟩

theorem keepsAccesses_correct (s : State) (a n : Nat) : KeepsAccesses s (s.correct a n) := by
  obtain ⟨p, q, m, h⟩ := correct_frame s a n
  rw [h]
  exact ⟨rfl, rfl, fun _ => rfl, fun c x => ⟨(s.ctx c x).supplied, rfl⟩⟩

/-- A context that remembers part `j` of store `id` no longer. -/
def forgetful (id j : Nat) (t : Ctx) : Ctx := if t.supplied.isEmpty then t else { t with supplied := t.supplied.filter (fun q => q.2 ≠ (id, j)) }

theorem forgetful_frame (id j : Nat) (t : Ctx) : ∃ l, forgetful id j t = { t with supplied := l } := by
  unfold forgetful
  split
  · exact ⟨t.supplied, rfl⟩
  · exact ⟨_, rfl⟩

theorem Machine.Tab.get_mapV {α : Type} (t : Tab α) (f : α → α) (k : Nat) (d : α) (hd : f d = d) : (t.mapV f).get k d = f (t.get k d) := by
  rw [Tab.get, Tab.get, Tab.find_mapV]
  cases t.find k with
  | none => exact hd.symm
  | some a => rfl

theorem ctxs_forgetSupplier (l : Tab Ctx) (id j : Nat) :
    l.map (fun z => if z.2.supplied.isEmpty then z else (z.1, { z.2 with supplied := z.2.supplied.filter (fun q => q.2 ≠ (id, j)) })) =
      l.mapV (forgetful id j) := by
  refine List.map_congr_left fun z _ => ?_
  unfold forgetful
  split <;> rfl

theorem core_forgetSupplier (s : State) (id j c : Nat) :
    (s.forgetSupplier id j).core c = { s.core c with ctxs := (s.core c).ctxs.mapV (forgetful id j) } := by
  have hcores : (s.forgetSupplier id j).cores = s.cores.mapV (fun k => { k with ctxs := k.ctxs.mapV (forgetful id j) }) := by
    refine List.map_congr_left fun e _ => ?_
    rw [ctxs_forgetSupplier]
  rw [State.core, hcores]
  exact Tab.get_mapV _ _ _ _ rfl

theorem keepsAccesses_forgetSupplier (s : State) (id j : Nat) : KeepsAccesses s (s.forgetSupplier id j) where
  mem := rfl
  locks := rfl
  outs := fun c => by rw [core_forgetSupplier]
  ctx := fun c x => by
    obtain ⟨l, hl⟩ := forgetful_frame id j (s.ctx c x)
    refine ⟨l, ?_⟩
    rw [← hl, State.ctx, core_forgetSupplier]
    exact Tab.get_mapV _ _ _ _ rfl

section
variable {s u : State} {c x : Nat} (h : KeepsAccesses s u)
include h

theorem KeepsAccesses.sameMem : SameMem s u := fun a => congrArg (fun m => Memory.byte m a) h.mem

theorem KeepsAccesses.st : (u.ctx c x).st = (s.ctx c x).st := by
  obtain ⟨l, hl⟩ := h.ctx c x
  rw [hl]

theorem KeepsAccesses.ld : (u.ctx c x).ld = (s.ctx c x).ld := by
  obtain ⟨l, hl⟩ := h.ctx c x
  rw [hl]

theorem KeepsAccesses.pend : (u.ctx c x).pend = (s.ctx c x).pend := by
  obtain ⟨l, hl⟩ := h.ctx c x
  rw [hl]

end

/-! One access of a core given anew or gone -/

theorem outs_setOut (s : State) (c : Nat) (o : Out) :
    ((s.setOut c o).core c).outs = (s.core c).outs.map (fun q => if q.id = o.id then o else q) :=
  congrArg Core.outs (core_modCore_self _ _ _)

theorem outs_dropOut (s : State) (c id : Nat) : ((s.dropOut c id).core c).outs = (s.core c).outs.filter (fun q => q.id ≠ id) :=
  congrArg Core.outs (core_modCore_self _ _ _)

theorem ctx_setOut (s : State) (c : Nat) (o : Out) (d x : Nat) : (s.setOut c o).ctx d x = s.ctx d x := sameCtxs_modCore s c rfl d x

theorem ctx_dropOut (s : State) (c id d x : Nat) : (s.dropOut c id).ctx d x = s.ctx d x := sameCtxs_modCore s c rfl d x

/-- An access that is given anew and then removed is removed. -/
theorem filter_map_replaced (l : List Out) (o : Out) :
    (l.map (fun q => if q.id = o.id then o else q)).filter (fun q => q.id ≠ o.id) = l.filter (fun q => q.id ≠ o.id) := by
  induction l with
  | nil => rfl
  | cons q r ih =>
    rw [List.map_cons]
    by_cases h : q.id = o.id
    · simpa [h] using ih
    · simpa [h] using ih

/-! When an access has finished -/

section
variable {o : Out} {j : Nat} {p : OutPart}

theorem idlePart_iff (o : Out) (p : OutPart) : o.idlePart p = true ↔ o.kind = .store ∧ p.pieces = [] := by
  simp [Out.idlePart]

/-- Every part of an access but part `j` has performed, or stands for a tag check. -/
def OthersDone (o : Out) (j : Nat) : Prop := ∀ (i : Nat) (q : OutPart), o.parts[i]? = some q → i ≠ j → q.done = true ∨ (o.kind = .store ∧ q.pieces = [])

theorem finished_iff (o : Out) : o.finished = true ↔ ∀ (i : Nat) (q : OutPart), o.parts[i]? = some q → q.done = true := by
  rw [Out.finished, List.all_eq_true]
  refine ⟨fun h i q hq => h q (List.mem_of_getElem? hq), fun h q hq => ?_⟩
  obtain ⟨i, hi⟩ := List.mem_iff_getElem?.mp hq
  exact h i q hi

theorem did_eq (o : Out) (j : Nat) (p : OutPart) : o.did j p = { o with parts := (o.parts.set j { p with done := true }).map (fun z =>
    if o.kind = .store ∧ z.pieces = [] then { z with done := true } else z) } := by
  have h : ∀ q, (if o.idlePart q then { q with done := true } else q) =
      if o.kind = .store ∧ q.pieces = [] then { q with done := true } else q :=
    fun q => if_congr (idlePart_iff o q) rfl rfl
  exact congrArg (fun l => { o with parts := l }) (List.map_congr_left fun q _ => h q)

/-- A write has finished with part `j` where every other part has performed, or stands for a tag check. -/
theorem finished_did_iff (o : Out) (j : Nat) (p : OutPart) : (o.did j p).finished = true ↔ OthersDone o j := by
  rw [finished_iff, did_eq, OthersDone]
  simp only [List.getElem?_map, List.getElem?_set]
  constructor
  · intro h i q hq hij
    have hi := h i (if o.kind = .store ∧ q.pieces = [] then { q with done := true } else q) (by rw [if_neg (Ne.symm hij), hq]; rfl)
    split_ifs at hi with hz
    · exact .inr hz
    · exact .inl hi
  · intro h i q hq
    obtain ⟨r, hr, rfl⟩ := Option.map_eq_some_iff.mp hq
    by_cases hij : j = i
    · rw [if_pos hij] at hr
      split at hr
      · obtain rfl := Option.some.inj hr
        split <;> rfl
      · cases hr
    · rw [if_neg hij] at hr
      rcases h i r hr (Ne.symm hij) with hd | hz
      · split
        · rfl
        · exact hd
      · rw [if_pos hz]

theorem setPart_of_load (hk : o.kind = .load) (j : Nat) (p : OutPart) : o.setPart j { p with done := true } = o.did j p := by
  rw [did_eq]
  simp [hk, Out.setPart]

end

/-! Which moves are made -/

theorem id_of_out {s : State} {c k : Nat} {o : Out} (h : s.out c k = some o) : o.id = k := by
  simpa using List.find?_some h

/-- The part has its turn, and neither it nor its access meets a fault where that counts (R179, R212). -/
def Unheld (s : State) (c : Nat) (o : Out) (j : Nat) (p : OutPart) : Prop :=
  s.clear c o j p = true ∧ s.outFault c o = none ∧ (o.kind = .load → s.partFault c o p = none)

theorem canMove_iff {s : State} {c j : Nat} {o : Out} {p : OutPart} (hp : p.pieces ≠ []) : s.canMove c o j p = true ↔ Unheld s c o j p := by
  have hidle : o.idlePart p = false := by
    rw [← Bool.not_eq_true, idlePart_iff]
    exact fun h => hp h.2
  by_cases hl : o.kind = .load <;> simp [State.canMove, Unheld, hidle, hl, and_assoc]

section
variable {s : State} {c k j : Nat} {o : Out} {p : OutPart} (hc : c < numCores) (ho : s.out c k = some o) (hj : o.parts[j]? = some p)
  (hp : p.pieces ≠ [])
include hj hp

theorem moveOf_of_held (h : ¬ Unheld s c o j p) : moveOf s c o j = notNow s := by
  have hlt := (List.getElem?_eq_some_iff.mp hj).1
  have hm : s.canMove c o j p = false := by rw [← Bool.not_eq_true, canMove_iff hp]; exact h
  simp only [moveOf, if_pos hlt, hj, hm, Bool.false_eq_true, if_false]

include ho

theorem moveOf_of_unheld (h : Unheld s c o j p) : moveOf s c o j = happened (s.movePart c k j) := by
  have hlt := (List.getElem?_eq_some_iff.mp hj).1
  simp only [moveOf, if_pos hlt, hj, (canMove_iff hp).mpr h, id_of_out ho, if_true]

include hc

theorem exec_load (hk : o.kind = .load) (h : Unheld s c o j p) : exec (.loadValueReturn c (k, j)) s = happened (s.readPart c o j p) := by
  have hm := (canMove_iff hp).mpr h
  show execLoadValueReturn c (k, j) s = _
  rw [execLoadValueReturn, if_neg (Nat.not_le.mpr hc)]
  simp only [ho, hk, moveOf_of_unheld ho hj hp h, State.movePart, hj, hm, if_true]

theorem exec_load_held (hk : o.kind = .load) (h : ¬ Unheld s c o j p) : NotNow (.loadValueReturn c (k, j)) s := by
  show execLoadValueReturn c (k, j) s = _
  rw [execLoadValueReturn, if_neg (Nat.not_le.mpr hc)]
  simp only [ho, hk, moveOf_of_held hj hp h]
  rfl

/-- What the move of a part comes to that is no load's and no returning value's. -/
theorem exec_storePerform (hk : o.kind ≠ .load) (hv : o.kind ≠ .value) (h : Unheld s c o j p) :
    exec (.storePerform c (k, j)) s = happened (s.movePart c k j) := by
  show execStorePerform c (k, j) s = _
  rw [execStorePerform, if_neg (Nat.not_le.mpr hc)]
  simp only [ho, moveOf_of_unheld ho hj hp h]

theorem exec_storePerform_held (hk : o.kind ≠ .load) (hv : o.kind ≠ .value) (h : ¬ Unheld s c o j p) :
    NotNow (.storePerform c (k, j)) s := by
  show execStorePerform c (k, j) s = _
  rw [execStorePerform, if_neg (Nat.not_le.mpr hc)]
  simp only [ho, moveOf_of_held hj hp h]
  rfl

theorem exec_store (hk : o.kind = .store) (h : Unheld s c o j p) : exec (.storePerform c (k, j)) s = happened (s.advanceStore c o j p) := by
  have hm := (canMove_iff hp).mpr h
  rw [exec_storePerform hc ho hj hp (by simp [hk]) (by simp [hk]) h]
  simp only [State.movePart, ho, hj, hm, hk, if_true]

theorem exec_write (hk : o.kind = .tagset ∨ o.kind = .log) (h : Unheld s c o j p) :
    exec (.storePerform c (k, j)) s = happened (s.performStore c o j p) := by
  have hm := (canMove_iff hp).mpr h
  rcases hk with hk | hk <;>
  · rw [exec_storePerform hc ho hj hp (by simp [hk]) (by simp [hk]) h]
    simp only [State.movePart, ho, hj, hm, hk, if_true]

theorem exec_atomic (hk : o.kind = .atomic) (h : Unheld s c o j p) :
    exec (.storePerform c (k, j)) s = happened (s.performAtomic c o p) := by
  have hm := (canMove_iff hp).mpr h
  rw [exec_storePerform hc ho hj hp (by simp [hk]) (by simp [hk]) h]
  simp only [State.movePart, ho, hj, hm, hk, if_true]

end

/-! A part of a write performs -/

/-- Part `j` of a write has performed: with the last part the access is gone and counts down (R64). -/
def partDone (s : State) (c : Nat) (o : Out) (j : Nat) (p : OutPart) : State :=
  let u := s.forgetSupplier o.id j
  if (o.did j p).finished then (u.dropOut c o.id).modCtx c o.ctx (fun t => { t with st := t.st - o.kind.stores }) else u.setOut c (o.did j p)

/-- What a part writes as it performs: the lock of its granule, or its bytes (R175, R419). -/
def written (s : State) (o : Out) (p : OutPart) : State :=
  match o.kind with
  | .tagset => p.pieces.foldl (fun (s : State) q => s.setLock (q.pa / 32) (BitVec.ofNat 4 q.val) o.id) s
  | _ => p.pieces.foldl (fun (s : State) q => s.writeMem q.pa q.len q.val) s

theorem performStore_eq (s : State) (c : Nat) (o : Out) (j : Nat) (p : OutPart) : s.performStore c o j p = partDone (written s o p) c o j p := rfl

theorem mem_partDone (s : State) (c : Nat) (o : Out) (j : Nat) (p : OutPart) : (partDone s c o j p).mem = s.mem := by
  unfold partDone
  dsimp only
  split <;> rfl

theorem locks_partDone (s : State) (c : Nat) (o : Out) (j : Nat) (p : OutPart) : (partDone s c o j p).locks = s.locks := by
  unfold partDone
  dsimp only
  split <;> rfl

theorem partDone_last (s : State) (c : Nat) {o : Out} {j : Nat} (p : OutPart) (h : OthersDone o j) :
    ((partDone s c o j p).core c).outs = (s.core c).outs.filter (fun q => q.id ≠ o.id) ∧
    ((partDone s c o j p).ctx c o.ctx).st = (s.ctx c o.ctx).st - o.kind.stores := by
  have hkeeps := keepsAccesses_forgetSupplier s o.id j
  rw [partDone, if_pos ((finished_did_iff o j p).mpr h)]
  refine ⟨?_, ?_⟩
  · rw [outs_modCtx, outs_dropOut, hkeeps.outs]
  · rw [ctx_modCtx_self, ctx_dropOut]
    exact congrArg (· - o.kind.stores) hkeeps.st

theorem partDone_not_last (s : State) (c : Nat) {o : Out} {j : Nat} (p : OutPart) (h : ¬ OthersDone o j) :
    ((partDone s c o j p).core c).outs = (s.core c).outs.map (fun q => if q.id = o.id then o.did j p else q) ∧
    ((partDone s c o j p).ctx c o.ctx).st = (s.ctx c o.ctx).st := by
  have hkeeps := keepsAccesses_forgetSupplier s o.id j
  rw [partDone, if_neg (mt (finished_did_iff o j p).mp h)]
  refine ⟨?_, ?_⟩
  · rw [outs_setOut, hkeeps.outs]
    rfl
  · rw [ctx_setOut]
    exact hkeeps.st

section
variable {s : State} {c j : Nat} {o : Out} {p : OutPart} {pc : Piece} (hp : p.pieces = [pc])
include hp

theorem performStore_write (hk : o.kind ≠ .tagset) :
    s.performStore c o j p = partDone (s.writeMem pc.pa pc.len pc.val) c o j p := by
  rw [performStore_eq, written, hp]
  split
  · exact absurd (by assumption) hk
  · rfl

theorem performStore_lock (hk : o.kind = .tagset) :
    s.performStore c o j p = partDone (s.setLock (pc.pa / 32) (BitVec.ofNat 4 pc.val) o.id) c o j p := by
  rw [performStore_eq, written, hp, hk]
  rfl

theorem lastStage_of_one (c : Nat) : p.lastStage c = stagesTo c pc.pa := by
  simp [OutPart.lastStage, hp]

/-- A store that performs, or a log write, writes its bytes and no other (R175, R233). -/
theorem performStore_writes (hk : o.kind ≠ .tagset) :
    Holds (s.performStore c o j p) pc.pa pc.len pc.val ∧ SameMemBut s (s.performStore c o j p) pc.pa pc.len := by
  rw [performStore_write hp hk]
  have hbyte : ∀ a, (partDone (s.writeMem pc.pa pc.len pc.val) c o j p).byte a = (s.writeMem pc.pa pc.len pc.val).byte a :=
    fun a => congrArg (fun m => Memory.byte m a) (mem_partDone _ c o j p)
  refine ⟨fun i hi => ?_, fun a ha => (hbyte a).trans (State.byte_writeMem_outside s _ _ _ _ ha)⟩
  rw [hbyte, State.byte_writeMem_inside s _ _ _ _ (Nat.le_add_right _ _) (Nat.add_lt_add_left hi _), Nat.add_sub_cancel_left]

/-- A lock write that performs sets the lock of its granule (R419). -/
theorem performStore_locks (hk : o.kind = .tagset) (hal : pc.pa % 32 = 0) (a : Nat) :
    (s.performStore c o j p).lock a = if pc.pa ≤ a ∧ a < pc.pa + 32 then BitVec.ofNat 4 pc.val else s.lock a := by
  rw [performStore_lock hp hk, State.lock, locks_partDone]
  by_cases h : a / 32 = pc.pa / 32
  · rw [if_pos (by omega), h]
    exact Tab.get_set_self _ _ _ _
  · rw [if_neg (by omega)]
    exact Tab.get_set_ne _ _ _ _ _ h

/-- With its last part a write is gone and counts down; before that its part is done (R64). -/
theorem performStore_counts :
    (OthersDone o j → ((s.performStore c o j p).core c).outs = (s.core c).outs.filter (fun q => q.id ≠ o.id) ∧
      ((s.performStore c o j p).ctx c o.ctx).st = (s.ctx c o.ctx).st - o.kind.stores) ∧
    (¬ OthersDone o j → ((s.performStore c o j p).core c).outs = (s.core c).outs.map (fun q => if q.id = o.id then o.did j p else q) ∧
      ((s.performStore c o j p).ctx c o.ctx).st = (s.ctx c o.ctx).st) := by
  by_cases hk : o.kind = .tagset
  · rw [performStore_lock hp hk]
    exact ⟨partDone_last (s.setLock _ _ _) c p, partDone_not_last (s.setLock _ _ _) c p⟩
  · rw [performStore_write hp hk]
    exact ⟨partDone_last (s.writeMem _ _ _) c p, partDone_not_last (s.writeMem _ _ _) c p⟩

end

/-! A pending write gets its value -/

theorem mem_commitList_of_unreleased {now : Nat} {xw : Tab Nat} {w : Pend} (hw : w.released = false) (ps : List Pend) (regs : Tab Word)
    (h : w ∈ ps) : w ∈ (commitList now xw ps regs).1 := by
  induction ps generalizing regs with
  | nil => exact h
  | cons p r ih =>
    rw [commitList]
    split
    · split
      · rename_i hp
        rcases List.mem_cons.mp h with rfl | hr
        · simp [hw] at hp
        · exact ih _ hr
      · exact h
    · exact h

/-- A write that is not released stays pending (R60). -/
theorem mem_commit_of_unreleased {t : Ctx} {w : Pend} (h : w ∈ t.pend) (hw : w.released = false) (now : Nat) : w ∈ (t.commit now).pend := by
  unfold Ctx.commit
  split
  · exact h
  · exact mem_commitList_of_unreleased hw _ _ h

/-- The value reaches its pending write (R64). -/
theorem mem_deliver {t : Ctx} {w : Pend} {seq r : Nat} {v : Word} (h : w ∈ t.pend) (hseq : w.seq = seq) (hslot : w.slot = 3)
    (hreg : w.reg = r) (hval : w.val = none) (hw : w.released = false) : { w with val := some v } ∈ (t.deliver seq r v).pend := by
  refine mem_commit_of_unreleased (w := { w with val := some v }) ?_ hw 0
  exact List.mem_map.mpr ⟨w, h, if_pos (by simp [hseq, hslot, hreg, hval])⟩

theorem deliver_frame (t : Ctx) (seq r : Nat) (v : Word) : (t.deliver seq r v).ld = t.ld ∧ (t.deliver seq r v).csr = t.csr := by
  unfold Ctx.deliver
  rw [commit_frame]
  exact ⟨rfl, rfl⟩

end Sys2Proof
end

section
/-! The moves of outstanding accesses, each with what it changes (R64, R178, R179, R193, R194, R304). -/

namespace Sys2Proof

open Machine

/-! A load reads and returns -/

section
variable {s : State} {c k j : Nat} {o : Out} {p : OutPart} {pc : Piece} (hp : p.pieces = [pc])

/-- The part with the bytes that its read gets (R178). -/
def readOf (s : State) (c : Nat) (o : Out) (p : OutPart) (pc : Piece) : OutPart :=
  { p with pieces := [{ pc with val := s.readFor c o.ctx o.id pc.pa pc.len }] }

include hp

/-- A part of a load that reads is done; with the last part the load returns. -/
theorem readPart_eq (hk : o.kind = .load) : ∃ u, KeepsAccesses (s.setOut c (o.did j (readOf s c o p pc))) u ∧
    s.readPart c o j p = if (o.did j (readOf s c o p pc)).finished then u.finishLoad c (o.did j (readOf s c o p pc)) else u := by
  rw [← setPart_of_load hk, State.readPart, hp]
  exact ⟨_, (keepsAccesses_noteSuppliers _ c o.ctx _ o.id pc.pa pc.len).trans (keepsAccesses_correct _ pc.pa pc.len), rfl⟩

theorem readPart_not_last (hk : o.kind = .load) (h : ¬ OthersDone o j) :
    SameMem s (s.readPart c o j p) ∧ ((s.readPart c o j p).ctx c o.ctx).ld = (s.ctx c o.ctx).ld ∧
    ((s.readPart c o j p).core c).outs = (s.core c).outs.map (fun q => if q.id = o.id then o.did j (readOf s c o p pc) else q) := by
  obtain ⟨u, hu, he⟩ := readPart_eq (s := s) (c := c) (j := j) hp hk
  rw [he, if_neg (mt (finished_did_iff _ _ _).mp h)]
  refine ⟨hu.sameMem, ?_, (hu.outs c).trans (outs_setOut _ _ _)⟩
  rw [hu.ld, ctx_setOut]

omit hp in
/-- A scalar load that has been read is gone, and its value is in its pending write (R64, R401). -/
theorem finishLoad_sld {d : BitVec 6} {b : BitVec 4} {z : BitVec 3} {y : BitVec 1} {i : BitVec 12} (hi : o.op.ins = .sld d b z y i) :
    s.finishLoad c o = ((s.dropOut c o.id).modCtx c o.ctx (fun t => { t with ld := t.ld - 1 })).modCtx c o.ctx (fun t =>
      t.deliver o.op.seq (sreg d) (extend (2 ^ z.toNat) (y = 1) (pieceValue (o.parts.flatMap OutPart.pieces) 0))) := by
  unfold State.finishLoad
  simp only [hi]

theorem sld_returns {d : BitVec 6} {b : BitVec 4} {z : BitVec 3} {y : BitVec 1} {i : BitVec 12} (hk : o.kind = .load)
    (hi : o.op.ins = .sld d b z y i) (hparts : o.parts = [p]) (hlen : pc.len = 2 ^ z.toNat) (hoff : pc.off = 0) (hj : j = 0) :
    ((s.readPart c o j p).core c).outs = (s.core c).outs.filter (fun q => q.id ≠ o.id) ∧ SameMem s (s.readPart c o j p) ∧
    ((s.readPart c o j p).ctx c o.ctx).ld = (s.ctx c o.ctx).ld - 1 ∧
    ∀ w ∈ (s.ctx c o.ctx).pend, w.seq = o.op.seq → w.slot = 3 → w.reg = sreg d → w.val = none → w.released = false →
      { w with val := some (extend pc.len (y = 1) (s.readFor c o.ctx o.id pc.pa pc.len)) } ∈ ((s.readPart c o j p).ctx c o.ctx).pend := by
  subst hj
  obtain ⟨u, hu, he⟩ := readPart_eq (s := s) (c := c) (j := 0) hp hk
  have hlast : OthersDone o 0 := fun i q hq hne => by
    rw [hparts, List.getElem?_cons] at hq
    simp [hne] at hq
  have hvalue : pieceValue ((o.did 0 (readOf s c o p pc)).parts.flatMap OutPart.pieces) 0 = s.readFor c o.ctx o.id pc.pa pc.len := by
    rw [← setPart_of_load hk, Out.setPart, hparts]
    simp [readOf, pieceValue, hoff]
  have hid : (o.did 0 (readOf s c o p pc)).id = o.id := rfl
  rw [he, if_pos ((finished_did_iff _ _ _).mpr hlast), finishLoad_sld (o := o.did 0 (readOf s c o p pc)) hi, hvalue, ← hlen]
  refine ⟨?_, fun a => hu.sameMem a, ?_, fun w hw hseq hslot hreg hval hrel => ?_⟩
  · rw [outs_modCtx, outs_modCtx, outs_dropOut, hu.outs, outs_setOut]
    exact filter_map_replaced _ (o.did 0 (readOf s c o p pc))
  · show ((State.modCtx _ c o.ctx _).ctx c o.ctx).ld = _
    rw [ctx_modCtx_self, (deliver_frame _ _ _ _).1]
    show ((State.modCtx _ c o.ctx _).ctx c o.ctx).ld = _
    rw [ctx_modCtx_self, ctx_dropOut]
    show (u.ctx c o.ctx).ld - 1 = _
    rw [hu.ld, ctx_setOut]
  · show _ ∈ ((State.modCtx _ c o.ctx _).ctx c o.ctx).pend
    rw [ctx_modCtx_self]
    refine mem_deliver ?_ hseq hslot hreg hval hrel
    show w ∈ ((State.modCtx _ c o.ctx _).ctx c o.ctx).pend
    rw [ctx_modCtx_self, ctx_dropOut]
    show w ∈ (u.ctx c o.ctx).pend
    rw [hu.pend, ctx_setOut]
    exact hw

end

/-! A store goes on to the next buffer -/

section
variable {s : State} {c j : Nat} {o : Out} {p : OutPart} {pc : Piece} (hp : p.pieces = [pc])
include hp

theorem advanceStore_home (h : stagesTo c pc.pa ≤ p.stage) : s.advanceStore c o j p = s.performStore c o j p :=
  if_neg (by rw [lastStage_of_one hp]; omega)

theorem advanceStore_on (h : p.stage < stagesTo c pc.pa) : s.advanceStore c o j p =
    { s.setOut c (o.setPart j { p with stage := p.stage + 1, stamp := s.nextOut }) with nextOut := s.nextOut + 1 } :=
  if_pos (by rw [lastStage_of_one hp]; exact h)

end

/-! An atomic performs, and its old value returns -/

section
variable {s : State} {c : Nat} {o : Out} {p : OutPart} {pc : Piece} {op : AtomicOp} {f : Nat} {d : BitVec 6} {w w' new : Nat} {fl : BitVec 6}

theorem holds_readMem {t : State} (hm : MemOk s) (ht : t.mem = s.mem) (pa n : Nat) : Holds t pa n (s.readMem pa n) := fun i hi =>
  (congrArg (fun m => Memory.byte m (pa + i)) ht).trans (Memory.read_byte s.mem hm pa n i hi).symm

/-- An atomic leaves its word's bytes with the new value, and every other byte (R194, R304). -/
theorem doAtomic_writes (hm : MemOk s) (hoff : pc.off = 0)
    (hnew : atomicNew op f (8 * pc.len) (s.readMem pc.pa pc.len) (w % 2 ^ (8 * pc.len)) (w' % 2 ^ (8 * pc.len)) = (new, fl)) :
    ∃ v, s.doAtomic op f pc.len [pc] w w' = (v, s.readMem pc.pa pc.len, fl) ∧ v.cores = s.cores ∧ Holds v pc.pa pc.len new ∧
      SameMemBut s v pc.pa pc.len := by
  have hval : pieceValue [{ pc with val := s.readMem pc.pa pc.len }] 0 = s.readMem pc.pa pc.len := by simp [pieceValue, hoff]
  have hcores := cores_correct s pc.pa pc.len
  have hmem := mem_correct s pc.pa pc.len
  unfold State.doAtomic
  simp only [List.map_cons, List.map_nil, List.foldl_cons, List.foldl_nil, hval, hnew, State.writePieces]
  refine ⟨_, rfl, ?_⟩
  split
  · rename_i he
    rw [he]
    exact ⟨hcores, holds_readMem hm hmem _ _, fun a _ => congrArg (fun m => Memory.byte m a) hmem⟩
  · rw [hoff]
    refine ⟨hcores, fun i hi => ?_, fun a ha => ?_⟩
    · rw [State.byte_writeMem_inside _ _ _ _ _ (Nat.le_add_right _ _) (Nat.add_lt_add_left hi _), Nat.add_sub_cancel_left]
      rfl
    · rw [State.byte_writeMem_outside _ _ _ _ _ ha]
      exact congrArg (fun m => Memory.byte m a) hmem

theorem performAtomic_eq (hp : p.pieces = [pc]) (hop : atomicOf o.op.ins = some (op, f, d)) (hvals : o.vals = [w, w']) {v : State} {m : Nat}
    (h : s.doAtomic op f pc.len [pc] w w' = (v, m, fl)) :
    s.performAtomic c o p = (v.setOut c { o with kind := .value, parts := [{ p with done := true }], vals := [m, fl.toNat] }).modCtx c o.ctx
      (fun t => { t with st := t.st - 1 }) := by
  have hlen : [pc].foldl (fun n q => n + q.len) 0 = pc.len := Nat.zero_add _
  unfold State.performAtomic
  simp only [hop, hp, hvals, hlen, List.headD_cons, List.getD_cons_succ, List.getD_cons_zero, h]

/-- An atomic changes its word, counts in st no more, and its old value is on its way (R193, R194, R304). -/
theorem performAtomic_performs (hm : MemOk s) (hp : p.pieces = [pc]) (hoff : pc.off = 0) (hop : atomicOf o.op.ins = some (op, f, d))
    (hvals : o.vals = [w, w'])
    (hnew : atomicNew op f (8 * pc.len) (s.readMem pc.pa pc.len) (w % 2 ^ (8 * pc.len)) (w' % 2 ^ (8 * pc.len)) = (new, fl)) :
    Holds (s.performAtomic c o p) pc.pa pc.len new ∧ SameMemBut s (s.performAtomic c o p) pc.pa pc.len ∧
    ((s.performAtomic c o p).ctx c o.ctx).st = (s.ctx c o.ctx).st - 1 ∧ ((s.performAtomic c o p).ctx c o.ctx).ld = (s.ctx c o.ctx).ld ∧
    ((s.performAtomic c o p).core c).outs = (s.core c).outs.map (fun q => if q.id = o.id then
      { o with kind := .value, parts := [{ p with done := true }], vals := [s.readMem pc.pa pc.len, fl.toNat] } else q) := by
  obtain ⟨v, hv, hcores, hholds, hsame⟩ := doAtomic_writes hm hoff hnew
  have hcore : ∀ d, v.core d = s.core d := fun d => congrArg (fun t : Tab Core => t.get d Core.reset) hcores
  rw [performAtomic_eq hp hop hvals hv]
  refine ⟨hholds, hsame, ?_, ?_, ?_⟩
  · rw [ctx_modCtx_self, ctx_setOut, State.ctx, hcore]
    rfl
  · rw [ctx_modCtx_self, ctx_setOut, State.ctx, hcore]
    rfl
  · rw [outs_modCtx, outs_setOut, hcore]

/-- The old value of an atomic returns, and its flags with it (R193, R304). -/
theorem returnValue_returns {e : AtomicOp} {m g : Nat} (hop : atomicOf o.op.ins = some (e, f, d)) (hvals : o.vals = [m, g]) :
    ((s.returnValue c o).core c).outs = (s.core c).outs.filter (fun q => q.id ≠ o.id) ∧ SameMem s (s.returnValue c o) ∧
    ((s.returnValue c o).ctx c o.ctx).ld = (s.ctx c o.ctx).ld - 1 ∧
    ((s.returnValue c o).ctx c o.ctx).csr.fpcsr = (s.ctx c o.ctx).csr.fpcsr ||| BitVec.ofNat 6 g ∧
    ∀ w ∈ (s.ctx c o.ctx).pend, w.seq = o.op.seq → w.slot = 3 → w.reg = sreg d → w.val = none → w.released = false →
      { w with val := some (BitVec.ofNat 64 m) } ∈ ((s.returnValue c o).ctx c o.ctx).pend := by
  unfold State.returnValue
  simp only [hop, hvals, List.headD_cons, List.getD_cons_succ, List.getD_cons_zero]
  refine ⟨?_, fun _ => rfl, ?_, ?_, fun w hw hseq hslot hreg hval hrel => ?_⟩
  · rw [outs_modCtx, outs_dropOut]
  · rw [ctx_modCtx_self, (deliver_frame _ _ _ _).1, ctx_dropOut]
  · rw [ctx_modCtx_self, (deliver_frame _ _ _ _).2, ctx_dropOut]
  · rw [ctx_modCtx_self]
    refine mem_deliver ?_ hseq hslot hreg hval hrel
    rw [ctx_dropOut]
    exact hw

end

end Sys2Proof
end

section
/-! An access that meets a deferred fault (R210, R212, R213): which access of a context that is; what its undoing leaves; what the context takes. -/

namespace Sys2Proof

open Machine

/-! The access that meets the fault -/

section
variable {s : State} {c k : Nat} {o : Out} {e : Nat × Nat × Word}

/-- The step of the search for the oldest access of context `x` that meets a fault. -/
def firstDeferred (s : State) (c x : Nat) (r : Option (Out × Nat × Nat × Word)) (o : Out) : Option (Out × Nat × Nat × Word) :=
  match r with
  | some _ => r
  | none => if o.ctx = x then (s.outFault c o).map (fun e => (o, e)) else none

theorem foldl_firstDeferred_some (x : Nat) (l : List Out) (r : Out × Nat × Nat × Word) :
    l.foldl (firstDeferred s c x) (some r) = some r := by
  induction l with
  | nil => rfl
  | cons q l ih => exact ih

/-- Where the first access of a context meets a fault, it is the one that does. -/
theorem foldl_firstDeferred (l : List Out) (h : l.find? (fun q => q.id = k) = some o) (hf : s.outFault c o = some e)
    (hall : ∀ q ∈ l, q.ctx = o.ctx → q.id = k) : l.foldl (firstDeferred s c o.ctx) none = some (o, e) := by
  induction l with
  | nil => cases h
  | cons q l ih =>
    by_cases hq : q.id = k
    · rw [List.find?_cons_of_pos (by simpa using hq)] at h
      obtain rfl := Option.some.inj h
      rw [List.foldl_cons]
      simpa [firstDeferred, hf] using foldl_firstDeferred_some _ _ _
    · rw [List.find?_cons_of_neg (by simpa using hq)] at h
      have hne : q.ctx ≠ o.ctx := fun hx => hq (hall q List.mem_cons_self hx)
      rw [List.foldl_cons]
      simpa [firstDeferred, hne] using ih h (fun r hr => hall r (List.mem_cons_of_mem _ hr))

theorem deferred_of_only (ho : s.out c k = some o) (hf : s.outFault c o = some e) (hall : ∀ q ∈ (s.core c).outs, q.ctx = o.ctx → q.id = k) :
    s.deferred c o.ctx = some (o, e) := foldl_firstDeferred _ ho hf hall

end

/-! Undoing it -/

theorem mem_insertOp (o : QOp) (q : List QOp) : o ∈ insertOp o q := by
  induction q with
  | nil => exact List.mem_cons_self
  | cons p r ih =>
    rw [insertOp]
    split
    · exact List.mem_cons_of_mem _ ih
    · exact List.mem_cons_self

/-- The context of an access that is undone outside a handler (R212). -/
def undone (t : Ctx) (o : Out) : Ctx :=
  { t with
    ld := t.ld - o.kind.loads, st := t.st - o.kind.stores
    pend := t.pend.filter (fun p => !(p.seq = o.op.seq && p.slot = 3 && p.val.isNone))
    lq := insertOp o.op t.lq }

section
variable {s : State} {c : Nat} {o : Out}

theorem ctx_undoOut (hh : (s.ctx c o.ctx).handler = none) : (s.undoOut c o).ctx c o.ctx = undone (s.ctx c o.ctx) o := by
  unfold State.undoOut
  rw [ctx_modCtx_self, ctx_dropOut]
  dsimp only
  split
  · rename_i h heq
    exact absurd (hh.symm.trans heq) nofun
  · rfl

theorem outs_undoOut : ((s.undoOut c o).core c).outs = (s.core c).outs.filter (fun q => q.id ≠ o.id) := by
  unfold State.undoOut
  rw [outs_modCtx, outs_dropOut]

end

/-! The stop of a context with nothing outstanding -/

theorem landAir_frame (k : Core) (e : Air) : (k.landAir e).outs = k.outs ∧ (k.landAir e).ctxs = k.ctxs := by
  unfold Core.landAir Core.setRes
  dsimp only
  repeat' split
  all_goals exact ⟨rfl, rfl⟩

theorem foldl_frame {α : Type} {g : Core → α → Core} (hg : ∀ k a, (g k a).outs = k.outs ∧ (g k a).ctxs = k.ctxs) (l : List α) (k : Core) :
    (l.foldl g k).outs = k.outs ∧ (l.foldl g k).ctxs = k.ctxs := by
  induction l generalizing k with
  | nil => exact ⟨rfl, rfl⟩
  | cons a r ih => exact ⟨(ih _).1.trans (hg k a).1, (ih _).2.trans (hg k a).2⟩

theorem landCtx_frame (k : Core) (x : Nat) : (k.landCtx x).outs = k.outs ∧ (k.landCtx x).ctxs = k.ctxs := by
  refine foldl_frame (fun k e => ?_) _ _
  split
  · exact landAir_frame _ _
  · exact ⟨rfl, rfl⟩

/-- A context whose pending writes have all been released, and whose flags have all been raised (R210). -/
def quieted (t : Ctx) : Ctx :=
  (Ctx.commit { t with pend := t.pend.map (fun p => { p with ready := 0, released := true }), late := [], fetchAt := 0 } 0).allFlags

section
variable {s : State} {c x : Nat}

theorem setCore_same {k : Core} (houts : k.outs = (s.core c).outs) (hctxs : k.ctxs = (s.core c).ctxs) :
    ((s.setCore c k).core c).outs = (s.core c).outs ∧ (s.setCore c k).ctx c x = s.ctx c x := by
  rw [State.ctx, State.core_setCore_self, Core.ctx, hctxs]
  exact ⟨houts, rfl⟩

/-- The writes of context `x` and its rows in flight have landed (R210). -/
def landed (s : State) (c x : Nat) : State :=
  let k := (s.core c).landCtx x
  let u := s.setCore c k
  if k.arr.owner = some x then u.setCore c { k with arr := { k.arr with inflight := [], latch := k.arr.latch ++ k.arr.inflight } } else u

theorem landed_frame (s : State) (c x : Nat) : landed s c x = { s with cores := (landed s c x).cores } ∧
    ((landed s c x).core c).outs = (s.core c).outs ∧ (landed s c x).ctx c x = s.ctx c x := by
  obtain ⟨houts, hctxs⟩ := landCtx_frame (s.core c) x
  obtain ⟨houts', hctx'⟩ := setCore_same (x := x) houts hctxs
  unfold landed
  dsimp only
  split
  · have hk : (s.setCore c ((s.core c).landCtx x)).core c = (s.core c).landCtx x := State.core_setCore_self _ _ _
    obtain ⟨houts'', hctx''⟩ := setCore_same (s := s.setCore c ((s.core c).landCtx x)) (c := c) (x := x)
      (k := { (s.core c).landCtx x with arr := { ((s.core c).landCtx x).arr with
        inflight := [], latch := ((s.core c).landCtx x).arr.latch ++ ((s.core c).landCtx x).arr.inflight } })
      (by rw [hk]) (by rw [hk])
    exact ⟨rfl, houts''.trans houts', hctx''.trans hctx'⟩
  · exact ⟨rfl, houts', hctx'⟩

/-- What a precise stop changes of a context that holds nothing and has nothing outstanding. -/
theorem quiesce_settled (hh : (s.ctx c x).hold = .none) (he : (s.ctx c x).ended = false) (ho : ∀ a ∈ (s.core c).outs, a.ctx ≠ x) :
    (s.quiesce c x).1 = landed (s.modCtx c x quieted) c x := by
  have hd : s.dropHold c x = s := by simp [State.dropHold, hh]
  have hf : (s.core c).outs.filter (fun o => o.ctx = x) = [] := by simpa using ho
  simp only [State.quiesce, hd, he, hf, settleOuts, Bool.false_eq_true, if_false]
  rfl

/-! The fault that the context takes -/

/-- A stop has the fault in the context's registers (R209). -/
def faulted (t : Ctx) (o : Out) (code info : Nat) (ptr : Word) : Ctx :=
  { t with csr := { t.csr with
    fpc := o.op.addr, faddr := ptr, finfo := BitVec.ofNat 64 (code + o.op.slot <<< 8 + info), done := t.doneOf o.op.seq } }

theorem traceStop_off (h : bit (s.owl (towerOf c)).trctl 0 = false) (addr : Word) (slot code why : Nat) :
    s.traceStop c x addr slot code why = s := by
  unfold State.traceStop State.traceRecord
  simp [h]

/-- The state with the fault in the registers of the stopped context, and nothing traced. -/
def stoppedWith (s : State) (c x : Nat) (o : Out) (code info : Nat) (ptr : Word) : State :=
  (s.quiesce c x).1.setCtx c x (faulted ((s.quiesce c x).1.ctx c x) o code info ptr)

/-- The context enters its handler, or stays stopped and reports (R213, R215). -/
def entered (u : State) (c x : Nat) (t : Ctx) : State :=
  if t.hvec ≠ 0 && t.handler.isNone then u.modCtx c x Ctx.enterHandler
  else (u.halt c x 1).postRecord (towerOf c) ((u.halt c x 1).faultRecord c x t.handler.isSome false 0)

section
variable (hh : (s.ctx c x).hold = .none) (he : (s.ctx c x).ended = false) (ho : ∀ a ∈ (s.core c).outs, a.ctx ≠ x)
  (hg : ∀ sp, (s.ctx c x).span = some sp → sp.gang = none) (htr : bit (s.owl (towerOf c)).trctl 0 = false) {o : Out} {code info : Nat}
  {ptr : Word}
include hh he ho

theorem stoppedWith_frame : (stoppedWith s c x o code info ptr).mem = s.mem ∧ (stoppedWith s c x o code info ptr).towers = s.towers ∧
    ((stoppedWith s c x o code info ptr).core c).outs = (s.core c).outs ∧
    (stoppedWith s c x o code info ptr).ctx c x = faulted (quieted (s.ctx c x)) o code info ptr := by
  obtain ⟨hs, houts, hctx⟩ := landed_frame (s.modCtx c x quieted) c x
  unfold stoppedWith
  rw [quiesce_settled hh he ho, State.ctx_setCtx_self, hctx, ctx_modCtx_self]
  refine ⟨?_, ?_, ?_, rfl⟩
  · exact (congrArg State.mem hs).trans rfl
  · exact (congrArg State.towers hs).trans rfl
  · rw [core_setCtx_self]
    exact houts.trans (outs_modCtx s c x c _)

include hg htr

theorem takeFault_eq : s.takeFault c x o.op.slot o.op.seq o.op.addr code ptr info true 0 false =
    entered (stoppedWith s c x o code info ptr) c x (faulted (quieted (s.ctx c x)) o code info ptr) := by
  obtain ⟨-, htowers, -, hctx⟩ := stoppedWith_frame (o := o) (code := code) (info := info) (ptr := ptr) hh he ho
  have hoff : (stoppedWith s c x o code info ptr).traceStop c x o.op.addr o.op.slot code 0 = stoppedWith s c x o code info ptr := by
    refine traceStop_off ?_ _ _ _ _
    rw [State.owl, State.tower, htowers]
    exact htr
  have hfault : faulted ((s.quiesce c x).1.ctx c x) o code info ptr = faulted (quieted (s.ctx c x)) o code info ptr :=
    (State.ctx_setCtx_self _ _ _ _).symm.trans hctx
  rw [← hfault, ← hoff]
  simp only [State.takeFault, stopPick_of_settled hh he ho, gangAbort_of_no_gang (c, x) code hg, Bool.not_false, Bool.and_true,
    Bool.false_and, Bool.false_eq_true, if_false, if_true, entered, stoppedWith, faulted]
  generalize (s.quiesce c x).1 = q
  rfl

end

theorem ctx_halt (u : State) (c x reason : Nat) :
    (u.halt c x reason).ctx c x = { u.ctx c x with stopped := true, stopReason := reason, replay := (u.ctx c x).seq } := by
  unfold State.halt
  rw [ctx_modCore_of_ctxs, ctx_modCtx_self]
  intro k
  split <;> rfl

theorem outs_halt (u : State) (c x reason : Nat) : ((u.halt c x reason).core c).outs = (u.core c).outs := by
  unfold State.halt
  rw [core_modCore_self]
  refine Eq.trans ?_ (outs_modCtx u c x c (fun t => { t with stopped := true, stopReason := reason, replay := t.seq }))
  split <;> rfl

/-- What the fault leaves of a context: its counters, its registers and its window, which its handler sets aside if it has one (R213). -/
theorem entered_shows (u : State) (c x : Nat) {t : Ctx} (hx : u.ctx c x = t) (hhandler : t.handler = none) :
    (entered u c x t).mem = u.mem ∧ ((entered u c x t).core c).outs = (u.core c).outs ∧ ((entered u c x t).ctx c x).csr = t.csr ∧
    ((entered u c x t).ctx c x).ld = t.ld ∧ ((entered u c x t).ctx c x).st = t.st ∧
    (t.hvec = 0 → ((entered u c x t).ctx c x).lq = t.lq) ∧
    (t.hvec ≠ 0 → ∃ h, ((entered u c x t).ctx c x).handler = some h ∧ h.lq = t.lq) := by
  unfold entered
  by_cases hv : t.hvec = 0
  · rw [if_neg (by simp [hv])]
    have hctx := ctx_halt u c x 1
    rw [hx] at hctx
    have hlq : ((u.halt c x 1).ctx c x).lq = t.lq := by rw [hctx]
    refine ⟨rfl, outs_halt u c x 1, ?_, ?_, ?_, fun _ => hlq, fun h => absurd hv h⟩
    all_goals exact (congrArg _ hctx).trans rfl
  · rw [if_pos (by simpa [hhandler] using hv), outs_modCtx, ctx_modCtx_self, hx]
    exact ⟨rfl, rfl, rfl, rfl, rfl, fun h => absurd h hv, fun _ => ⟨_, rfl, rfl⟩⟩

end

/-! What the context shows of it -/

/-- An operation that waits for no value stays as it is where values are supplied (R56). -/
theorem mem_commit_lq {t : Ctx} {o : QOp} (h : o ∈ t.lq) (hl : o.links = []) (now : Nat) : o ∈ (t.commit now).lq := by
  unfold Ctx.commit
  split
  · exact h
  · exact List.mem_map.mpr ⟨o, h, if_pos (by simp [hl])⟩

theorem quieted_frame (t : Ctx) : (quieted t).ld = t.ld ∧ (quieted t).st = t.st ∧ (quieted t).hvec = t.hvec ∧
    (quieted t).handler = t.handler := by
  unfold quieted Ctx.allFlags
  rw [commit_frame]
  exact ⟨rfl, rfl, rfl, rfl⟩

theorem mem_quieted_lq {t : Ctx} {o : QOp} (h : o ∈ t.lq) (hl : o.links = []) : o ∈ (quieted t).lq :=
  mem_commit_lq (t := { t with pend := t.pend.map (fun p => { p with ready := 0, released := true }), late := [], fetchAt := 0 }) h hl 0

section
variable {s : State} {c k : Nat} {o : Out} {code info : Nat} {ptr : Word}

theorem exec_deferredFault (hc : c < numCores) (hx : o.ctx < numCtxs) (ho : s.out c k = some o)
    (hf : s.outFault c o = some (code, info, ptr)) (hall : ∀ q ∈ (s.core c).outs, q.ctx = o.ctx → q.id = k)
    (hs : (s.ctx c o.ctx).stopped = false) (hh : (s.ctx c o.ctx).handler = none) :
    exec (.deferredFault c o.ctx) s =
      happened ((s.undoOut c o).takeFault c o.ctx o.op.slot o.op.seq o.op.addr code ptr info true 0 false) := by
  have hleaves : (s.ctx c o.ctx).leaves o = false := by simp [Ctx.leaves, hs, hh]
  show execDeferredFault c o.ctx s = _
  rw [execDeferredFault, if_neg (by simp; omega)]
  simp only [deferred_of_only ho hf hall, hleaves, Bool.false_eq_true, if_false]

/-- An access that meets a deferred fault is undone, and its context takes the fault (R212). -/
theorem deferredFault_undoes (hc : c < numCores) (hx : o.ctx < numCtxs) (ho : s.out c k = some o)
    (hf : s.outFault c o = some (code, info, ptr)) (hall : ∀ q ∈ (s.core c).outs, q.ctx = o.ctx → q.id = k)
    (hg : ∀ sp, (s.ctx c o.ctx).span = some sp → sp.gang = none) (hhold : (s.ctx c o.ctx).hold = .none)
    (he : (s.ctx c o.ctx).ended = false) (hs : (s.ctx c o.ctx).stopped = false) (hh : (s.ctx c o.ctx).handler = none)
    (htr : bit (s.owl (towerOf c)).trctl 0 = false) :
    ∃ u, exec (.deferredFault c o.ctx) s = .next u ∧ u.last = .issued ∧
      (u.core c).outs = (s.core c).outs.filter (fun q => q.id ≠ k) ∧ SameMem s u ∧ (u.ctx c o.ctx).csr.fpc = o.op.addr ∧
      (u.ctx c o.ctx).csr.faddr = ptr ∧ (u.ctx c o.ctx).csr.finfo = BitVec.ofNat 64 (code + o.op.slot * 256 + info) ∧
      (u.ctx c o.ctx).ld = (s.ctx c o.ctx).ld - o.kind.loads ∧ (u.ctx c o.ctx).st = (s.ctx c o.ctx).st - o.kind.stores ∧
      (o.op.links = [] → ((s.ctx c o.ctx).hvec = 0 → o.op ∈ (u.ctx c o.ctx).lq) ∧
        ((s.ctx c o.ctx).hvec ≠ 0 → ∃ h, (u.ctx c o.ctx).handler = some h ∧ o.op ∈ h.lq)) := by
  have hctx := ctx_undoOut (c := c) hh
  have houts := outs_undoOut (s := s) (c := c) (o := o)
  have hnone : ∀ a ∈ ((s.undoOut c o).core c).outs, a.ctx ≠ o.ctx := fun a ha hax => by
    rw [houts] at ha
    obtain ⟨hmem, hid⟩ := List.mem_filter.mp ha
    exact of_decide_eq_true hid ((hall a hmem hax).trans (id_of_out ho).symm)
  have hhold' : ((s.undoOut c o).ctx c o.ctx).hold = .none := by rw [hctx]; exact hhold
  have he' : ((s.undoOut c o).ctx c o.ctx).ended = false := by rw [hctx]; exact he
  have hg' : ∀ sp, ((s.undoOut c o).ctx c o.ctx).span = some sp → sp.gang = none := by rw [hctx]; exact hg
  obtain ⟨hmem, -, houts', hctx'⟩ := stoppedWith_frame (o := o) (code := code) (info := info) (ptr := ptr) hhold' he' hnone
  rw [hctx] at hctx'
  obtain ⟨hld, hst, hhvec, hhandler⟩ := quieted_frame (undone (s.ctx c o.ctx) o)
  obtain ⟨hm, ho', hcsr, hl, ht, hwin, hset⟩ := entered_shows _ c o.ctx hctx' (hhandler.trans hh)
  have hexec := exec_deferredFault hc hx ho hf hall hs hh
  rw [takeFault_eq hhold' he' hnone hg' htr, hctx] at hexec
  generalize entered _ _ _ _ = v at hexec hm ho' hcsr hl ht hwin hset
  have hop : o.op.links = [] → o.op ∈ (quieted (undone (s.ctx c o.ctx) o)).lq := mem_quieted_lq (mem_insertOp _ _)
  refine ⟨_, hexec, rfl, (ho'.trans houts').trans (houts.trans (by rw [id_of_out ho])),
    fun a => congrArg (fun m => Memory.byte m a) (hm.trans hmem), congrArg Csr.fpc hcsr, congrArg Csr.faddr hcsr, ?_, hl.trans hld, ht.trans hst,
    fun hlinks => ⟨fun hv => ?_, fun hv => ?_⟩⟩
  · exact (congrArg Csr.finfo hcsr).trans (by simp [faulted, Nat.shiftLeft_eq])
  · have hin : o.op ∈ (v.ctx c o.ctx).lq := by
      rw [hwin (hhvec.trans hv)]
      exact hop hlinks
    exact hin
  · obtain ⟨h, hsome, hlq⟩ := hset (fun h0 => hv (hhvec.symm.trans h0))
    exact ⟨h, hsome, hlq ▸ hop hlinks⟩

end

end Sys2Proof
end

section
/-! Outstanding accesses return, perform, or meet their deferred fault: the obligation, from the moves and from the fault. -/

namespace Sys2Proof

open Machine

theorem mem_performStore_lock {s : State} {c j : Nat} {o : Out} {p : OutPart} {pc : Piece} (hp : p.pieces = [pc]) (hk : o.kind = .tagset) :
    (s.performStore c o j p).mem = s.mem := by
  rw [performStore_lock hp hk, mem_partDone]
  rfl

theorem exec_value {s : State} {c k j : Nat} {o : Out} (hc : c < numCores) (ho : s.out c k = some o) (hk : o.kind = .value) :
    exec (.loadValueReturn c (k, j)) s = happened (s.returnValue c o) := by
  show execLoadValueReturn c (k, j) s = _
  rw [execLoadValueReturn, if_neg (Nat.not_le.mpr hc)]
  simp only [ho, hk]

/-- Settles O33: a part moves where it is unheld; each kind's move by its own lemma, and a deferred fault by the access's undoing. -/
theorem accessesReturnAndPerform : Obligations.AccessesReturnAndPerform := by
  unfold Obligations.AccessesReturnAndPerform
  intro s c k o j p pa n off v hc ho hj hp x t clear gone now idle did final counts
  have hne : p.pieces ≠ [] := by rw [hp]; exact List.cons_ne_nil _ _
  obtain rfl : o.id = k := id_of_out ho
  have hdid : ∀ q, o.did j q = did q := fun q => did_eq o j q
  have hcounts : ∀ l, counts { s.performStore c o j p with last := l } o.kind.stores := fun l => by
    have h := performStore_counts (s := s) (c := c) (j := j) (o := o) hp
    rw [hdid] at h
    exact h
  refine ⟨fun d b z y i hk hclear hi hparts hn hoff => ?_, fun hk hclear hlast => ?_, fun hk hclear => ?_, fun hk hclear hstage => ?_,
    fun hk hclear hstage => ?_, fun hk hclear hal hn => ?_, fun hk hclear => ?_, fun w w' d r q b y hm hk hclear hparts hoff hvals => ?_,
    fun hk hclear => ?_, fun m fl d e f hk hop hvals => ?_, fun code info ptr hf hx hall hg hhold he hs hh htr => ?_⟩
  · have hj0 : j = 0 := by
      have hlt := (List.getElem?_eq_some_iff.mp hj).1
      simpa [hparts] using hlt
    exact ⟨_, exec_load hc ho hj hne hk hclear, rfl, sld_returns hp hk hi hparts hn hoff hj0⟩
  · obtain ⟨hmem, hld, houts⟩ := readPart_not_last (s := s) (c := c) (j := j) hp hk hlast
    rw [hdid] at houts
    exact ⟨_, exec_load hc ho hj hne hk hclear, rfl, hmem, hld, houts⟩
  · exact exec_load_held hc ho hj hne hk hclear
  · have hexec := exec_store hc ho hj hne hk hclear
    rw [advanceStore_home hp hstage] at hexec
    obtain ⟨hholds, hsame⟩ := performStore_writes (s := s) (c := c) (j := j) (o := o) hp (by simp [hk])
    have hcount := hcounts .issued
    rw [hk] at hcount
    exact ⟨_, hexec, rfl, hholds, hsame, hcount⟩
  · have hexec := exec_store hc ho hj hne hk hclear
    rw [advanceStore_on hp hstage] at hexec
    exact ⟨_, hexec, rfl, fun _ => rfl, congrArg Ctx.st (ctx_setOut _ _ _ _ _), outs_setOut _ _ _⟩
  · subst hn
    have hcount := hcounts .issued
    rw [hk] at hcount
    exact ⟨_, exec_write hc ho hj hne (.inl hk) hclear, rfl, fun a => congrArg (fun m => Memory.byte m a) (mem_performStore_lock hp hk),
      hcount, performStore_locks hp hk hal⟩
  · have hcount := hcounts .issued
    rw [hk] at hcount
    obtain ⟨hholds, hsame⟩ := performStore_writes (s := s) (c := c) (j := j) (o := o) hp (by simp [hk])
    exact ⟨_, exec_write hc ho hj hne (.inr hk) hclear, rfl, hholds, hsame, hcount⟩
  · intro m sg performs l a a4
    have hperf {i : Instr} {l' f new : Nat} {op : AtomicOp} {e : BitVec 6} {fl : BitVec 6} (hop : atomicOf i = some (op, f, e))
        (hnew : atomicNew op f (8 * l') (m l') (w % 2 ^ (8 * l')) (w' % 2 ^ (8 * l')) = (new, fl)) : performs i l' new fl := by
      rintro rfl rfl
      obtain ⟨hholds, hsame, hst, hld, houts⟩ := performAtomic_performs (c := c) hm hp hoff hop hvals hnew
      exact ⟨_, exec_atomic hc ho hj hne hk hclear, rfl, hholds, hsame, hst, hld, houts⟩
    refine ⟨hperf rfl rfl, hperf rfl rfl, hperf rfl rfl, hperf rfl ?_, hperf rfl rfl, hperf rfl rfl, hperf rfl ?_, hperf rfl rfl,
      hperf rfl rfl, hperf rfl rfl, hperf rfl rfl, hperf rfl rfl, hperf rfl rfl⟩
    · exact Prod.ext (min_def_lt _ _).symm rfl
    · exact Prod.ext ((max_comm _ _).trans (max_def_lt _ _)).symm rfl
  · have hkind : o.kind ≠ .load ∧ o.kind ≠ .value := by
      rcases hk with hk | hk | hk | hk <;> simp [hk]
    exact exec_storePerform_held hc ho hj hne hkind.1 hkind.2 hclear
  · exact ⟨_, exec_value hc ho hk, rfl, returnValue_returns hop hvals⟩
  · exact deferredFault_undoes hc hx ho hf hall hg hhold he hs hh htr

end Sys2Proof
end

section
/-! What leaves memory alone: the functions of the model that change the state without a byte of memory. -/

namespace Sys2Proof.Machine

@[simp] theorem foldl_mem {α : Type} (g : State → α → State) (hg : ∀ s a, (g s a).mem = s.mem) (l : List α) (s : State) :
    (l.foldl g s).mem = s.mem :=
  foldl_keeps (R := fun s t => t.mem = s.mem) (fun _ => rfl) (fun h k => k.trans h) g hg l s

@[simp] theorem State.ite_mem (p : Prop) [Decidable p] (s t : State) : (if p then s else t).mem = if p then s.mem else t.mem :=
  apply_ite State.mem p s t

@[simp] theorem ite_fst_mem {α : Type} (p : Prop) [Decidable p] (s t : State × α) :
    (if p then s else t).1.mem = if p then s.1.mem else t.1.mem :=
  apply_ite (fun u : State × α => u.1.mem) p s t

@[simp] theorem State.modLayer_mem (s : State) (t n : Nat) (f : Layer → Layer) : (s.modLayer t n f).mem = s.mem := rfl
@[simp] theorem State.setSflags_mem (s : State) (g : Nat) (v : BitVec 64) : (s.setSflags g v).mem = s.mem := rfl
@[simp] theorem State.setCopyEngine_mem (s : State) (e : Nat) (g : Engine) : (s.setCopyEngine e g).mem = s.mem := by
  unfold State.setCopyEngine; split <;> rfl
@[simp] theorem State.setBadger_mem (s : State) (b : Nat) (g : Engine) : (s.setBadger b g).mem = s.mem := rfl
@[simp] theorem State.setSendq_mem (s : State) (q : Nat) (v : SendQ) : (s.setSendq q v).mem = s.mem := rfl
@[simp] theorem State.logError_mem (s : State) (e : ErrEntry) : (s.logError e).mem = s.mem := rfl
@[simp] theorem State.modTask_mem (s : State) (k : Nat) (f : BoundTask → BoundTask) : (s.modTask k f).mem = s.mem := by
  unfold State.modTask; split <;> rfl
@[simp] theorem State.markPoison_mem (s : State) (w : Nat) : (s.markPoison w).mem = s.mem := by unfold State.markPoison; split <;> rfl
@[simp] theorem State.correctBy_mem (s : State) (p : Nat → Bool) : (s.correctBy p).mem = s.mem := by
  obtain ⟨q, hq⟩ := foldl_markPoison ((s.soft.filter p).partition (fun w => s.detectOnly (8 * w))).1 _
  exact (congrArg State.mem hq :)
@[simp] theorem State.correct_mem (s : State) (a n : Nat) : (s.correct a n).mem = s.mem := mem_correct s a n
@[simp] theorem State.correctAll_mem (s : State) (ps : List (Nat × Nat)) : (s.correctAll ps).mem = s.mem := by simp [State.correctAll]
@[simp] theorem State.setLock_mem (s : State) (g : Nat) (k : BitVec 4) (id : Nat) : (s.setLock g k id).mem = s.mem := rfl
@[simp] theorem State.setLocks_mem (s : State) (pa n : Nat) (k : BitVec 4) (id : Nat) : (s.setLocks pa n k id).mem = s.mem := rfl
@[simp] theorem State.choose_mem (s : State) (n : Nat) : (s.choose n).2.mem = s.mem := by unfold State.choose; split <;> rfl
@[simp] theorem State.turn_mem (s : State) (n : Nat) : (s.turn n).2.mem = s.mem := by unfold State.turn; split <;> simp
@[simp] theorem State.completeToken_mem (s : State) (c x d : Nat) : (s.completeToken c x d).mem = s.mem := rfl
@[simp] theorem State.endToken_mem (s : State) (c x d : Nat) : (s.endToken c x d).mem = s.mem := by
  unfold State.endToken; split <;> rfl
@[simp] theorem State.act_mem (s : State) (q off : Nat) (w : Word) : (s.act q off w).mem = s.mem := by
  unfold State.act; split <;> rfl
@[simp] theorem notify_mem (s : State) (q off : Nat) (b : Bar) (w : Word) : (notify s q off b w).1.mem = s.mem := by simp [notify]
@[simp] theorem fire_mem (s : State) (q off : Nat) (b : Bar) : (fire s q off b).1.mem = s.mem := by simp [fire]
@[simp] theorem fireTimes_mem (n : Nat) (s : State) (q off : Nat) (b : Bar) : (fireTimes n s q off b).1.mem = s.mem := by
  induction n generalizing s b with
  | zero => rfl
  | succ n ih => exact (ih _ _).trans (fire_mem s q off b)
@[simp] theorem settle_mem (s : State) (q off : Nat) (b : Bar) : (settle s q off b).1.mem = s.mem := by
  unfold settle; split
  · split
    · exact fire_mem s q off b
    · exact fireTimes_mem _ s q off _
  · rfl
@[simp] theorem State.readBar_mem (s : State) (q off : Nat) : (s.readBar q off).mem = s.mem := State.correct_mem ..
@[simp] theorem State.setVreg_mem (s : State) (p : Nat) (v : VReg) : (s.setVreg p v).mem = s.mem := rfl
@[simp] theorem State.raiseFlags_mem (s : State) (l : Nat) (f : BitVec 6) : (s.raiseFlags l f).mem = s.mem := by
  unfold State.raiseFlags; split <;> rfl
@[simp] theorem State.noteSuppliers_mem (s : State) (c x : Nat) (load : Option Nat) (id pa n : Nat) :
    (s.noteSuppliers c x load id pa n).mem = s.mem := by
  unfold State.noteSuppliers; split <;> rfl
@[simp] theorem State.addOut_mem (s : State) (kind : OutKind) (i : Instr) (parts : List OutPart) (vals : List Nat) (pages : List Held) :
    (s.addOut kind i parts vals pages).mem = s.mem := by
  unfold State.addOut; split <;> rfl
@[simp] theorem State.covers_mem (s : State) (c : Option Mask) : (s.covers c).mem = s.mem := rfl
@[simp] theorem State.traceTag_mem (s : State) (lo hi : Nat) (k : BitVec 4) (id : Nat) : (s.traceTag lo hi k id).mem = s.mem := rfl
@[simp] theorem State.dropOut_mem (s : State) (c id : Nat) : (s.dropOut c id).mem = s.mem := rfl
@[simp] theorem State.setOut_mem (s : State) (c : Nat) (o : Out) : (s.setOut c o).mem = s.mem := rfl
@[simp] theorem State.finishLoad_mem (s : State) (c : Nat) (o : Out) : (s.finishLoad c o).mem = s.mem := by
  unfold State.finishLoad; split <;> rfl
@[simp] theorem State.readPart_mem (s : State) (c : Nat) (o : Out) (j : Nat) (p : OutPart) : (s.readPart c o j p).mem = s.mem := by
  simp [State.readPart]
@[simp] theorem State.returnValue_mem (s : State) (c : Nat) (o : Out) : (s.returnValue c o).mem = s.mem := by
  unfold State.returnValue; split <;> rfl
@[simp] theorem State.forgetSupplier_mem (s : State) (id j : Nat) : (s.forgetSupplier id j).mem = s.mem := rfl
@[simp] theorem State.postRecord_mem (s : State) (t : Nat) (r : List Word) : (s.postRecord t r).mem = s.mem := rfl
@[simp] theorem State.undoOut_mem (s : State) (c : Nat) (o : Out) : (s.undoOut c o).mem = s.mem := rfl
@[simp] theorem State.freeArray_mem (s : State) (c x : Nat) : (s.freeArray c x).mem = s.mem := rfl
@[simp] theorem State.dropHold_mem (s : State) (c x : Nat) : (s.dropHold c x).mem = s.mem := by
  unfold State.dropHold; dsimp only; split <;> simp
@[simp] theorem State.halt_mem (s : State) (c x reason : Nat) : (s.halt c x reason).mem = s.mem := rfl
@[simp] theorem State.realignF_mem (s : State) : (s.realignF).mem = s.mem := rfl
@[simp] theorem State.transfer_mem (s : State) (target : Option Word) (late : Bool) : (s.transfer target late).mem = s.mem := rfl
@[simp] theorem State.putLink_mem (s : State) : (s.putLink).mem = s.mem := rfl
@[simp] theorem State.giveUp_mem (s : State) (c x : Nat) : (s.giveUp c x).mem = s.mem := rfl
@[simp] theorem State.discardLaunch_mem (s : State) (t g : Nat) : (s.discardLaunch t g).mem = s.mem := rfl
@[simp] theorem State.putLine_mem (s : State) (c : Nat) (l : ILine) : (s.putLine c l).mem = s.mem := rfl
@[simp] theorem State.touchLine_mem (s : State) (c : Nat) (image : BitVec 24) (a : Word) : (s.touchLine c image a).mem = s.mem := by
  unfold State.touchLine; split <;> rfl
@[simp] theorem State.setInst_mem (s : State) (i : RingInst) : (s.setInst i).mem = s.mem := rfl
@[simp] theorem State.dropInst_mem (s : State) (g b : Nat) : (s.dropInst g b).mem = s.mem := by unfold State.dropInst; split <;> rfl
@[simp] theorem State.releaseRing_mem (s : State) (c q : Nat) : (s.releaseRing c q).mem = s.mem := by
  unfold State.releaseRing; split
  · rfl
  · dsimp only; split <;> simp
@[simp] theorem State.releaseRings_mem (s : State) (c x : Nat) : (s.releaseRings c x).mem = s.mem := by simp [State.releaseRings]
@[simp] theorem State.popRing_mem (s : State) (c q : Nat) : (s.popRing c q).mem = s.mem := by
  unfold State.popRing
  repeat' split
  all_goals rfl
@[simp] theorem State.occupy_mem (s : State) (c : Nat) (es : List (Nat × Nat)) : (s.occupy c es).mem = s.mem := rfl
@[simp] theorem State.occupyBy_mem (s : State) (c x : Nat) (o : QOp) : (s.occupyBy c x o).mem = s.mem := by simp [State.occupyBy]
@[simp] theorem State.noteWrite_mem (s : State) (c x : Nat) (o : QOp) : (s.noteWrite c x o).mem = s.mem := by
  unfold State.noteWrite; split <;> rfl
@[simp] theorem State.launchBy_mem (s : State) (c x : Nat) (o : QOp) (old : Core) : (s.launchBy c x o old).mem = s.mem := rfl
@[simp] theorem State.occupyX_mem (s : State) (c x : Nat) (i : Instr) (old : Ctx) (seq : Nat) :
    (s.occupyX c x i old seq).mem = s.mem := by
  unfold State.occupyX; split <;> rfl
@[simp] theorem State.memberIssued_mem (s : State) (ins : Instr) (c x : Nat) (old : Core) :
    (s.memberIssued ins c x old).mem = s.mem := by
  simp [State.memberIssued]
@[simp] theorem State.countBeat_mem (s : State) : (s.countBeat).mem = s.mem := rfl
@[simp] theorem State.noteSoft_mem (s : State) (soft : Bool) (c : Nat) : (s.noteSoft soft c).mem = s.mem := by
  unfold State.noteSoft; split <;> simp
@[simp] theorem State.raiseAt_mem (s : State) (c x l : Nat) (f : Fl) : (s.raiseAt c x l f).mem = s.mem := by
  unfold State.raiseAt; split <;> rfl
@[simp] theorem State.countRow_mem (s : State) (q ev : Nat) : (s.countRow q ev).mem = s.mem := by
  unfold State.countRow; split <;> rfl
@[simp] theorem State.openSpan_mem (s : State) (c x : Nat) (sp : Span) : (s.openSpan c x sp).mem = s.mem := rfl
@[simp] theorem State.closeSpan_mem (s : State) (m : Nat × Nat) : (s.closeSpan m).mem = s.mem := rfl
@[simp] theorem State.holdBack_mem (s : State) (k : Cmd) (e : List Nat) : (s.holdBack k e).mem = s.mem := by simp [State.holdBack]
@[simp] theorem State.completeCmd_mem (s : State) (k : Cmd) : (s.completeCmd k).mem = s.mem := by simp [State.completeCmd]
@[simp] theorem State.modWm_mem (s : State) (k : Cmd) (f : WMark → WMark) : (s.modWm k f).mem = s.mem := by
  unfold State.modWm; split
  · exact foldl_mem _ (fun u c => State.modCore_mem u c _) _ s
  · rfl
@[simp] theorem State.endWm_mem (s : State) (k : Cmd) : (s.endWm k).mem = s.mem := by simp [State.endWm]
@[simp] theorem readRowPart_mem (s : State) (p : RowPart) : (readRowPart s p).1.mem = s.mem := by simp [readRowPart]
@[simp] theorem readFirst_mem (n : Nat) (s : State) (ps : List RowPart) : (readFirst n s ps).1.mem = s.mem := by
  induction ps generalizing n s with
  | nil => rfl
  | cons p r ih =>
    unfold readFirst
    split
    · exact ih n s
    · exact (ih (n - 1) _).trans (readRowPart_mem s p)
@[simp] theorem gatherRow_mem (s : State) (k : Cmd) (n : Nat) : (gatherRow s k n).1.mem = s.mem := by
  unfold gatherRow; dsimp only
  generalize (if k.src.isNone then beginRow s k else k) = k
  cases k.src with
  | none => rfl
  | some ps =>
    dsimp only
    split
    · rfl
    · exact readFirst_mem _ s ps
@[simp] theorem State.dropInsts_mem (s : State) (k : Cmd) : (s.dropInsts k).mem = s.mem := by simp [State.dropInsts]
@[simp] theorem readWords_mem (s : State) (pa n : Nat) : (readWords s pa n).1.mem = s.mem := by simp [readWords]
@[simp] theorem finishRun_mem (s : State) (k : Cmd) : (finishRun s k).1.mem = s.mem := by simp [finishRun]
@[simp] theorem putBadger_mem (s : State) (b : Nat) (k : Cmd) : (putBadger s b k).mem = s.mem := by simp [putBadger]
@[simp] theorem State.alarm_mem (s : State) (n : Nat) : (s.alarm n).mem = s.mem := rfl
@[simp] theorem egqRead_mem (s : State) (d : Nat) (k : Cmd) : (egqRead s d k).mem = s.mem := by simp [egqRead]
@[simp] theorem State.streamReset_mem (s : State) (v : Word) : (s.streamReset v).mem = s.mem := rfl
@[simp] theorem State.launchAlarm_mem (s : State) (i : Nat) : (s.launchAlarm i).mem = s.mem := rfl
@[simp] theorem State.lqDone_mem (s : State) (i : Nat) : (s.lqDone i).mem = s.mem := rfl
@[simp] theorem State.readDesc_mem (s : State) (g : List Word) (i : Nat) : (s.readDesc g i).mem = s.mem := by simp [State.readDesc]
@[simp] theorem State.discard_mem (s : State) (l : Launch) : (s.discard l).mem = s.mem := by unfold State.discard; split <;> rfl
@[simp] theorem State.readImage_mem (s : State) (cfg : Nat) : (s.readImage cfg).mem = s.mem := by simp [State.readImage]
@[simp] theorem State.freeContext_mem (s : State) (c x : Nat) : (s.freeContext c x).mem = s.mem := by simp [State.freeContext]
@[simp] theorem State.withoutCmds_mem (s : State) (p : Cmd → Bool) : (s.withoutCmds p).mem = s.mem := by simp [State.withoutCmds]
@[simp] theorem State.completeNet_mem (s : State) (k : Cmd) : (s.completeNet k).mem = s.mem := by unfold State.completeNet; split <;> simp
@[simp] theorem readSend_mem (s : State) (k : Cmd) (words : Nat) : (readSend s k words).1.mem = s.mem := by
  unfold readSend; dsimp only; split <;> simp
@[simp] theorem State.nqWrite_mem (s : State) (q w : Nat) (x : Word) : (s.nqWrite q w x).mem = s.mem := by simp [State.nqWrite]
@[simp] theorem State.modPre_mem (s : State) (k : Nat) (f : Preempt → Preempt) : (s.modPre k f).mem = s.mem := by simp [State.modPre]
@[simp] theorem State.vacate_mem (s : State) (m : Nat × Nat) : (s.vacate m).mem = s.mem := by simp [State.vacate]
@[simp] theorem State.restoreSpan_mem (s : State) (c x a : Nat) : (s.restoreSpan c x a).mem = s.mem := rfl
@[simp] theorem State.putBack_mem (s : State) (class_ e : Nat) (k : Cmd) : (s.putBack class_ e k).mem = s.mem := by
  unfold State.putBack; split <;> simp
@[simp] theorem State.reissue_mem (s : State) (rs : List (Nat × Nat × Cmd)) (area x : Nat) (moves : List (Nat × Nat × Nat)) :
    (s.reissue rs area x moves).mem = s.mem := by
  unfold State.reissue; split <;> simp
@[simp] theorem State.moveCmds_mem (s : State) (k : Nat) (moved : List (Nat × Nat × Nat)) : (s.moveCmds k moved).mem = s.mem := rfl
@[simp] theorem State.copyBanks_mem (s : State) (t n : Nat) (bs : List Nat) : (s.copyBanks t n bs).mem = s.mem := by
  simp [State.copyBanks]
@[simp] theorem State.inject_mem (s : State) (pa : Nat) (poison : Bool) : (s.inject pa poison).mem = s.mem := by
  unfold State.inject; dsimp only; split <;> simp
@[simp] theorem State.errinj_mem (s : State) (t : Nat) (v : Word) : (s.errinj t v).mem = s.mem := by simp [State.errinj]
@[simp] theorem State.owlWrite_mem (s : State) (t off : Nat) (v : Word) : (s.owlWrite t off v).mem = s.mem := by
  simp [State.owlWrite]
@[simp] theorem State.owlEnd_mem (s : State) (t r : Nat) : (s.owlEnd t r).mem = s.mem := rfl
@[simp] theorem State.doorbell_mem (s : State) (v : Word) : (s.doorbell v).mem = s.mem := by simp [State.doorbell]
@[simp] theorem State.imageInvalidate_mem (s : State) (v : Word) : (s.imageInvalidate v).mem = s.mem := rfl
@[simp] theorem State.modeset_mem (s : State) (v : Word) : (s.modeset v).mem = s.mem := by
  refine (foldl_mem _ (fun u t => ?_) _ _).trans rfl
  exact (foldl_mem _ (fun v k => State.modLayer_mem v t (k + 1) _) _ _).trans rfl
@[simp] theorem State.attest_mem (s : State) (v : Word) : (s.attest v).mem = s.mem := by unfold State.attest; split <;> rfl
@[simp] theorem State.mgmtWrite_mem (s : State) (off : Nat) (v : Word) : (s.mgmtWrite off v).mem = s.mem := by simp [State.mgmtWrite]
@[simp] theorem State.hostMgmtWrite_mem (s : State) (off : Nat) (v : Word) : (s.hostMgmtWrite off v).mem = s.mem := by
  simp [State.hostMgmtWrite]
@[simp] theorem State.refuseHost_mem (s : State) (pa : Nat) (write : Bool) : (s.refuseHost pa write).mem = s.mem := rfl
@[simp] theorem State.answerHost_mem (s : State) (refused : Bool) (bs : List Byte) : (s.answerHost refused bs).mem = s.mem := rfl
@[simp] theorem State.laneWrite_mem (s : State) (d w lat : Nat) (rs : List FRes) : (s.laneWrite d w lat rs).mem = s.mem := by
  simp [State.laneWrite]
@[simp] theorem State.endWalk_mem (s : State) (c x : Nat) : (s.endWalk c x).mem = s.mem := rfl
@[simp] theorem State.walker_mem (s : State) (c x : Nat) : (s.walker c x).mem = s.mem := rfl
@[simp] theorem State.noteClass_mem (s : State) (c x k : Nat) : (s.noteClass c x k).mem = s.mem := rfl
@[simp] theorem State.popOp_mem (s : State) (c x : Nat) (o : QOp) (old : Core) : (s.popOp c x o old).mem = s.mem := by
  simp [State.popOp]
@[simp] theorem State.settle_mem (s : State) (c x : Nat) : (s.settle c x).mem = s.mem := by simp [State.settle]
@[simp] theorem State.beginCycle_mem (s : State) (c x : Nat) : (s.beginCycle c x).mem = s.mem := rfl
@[simp] theorem State.roundOf_mem (s : State) (c : Nat) : (s.roundOf c).mem = s.mem := by unfold State.roundOf; split <;> rfl
@[simp] theorem State.takeChoice_mem (s : State) : (s.takeChoice).mem = s.mem := rfl

end Sys2Proof.Machine
end

section
/-! Canonical memory (R100), the operations that units share: an access, a barrier object, a stop, a record of the log or of a trace, a beat. -/

namespace Sys2Proof.Machine

section
variable {s : State} (h : Memory.wf s.mem)
include h

theorem wf_foldl {α : Type} {g : State → α → State} (hg : ∀ s a, Memory.wf s.mem → Memory.wf (g s a).mem) (l : List α) :
    Memory.wf (l.foldl g s).mem :=
  List.foldlRecOn (motive := fun v : State => Memory.wf v.mem) l _ h fun v hv a _ => hg v a hv

theorem wf_writeMem (a n v : Nat) : Memory.wf (s.writeMem a n v).mem := Memory.wf_write s.mem a n v h
theorem wf_writeWords (a : Nat) (ws : List Word) : Memory.wf (s.writeWords a ws).mem := wf_writeMem h ..
theorem wf_writeBytes (a : Nat) (bs : List Byte) : Memory.wf (s.writeBytes a bs).mem := wf_writeMem h ..

/-! The barrier unit -/

theorem wf_putBar (pa : Nat) (b : Bar) : Memory.wf (s.putBar pa b).mem := wf_writeWords h ..

theorem wf_settleBar (q off : Nat) (b : Bar) : Memory.wf (s.settleBar q off b).mem :=
  wf_putBar (s := (settle s q off b).1) (by simpa using h) ..

theorem wf_barinit (q off expected : Nat) (b0 b1 : Word) : Memory.wf (s.barinit q off expected b0 b1).mem := wf_putBar h ..

theorem wf_bararm (q off expected : Nat) : Memory.wf (s.bararm q off expected).mem :=
  wf_settleBar (s := s.readBar q off) (by simpa using h) ..

theorem wf_credit (q off n unit code flags stop : Nat) : Memory.wf (s.credit q off n unit code flags stop).mem :=
  wf_settleBar (s := s.readBar q off) (by simpa using h) ..

/-! Outstanding accesses -/

theorem wf_writePieces (ps : List Piece) (v : Nat) : Memory.wf (s.writePieces ps v).mem :=
  wf_foldl h (fun _ _ hs => wf_writeMem hs ..) ps

theorem wf_doAtomic (op : AtomicOp) (o nb : Nat) (ps : List Piece) (v c : Nat) : Memory.wf (s.doAtomic op o nb ps v c).1.mem := by
  have hc : Memory.wf (ps.foldl (fun (s : State) p => s.correct p.pa p.len) s).mem := by simpa using h
  unfold State.doAtomic; dsimp only
  split
  · exact hc
  · exact wf_writePieces hc ..

theorem wf_performAtomic (c : Nat) (o : Out) (p : OutPart) : Memory.wf (s.performAtomic c o p).mem := by
  unfold State.performAtomic; split
  · exact h
  · exact wf_doAtomic h ..

theorem wf_performStore (c : Nat) (o : Out) (j : Nat) (p : OutPart) : Memory.wf (s.performStore c o j p).mem := by
  have hw : Memory.wf (match o.kind with
      | .tagset => p.pieces.foldl (fun (s : State) (q : Piece) => s.setLock (q.pa / 32) (BitVec.ofNat 4 q.val) o.id) s
      | _ => p.pieces.foldl (fun (s : State) (q : Piece) => s.writeMem q.pa q.len q.val) s).mem := by
    split
    · refine wf_foldl h (fun u q hu => ?_) _; exact hu
    · exact wf_foldl h (fun _ _ hs => wf_writeMem hs ..) _
  unfold State.performStore; dsimp only
  split <;> exact hw

theorem wf_advanceStore (c : Nat) (o : Out) (j : Nat) (p : OutPart) : Memory.wf (s.advanceStore c o j p).mem := by
  unfold State.advanceStore; split
  · exact h
  · exact wf_performStore h ..

theorem wf_movePart (c id j : Nat) : Memory.wf (s.movePart c id j).mem := by
  fun_cases State.movePart s c id j
  case case3 => simpa using h
  case case4 => exact wf_performAtomic h ..
  case case5 => exact wf_advanceStore h ..
  case case6 | case7 => exact wf_performStore h ..
  all_goals exact h

theorem wf_moveParts (c : Nat) (o : Out) (j : Nat) : Memory.wf (s.moveParts c o j).mem := by
  unfold State.moveParts; split
  · exact wf_movePart h ..
  · exact wf_foldl h (fun _ _ hs => wf_movePart hs ..) _

theorem wf_forcePart (fuel : Nat) (q : PartId) : Memory.wf (forcePart fuel s q).mem := by
  induction fuel generalizing s q with
  | zero => exact h
  | succ k ih =>
    have hm (j : Nat) (ps : List PartId) : Memory.wf ((ps.foldl (forcePart k) s).movePart q.1 q.2.1 j).mem :=
      wf_movePart (wf_foldl h (fun _ _ hs => ih hs _) ps) ..
    rw [forcePart]
    split
    · exact h
    · extract_lets j
      split
      · exact h
      · split
        · exact h
        · split
          · exact ih (hm _ _) _
          · exact hm _ _

theorem wf_forceOut (c : Nat) (o : Out) : Memory.wf (s.forceOut c o).mem :=
  wf_foldl h (fun _ _ hs => wf_forcePart hs ..) _

theorem wf_settleOuts (os : List Out) (c : Nat) (ds : List Deferred) : Memory.wf (settleOuts os s c ds).1.mem := by
  induction os generalizing s ds with
  | nil => exact h
  | cons o r ih =>
    have hf := wf_forceOut h c o
    unfold settleOuts
    split
    · exact ih h ds
    · dsimp only
      split
      · exact ih hf ds
      · split
        · exact ih (by simpa using hf) ds
        · split
          · exact ih (s := (s.forceOut c o).undoOut c _) (by simpa using hf) _
          · exact ih hf ds

/-! The precise stop and the fault -/

theorem wf_traceRecord (t : Nat) (w0 w2 : Word) (rest : List Word) : Memory.wf (s.traceRecord t w0 w2 rest).mem := by
  unfold State.traceRecord; dsimp only
  split
  · simp only [State.modOwl_mem]
    split
    · exact wf_writeWords h ..
    · exact h
  · exact h

theorem wf_traceStop (c x : Nat) (addr : Word) (slot code why : Nat) : Memory.wf (s.traceStop c x addr slot code why).mem :=
  wf_traceRecord h ..

theorem wf_abortMember (g : Gang) (f : Nat × Nat) (code idx : Nat) (m : Nat × Nat) :
    Memory.wf (s.abortMember g f code idx m).mem := by
  unfold State.abortMember
  extract_lets t u
  have hu : Memory.wf u.mem := by simpa [u, t] using h
  split
  · exact wf_credit hu ..
  · exact hu

theorem wf_gangAbort (f : Nat × Nat) (code : Nat) : Memory.wf (s.gangAbort f code).mem := by
  unfold State.gangAbort
  split
  · exact h
  · split
    · exact h
    · exact wf_foldl h (fun _ _ hs => wf_abortMember hs ..) _

theorem wf_quiesce (c x : Nat) : Memory.wf (s.quiesce c x).1.mem := by
  unfold State.quiesce
  extract_lets d u
  have hu : Memory.wf u.mem := by simp only [u, d]; split <;> simpa using h
  simpa using wf_settleOuts hu ..

theorem wf_takeFault (c x slot seq : Nat) (addr : Word) (code : Nat) (faddr : Word) (info : Nat) (inWindow : Bool) (done : BitVec 4)
    (stay : Bool) : Memory.wf (s.takeFault c x slot seq addr code faddr info inWindow done stay).mem := by
  unfold State.takeFault
  split
  next slot addr code faddr info win sq hp =>
  extract_lets q t dm r k u v
  have hq : Memory.wf q.mem := wf_quiesce (wf_gangAbort h ..) ..
  have hu : Memory.wf u.mem := wf_traceStop (s := q.setCtx c x k) (by simpa using hq) ..
  simpa [v] using hu

theorem wf_debugStop (c x slot : Nat) (addr : Word) (why : Nat) : Memory.wf (s.debugStop c x slot addr why).mem := by
  have hu : Memory.wf ((((s.gangAbort (c, x) 0).quiesce c x).1.modCtx c x fun t =>
      { t with csr := { t.csr with done := t.oldestDone } }).mem) := by simpa using wf_quiesce (wf_gangAbort h ..) ..
  simpa [State.debugStop] using wf_traceStop hu c x addr slot 0 why

theorem wf_breakStop (c x slot seq : Nat) (addr : Word) : Memory.wf (s.breakStop c x slot seq addr).mem := by
  unfold State.breakStop; split
  · exact wf_takeFault h ..
  · exact wf_debugStop h ..

theorem wf_owlHalt (c x slot : Nat) (addr : Word) : Memory.wf (s.owlHalt c x slot addr).mem := by
  unfold State.owlHalt; split
  · exact wf_takeFault h ..
  · exact wf_debugStop h ..

theorem wf_faultHere (code : Nat) (faddr : Word) (info : Nat) : Memory.wf (s.faultHere code faddr info).mem := wf_takeFault h ..

end

/-- Memory is canonical in the state with which a meaning goes on, where it does. -/
def Res.Wf : Res → Prop
  | .done t => Memory.wf t.mem
  | _ => True

/-- So is it in the state with which a beat goes on, and in that in which it faults. -/
def BeatRes.Wf : BeatRes → Prop
  | .done t => Memory.wf t.mem
  | .wait => True
  | .trap t _ _ _ => Memory.wf t.mem

/-- So is it in the state that the machine goes on with. -/
def NextWf : Host.Outcome State Fault Refusal → Prop
  | .next t => Memory.wf t.mem
  | _ => True

@[simp] theorem Res.wf_done (t : State) : (Res.done t).Wf ↔ Memory.wf t.mem := Iff.rfl
@[simp] theorem Res.wf_wait : Res.wait.Wf := trivial
@[simp] theorem Res.wf_trap (code : Nat) (faddr : Word) (info : Nat) : (Res.trap code faddr info).Wf := trivial
@[simp] theorem BeatRes.wf_done (t : State) : (BeatRes.done t).Wf ↔ Memory.wf t.mem := Iff.rfl
@[simp] theorem BeatRes.wf_wait : BeatRes.wait.Wf := trivial
@[simp] theorem BeatRes.wf_trap (t : State) (code : Nat) (faddr : Word) (info : Nat) :
    (BeatRes.trap t code faddr info).Wf ↔ Memory.wf t.mem := Iff.rfl
@[simp] theorem nextWf_next (t : State) : NextWf (.next t) ↔ Memory.wf t.mem := Iff.rfl
@[simp] theorem nextWf_happened (t : State) : NextWf (happened t) ↔ Memory.wf t.mem := Iff.rfl
@[simp] theorem nextWf_notNow (t : State) : NextWf (notNow t) ↔ Memory.wf t.mem := Iff.rfl
@[simp] theorem nextWf_stoppedAt (t : State) : NextWf (stoppedAt t) ↔ Memory.wf t.mem := Iff.rfl
@[simp] theorem nextWf_fault (f : Fault) : NextWf (.fault f) := trivial

section
variable {s : State} (h : Memory.wf s.mem)
include h

omit h in
theorem Res.wf_bind {r : Res} {f : State → Res} (hr : r.Wf) (hf : ∀ t : State, Memory.wf t.mem → (f t).Wf) : (r.bind f).Wf := by
  cases r with
  | done t => exact hf t hr
  | wait | trap => trivial

theorem BeatRes.wf_ofRes {r : Res} (hr : r.Wf) : (BeatRes.ofRes s r).Wf := by
  cases r with
  | done t => exact hr
  | wait => trivial
  | trap => exact h

theorem nextWf_finish {r : Res} (hr : r.Wf) : NextWf (finish s r) := by
  cases r with
  | done t => simpa [finish] using hr
  | wait => simpa [finish] using h
  | trap => simpa [finish] using wf_faultHere h ..

theorem nextWf_fromHost {t : State} (ht : Memory.wf t.mem) : NextWf (fromHost s t) := by
  by_cases hr : s.link.retraining <;> simp [fromHost, hr, h, ht]

/-! Loads, stores, atomics, lock writes -/

theorem wf_loadScalar (i : Instr) (p : Word) (n : Nat) (sx : Bool) (d : Nat) : (loadScalar s i p n sx d).Wf := by
  fun_cases loadScalar s i p n sx d
  all_goals simp [h]

theorem wf_storeScalar (i : Instr) (p : Word) (n : Nat) (v : Word) : (storeScalar s i p n v).Wf := by
  fun_cases storeScalar s i p n v
  all_goals simp [Memory.wf_write, h]

theorem wf_loadVector (i : Instr) (p : Word) (d : Nat) : (loadVector s i p d).Wf := by
  fun_cases loadVector s i p d
  all_goals simp [h]

theorem wf_storeVector (i : Instr) (p : Word) (r : VReg) : (storeVector s i p r).Wf := by
  have hw (l : List (Nat × Nat × Nat)) :
      Memory.wf (l.foldl (fun s it => s.writeMem it.1 it.2.1 (getBytes r it.2.2 it.2.1)) s).mem :=
    wf_foldl h (fun _ _ hs => wf_writeMem hs ..) l
  fun_cases storeVector s i p r
  all_goals simp [h, hw]

theorem wf_loadIndexed (i : Instr) (base : Word) (z : Nat) (vi : VReg) (d : Nat) : (loadIndexed s i base z vi d).Wf := by
  fun_cases loadIndexed s i base z vi d
  all_goals simp [h]

theorem wf_storeIndexed (i : Instr) (base : Word) (z : Nat) (vi r : VReg) : (storeIndexed s i base z vi r).Wf := by
  have hw (l : List Piece) : Memory.wf (l.foldl (fun s it => s.writeMem it.pa it.len it.val) s).mem :=
    wf_foldl h (fun _ _ hs => wf_writeMem hs ..) l
  fun_cases storeIndexed s i base z vi r
  all_goals simp [h, hw]

theorem wf_atomic (i : Instr) (op : AtomicOp) (o : Nat) (p : Word) (nb : Nat) (v c : Word) (d : Nat) :
    (atomic s i op o p nb v c d).Wf := by
  fun_cases atomic s i op o p nb v c d
  case case5 pa hw hb u m fl hd =>
    have hu := wf_doAtomic h op o nb (piecesOf [(pa, nb)] 0 0) v.toNat c.toNat
    simpa [hd] using hu
  all_goals simp [h]

theorem wf_tagset (i : Instr) (p : Word) (len : Nat) (k : Word) : (tagset s i p len k).Wf := by
  have hw (lock : BitVec 4) (l : List (Nat × Nat)) :
      Memory.wf (l.foldl (fun s it => s.traceTag it.1 (it.1 + it.2) lock s.nextOut) s).mem := by
    refine wf_foldl h (fun u q hu => ?_) l; exact hu
  fun_cases tagset s i p len k
  case case9 => simpa using hw ..
  all_goals simp +zetaDelta [h]

/-! The X slot -/

theorem wf_csrWrite (c x num : Nat) (v : Word) : ∀ t ∈ s.csrWrite c x num v, Memory.wf t.mem := by
  fun_cases State.csrWrite s c x num v
  all_goals simp +zetaDelta [h]

theorem wf_realigning (rs : List Nat) {k : State → Res} (hk : ∀ t : State, Memory.wf t.mem → (k t).Wf) : (realigning s rs k).Wf := by
  unfold realigning
  split
  · trivial
  · dsimp only
    split
    · trivial
    · exact hk _ h

theorem wf_transferTo (target : Option Word) (late : Bool) {k : State → State} (hk : ∀ t : State, Memory.wf t.mem → Memory.wf (k t).mem) :
    (transferTo s target late k).Wf := by
  unfold transferTo
  split
  · trivial
  · exact hk _ h

theorem wf_loopBy (n : Word) (e : BitVec 12) : (loopBy s n e).Wf := by
  fun_cases loopBy s n e
  all_goals simp [h]

/-! Rings -/

theorem wf_formRing (c x q : Nat) (d : RingDesc) {t : State} (ht : formRing s c x q d = .ok t) : Memory.wf t.mem := by
  revert ht
  fun_cases formRing s c x q d <;> intro ht <;> cases ht
  simp +zetaDelta only [State.modCore_mem]
  split <;> simp [h]

theorem wf_ringcfg (p : Word) (q : Nat) : (ringcfg s p q).Wf := by
  fun_cases ringcfg s p q
  case case5 hf => exact wf_formRing (by simpa using h) _ _ _ _ hf
  all_goals trivial

theorem wf_rpop (q : Nat) : (rpop s q).Wf := by
  fun_cases rpop s q
  all_goals simp [h]

theorem wf_fillSlot (i : RingInst) (bs : List Byte) (early : List Nat) : Memory.wf (s.fillSlot i bs early).mem := by
  unfold State.fillSlot; dsimp only
  split
  · exact wf_writeMem h ..
  · refine wf_foldl h (fun u j hu => ?_) _
    split
    · exact hu
    · exact wf_writeMem hu ..

theorem wf_landSlot (i : RingInst) (bs : List Byte) (bad early : List Nat) : Memory.wf (s.landSlot i bs bad early).mem := by
  simpa [State.landSlot] using wf_fillSlot h i bs early

/-! Record mode -/

theorem wf_recon (p lim : Word) (o : Nat) : (recon s p lim o).Wf := by
  fun_cases recon s p lim o
  all_goals simp [h]

end

section
variable {s : State} (h : Memory.wf s.mem)

theorem wf_of_eq_pair {α : Type} {p : State × α} {u : State} {a : α} (hp : Memory.wf p.1.mem) (he : p = (u, a)) : Memory.wf u.mem := by
  rwa [he] at hp

theorem wf_logWrite {s' t : State} (h' : Memory.wf s'.mem) {ins : Instr} {a : Nat} {bs : List Byte} (ht : logWrite s s' ins a bs = .ok t) :
    Memory.wf t.mem := by
  unfold logWrite at ht
  split at ht
  · simp at ht
  · cases ht; simp [h']

theorem wf_recordTile {s' : State} (h' : Memory.wf s'.mem) (ins : Instr) (k : TileRec) : (recordTile s s' ins k).Wf := by
  fun_cases recordTile s s' ins k
  case case4 => exact wf_logWrite (t := ‹_›) h' ‹_›
  all_goals simp [h']

theorem wf_recordBeat {s' : State} (h' : Memory.wf s'.mem) (ins : Instr) (kind x preg : Nat) (dat : List Byte) (f : RecSpan → RecSpan) :
    (recordBeat s s' ins kind x preg dat f).Wf := by
  fun_cases recordBeat s s' ins kind x preg dat f
  case case6 u hu v hv =>
    have hw : Memory.wf u.mem := wf_logWrite h' hu
    split at hv
    · cases hv; simpa using hw
    · simpa using wf_logWrite hw hv
  all_goals simp [h']

include h

theorem wf_openRecord (ins : Instr) (shape : Word) : ∀ r, openRecord s ins shape = .ok r → Memory.wf r.2.mem := by
  fun_cases openRecord s ins shape
  case case4 _ _ _ _ u hu =>
    rintro r ⟨⟩
    simpa using wf_logWrite h hu
  all_goals simp [h]

theorem wf_closeRecord : (closeRecord s).Wf := by
  fun_cases closeRecord s
  case case2 u hu _ => simpa using wf_logWrite h hu
  all_goals simp [h]

/-! The matrix engine -/

/-- So is it in the state with which a row read goes on, and in that in which it faults. -/
def RowRes.Wf : RowRes → Prop
  | .got t _ _ => Memory.wf t.mem
  | .wait => True
  | .trap t _ => Memory.wf t.mem

omit h in
@[simp] theorem State.injectRow_mem (c q ev : Nat) : (s.injectRow c q ev).1.mem = s.mem := by
  unfold State.injectRow; simp

theorem wf_readRow (c q sz : Nat) (keep : Bool) (ev : Nat) : (s.readRow c q sz keep ev).Wf := by
  fun_cases State.readRow s c q sz keep ev
  case case8 | case9 | case10 | case11 | case12 =>
    have hu := wf_of_eq_pair (by simpa using h) ‹s.injectRow c q ev = _›
    simp +zetaDelta [RowRes.Wf, hu]
  all_goals simp [RowRes.Wf, h]

theorem wf_recordRow {s' : State} (h' : Memory.wf s'.mem) (ins : Instr) (q ev sz row : Nat) (scales : List (BitVec 8)) :
    (recordRow s s' ins q ev sz row scales).Wf := by
  have hr := wf_recordBeat (s := s) h' ins (if ev = 2 then 1 else 3) 0 0
    (rowItem s.fctx q ev (s.rowAddr s.focus.core q) sz row scales) id
  unfold recordRow
  generalize recordBeat .. = r at hr
  cases r with
  | done t => simpa using hr
  | wait => trivial
  | trap => exact h

theorem wf_of_readRow_got {c q sz : Nat} {keep : Bool} {ev : Nat} {t : State} {row : Nat} {soft : Bool}
    (he : s.readRow c q sz keep ev = .got t row soft) : Memory.wf t.mem :=
  (he ▸ wf_readRow h c q sz keep ev : (RowRes.got t row soft).Wf)

theorem wf_of_readRow_trap {c q sz : Nat} {keep : Bool} {ev : Nat} {t : State} {e : Nat} (he : s.readRow c q sz keep ev = .trap t e) :
    Memory.wf t.mem :=
  (he ▸ wf_readRow h c q sz keep ev : (RowRes.trap t e).Wf)

theorem wf_pushIn (q : BitVec 4) (i : BitVec 6) (f : BitVec 3) (tr k p : BitVec 1) (c x : Nat) : (pushIn q i f tr k p s c x).Wf := by
  fun_cases pushIn q i f tr k p s c x
  case case6 t e hr => simpa using wf_of_readRow_trap h hr
  case case7 t row soft hr els u =>
    have ht := wf_of_readRow_got h hr
    exact wf_recordRow h (by simpa [u] using ht) ..
  all_goals simp [h]

theorem wf_flipIn (c x : Nat) : (flipIn s c x).Wf := by
  fun_cases flipIn s c x
  · simpa using h
  · exact BeatRes.wf_ofRes h (wf_recordBeat (by simpa +zetaDelta using h) ..)

theorem wf_shiftIn (q : BitVec 4) (f : BitVec 3) (k : BitVec 1) (c x : Nat) : (shiftIn q f k s c x).Wf := by
  fun_cases shiftIn q f k s c x
  case case5 t e hr => simpa using wf_of_readRow_trap h hr
  case case6 t row soft hr u =>
    have ht := wf_of_readRow_got h hr
    exact wf_recordRow h (by simpa [u] using ht) ..
  all_goals simp [h]

theorem wf_maccIn (ins : Instr) (n : Nat) (v : Option (BitVec 6)) (c x : Nat) : (maccIn ins n v s c x).Wf := by
  fun_cases maccIn ins n v s c x
  case case5 => exact BeatRes.wf_ofRes h (wf_recordBeat (by simpa +zetaDelta using h) ..)
  all_goals simp [h]

theorem wf_drainIn (ins : Instr) (n : Nat) (v l : BitVec 6) (f : BitVec 3) (c x : Nat) : (drainIn ins n v l f s c x).Wf := by
  fun_cases drainIn ins n v l f s c x
  case case4 => exact BeatRes.wf_ofRes h (wf_recordBeat (by simpa +zetaDelta using h) ..)
  all_goals simp [h]

theorem wf_zeroIn (ins : Instr) (n m : Nat) (c x : Nat) : (zeroIn ins n m s c x).Wf := by
  fun_cases zeroIn ins n m s c x
  case case3 => exact BeatRes.wf_ofRes h (wf_recordBeat (by simpa +zetaDelta using h) ..)
  all_goals simp [h]

theorem wf_mendIn (c x : Nat) : (mendIn s c x).Wf := by
  fun_cases mendIn s c x <;> exact h

theorem nextWf_finishBeat {b : BeatRes} (hb : b.Wf) : NextWf (finishBeat s b) := by
  cases b with
  | done t => exact nextWf_finish h (r := .done t) hb
  | wait => exact nextWf_finish h (r := .wait) trivial
  | trap t code a i => exact nextWf_finish (s := t) hb (r := .trap code a i) trivial

theorem wf_followerFault (c x code : Nat) (faddr : Word) (info : Nat) : Memory.wf (s.followerFault c x code faddr info).mem := by
  unfold State.followerFault; split
  · exact wf_takeFault h ..
  · exact h

section
variable {f : State → Nat → Nat → BeatRes} (hf : ∀ (t : State) (c x : Nat), Memory.wf t.mem → (f t c x).Wf)
include hf

theorem wf_memberBeat (ins : Instr) (m : Nat × Nat) : (memberBeat s ins f m).Wf := by
  unfold memberBeat; split
  · exact hf s _ _ h
  · trivial

theorem nextWf_gangBeat (ms : List (Nat × Nat)) (ins : Instr) : NextWf (gangBeat s ms ins f) := by
  have hm {m : Nat × Nat} {t : State} {code : Nat} {a : Word} {i : Nat}
      (he : (ms.map fun m => (m, memberBeat s ins f m)).find? (fun r => r.2.isTrap) = some (m, .trap t code a i)) : Memory.wf t.mem := by
    obtain ⟨n, -, hn⟩ := List.mem_map.1 (List.mem_of_find?_eq_some he)
    have hb := wf_memberBeat h hf ins n
    rw [show memberBeat s ins f n = _ from congrArg Prod.snd hn] at hb
    exact hb
  fun_cases gangBeat s ms ins f
  case case1 => exact nextWf_finish h h
  case case2 he => exact nextWf_finish (hm he) trivial
  case case3 he _ _ _ _ => exact wf_followerFault (hm he) ..
  case case4 => exact nextWf_finish h trivial
  case case5 =>
    refine nextWf_finish h (wf_foldl h (fun u m hu => ?_) ms)
    have hb := hf u m.1 m.2 hu
    cases hr : f u m.1 m.2 with
    | done t =>
      rw [hr] at hb
      dsimp only
      split
      · exact hb
      · simpa using hb
    | wait | trap => exact hu

theorem nextWf_beat (ins : Instr) : NextWf (beat s ins f) := by
  fun_cases beat s ins f
  · exact nextWf_finish h h
  · exact nextWf_gangBeat h hf ..
  · exact nextWf_finishBeat h (hf s _ _ h)

theorem nextWf_spanBeat (ins : Instr) : NextWf (spanBeat s ins f) := by
  fun_cases spanBeat s ins f
  · exact nextWf_finish h trivial
  · exact nextWf_beat h hf ins

end

theorem wf_profRecord (c : Nat) (e : ProfEntry) (slot : Nat) : Memory.wf (s.profRecord c e slot).mem := wf_traceRecord h ..

theorem wf_touchProf (c : Nat) (addr : Word) : Memory.wf (s.touchProf c addr).mem := by
  fun_cases State.touchProf s c addr
  case case3 =>
    simp +zetaDelta only [State.modCore_mem]
    split
    · exact wf_profRecord h ..
    · exact h
  all_goals exact h

theorem wf_charge (c : Nat) (addr : Option Word) (k : Nat) : Memory.wf (s.charge c addr k).mem := by
  fun_cases State.charge s c addr k
  · exact h
  · simp +zetaDelta
    split
    · exact h
    · exact wf_touchProf h ..

theorem wf_joinGang (lead : Joiner) (ms : List Joiner) (shape gw : Word) (own : Nat) :
    Memory.wf (s.joinGang lead ms shape gw own).mem := by
  unfold State.joinGang
  extract_lets all g
  simp only [State.modCtx_mem]
  refine wf_foldl h (fun u m hu => wf_touchProf ?_ ..) _
  split <;> exact hu

end

end Sys2Proof.Machine
end

section
/-! Canonical memory in the engines: rows and blocks, credits, egress. -/

namespace Sys2Proof.Machine

section
variable {s : State} (h : Memory.wf s.mem)
include h

theorem nextWf_moveOf (c : Nat) (o : Out) (j : Nat) : NextWf (moveOf s c o j) := by
  fun_cases moveOf s c o j
  case case1 => exact wf_movePart h ..
  case case3 => exact wf_moveParts h ..
  all_goals exact h

/-! Engines: credits and landings -/

theorem wf_creditCmd (k : Cmd) (unit n code flags stop : Nat) : Memory.wf (s.creditCmd k unit n code flags stop).mem := by
  unfold State.creditCmd; split
  · exact wf_foldl h (fun _ _ hs => wf_credit hs ..) _
  · exact h

theorem wf_creditNet (k : Cmd) (unit n code flags stop : Nat) : Memory.wf (s.creditNet k unit n code flags stop).mem := by
  unfold State.creditNet; split
  · split
    · simpa using h
    · exact wf_credit h ..
  · exact h

theorem wf_landPart (p : Piece × Bool) : Memory.wf (s.landPart p).mem := by
  have hw := wf_writeMem h p.1.pa p.1.len p.1.val
  unfold State.landPart; dsimp only
  split
  · simpa using hw
  · exact hw

theorem wf_landEarly (k : Cmd) (hi : Nat) (final : Bool) (i : Nat) : ∀ r ∈ landEarly s k hi final i, Memory.wf r.1.mem := by
  intro r hr
  obtain ⟨p, -, rfl⟩ := Option.map_eq_some_iff.1 hr
  exact wf_landPart h p

theorem wf_payCredits (unit : Nat) (cs : List (List Nat)) (k : Cmd) : Memory.wf (payCredits unit cs s k).1.mem := by
  induction cs generalizing s k with
  | nil => exact h
  | cons c r ih =>
    unfold payCredits; dsimp only
    split
    · exact ih (wf_creditCmd h ..) _
    · exact h

theorem wf_payRows (unit : Nat) (ls : List Landing) (k : Cmd) : Memory.wf (payRows unit ls s k).1.mem := by
  induction ls generalizing s k with
  | nil => exact h
  | cons l r ih =>
    unfold payRows
    split
    · extract_lets u v
      have hu : Memory.wf u.mem := by simpa [u] using h
      refine ih ?_ _
      simp only [v]
      split
      · exact wf_creditNet hu ..
      · exact wf_creditCmd hu ..
    · exact h

theorem wf_landOf (unit : Nat) (k : Cmd) (a i : Nat) : ∀ r ∈ landOf s unit k a i, Memory.wf r.1.mem := by
  fun_cases landOf s unit k a i
  case case4 => rintro r ⟨⟩; exact wf_payRows (wf_landPart h _) ..
  all_goals simp [h]

theorem wf_landParts (n : Nat) (unit : Nat) (k : Cmd) : Memory.wf (landParts n s unit k).1.mem := by
  induction n generalizing s k with
  | zero => exact h
  | succ n ih =>
    unfold landParts
    split
    · exact h
    · next r hr => exact ih (wf_landOf h _ _ _ _ r hr) _

theorem wf_landRows (unit : Nat) (k : Cmd) : Memory.wf (landRows s unit k).1.mem := wf_landParts (wf_payRows h ..) ..

/-! Copies -/

theorem wf_stepRow (unit : Nat) (k : Cmd) : Memory.wf (stepRow s unit k).1.mem := by
  have hl := wf_landRows h unit k
  unfold stepRow
  generalize landRows s unit k = p at hl
  obtain ⟨u, k⟩ := p
  dsimp only
  split
  · exact hl
  · exact wf_landRows (s := (gatherRow u k 0).1) (by simpa using hl) ..

theorem wf_readOf (k : Cmd) (i : Nat) : ∀ r ∈ readOf s k i, Memory.wf r.1.mem := by
  fun_cases readOf s k i
  case case5 hp _ => rintro r ⟨⟩; exact wf_of_eq_pair (by simpa using h) hp
  all_goals simp [h]

theorem wf_movePartOf (unit : Nat) (k : Cmd) (j : Nat) : ∀ r ∈ movePartOf s unit k j, Memory.wf r.1.mem := by
  fun_cases movePartOf s unit k j
  case case4 => exact wf_readOf h k _
  case case5 => exact wf_landOf h unit k _ _
  case case6 => exact wf_landEarly h k _ _ _
  all_goals simp [h]

theorem wf_landRound (k : Cmd) (hi : Nat) (final : Bool) {t : State} {k' : Cmd} (ht : landRound s k hi final = .landed t k') :
    Memory.wf t.mem := by
  revert ht
  fun_cases landRound s k hi final <;> intro ht <;> cases ht
  next due _ _ _ go r =>
  refine List.foldlRecOn (motive := fun r : State × List Nat => Memory.wf r.1.mem) _ _ h fun r hr q _ => ?_
  simp only [go]
  split
  · exact hr
  · split
    · exact wf_landSlot hr ..
    · exact hr

theorem wf_lastCredit (unit : Nat) (k : Cmd) (total : Nat) : Memory.wf (lastCredit s unit k total).mem := by
  unfold lastCredit
  split
  · exact wf_creditCmd h ..
  · split
    · exact h
    · exact wf_creditCmd h ..

/-! Hare -/

omit h in
theorem readParts_mem {k : Cmd} {ref : Nat} {key : BitVec 4} {ps : List Piece} {r : State × List RowPart}
    (hr : readParts s k ref key ps = .ok r) : r.1.mem = s.mem := by
  induction ps generalizing s r with
  | nil => cases hr; rfl
  | cons p ps ih =>
    unfold readParts at hr
    split at hr
    · split at hr
      · cases hr
      · next hq => cases hr; exact (ih hq :)
    · split at hr
      · cases hr
      · dsimp only at hr
        split at hr
        · cases hr
        · next hq => cases hr; exact (ih hq).trans (readRowPart_mem ..)

omit h in
theorem hareRead_mem {k : Cmd} {d : Side} {ref o n : Nat} {r : State × List Byte × Bool × Nat} (hr : hareRead s k d ref o n = .ok r) :
    r.1.mem = s.mem := by
  revert hr
  fun_cases hareRead s k d ref o n <;> intro hr <;> cases hr
  next hp _ => exact readParts_mem hp

omit h in
theorem gatherEls_mem {k : Cmd} {ref : Nat} {ix : List Nat} {r : State × List Byte × Bool × Nat} (hr : gatherEls s k ref ix = .ok r) :
    r.1.mem = s.mem := by
  induction ix generalizing s ref r with
  | nil => cases hr; rfl
  | cons i ix ih =>
    unfold gatherEls at hr
    split at hr
    · cases hr
    · next hh =>
      split at hr
      · cases hr
      · next hq => cases hr; exact (ih hq).trans (hareRead_mem hh)

omit h in
theorem nextUnit_mem {k : Cmd} {r : State × Cmd × List Byte × Bool} (hr : nextUnit s k = .ok r) : r.1.mem = s.mem := by
  revert hr
  fun_cases nextUnit s k <;> intro hr <;> cases hr
  case case3 hh _ _ _ _ hg => exact (gatherEls_mem hg).trans (hareRead_mem hh)
  case case6 hh _ _ _ _ _ hr =>
    refine Eq.trans ?_ (hareRead_mem hh)
    split at hr
    · cases hr; rfl
    · exact hareRead_mem hr
  case case8 hh => exact hareRead_mem hh

omit h in
@[simp] theorem gatherBlock_mem (k : Cmd) : (gatherBlock s k).1.mem = s.mem := by
  fun_cases gatherBlock s k
  · rfl
  · next hu _ _ _ _ => exact nextUnit_mem hu

theorem wf_stepBlock (e : Nat) (k : Cmd) : Memory.wf (stepBlock s e k).1.mem := by
  have hl := wf_landRows h (hareUnit e) k
  unfold stepBlock
  generalize landRows s (hareUnit e) k = p at hl
  obtain ⟨u, k⟩ := p
  dsimp only
  split
  · exact hl
  · exact wf_landRows (s := (gatherBlock u k).1) (by simpa using hl) ..

theorem wf_readUnread (k : Cmd) (i : Nat) : ∀ r ∈ readUnread s k i, Memory.wf r.1.mem := by
  fun_cases readUnread s k i
  case case3 hp => rintro r ⟨⟩; exact wf_of_eq_pair (by simpa using h) hp
  all_goals simp

theorem wf_moveJob (e : Nat) (k : Cmd) (i : Nat) : ∀ r ∈ moveJob s e k i, Memory.wf r.1.mem := by
  fun_cases moveJob s e k i
  · exact wf_landOf h _ k _ _
  · simp
  · exact wf_readUnread h k _
  · exact wf_landEarly h k _ _ _

/-! Badger -/

omit h in
@[simp] theorem startTopk_mem (k : Cmd) : (startTopk s k).1.mem = s.mem := by
  have hread := fun u : State => readWords_mem (s := u)
  generalize hf : startTopk = f
  delta startTopk at hf
  generalize hr : f s k = r
  subst hf
  generalize readWords = read at hread hr
  beta_reduce at hr
  extract_lets b pa at hr
  split at hr
  next s₁ hd hd₁ =>
  have h₁ : s₁.mem = s.mem := by rw [← hread s pa 16, hd₁]
  extract_lets h regions k₀ at hr
  split at hr
  · subst hr; exact h₁
  · split at hr
    · subst hr; exact h₁
    · split at hr
      next s₂ rs hd₂ =>
      have h₂ : s₂.mem = s.mem := by rw [← h₁, ← hread s₁ (pa + 16) (8 * hdN h), hd₂]
      extract_lets k₁ at hr
      split at hr <;> (subst hr; exact h₂)

/-! Egress -/

theorem wf_endEgq (d : Nat) (k : Cmd) (code flags stop : Nat) : Memory.wf (endEgq s d k code flags stop).mem := by
  simpa [endEgq] using wf_creditCmd h ..

theorem wf_egqMirror (d : Nat) (k : Cmd) : ∀ t ∈ egqMirror s d k, Memory.wf t.mem := by
  fun_cases egqMirror s d k
  case case1 => simp
  case case2 is lost _ code u =>
    rintro t ⟨⟩
    refine wf_endEgq ?_ ..
    simp only [u]
    split
    · exact h
    · exact wf_foldl h (fun _ _ hs => wf_landSlot hs ..) _

theorem wf_egqEnter (d : Nat) (k : Cmd) : ∀ t ∈ egqEnter s d k, Memory.wf t.mem := by
  fun_cases egqEnter s d k
  · simp
  · rintro t ⟨⟩
    exact wf_endEgq h ..
  · rintro t ⟨⟩
    next e _ _ item e' u =>
    have hu : Memory.wf u.mem := by simpa [u] using h
    cases hm : egqMirror u d { k with row := 2 } with
    | none => exact hu
    | some t => exact wf_egqMirror hu _ _ t hm

theorem wf_egqRun (d : Nat) (k : Cmd) : ∀ t ∈ egqRun s d k, Memory.wf t.mem := by
  fun_cases egqRun s d k
  · simpa using h
  · exact wf_egqEnter h d k
  · exact wf_egqMirror h d k

theorem wf_mirrorEarly (d i : Nat) : ∀ t ∈ s.mirrorEarly d i, Memory.wf t.mem := by
  intro t ht
  obtain ⟨w, -, rfl⟩ := Option.map_eq_some_iff.1 ht
  simpa using wf_landPart h w.2

theorem nextWf_releaseOp (veto : Bool) (ss sq : BitVec 6) : NextWf (releaseOp s veto ss sq) := by
  have hr := wf_realigning h [sreg ss, sreg sq] (k := .done) fun t ht => ht
  fun_cases releaseOp s veto ss sq
  case case1 t ahead _ =>
    refine nextWf_finish (by simpa [t] using h) ?_
    split
    · trivial
    · exact h
  case case2 | case3 => exact nextWf_finish h trivial
  case case4 he _ _ _ _ _ _ _ =>
    rw [he] at hr
    simpa using hr
  case case5 => exact nextWf_finish h hr

end

end Sys2Proof.Machine
end

section
/-! Canonical memory where commands are accepted, in Marten, in the network and where a gang lands. -/

namespace Sys2Proof.Machine

section
variable {s : State} (h : Memory.wf s.mem)
include h

/-! Acceptance of commands -/

theorem wf_accept (k : Cmd) {put : State → Cmd → State} (hput : ∀ t k, (put t k).mem = t.mem) : Memory.wf (s.accept k put).mem := by
  simpa [State.accept, hput] using h

omit h in
theorem wf_engineOp (kind : CmdKind) (pt da db dc : BitVec 5) (r : BitVec 6) {k : Cmd → Res} (hk : ∀ c, (k c).Wf) :
    (engineOp s kind pt da db dc r k).Wf := by
  fun_cases engineOp s kind pt da db dc r k
  case case4 => exact Res.wf_bind (hk _) fun t ht => by simpa using ht
  all_goals trivial

theorem wf_copyIssue (k : Cmd) : (copyIssue s k).Wf := by
  fun_cases copyIssue s k
  case case7 | case8 => exact wf_accept h _ (by simp)
  all_goals trivial

theorem wf_streamIssue (k : Cmd) : (streamIssue s k).Wf := by
  fun_cases streamIssue s k
  case case8 => exact wf_accept h _ fun _ _ => rfl
  all_goals trivial

theorem wf_badgerIssue (k : Cmd) : (badgerIssue s k).Wf := by
  fun_cases badgerIssue s k
  case case8 => exact wf_accept (by simpa +zetaDelta [apply_ite State.mem] using h) _ (by simp)
  all_goals trivial

theorem wf_badgerOp (kind : CmdKind) (p a b c : BitVec 5) (r : BitVec 6) : (badgerOp s kind p a b c r).Wf := by
  unfold badgerOp; split
  · trivial
  · exact wf_engineOp _ _ _ _ _ _ fun k => wf_badgerIssue h k

theorem wf_egqIssue (k : Cmd) : (egqIssue s k).Wf := by
  fun_cases egqIssue s k
  case case4 => exact wf_accept h _ fun _ _ => rfl
  all_goals trivial

theorem wf_npostIssue (k : Cmd) : (npostIssue s k).Wf := by
  fun_cases npostIssue s k
  case case5 => exact wf_accept h _ (by simp)
  all_goals trivial

omit h in
theorem wf_barrierOp (b : BitVec 4) (bad : Bool) {k : Nat → Nat → Res} (hk : ∀ q off, (k q off).Wf) : (barrierOp s b bad k).Wf := by
  fun_cases barrierOp s b bad k
  case case4 => exact hk _ _
  all_goals trivial

/-! Operations on vector elements -/

theorem wf_unaryF (d a : BitVec 6) (t : BitVec 3) (lat : Nat) (f : Fmt → Nat → FRes) : (unaryF s d a t lat f).Wf := by
  unfold unaryF; split <;> simp [h]

theorem wf_binaryF (d a b : BitVec 6) (t : BitVec 3) (f : Fmt → Nat → Nat → FRes) : (binaryF s d a b t f).Wf := by
  unfold binaryF; split <;> simp [h]

theorem wf_ternaryF (d a b : BitVec 6) (t : BitVec 3) (neg : Bool) : (ternaryF s d a b t neg).Wf := by
  unfold ternaryF; split <;> simp [h]

theorem wf_pushMask (m : Mask) : (pushMask s m).Wf := by
  unfold pushMask; split <;> simp [h]

theorem wf_tileOp (ins : Instr) (d a : BitVec 6) (b : Option (BitVec 6)) (needs lat : Nat) (scal : Word) :
    (tileOp s ins d a b needs lat scal).Wf := by
  fun_cases tileOp s ins d a b needs lat scal
  case case3 => exact wf_recordTile (by simpa +zetaDelta using h) ..
  all_goals simp [h]

/-! Marten -/

theorem wf_lqTake (i : Nat) (hd : List Word) : Memory.wf (s.lqTake i hd).mem := by
  unfold State.lqTake
  extract_lets head at_ d u l v w
  have hw : Memory.wf w.mem := wf_writeWords (by simpa [v, u] using h) ..
  split <;> simpa using hw

theorem wf_writeRecord (g : Graph) : Memory.wf (s.writeRecord g).mem := wf_writeWords (wf_writeWords h ..) ..

theorem wf_finishGraph (t o : Nat) : Memory.wf (s.finishGraph t o).mem := by
  fun_cases State.finishGraph s t o
  case case2 => simpa using wf_writeRecord h _
  all_goals exact h

theorem wf_abandon (t o code task : Nat) : Memory.wf (s.abandon t o code task).mem := wf_finishGraph (by simpa using h) t o

theorem wf_placeScan (t : Nat) (q behind : List Ready) : ∀ u ∈ placeScan s t q behind, Memory.wf u.mem := by
  induction q generalizing s behind with
  | nil => rintro u ⟨⟩
  | cons r q ih =>
    have hd : Memory.wf (s.readDesc r.graph.desc r.idx).mem := by simpa using h
    unfold placeScan; dsimp only
    split
    · rintro u ⟨⟩; exact wf_abandon hd ..
    · split
      · rintro u ⟨⟩; simpa using h
      · split
        · split
          · rintro u ⟨⟩
          · exact ih hd _
        · exact ih hd _

theorem wf_preparePair (ls : List Nat) (q : Nat) : Memory.wf (s.preparePair ls q).mem := by
  unfold State.preparePair; dsimp only
  refine wf_foldl ?_ (fun u k hu => ?_) _
  · split
    · exact h
    · exact wf_writeMem (by simpa using h) ..
  · split
    · exact wf_barinit hu ..
    · exact hu

theorem wf_bindMember (ls : List Nat) (d : List Word) (key idx gid n i : Nat) (m : Nat × Nat) :
    Memory.wf (s.bindMember ls d key idx gid n i m).mem := by
  unfold State.bindMember; dsimp only
  refine wf_foldl (by simpa using h) (fun u e hu => ?_) _
  split
  · exact wf_formRing hu _ _ _ _ ‹_›
  · exact hu

theorem wf_bindTask (t : Nat) (p : Placing) (gid : Nat) (ls : List Nat) : Memory.wf (s.bindTask t p gid ls).mem := by
  unfold State.bindTask; dsimp only
  refine wf_foldl (g := fun (s : State) (e : Nat × Nat × Nat) =>
    s.bindMember ls p.desc _ p.idx gid p.members.length e.1 e.2) ?_ (fun u e hu => wf_bindMember hu ..) _
  exact wf_foldl h (fun u q hu => wf_preparePair hu ls q) _

theorem wf_bindFails (t : Nat) (p : Placing) (ls : List Nat) : Memory.wf (s.bindFails t p ls).mem := by
  unfold State.bindFails
  extract_lets u fails v
  have hu : Memory.wf u.mem := by
    refine wf_foldl h (fun q m hq => ?_) _
    exact hq
  have hv : Memory.wf v.mem := hu
  split
  · exact wf_abandon hv ..
  · exact wf_finishGraph hv ..

theorem wf_retire (c key : Nat) (b : BoundTask) : Memory.wf (s.retire c key b).mem := by
  unfold State.retire; dsimp only
  refine wf_finishGraph ?_ ..
  split
  · split
    · exact wf_writeWords (by simpa using h) ..
    · simpa using h
  · simpa using h

theorem wf_dropOuts (c x : Nat) : Memory.wf (s.dropOuts c x).mem := by
  refine wf_foldl h (fun u o hu => ?_) _
  dsimp only; split
  · simpa using wf_foldl hu (fun v j hv => wf_forcePart hv ..) _
  · simpa using hu

theorem wf_tearContext (c x : Nat) : Memory.wf (s.tearContext c x).mem := by
  unfold State.tearContext
  extract_lets u drop v task
  have hu : u.mem = s.mem := State.modCore_mem ..
  have hv : Memory.wf v.mem := by rw [show v.mem = s.mem from hu]; exact h
  rw [State.freeContext_mem, State.giveUp_mem, State.withoutCmds_mem]
  exact wf_dropOuts hv c x

theorem wf_tearTask (e : Nat × BoundTask) : Memory.wf (s.tearTask e).mem := by
  unfold State.tearTask
  extract_lets ms u
  have hu : Memory.wf (ms.foldl (fun (s : State) m => s.tearContext m.1 m.2) (s.withoutCmds fun k => k.task = e.1)).mem := by
    refine wf_foldl (by simpa using h) (fun t m ht => ?_) _
    exact wf_tearContext ht m.1 m.2
  exact hu

end

section
variable {s : State} (h : Memory.wf s.mem)
include h

/-! The network -/

theorem wf_payNet (cs : List (List Nat)) (k : Cmd) : Memory.wf (payNet cs s k).1.mem := by
  induction cs generalizing s with
  | nil => exact h
  | cons c r ih => exact ih (wf_creditNet h ..)

theorem wf_endSend (k : Cmd) : Memory.wf (endSend s k).mem := by
  have hp := wf_payNet h k.credits k
  unfold endSend
  split
  next u n he =>
  have hu : Memory.wf u.mem := wf_of_eq_pair hp he
  rw [State.completeNet_mem]
  split
  · exact wf_creditNet hu ..
  · split
    · exact wf_creditNet hu ..
    · exact hu

theorem nextWf_sendPacket (q : Nat) (k : Cmd) (port : Nat) : NextWf (sendPacket s q k port) := by
  fun_cases sendPacket s q k port <;> simpa using h

theorem wf_sendRead (q : Nat) (k : Cmd) (words : Nat) : Memory.wf (sendRead s q k words).mem := by
  have hr : Memory.wf (if k.kind = .copy then gatherRow s k words else readSend s k words).1.mem := by simpa using h
  unfold sendRead
  generalize (if k.kind = .copy then gatherRow s k words else readSend s k words) = r at hr
  obtain ⟨u, k'⟩ := r
  dsimp only at hr ⊢
  split
  · exact wf_endSend (by simpa using hr) k'
  · simpa using hr

theorem wf_putReceive (q : Nat) (old k : Cmd) : Memory.wf (putReceive s q old k).mem := by
  fun_cases putReceive s q old k
  case case1 u =>
    have hu : Memory.wf u.mem := by
      simp only [u]
      split
      · exact wf_creditNet h ..
      · exact h
    simpa using hu
  case case2 => simpa using h

theorem nextWf_landReceive (q i : Nat) : NextWf (landReceive s q i) := by
  fun_cases landReceive s q i
  case case3 hl => exact wf_putReceive (wf_landOf h _ _ _ _ _ hl) ..
  all_goals exact h

/-! Landing, saving and restoring a gang -/

theorem wf_traceForced (c x : Nat) : Memory.wf (s.traceForced c x).mem := wf_traceStop h ..

theorem wf_landOne (forced : Bool) (k i c x : Nat) : Memory.wf (s.landOne forced k i c x).mem := by
  unfold State.landOne
  extract_lets mark t stop
  have hmark {u : State} (hu : Memory.wf u.mem) : Memory.wf (mark u).mem := by simpa [mark] using hu
  split
  · exact hmark (by simpa using h)
  · split
    next d _ =>
      extract_lets u
      have hu : Memory.wf u.mem := wf_takeFault h ..
      split
      · exact hmark hu
      · exact hu
    next =>
      have hu : Memory.wf ((s.quiesce c x).1.modCtx c x stop).mem := by rw [State.modCtx_mem]; exact wf_quiesce h c x
      refine hmark ?_
      rw [State.halt_mem]
      split
      · exact wf_traceForced hu ..
      · exact hu

theorem wf_land (forced : Bool) (k : Nat) (b : BoundTask) (i : Nat) : Memory.wf (s.land forced k b i).mem := by
  fun_cases State.land s forced k b i
  case case2 => exact wf_landOne h ..
  case case3 => exact wf_foldl h (fun _ _ hs => wf_landOne hs ..) _
  all_goals exact h

theorem wf_landHere (c x : Nat) (point : Bool) : Memory.wf (s.landHere c x point).mem := by
  fun_cases State.landHere s c x point
  case case3 => exact wf_land h ..
  all_goals exact h

theorem wf_writeBlob (a : Nat) (b : Blob) : Memory.wf (s.writeBlob a b).mem :=
  List.foldlRecOn (motive := fun r : State × Nat => Memory.wf r.1.mem) b _ h fun _ hr _ _ => wf_writeMem hr ..

theorem wf_stopCmd (r : Nat × Nat × Cmd) : Memory.wf (s.stopCmd r).1.mem :=
  wf_landRows h ..

theorem wf_record (k : Nat) : Memory.wf (s.record k).mem := by
  have hf : Memory.wf ((s.engineCmds k).foldl (fun (a : State × List (Nat × Nat × Cmd)) r =>
      ((a.1.stopCmd r).1, insertCmd (a.1.stopCmd r).2 a.2)) (s, [])).1.mem :=
    List.foldlRecOn (motive := fun a : State × List (Nat × Nat × Cmd) => Memory.wf a.1.mem) _ _ h fun a ha r _ => wf_stopCmd ha r
  simpa [State.record] using hf

theorem wf_restoreLive (size : Nat) {put : State → Nat → Nat → State} (hput : ∀ t n v, (put t n v).mem = t.mem) (e fuel a : Nat) :
    Memory.wf (restoreLive size put e fuel a s).mem := by
  induction fuel generalizing s a with
  | zero => exact h
  | succ f ih =>
    unfold restoreLive; split
    · exact h
    · refine ih ?_ _
      refine wf_foldl h (fun u j hu => ?_) _
      rw [hput]; exact hu

theorem wf_restoreBars (moved : List (Nat × Nat × Nat)) (c n a : Nat) : Memory.wf (restoreBars moved c n a s).mem := by
  induction n generalizing s a with
  | zero => exact h
  | succ n ih => exact ih (wf_writeMem h ..) _

theorem wf_restoreRegions (c n a : Nat) : Memory.wf (restoreRegions c n a s).mem := by
  induction n generalizing s a with
  | zero => exact h
  | succ n ih =>
    unfold restoreRegions; dsimp only
    refine ih ?_ _
    split
    · exact wf_writeMem h ..
    · exact h

theorem wf_restoreSlots (c : Nat) (i : RingInst) (n a : Nat) : Memory.wf (restoreSlots c i n a s).1.mem := by
  induction n generalizing s i a with
  | zero => exact h
  | succ n ih =>
    unfold restoreSlots; dsimp only
    refine ih ?_ _ _
    split
    · exact h
    · exact wf_writeMem h ..

theorem wf_restoreRings (fuel c x a e : Nat) (moves : List (Nat × Nat × Nat)) : Memory.wf (restoreRings fuel c x a e s moves).1.mem := by
  fun_induction restoreRings fuel c x a e s moves
  case case1 | case2 => exact h
  case case3 ih => exact ih h
  case case4 base _ g fresh u i v i' _ he w ih =>
    have hu : Memory.wf u.mem := by simp only [u]; split <;> exact h
    have hv : Memory.wf v.mem := wf_of_eq_pair (wf_restoreSlots hu ..) he
    exact ih (by simpa [w] using hv)

theorem wf_clearRange (t : Ctx) (i : Nat) : Memory.wf (s.clearRange t i).mem := Memory.wf_clear s.mem _ _ h

end

end Sys2Proof.Machine
end

section
/-! Canonical memory in a walk: every access of REVERSE. -/

namespace Sys2Proof.Machine

/-! Reversing a record -/

/-- The computation leaves memory canonical. -/
structure Rev.Wf {α : Type} (m : Rev α) : Prop where
  keeps : ∀ s a t, Memory.wf s.mem → m s = .ok (a, t) → Memory.wf t.mem

namespace Rev

theorem wf_pure {α : Type} (a : α) : (pure a : Rev α).Wf := by
  constructor
  rintro s _ _ hs ⟨⟩
  exact hs

theorem wf_fail {α : Type} (code info : Nat) : (Rev.fail code info : Rev α).Wf := by
  constructor
  rintro s _ _ hs ⟨⟩

theorem wf_bind {α β : Type} {m : Rev α} {k : α → Rev β} (hm : m.Wf) (hk : ∀ a, (k a).Wf) : (m >>= k).Wf := by
  constructor
  intro s b u hs hu
  change (m s >>= fun p => k p.1 p.2) = .ok (b, u) at hu
  cases hr : m s with
  | error e => rw [hr] at hu; cases hu
  | ok p =>
    rw [hr] at hu
    exact (hk p.1).keeps p.2 b u (hm.keeps s p.1 p.2 hs hr) hu

theorem wf_get {β : Type} {k : State → Rev β} (hk : ∀ s : State, Memory.wf s.mem → (k s).Wf) : (get >>= k : Rev β).Wf :=
  ⟨fun s b u hs hu => (hk s hs).keeps s b u hs hu⟩

theorem wf_set {u : State} (hu : Memory.wf u.mem) : (set u : Rev PUnit).Wf := by
  constructor
  rintro s _ _ hs ⟨⟩
  exact hu

theorem wf_need (b : Bool) (code : Nat) : (Rev.need b code).Wf := by
  unfold Rev.need; split
  · exact wf_pure ()
  · exact wf_fail ..

end Rev

theorem wf_revPieces (c : Nat) (t : Ctx) (p : Word) (n : Nat) (a : Acc) : (revPieces c t p n a).Wf := by
  refine Rev.wf_get fun s hs => Rev.wf_bind ?_ fun ps => Rev.wf_bind (Rev.wf_need ..) fun _ => Rev.wf_bind (Rev.wf_need ..) fun _ =>
    Rev.wf_bind (Rev.wf_set ?_) fun _ => Rev.wf_pure _
  · split
    · split
      · exact Rev.wf_fail ..
      · exact Rev.wf_pure _
    · split
      · exact Rev.wf_fail ..
      · split
        · exact Rev.wf_fail ..
        · split
          · exact Rev.wf_fail ..
          · split
            · exact Rev.wf_fail ..
            · exact Rev.wf_pure _
  · simpa using hs

theorem wf_logRead (c : Nat) (t : Ctx) (fuel a n : Nat) : (logRead c t fuel a n).Wf := by
  induction fuel generalizing a n with
  | zero => exact Rev.wf_pure _
  | succ f ih =>
    unfold logRead; split
    · exact Rev.wf_pure _
    · exact Rev.wf_bind (wf_revPieces ..) fun ps => Rev.wf_get fun s _ => Rev.wf_bind (ih _ _) fun r => Rev.wf_pure _

theorem wf_gradTable (c : Nat) (t : Ctx) (p : Word) : (gradTable c t p).Wf :=
  Rev.wf_bind (wf_revPieces ..) fun _ => Rev.wf_get fun _ _ => Rev.wf_bind (Rev.wf_need ..) fun _ =>
    Rev.wf_bind (wf_revPieces ..) fun _ => Rev.wf_get fun _ _ => Rev.wf_bind (Rev.wf_need ..) fun _ => Rev.wf_pure _

theorem wf_layBytes {s : State} (h : Memory.wf s.mem) (ps : List (Nat × Nat)) (bs : List Byte) : Memory.wf (layBytes s ps bs).mem := by
  induction ps generalizing s bs with
  | nil => exact h
  | cons q r ih => exact ih (wf_writeBytes h ..) _

theorem wf_grad (w : Walk) (kind key r e : Nat) (f : Nat → Nat) : (w.grad kind key r e f).Wf := by
  unfold Walk.grad; split
  · exact Rev.wf_pure _
  · exact Rev.wf_bind (wf_revPieces ..) fun ps => Rev.wf_get fun s hs => Rev.wf_bind (Rev.wf_set (wf_layBytes hs ..)) fun _ => Rev.wf_pure _

theorem wf_addGrad (w : Walk) (kind key r e x : Nat) : (w.addGrad kind key r e x).Wf :=
  Rev.wf_bind (wf_grad ..) fun _ => Rev.wf_pure _

theorem wf_addAll (w : Walk) (kind key r : Nat) (xs : List (Nat × Nat)) : (w.addAll kind key r xs).Wf := by
  induction xs with
  | nil => exact Rev.wf_pure _
  | cons q xs ih => exact Rev.wf_bind (wf_addGrad ..) fun _ => ih

theorem wf_takeAll (w : Walk) (kind key r : Nat) (is : List Nat) : (w.takeAll kind key r is).Wf := by
  induction is with
  | nil => exact Rev.wf_pure _
  | cons e is ih => exact Rev.wf_bind (wf_grad ..) fun _ => Rev.wf_bind ih fun _ => Rev.wf_pure _

theorem wf_readHeader (c : Nat) (t : Ctx) (a : Nat) : (readHeader c t a).Wf :=
  Rev.wf_bind (wf_logRead ..) fun _ => Rev.wf_bind (Rev.wf_need ..) fun _ => Rev.wf_pure _

theorem wf_tileHeader (h : RecHdr) : (tileHeader h).Wf := by
  unfold tileHeader; split
  · exact Rev.wf_fail ..
  · exact Rev.wf_bind (Rev.wf_need ..) fun _ => Rev.wf_pure _

theorem wf_tileMask (c : Nat) (t : Ctx) (h : RecHdr) : (tileMask c t h).Wf := by
  unfold tileMask; split
  · exact Rev.wf_bind (wf_logRead ..) fun _ => Rev.wf_pure _
  · exact Rev.wf_pure _

theorem wf_unsavedReg (k : Nat) : (unsavedReg k).Wf := by
  constructor
  rintro s _ _ hs ⟨⟩
  exact hs

theorem wf_spanEntries (es : List Word) : (spanEntries es).Wf := by
  induction es with
  | nil => exact Rev.wf_pure _
  | cons e r ih =>
    unfold spanEntries; split
    · exact Rev.wf_fail ..
    · exact Rev.wf_bind (Rev.wf_need ..) fun _ => Rev.wf_bind ih fun _ => Rev.wf_pure _

theorem wf_keptRow (pa n crc : Nat) : (keptRow pa n crc).Wf :=
  Rev.wf_get fun s hs => Rev.wf_bind (Rev.wf_need ..) fun _ => Rev.wf_bind (Rev.wf_need ..) fun _ => Rev.wf_bind (Rev.wf_need ..) fun _ =>
    Rev.wf_bind (Rev.wf_set (by simpa using hs)) fun _ => Rev.wf_bind (Rev.wf_need ..) fun _ => Rev.wf_pure _

theorem wf_spanItems (c : Nat) (t : Ctx) (rflag a : Nat) (es : List (Instr × Nat × Nat)) : (spanItems c t rflag a es).Wf := by
  induction es generalizing a with
  | nil => exact Rev.wf_pure _
  | cons e r ih =>
    obtain ⟨i, x, p⟩ := e
    unfold spanItems
    refine Rev.wf_bind (wf_logRead ..) fun bs => Rev.wf_bind ?_ fun row => Rev.wf_bind (ih _) fun _ => Rev.wf_pure _
    split
    · exact Rev.wf_pure _
    · split
      · exact wf_keptRow ..
      · exact Rev.wf_pure _

theorem wf_readSpan (c : Nat) (t : Ctx) (h : RecHdr) : (readSpan c t h).Wf :=
  Rev.wf_bind (Rev.wf_need ..) fun _ => Rev.wf_bind (Rev.wf_need ..) fun _ => Rev.wf_bind (wf_logRead ..) fun _ =>
    Rev.wf_bind (wf_spanEntries ..) fun _ => Rev.wf_bind (Rev.wf_need ..) fun _ => wf_spanItems ..

/-- What a record keeps of a register: its contents, or a checksum of them. -/
theorem wf_savedReg (c : Nat) (t : Ctx) (a p : Nat) : (do
    let bs ← logRead c t 1 a 8
    let s ← get
    let v := (s.core c).vreg p
    Rev.need (crc32c (vregBytes v) = natOfBytes (bs.take 4)) cLOGMISMATCH
    pure v : Rev VReg).Wf :=
  Rev.wf_bind (wf_logRead ..) fun _ => Rev.wf_get fun _ _ => Rev.wf_bind (Rev.wf_need ..) fun _ => Rev.wf_pure _

theorem wf_forward (c : Nat) (t : Ctx) (fuel a p : Nat) : (forward c t fuel a p).Wf := by
  induction fuel generalizing a p with
  | zero => exact Rev.wf_fail ..
  | succ n ih =>
    unfold forward
    refine Rev.wf_bind (wf_readHeader ..) fun h => Rev.wf_bind (wf_unsavedReg _) fun base => ?_
    split
    · exact Rev.wf_bind (wf_readSpan ..) fun _ => Rev.wf_bind (wf_unsavedReg _) fun _ => Rev.wf_pure _
    · refine Rev.wf_bind (wf_tileHeader h) fun i => Rev.wf_bind (wf_tileMask ..) fun m => ?_
      extract_lets operand
      have ho (k : Nat) : (operand k).Wf := by
        dsimp only [operand]
        split
        · exact Rev.wf_bind (wf_logRead ..) fun _ => Rev.wf_pure _
        · exact wf_savedReg ..
        · exact ih _ _
        · exact wf_unsavedReg _
      refine Rev.wf_bind (ho 1) fun va => Rev.wf_bind (ho 2) fun vb => ?_
      split
      · exact Rev.wf_fail ..
      · exact Rev.wf_pure _

theorem wf_operand (w : Walk) (h : RecHdr) (k : Nat) : (w.operand h k).Wf := by
  unfold Walk.operand; split
  · exact Rev.wf_bind (wf_logRead ..) fun _ => Rev.wf_pure _
  · exact wf_savedReg ..
  · split
    · exact Rev.wf_fail ..
    · exact wf_forward ..
  · exact Rev.wf_fail ..

theorem wf_tile (w : Walk) (h : RecHdr) : (w.tile h).Wf := by
  have ho (b : Bool) (k : Nat) : (if b then w.operand h k else pure 0).Wf := by
    split
    · exact wf_operand ..
    · exact Rev.wf_pure _
  refine Rev.wf_bind (wf_tileHeader h) fun i => ?_
  split
  · exact Rev.wf_fail ..
  · exact Rev.wf_bind (wf_tileMask ..) fun m => Rev.wf_bind (ho ..) fun vd => Rev.wf_bind (ho ..) fun va => Rev.wf_bind (ho ..) fun vb =>
      Rev.wf_bind (wf_takeAll ..) fun gs => Rev.wf_bind (wf_addAll ..) fun _ => wf_addAll ..

theorem wf_pass1 (w : Walk) (bs : List SBeat) (dacc : Tab (List Nat)) (des : List (List Nat)) : (w.pass1 bs dacc des).Wf := by
  induction bs generalizing dacc des with
  | nil => exact Rev.wf_pure _
  | cons b r ih =>
    unfold Walk.pass1; dsimp only
    split
    · exact Rev.wf_bind (wf_takeAll ..) fun gs => ih _ _
    all_goals exact ih _ _

theorem wf_pass2 (w : Walk) (js : List (RShift × List Nat)) : (w.pass2 js).Wf := by
  induction js with
  | nil => exact Rev.wf_pure _
  | cons j r ih => exact Rev.wf_bind (wf_addAll ..) fun _ => ih

theorem wf_pass3 (w : Walk) (js : List (RShift × List Nat)) (ps : List (RPush × Nat)) : (w.pass3 js ps).Wf := by
  induction ps with
  | nil => exact Rev.wf_pure _
  | cons p r ih => exact Rev.wf_bind (wf_addAll ..) fun _ => ih

theorem wf_span (w : Walk) (h : RecHdr) : (w.span h).Wf :=
  Rev.wf_bind (wf_readSpan ..) fun _ => Rev.wf_bind (wf_pass1 ..) fun _ => Rev.wf_bind (wf_pass2 ..) fun _ => wf_pass3 ..

theorem wf_reverseOne (c : Nat) (t : Ctx) (tab : Word) : (reverseOne c t tab).Wf := by
  refine Rev.wf_bind (wf_readHeader ..) fun h => Rev.wf_bind (wf_gradTable ..) fun es => ?_
  dsimp only
  split
  · exact Rev.wf_bind (wf_span ..) fun _ => Rev.wf_pure _
  · exact Rev.wf_bind (wf_tile ..) fun _ => Rev.wf_pure _

theorem nextWf_reverse {s : State} (h : Memory.wf s.mem) (g : BitVec 6) : NextWf (execReverse g s) := by
  have hr := wf_realigning h [sreg g] (k := .done) fun t ht => ht
  have h0 : Memory.wf (s.modF fun t => { t with hold := .none }).mem := h
  unfold execReverse
  dsimp only
  generalize realigning s [sreg g] .done = r at hr
  cases s.fctx.hold
  case walk => exact nextWf_finish h trivial
  case walked => exact nextWf_finish h0 h0
  case walkFault => exact nextWf_finish h0 trivial
  all_goals
    cases r
    case done u =>
      have hu : Memory.wf u.mem := hr
      dsimp only
      split
      · exact nextWf_finish h trivial
      · split
        · exact nextWf_finish h trivial
        · split
          · exact nextWf_finish h trivial
          · split
            · exact nextWf_finish h hu
            · exact hu
    all_goals exact nextWf_finish h hr

theorem nextWf_reverseRecord {s : State} (h : Memory.wf s.mem) (c x : Nat) : NextWf (execReverseRecord c x s) := by
  fun_cases execReverseRecord c x s
  case case4 n u hw u' cur v =>
    have hu : Memory.wf u.mem := (wf_reverseOne _ _ _).keeps _ _ _ (by simpa using h) hw
    have hv : Memory.wf v.mem := hu
    split <;> simpa using hv
  all_goals simp [h]

end Sys2Proof.Machine
end

section
/-! Canonical memory in the events: gangs restored, layers, Owl, and what the units do on their own. -/

namespace Sys2Proof.Machine

section
variable {s : State} (h : Memory.wf s.mem)
include h

/-! Restoring a gang -/

theorem wf_restoreMember (moved : List (Nat × Nat × Nat)) (t : Ctx) (area c x : Nat) (moves : List (Nat × Nat × Nat)) :
    Memory.wf (s.restoreMember moved t area c x moves).1.mem := by
  unfold State.restoreMember
  extract_lets sec old t u runs live v w
  have hlive (kind size : Nat) {put : State → Nat → Nat → State} (hput : ∀ t n v, (put t n v).mem = t.mem) {q : State}
      (hq : Memory.wf q.mem) : Memory.wf (live kind size put q).mem := by
    dsimp only [live]
    split
    · exact wf_restoreLive hq _ hput ..
    · exact hq
  have hv : Memory.wf v.mem := hlive _ _ (fun _ _ _ => State.modCore_mem ..) h
  have hw : Memory.wf w.mem := by
    refine hlive _ _ (fun q n a => ?_) hv
    split <;> rfl
  split
  next z moves' hz =>
  have hz : Memory.wf z.mem := by
    refine wf_of_eq_pair ?_ hz
    split
    · exact wf_restoreRings hw ..
    · exact hw
  extract_lets z' z''
  have hz' : Memory.wf z'.mem := by
    simp only [z']
    split
    · exact wf_restoreBars (wf_restoreRegions hz ..) ..
    · exact hz
  have hz'' : Memory.wf z''.mem := by
    simp only [z'']
    split
    · exact hz'
    · exact hz'
  exact wf_foldl hz'' (fun q i hq => wf_clearRange hq t i) _

theorem wf_applyHeld (ms : List (Nat × Nat)) (e : List Nat) : Memory.wf (s.applyHeld ms e).mem := by
  unfold State.applyHeld; split
  · exact wf_credit h ..
  · simpa using h
  · exact h

theorem nextWf_preemptRequest (k : Nat) (areas : List (Nat × Nat)) (live : List (Nat × Nat × Nat)) :
    NextWf (execPreemptRequest k areas live s) := by
  fun_cases execPreemptRequest k areas live s
  case case3 =>
    refine wf_foldl (by simpa +zetaDelta using h) (fun t m ht => ?_) _
    exact wf_landHere ht ..
  all_goals simp [h]

theorem nextWf_preemptForcedStop (k : Nat) : NextWf (execPreemptForcedStop k s) := by
  fun_cases execPreemptForcedStop k s
  case case3 =>
    refine wf_foldl h (fun t i ht => ?_) _
    exact wf_land ht ..
  all_goals simp [h]

theorem nextWf_preemptSave (k : Nat) : NextWf (execPreemptSave k s) := by
  have hr := wf_record h k
  fun_cases execPreemptSave k s
  case case3 => exact hr
  case case4 p _ _ _ _ _ u v w =>
    have hu : Memory.wf u.mem := by simpa [u] using hr
    have hv : Memory.wf v.mem := by
      refine wf_foldl hu (fun q e hq => ?_) _
      exact wf_writeBlob hq ..
    simpa [w] using hv
  case case5 u =>
    have hu : Memory.wf u.mem := by
      refine wf_foldl hr (fun q e hq => ?_) _
      exact hq
    simpa using hu
  all_goals simp [h]

theorem nextWf_gangResume (k : Nat) (slots : List Nat) : NextWf (execGangResume k slots s) := by
  fun_cases execGangResume k slots s
  case case4 b _ p _ _ moved area u v moves hv u₁ members u₂ u₃ =>
    have hu : Memory.wf u.mem := by simpa [u] using h
    have hv : Memory.wf v.mem := by
      have hf := List.foldlRecOn (motive := fun r : State × List (Nat × Nat × Nat) => Memory.wf r.1.mem) b.live
        (fun r e => r.1.restoreMember moved (p.saved.getD e.1 Ctx.reset) (area e.1) e.2.1 (slots.getD e.1 0) r.2) (b := (u, [])) hu
        fun r hr e _ => wf_restoreMember hr ..
      rwa [hv] at hf
    have hu₁ : Memory.wf u₁.mem := by
      refine wf_foldl hv (fun q m hq => ?_) _
      split <;> exact hq
    have hu₃ : Memory.wf (u₃.moveCmds k moved).mem := by simpa [u₃, u₂] using hu₁
    refine wf_foldl hu₃ (fun q e hq => ?_) _
    exact wf_applyHeld hq ..
  all_goals simp [h]

/-! Layers -/

theorem wf_askPreempt (r : Nat × List (Nat × Nat) × List (Nat × Nat × Nat)) : Memory.wf (s.askPreempt r).mem := by
  have hr := nextWf_preemptRequest h r.1 r.2.1 r.2.2
  unfold State.askPreempt
  split
  next u hu => rwa [hu] at hr
  · exact h

theorem wf_wipeLayer (t n : Nat) : Memory.wf (s.wipeLayer t n).mem := Memory.wf_clear s.mem _ _ h

theorem wf_retireLayer (t n : Nat) : Memory.wf (s.retireLayer t n).mem := wf_wipeLayer h t n

theorem wf_applyProtection (t n : Nat) : Memory.wf (s.applyProtection t n).mem := by
  unfold State.applyProtection; split
  · exact h
  · exact wf_wipeLayer h t n

theorem wf_repair (t n : Nat) (laneOk : Bool) : Memory.wf (s.repair t n laneOk).mem := by
  unfold State.repair
  extract_lets l k u
  have hu : Memory.wf u.mem := by simpa [u] using h
  split
  · exact wf_retireLayer hu ..
  · exact hu

theorem nextWf_recoveryPoint (t n : Nat) : NextWf (execRecoveryPoint t n s) := by
  fun_cases execRecoveryPoint t n s
  case case3 k u hk v =>
    have hu : Memory.wf u.mem := by
      have hc : Memory.wf (if (s.layer t n).badLanes.isEmpty then (0, s) else s.choose 2).2.mem := by
        split
        · exact h
        · simpa using h
      rwa [hk] at hc
    have hv : Memory.wf v.mem := by
      simp only [v]
      split
      · exact hu
      · exact wf_repair hu ..
    exact wf_applyProtection hv ..
  all_goals simp [h]

theorem nextWf_recoveryDelayExpire (l : Nat × Nat) (reqs : List (Nat × List (Nat × Nat) × List (Nat × Nat × Nat))) :
    NextWf (execRecoveryDelayExpire l reqs s) := by
  have hu : Memory.wf (reqs.foldl State.askPreempt s).mem := wf_foldl h (fun t r ht => wf_askPreempt ht r) _
  fun_cases execRecoveryDelayExpire l reqs s
  case case2 => simpa +zetaDelta using hu
  all_goals simp [h]

/-! Owl -/

theorem wf_sample (t c : Nat) : Memory.wf (s.sample t c).mem := by
  unfold State.sample; dsimp only
  split
  · exact wf_traceRecord h ..
  · exact h

theorem nextWf_owlRun (t op : Nat) {k : Nat → Nat → Nat → State} (hk : ∀ c x a, Memory.wf (k c x a).mem) : NextWf (owlRun s t op k) := by
  fun_cases owlRun s t op k
  case case4 => exact hk ..
  all_goals simp [h]

theorem nextWf_owlStop (t : Nat) : NextWf (execOwlStop t s) := by
  refine nextWf_owlRun h _ _ fun c x _ => ?_
  dsimp only
  split
  · simpa using h
  · simpa using wf_landHere (wf_owlHalt h ..) ..

theorem nextWf_owlResume (t : Nat) : NextWf (execOwlResume t s) := by
  refine nextWf_owlRun h _ _ fun c x _ => ?_
  split <;> simpa using h

theorem nextWf_owlStep (t : Nat) : NextWf (execOwlStep t s) := by
  fun_cases execOwlStep t s
  case case5 =>
    refine nextWf_owlRun h _ _ fun c x _ => ?_
    split <;> simpa using h
  all_goals simp [h]

theorem nextWf_owlRdreg (t : Nat) : NextWf (execOwlRdreg t s) := by
  refine nextWf_owlRun h _ _ fun c x a => ?_
  dsimp only
  split
  · simpa using h
  · split <;> simpa using h

theorem nextWf_owlWrreg (t : Nat) : NextWf (execOwlWrreg t s) := by
  refine nextWf_owlRun h _ _ fun c x a => ?_
  dsimp only
  split
  · simpa using h
  · split
    · split <;> simpa using h
    · split
      next => simpa using h
      next u hu =>
        split at hu
        · simpa using wf_csrWrite h _ _ _ _ u hu
        · cases hu

theorem nextWf_owlFlush (t : Nat) : NextWf (execOwlFlush t s) := by
  refine nextWf_owlRun h _ _ fun c x a => ?_
  have hf : Memory.wf ((s.core c).prof.foldl (fun (s : State) e => s.profRecord c e 2) s).mem :=
    wf_foldl h (fun t e ht => wf_profRecord ht c e 2) _
  simpa using wf_profRecord hf ..

theorem nextWf_owlTagdump (t : Nat) : NextWf (execOwlTagdump t s) := by
  refine nextWf_owlRun h _ _ fun c x a => ?_
  rw [State.owlEnd_mem]
  refine wf_foldl h (fun u e hu => ?_) _
  exact wf_traceRecord hu ..

theorem nextWf_traceSample (t : Nat) : NextWf (execTraceSample t s) := by
  fun_cases execTraceSample t s
  case case3 =>
    refine (nextWf_happened _).2 (wf_foldl h (fun u c hu => ?_) _)
    exact wf_sample hu ..
  all_goals simp [h]

end

section
variable {s : State} (h : Memory.wf s.mem)
include h

/-! Events -/

omit h in
theorem mem_of_choose {u : State} {n k : Nat} (he : s.choose n = (k, u)) : u.mem = s.mem := by rw [← State.choose_mem s n, he]

omit h in
theorem mem_of_turn {u : State} {n k : Nat} (he : s.turn n = (k, u)) : u.mem = s.mem := by rw [← State.turn_mem s n, he]

theorem nextWf_graphLaunch (t : Nat) : NextWf (execGraphLaunch t s) := by
  fun_cases execGraphLaunch t s
  case case4 | case6 => exact wf_writeRecord (by simpa +zetaDelta using h) _
  all_goals simp +zetaDelta [h]

theorem nextWf_taskPlace (t : Nat) : NextWf (execTaskPlace t s) := by
  fun_cases execTaskPlace t s
  case case4 u hu => exact wf_placeScan h _ _ _ u hu
  all_goals simp [h]

theorem nextWf_contextBind (t : Nat) : NextWf (execContextBind t s) := by
  fun_cases execContextBind t s
  case case3 hc _ u _ =>
    simpa [u, mem_of_choose hc] using h
  case case4 hc p u _ _ ls v _ =>
    exact wf_bindTask (by simpa [v, u, mem_of_choose hc] using h) ..
  case case5 hc p u _ _ ls v _ =>
    exact wf_bindFails (by simpa [v, u, mem_of_choose hc] using h) ..
  all_goals simp [h]

theorem nextWf_contextFree (c x : Nat) : NextWf (execContextFree c x s) := by
  fun_cases execContextFree c x s
  case case4 u v _ _ _ => exact (nextWf_happened _).2 (wf_retire (by simpa [v, u] using h) ..)
  all_goals simp +zetaDelta [h]

theorem nextWf_graphTeardown (t g : Nat) : NextWf (execGraphTeardown t g s) := by
  fun_cases execGraphTeardown t g s
  case case3 ks _ u late v w =>
    have hu : Memory.wf u.mem := wf_foldl h (fun q e hq => wf_tearTask hq e) _
    have hv : Memory.wf v.mem := hu
    exact wf_finishGraph (by simpa [w] using hv) ..
  all_goals simp [h]

theorem nextWf_faultQueueWrite (t : Nat) : NextWf (execFaultQueueWrite t s) := by
  fun_cases execFaultQueueWrite t s
  case case6 w r _ q _ _ u =>
    have hu : Memory.wf u.mem := wf_writeWords (s := s.modMarten t fun m => { m with records := r }) h ..
    simpa using hu
  all_goals simp [h]

theorem nextWf_spanRetire (c : Nat) : NextWf (execSpanRetire c s) := by
  fun_cases execSpanRetire c s
  case case4 r rs _ _ u v g _ _ =>
    have hv : Memory.wf v.mem := by simpa [v, u] using h
    refine wf_foldl hv (fun q m hq => ?_) _
    exact wf_credit hq ..
  all_goals simp +zetaDelta [h]

theorem nextWf_deferredFault (c x : Nat) : NextWf (execDeferredFault c x s) := by
  fun_cases execDeferredFault c x s
  case case4 u _ => exact (nextWf_happened _).2 (wf_takeFault (by simpa [u] using h) ..)
  all_goals simp +zetaDelta [h]

theorem nextWf_gsyncRelease (k : Nat) : NextWf (execGsyncRelease k s) := by
  fun_cases execGsyncRelease k s
  case case3 =>
    refine wf_foldl (by simpa using h) (fun q i hq => ?_) _
    split <;> exact hq
  all_goals simp [h]

theorem nextWf_copyComplete (e : Nat) : NextWf (execCopyComplete e s) := by
  fun_cases execCopyComplete e s
  case case3 u k hp v =>
    have hv : Memory.wf v.mem := wf_lastCredit (wf_of_eq_pair (wf_payCredits h ..) hp) ..
    simpa using hv
  all_goals simp [h]

theorem nextWf_hareJobEnd (e : Nat) : NextWf (execHareJobEnd e s) := by
  fun_cases execHareJobEnd e s
  case case3 u k hp v =>
    have hu : Memory.wf u.mem := wf_of_eq_pair (wf_payCredits h ..) hp
    have hv : Memory.wf v.mem := by
      simp only [v]
      split
      · exact wf_creditCmd hu ..
      · exact hu
    simpa using hv
  all_goals simp [h]

theorem nextWf_copyRow (p : Nat × Nat) : NextWf (execCopyRow p s) := by
  fun_cases execCopyRow p s
  case case4 put k _ _ r hr => simpa [put] using wf_movePartOf h _ _ _ r hr
  case case5 put k _ _ t k' ht => simpa [put] using wf_payCredits (wf_landRound h _ _ _ ht) ..
  case case9 put k _ _ _ _ => simpa [put] using wf_stepRow h ..
  all_goals simp +zetaDelta [h]

theorem nextWf_hareBlock (p : Nat × Nat) : NextWf (execHareBlock p s) := by
  fun_cases execHareBlock p s
  case case3 put k _ _ t k' ht => simpa [put] using wf_payCredits (wf_landRound h _ _ _ ht) ..
  case case7 put k _ _ _ _ => simpa [put] using wf_stepBlock h ..
  case case9 put _ _ _ _ => simpa [put] using h
  case case11 put k _ i _ r hr => simpa [put] using wf_moveJob h _ _ _ r hr
  all_goals simp +zetaDelta [h]

theorem nextWf_badgerStart (b : Nat) : NextWf (execBadgerStart b s) := by
  fun_cases execBadgerStart b s
  case case4 k _ _ u k' hu =>
    have hc : Memory.wf (if k.kind = .pltopk then startTopk s k else (s, k)).1.mem := by simpa using h
    simpa using wf_of_eq_pair hc hu
  all_goals simp [h]

theorem nextWf_badgerComplete (a : Nat × Nat) : NextWf (execBadgerComplete a s) := by
  fun_cases execBadgerComplete a s
  case case3 k _ _ u k' hu v k'' hv =>
    have hc : Memory.wf (if k.read then (s, k) else finishRun s k).1.mem := by simpa using h
    simpa using wf_of_eq_pair (wf_landRows (wf_of_eq_pair hc hu) ..) hv
  case case5 u k' hu v k'' hv =>
    have hu : Memory.wf u.mem := wf_of_eq_pair (by simpa using h) hu
    simpa using wf_of_eq_pair (wf_payRows hu ..) hv
  case case7 u k' hu =>
    split at hu
    · simpa using wf_landOf h _ _ _ _ _ hu
    · cases hu
  case case9 u _ hu =>
    have hu : Memory.wf u.mem := wf_of_eq_pair (by simpa using h) hu
    simpa using hu
  all_goals simp [h]

theorem nextWf_egqRun (a : Nat × Nat) : NextWf (execEgqRun a s) := by
  fun_cases execEgqRun a s
  case case2 n r u hu => 
    have hr : ∀ t ∈ r, Memory.wf t.mem := by
      intro t ht
      simp only [r] at ht
      split at ht
      · obtain ⟨k, -, hk⟩ := List.exists_of_findSome?_eq_some ht
        exact wf_egqRun h _ k t hk
      · split at ht
        · exact wf_mirrorEarly h _ _ t ht
        · obtain ⟨k, -, hk⟩ := Option.bind_eq_some_iff.1 ht
          exact wf_egqRun h _ k t hk
    exact hr u hu
  all_goals simp [h]

theorem nextWf_egressRecordOut (d : Nat) : NextWf (execEgressRecordOut d s) := by
  fun_cases execEgressRecordOut d s
  case case6 items n u hu i rest _ g _ _ v =>
    have hu : Memory.wf u.mem := by rwa [mem_of_turn hu]
    have hv : Memory.wf v.mem := wf_writeWords (by simpa using hu) ..
    simpa using hv
  all_goals simp [h]

theorem nextWf_launchRead : NextWf (execLaunchRead s) := by
  fun_cases execLaunchRead s
  case case2 => exact h
  case case5 u _ hd v _ _ =>
    have hv : v.mem = u.mem := State.correct_mem ..
    exact (nextWf_happened _).2 (wf_lqTake (by rw [hv]; exact h) ..)
  all_goals simp +zetaDelta [h]

theorem nextWf_sendQueueStart (a : Nat × Nat × Nat × Nat) : NextWf (execSendQueueStart a s) := by
  fun_cases execSendQueueStart a s
  case case4 u _ _ => exact wf_endSend (by simpa [u] using h) _
  case case7 => exact nextWf_sendPacket h ..
  case case9 => exact wf_sendRead h ..
  all_goals simp +zetaDelta [h]

theorem nextWf_npostSendComplete (q : Nat) : NextWf (execNpostSendComplete q s) := by
  fun_cases execNpostSendComplete q s
  case case3 => exact wf_endSend (by simpa using h) _
  all_goals simp [h]

theorem nextWf_netSendAbandon (q sent : Nat) : NextWf (execNetSendAbandon q sent s) := by
  fun_cases execNetSendAbandon q sent s
  case case4 => simpa using wf_creditNet (by simpa +zetaDelta using h) ..
  all_goals simp [h]

theorem nextWf_netPacketReceive (a : Nat × Nat) (off : Nat) (dat : List (BitVec 8)) (len : Nat) :
    NextWf (execNetPacketReceive a off dat len s) := by
  fun_cases execNetPacketReceive a off dat len s
  case case2 => exact nextWf_landReceive h ..
  case case8 k _ _ k' r =>
    have hr : Memory.wf r.1.mem := by
      simp only [r]
      split
      · exact wf_landRows h ..
      · exact h
    exact wf_putReceive hr ..
  all_goals simp [h]

theorem nextWf_mend : NextWf (execMend s) := by
  unfold execMend
  split
  · exact nextWf_finish h h
  · split
    next => exact nextWf_finish h trivial
    next sp _ =>
      extract_lets cores ret retire
      have hretire {u : State} (hu : Memory.wf u.mem) : Memory.wf (retire u).mem := hu
      split
      next g _ =>
        have hg := nextWf_gangBeat (f := mendIn) h (fun _ _ _ hs => wf_mendIn hs ..) g.members .mend
        generalize gangBeat s g.members .mend mendIn = o at hg
        split
        next u =>
          split
          · exact hretire (wf_foldl hg (fun q m hq => (congrArg Memory.wf (State.closeSpan_mem q m)).trans hq) _)
          · exact hg
        · exact hg
      next =>
        have hb := wf_mendIn h s.focus.core s.focus.ctx
        generalize mendIn s s.focus.core s.focus.ctx = b at hb
        split
        next u =>
          refine nextWf_finish h (Res.wf_bind (wf_closeRecord hb) fun v hv => ?_)
          exact hretire hv
        · exact nextWf_finishBeat h hb

theorem nextWf_icacheFill : NextWf (execIcacheFill s) := by
  unfold execIcacheFill; split
  · simpa using h
  · exact (nextWf_stoppedAt _).2 (wf_takeFault h ..)

theorem nextWf_hostWrite (pa : Nat) (dat : List (BitVec 8)) : NextWf (execHostWrite pa dat s) := by
  refine nextWf_fromHost h ?_
  split
  · split
    · simpa using h
    · exact h
  · split
    · exact wf_writeBytes h ..
    · simpa using h

omit h in
theorem nextWf_moduleReset (stages : List (BitVec 256 × Bool)) : NextWf (execModuleReset stages s) := rfl

end

end Sys2Proof.Machine
end

section
/-! Canonical memory in every operation, every event and every step. -/

namespace Sys2Proof.Machine

section
variable {s : State} (h : Memory.wf s.mem)
include h

/-- An operation that is done without touching memory. -/
theorem nextWf_done {t : State} (ht : t.mem = s.mem) : NextWf (finish s (.done t)) :=
  nextWf_finish h (r := .done t) (by rw [Res.wf_done, ht]; exact h)

/-! Operations -/

theorem nextWf_hdr (y w : BitVec 1) (m : BitVec 8) (g : BitVec 2) (v : BitVec 4) (a b : BitVec 5) : NextWf (execHdr y w m g v a b s) := by
  unfold execHdr
  repeat' split
  · exact nextWf_done h rfl
  · exact nextWf_finish h trivial
  · simpa using h
  · exact nextWf_done h rfl

theorem nextWf_gsync : NextWf (execGsync s) := by
  unfold execGsync; dsimp only
  split
  · exact nextWf_done h rfl
  · exact nextWf_finish h trivial
  · split
    · exact nextWf_done h rfl
    · split
      · exact nextWf_done h rfl
      · simpa using h

theorem nextWf_brkm (v : BitVec 16) : NextWf (execBrkm v s) :=
  nextWf_finish h (wf_realigning h _ fun _ ht => wf_transferTo ht _ _ fun _ hu => hu)

theorem nextWf_yield : NextWf (execYield s) := nextWf_finish h (wf_realigning h _ fun _ ht => ht)

theorem nextWf_endOp : NextWf (execEndOp s) := by
  refine nextWf_finish h (wf_realigning h _ fun t ht => ?_)
  split
  · exact ht
  · split
    · split <;> trivial
    · trivial

theorem nextWf_wait (l t : BitVec 8) (c : BitVec 6) (m : BitVec 2) : NextWf (execWait l t c m s) := by
  refine nextWf_finish h (wf_realigning h _ fun t ht => ?_)
  dsimp only
  split
  · exact ht
  · trivial

theorem nextWf_fence (p q : BitVec 6) (c : BitVec 3) : NextWf (execFence p q c s) := by
  refine nextWf_finish h (wf_realigning h _ fun t ht => ?_)
  split <;> exact ht

theorem nextWf_drain (c : BitVec 3) : NextWf (execDrain c s) := by
  refine nextWf_finish h (wf_realigning h _ fun t ht => ?_)
  split
  · exact ht
  · trivial

theorem nextWf_recoff : NextWf (execRecoff s) := by
  refine nextWf_finish h (wf_realigning h _ fun t ht => ?_)
  dsimp only
  repeat' split
  · exact ht
  · trivial
  · trivial
  · exact ht

theorem nextWf_eret : NextWf (execEret s) := by
  refine nextWf_finish h ?_
  split
  · trivial
  · split
    · trivial
    · exact h

theorem nextWf_breakOp (n : BitVec 3) : NextWf (execBreakOp n s) := by
  refine nextWf_finish h ?_
  split
  · trivial
  · exact h

theorem nextWf_csrr (d : BitVec 6) (c : BitVec 12) : NextWf (execCsrr d c s) := by
  refine nextWf_finish h ?_
  split
  · trivial
  · split
    · trivial
    · exact h

theorem nextWf_csrw (a : BitVec 6) (c : BitVec 12) : NextWf (execCsrw a c s) := by
  refine nextWf_finish h ?_
  split
  · trivial
  next u hu =>
    split
    · trivial
    · exact wf_csrWrite h _ _ _ _ u hu

theorem nextWf_signal (a : BitVec 6) : NextWf (execSignal a s) := by
  refine nextWf_finish h ?_
  dsimp only
  split
  · trivial
  · split <;> exact h

theorem nextWf_launch (a : BitVec 6) : NextWf (execLaunch a s) := by
  refine nextWf_finish h ?_
  dsimp only
  repeat' split
  case isFalse.isFalse.isFalse.isFalse.isFalse.isFalse => simpa using h
  all_goals trivial

theorem nextWf_wmark (l u : BitVec 6) (n : BitVec 4) : NextWf (execWmark l u n s) := by
  refine nextWf_finish h ?_
  dsimp only
  repeat' split
  · trivial
  · trivial
  · exact h

theorem nextWf_spl (d : BitVec 7) (x : BitVec 10) : NextWf (execSpl d x s) := by
  refine nextWf_finish h ?_
  split
  · trivial
  · exact h

theorem nextWf_scale (n : BitVec 7) (b : BitVec 4) (i : BitVec 15) : NextWf (execScale n b i s) := by
  refine nextWf_finish h ?_
  dsimp only
  repeat' split
  case isFalse.isFalse.isFalse.isFalse.isFalse.isFalse.isFalse.isFalse => simpa using h
  all_goals trivial

theorem nextWf_barinit (e : BitVec 6) (b : BitVec 4) (x y : BitVec 6) : NextWf (execBarinit e b x y s) :=
  nextWf_finish h (wf_barrierOp _ _ fun _ _ => wf_barinit h ..)

theorem nextWf_bararm (e : BitVec 6) (b : BitVec 4) : NextWf (execBararm e b s) :=
  nextWf_finish h (wf_barrierOp _ _ fun _ _ => wf_bararm h ..)

theorem nextWf_bararr (n : BitVec 6) (b : BitVec 4) : NextWf (execBararr n b s) :=
  nextWf_finish h (wf_barrierOp _ _ fun _ _ => wf_credit h ..)

theorem nextWf_bartst (d : BitVec 6) (b : BitVec 4) : NextWf (execBartst d b s) :=
  nextWf_finish h (wf_barrierOp _ _ fun _ _ => by simpa using h)

theorem nextWf_barwait (p : BitVec 6) (b : BitVec 4) : NextWf (execBarwait p b s) := by
  refine nextWf_finish h (wf_barrierOp _ _ fun q off => ?_)
  split
  · simpa using h
  · trivial

theorem nextWf_kinv : NextWf (execKinv s) := by
  refine nextWf_finish h ?_
  split
  · trivial
  · exact h
  · exact h

theorem nextWf_kpop : NextWf (execKpop s) := by
  refine nextWf_finish h ?_
  split
  · trivial
  · exact h

theorem nextWf_vcmp (a b : BitVec 6) (t : BitVec 3) (u : BitVec 1) (r : BitVec 3) : NextWf (execVcmp a b t u r s) := by
  refine nextWf_finish h ?_
  dsimp only
  split
  · exact Res.wf_bind (wf_pushMask h _) fun t ht => by simpa using ht
  · exact wf_pushMask h _

theorem nextWf_vins (d a n : BitVec 6) (t : BitVec 3) : NextWf (execVins d a n t s) := by
  refine nextWf_finish h ?_
  dsimp only
  split <;> exact h

theorem nextWf_mspan (r : BitVec 6) : NextWf (execMspan r s) := by
  refine nextWf_finish h ?_
  dsimp only
  split
  · trivial
  · split
    · trivial
    · split
      next => trivial
      next hr =>
        split
        · trivial
        · exact wf_touchProf (by simpa using wf_openRecord h _ _ _ hr) ..

theorem nextWf_mgang (r g : BitVec 6) : NextWf (execMgang r g s) := by
  refine nextWf_finish h ?_
  dsimp only
  split
  · trivial
  · split
    · trivial
    · split
      · trivial
      · exact wf_joinGang h ..

theorem nextWf_follow (k : BitVec 4) : NextWf (execFollow k s) := by
  refine nextWf_finish h ?_
  dsimp only
  split
  · trivial
  · split
    · split
      · split
        · trivial
        · split
          · trivial
          · exact wf_joinGang h ..
      · trivial
    · trivial

/-! Events that write no memory, and those that act through one of the above -/

theorem nextWf_signalDecrement (t : Nat) : NextWf (execSignalDecrement t s) := by
  fun_cases execSignalDecrement t s
  case case2 hc _ => simpa [mem_of_turn hc] using h
  case case3 hc _ _ => simpa [mem_of_turn hc] using h
  all_goals trivial

theorem nextWf_deviceLaunchArrive (t : Nat) : NextWf (execDeviceLaunchArrive t s) := by
  fun_cases execDeviceLaunchArrive t s
  all_goals simp +zetaDelta [h]

theorem nextWf_agingTick (t : Nat) : NextWf (execAgingTick t s) := by
  fun_cases execAgingTick t s
  case case3 hc _ => simpa [mem_of_choose hc] using h
  all_goals simp [h]

theorem nextWf_rowEmerge (c : Nat) : NextWf (execRowEmerge c s) := by
  fun_cases execRowEmerge c s
  all_goals simp [h]

theorem nextWf_egressAnswer (c x : Nat) : NextWf (execEgressAnswer c x s) := by
  fun_cases execEgressAnswer c x s
  all_goals simp +zetaDelta [h]

theorem nextWf_copyStart (e : Nat) : NextWf (execCopyStart e s) := by
  fun_cases execCopyStart e s
  all_goals simp [h]

theorem nextWf_hareJobStart (e : Nat) : NextWf (execHareJobStart e s) := by
  fun_cases execHareJobStart e s
  all_goals simp [h]

theorem nextWf_throttleWindow (t n : Nat) : NextWf (execThrottleWindow t n s) := by
  fun_cases execThrottleWindow t n s
  all_goals simp +zetaDelta [h]

theorem nextWf_timingModeApply (t : Nat) : NextWf (execTimingModeApply t s) := by
  fun_cases execTimingModeApply t s
  all_goals simp [h]

theorem nextWf_bankFailing (t : Nat) (b : Nat × Nat) : NextWf (execBankFailing t b s) := by
  fun_cases execBankFailing t b s
  all_goals simp [h]

theorem nextWf_failingTsvLane (t n : Nat) : NextWf (execFailingTsvLane t n s) := by
  fun_cases execFailingTsvLane t n s
  all_goals simp [h]

theorem nextWf_bridgeReplay (t q : Nat) : NextWf (execBridgeReplay t q s) := by
  fun_cases execBridgeReplay t q s
  all_goals simp [h]

theorem nextWf_loadValueReturn (c : Nat) (a : Nat × Nat) : NextWf (execLoadValueReturn c a s) := by
  fun_cases execLoadValueReturn c a s
  case case4 => exact nextWf_moveOf h ..
  all_goals simp [h]

theorem nextWf_storePerform (c : Nat) (a : Nat × Nat) : NextWf (execStorePerform c a s) := by
  fun_cases execStorePerform c a s
  case case5 => exact nextWf_moveOf h ..
  all_goals simp [h]

theorem nextWf_preemptHalt (k : Nat) : NextWf (execPreemptHalt k s) := by
  fun_cases execPreemptHalt k s
  all_goals simp [h]

theorem nextWf_scrubVisit (w : Nat) : NextWf (execScrubVisit w s) := by
  fun_cases execScrubVisit w s
  all_goals simp [h]

theorem nextWf_hostRead (pa len : Nat) : NextWf (execHostRead pa len s) := by
  fun_cases execHostRead pa len s
  all_goals simp [h]

theorem nextWf_flitReceive (dat : List (BitVec 8)) : NextWf (execFlitReceive dat s) := by
  fun_cases execFlitReceive dat s
  all_goals simp [h]

theorem nextWf_flitNak (q : Nat) : NextWf (execFlitNak q s) := by
  fun_cases execFlitNak q s
  all_goals simp [h]

theorem nextWf_linkRetrain : NextWf (execLinkRetrain s) := by
  fun_cases execLinkRetrain s
  all_goals simp [h]

theorem nextWf_linkRetrained : NextWf (execLinkRetrained s) := by
  fun_cases execLinkRetrained s
  all_goals simp [h]

theorem nextWf_imginvDone : NextWf (execImginvDone s) := by
  fun_cases execImginvDone s
  all_goals simp [h]

theorem nextWf_attestationReport : NextWf (execAttestationReport s) := by
  fun_cases execAttestationReport s
  all_goals simp [h]

theorem nextWf_modesetWrite (v : BitVec 64) : NextWf (execModesetWrite v s) := by
  simpa [execModesetWrite] using h

theorem nextWf_mgmtRegisterWrite (p : Bool × Nat) (v : BitVec 64) : NextWf (execMgmtRegisterWrite p v s) := by
  fun_cases execMgmtRegisterWrite p v s
  case case1 => exact nextWf_fromHost h h
  case case3 => exact nextWf_fromHost h (by simpa using h)
  all_goals simp [h]

theorem nextWf_errorInjectArm (t : Nat) (v : BitVec 64) : NextWf (execErrorInjectArm t v s) := by
  fun_cases execErrorInjectArm t v s
  case case2 => exact nextWf_fromHost h (by simpa using h)
  all_goals trivial

theorem nextWf_nqBind (q w : Nat) (x : BitVec 64) : NextWf (execNqBind q w x s) := by
  fun_cases execNqBind q w x s
  case case2 => exact nextWf_fromHost h (by simpa using h)
  all_goals trivial

theorem nextWf_owlSettle (t : Nat) : NextWf (execOwlSettle t s) := by
  refine nextWf_owlRun h _ _ fun c x a => ?_
  exact h

theorem nextWf_owlSettleDone (t : Nat) : NextWf (execOwlSettleDone t s) := by
  fun_cases execOwlSettleDone t s
  all_goals simp [h]

theorem nextWf_owlBadCommand (t : Nat) : NextWf (execOwlBadCommand t s) := by
  fun_cases execOwlBadCommand t s
  all_goals simp [h]

theorem nextWf_encodingFault (slot : Nat) : NextWf (execEncodingFault slot s) := by
  fun_cases execEncodingFault slot s
  · trivial
  · exact (nextWf_stoppedAt _).2 (wf_takeFault h ..)

/-! Every operation and event -/

theorem nextWf_exec (i : Instr) : NextWf (exec i s) := by
  cases i
  case addReg | addImm | subReg | subImm | mulReg | mulImm | mulhReg | mulhImm | divReg | divImm | remReg | remImm | andReg | andImm |
      orReg | orImm | xorReg | xorImm | shlReg | shlImm | shrReg | shrImm | sraReg | sraImm | minReg | minImm | maxReg | maxImm |
      cmpReg | cmpImm | sel | bitc | bfx | bfi | li | lih | mov => exact nextWf_done h rfl
  case nop | mnop | sps | xinvAll | xinvVa | kmovTo | vsel | vmovs => exact nextWf_done h rfl
  case vcvt | vbcst | vperm | vslide | vzip | vunzip | viota | viadd | visub | vimul | vand | vor | vxor | vshl | vshr | vsra =>
    exact nextWf_done h (State.laneWrite_mem ..)
  case vred => exact nextWf_done h (State.raiseFlags_mem ..)
  case vadd | vsub | vmul | vmax | vmin => exact nextWf_finish h (wf_binaryF h ..)
  case vabs | vneg | vrcp | vrsq | vsqrt | vexp2 | vlog2 | vtanh | vscl => exact nextWf_finish h (wf_unaryF h ..)
  case vfma | vfms => exact nextWf_finish h (wf_ternaryF h ..)
  case tadd | tmul | tscale | tbias | trelu | tgelu | tsilu | texp | tsoftmax | trmsn | tmask | ttrans | tcvt =>
    exact nextWf_finish h (wf_tileOp h ..)
  case kpush | kmovFrom => exact nextWf_finish h (wf_pushMask h _)
  case aadd | afadd | amin | amax | alogic | aswp | acas => exact nextWf_finish h (wf_atomic h ..)
  case jmpRel | jmpReg | br | ret => exact nextWf_finish h (wf_transferTo h _ _ fun _ ht => ht)
  case callRel | callReg => exact nextWf_finish h (wf_transferTo h _ _ fun _ ht => ht)
  case loopImm | loopReg => exact nextWf_finish h (wf_loopBy h ..)
  case sld => exact nextWf_finish h (wf_loadScalar h ..)
  case sst => exact nextWf_finish h (wf_storeScalar h ..)
  case vld => exact nextWf_finish h (wf_loadVector h ..)
  case vst => exact nextWf_finish h (wf_storeVector h ..)
  case vldx => exact nextWf_finish h (wf_loadIndexed h ..)
  case vstx => exact nextWf_finish h (wf_storeIndexed h ..)
  case tagset => exact nextWf_finish h (wf_tagset h ..)
  case ringcfg => exact nextWf_finish h (wf_ringcfg h ..)
  case rpop => exact nextWf_finish h (wf_rpop h _)
  case copy | cslice => exact nextWf_finish h (wf_engineOp _ _ _ _ _ _ fun k => wf_copyIssue h k)
  case stream => exact nextWf_finish h (wf_engineOp _ _ _ _ _ _ fun k => wf_streamIssue h k)
  case egq => exact nextWf_finish h (wf_engineOp _ _ _ _ _ _ fun k => wf_egqIssue h k)
  case npost => exact nextWf_finish h (wf_engineOp _ _ _ _ _ _ fun k => wf_npostIssue h k)
  case pldec | pland | plor | pltopk | plfuse => exact nextWf_finish h (wf_badgerOp h ..)
  case recon => exact nextWf_finish h (wf_realigning h _ fun _ ht => wf_recon ht ..)
  case mpush => exact nextWf_spanBeat h (fun _ _ _ ht => wf_pushIn ht ..) _
  case mflip => exact nextWf_spanBeat h (fun _ _ _ ht => wf_flipIn ht ..) _
  case mshift => exact nextWf_spanBeat h (fun _ _ _ ht => wf_shiftIn ht ..) _
  case macc | maccU => exact nextWf_spanBeat h (fun _ _ _ ht => wf_maccIn ht ..) _
  case mdrain => exact nextWf_beat h (fun _ _ _ ht => wf_drainIn ht ..) _
  case mzero => exact nextWf_beat h (fun _ _ _ ht => wf_zeroIn ht ..) _
  case mend => exact nextWf_mend h
  case release | veto => exact nextWf_releaseOp h ..
  case hdr y w m g v a b => exact nextWf_hdr h y w m g v a b
  case gsync => exact nextWf_gsync h
  case brkm => exact nextWf_brkm h _
  case yield => exact nextWf_yield h
  case endOp => exact nextWf_endOp h
  case wait => exact nextWf_wait h ..
  case fence => exact nextWf_fence h ..
  case drain => exact nextWf_drain h _
  case recoff => exact nextWf_recoff h
  case eret => exact nextWf_eret h
  case breakOp => exact nextWf_breakOp h _
  case csrr => exact nextWf_csrr h ..
  case csrw => exact nextWf_csrw h ..
  case signal => exact nextWf_signal h _
  case launch => exact nextWf_launch h _
  case wmark => exact nextWf_wmark h ..
  case spl => exact nextWf_spl h ..
  case scale => exact nextWf_scale h ..
  case barinit => exact nextWf_barinit h ..
  case bararm => exact nextWf_bararm h ..
  case bararr => exact nextWf_bararr h ..
  case bartst => exact nextWf_bartst h ..
  case barwait => exact nextWf_barwait h ..
  case kinv => exact nextWf_kinv h
  case kpop => exact nextWf_kpop h
  case vcmp => exact nextWf_vcmp h ..
  case vins => exact nextWf_vins h ..
  case mspan => exact nextWf_mspan h _
  case mgang => exact nextWf_mgang h ..
  case follow => exact nextWf_follow h _
  case reverse => exact nextWf_reverse h _
  case trap => exact (nextWf_stoppedAt _).2 (wf_takeFault h ..)
  case dbgbrk => exact (nextWf_stoppedAt _).2 (wf_breakStop h ..)
  -- events
  case signalDecrement => exact nextWf_signalDecrement h _
  case deviceLaunchArrive => exact nextWf_deviceLaunchArrive h _
  case agingTick => exact nextWf_agingTick h _
  case rowEmerge => exact nextWf_rowEmerge h _
  case egressAnswer => exact nextWf_egressAnswer h ..
  case copyStart => exact nextWf_copyStart h _
  case hareJobStart => exact nextWf_hareJobStart h _
  case throttleWindow => exact nextWf_throttleWindow h ..
  case timingModeApply => exact nextWf_timingModeApply h _
  case bankFailing => exact nextWf_bankFailing h ..
  case failingTsvLane => exact nextWf_failingTsvLane h ..
  case bridgeReplay t q => exact nextWf_bridgeReplay h t q
  case loadValueReturn => exact nextWf_loadValueReturn h ..
  case storePerform => exact nextWf_storePerform h ..
  case preemptHalt => exact nextWf_preemptHalt h _
  case scrubVisit => exact nextWf_scrubVisit h _
  case hostRead => exact nextWf_hostRead h ..
  case flitReceive => exact nextWf_flitReceive h _
  case flitNak => exact nextWf_flitNak h _
  case linkRetrain => exact nextWf_linkRetrain h
  case linkRetrained => exact nextWf_linkRetrained h
  case imginvDone => exact nextWf_imginvDone h
  case attestationReport => exact nextWf_attestationReport h
  case modesetWrite => exact nextWf_modesetWrite h _
  case egressStreamReset => exact nextWf_fromHost h (by simpa using h)
  case launchDoorbell => exact nextWf_fromHost h (by simpa using h)
  case imageInvalidate => exact nextWf_fromHost h (by simpa using h)
  case attestationRequest => exact nextWf_fromHost h (by simpa using h)
  case mgmtRegisterWrite => exact nextWf_mgmtRegisterWrite h ..
  case errorInjectArm => exact nextWf_errorInjectArm h ..
  case nqBind => exact nextWf_nqBind h ..
  case hostWrite => exact nextWf_hostWrite h ..
  case owlSettle => exact nextWf_owlSettle h _
  case owlSettleDone => exact nextWf_owlSettleDone h _
  case owlBadCommand => exact nextWf_owlBadCommand h _
  case owlStop => exact nextWf_owlStop h _
  case owlResume => exact nextWf_owlResume h _
  case owlStep => exact nextWf_owlStep h _
  case owlRdreg => exact nextWf_owlRdreg h _
  case owlWrreg => exact nextWf_owlWrreg h _
  case owlFlush => exact nextWf_owlFlush h _
  case owlTagdump => exact nextWf_owlTagdump h _
  case traceSample => exact nextWf_traceSample h _
  case graphLaunch => exact nextWf_graphLaunch h _
  case taskPlace => exact nextWf_taskPlace h _
  case contextBind => exact nextWf_contextBind h _
  case contextFree => exact nextWf_contextFree h ..
  case graphTeardown => exact nextWf_graphTeardown h ..
  case faultQueueWrite => exact nextWf_faultQueueWrite h _
  case spanRetire => exact nextWf_spanRetire h _
  case deferredFault => exact nextWf_deferredFault h ..
  case gsyncRelease => exact nextWf_gsyncRelease h _
  case copyComplete => exact nextWf_copyComplete h _
  case hareJobEnd => exact nextWf_hareJobEnd h _
  case copyRow => exact nextWf_copyRow h _
  case hareBlock => exact nextWf_hareBlock h _
  case badgerStart => exact nextWf_badgerStart h _
  case badgerComplete => exact nextWf_badgerComplete h _
  case egqRun => exact nextWf_egqRun h _
  case egressRecordOut => exact nextWf_egressRecordOut h _
  case launchRead => exact nextWf_launchRead h
  case sendQueueStart => exact nextWf_sendQueueStart h _
  case npostSendComplete => exact nextWf_npostSendComplete h _
  case netSendAbandon => exact nextWf_netSendAbandon h ..
  case netPacketReceive => exact nextWf_netPacketReceive h ..
  case icacheFill => exact nextWf_icacheFill h
  case encodingFault => exact nextWf_encodingFault h _
  case preemptRequest => exact nextWf_preemptRequest h ..
  case preemptForcedStop => exact nextWf_preemptForcedStop h _
  case preemptSave => exact nextWf_preemptSave h _
  case gangResume => exact nextWf_gangResume h ..
  case recoveryPoint => exact nextWf_recoveryPoint h ..
  case recoveryDelayExpire => exact nextWf_recoveryDelayExpire h ..
  case reverseRecord => exact nextWf_reverseRecord h ..
  case moduleReset => exact nextWf_moduleReset _

end

section
variable {s : State} (h : Memory.wf s.mem)
include h

/-! A cycle of a core -/

omit h in
theorem nextWf_andThen {o : Host.Outcome State Fault Refusal} {k : State → Host.Outcome State Fault Refusal} (ho : NextWf o)
    (hk : ∀ t : State, Memory.wf t.mem → NextWf (k t)) : NextWf (andThen o k) := by
  cases o with
  | next t => exact hk t ho
  | fault | refused => trivial

theorem nextWf_execAt (i : Instr) (f : Focus) : NextWf (exec i { s with focus := f }) := nextWf_exec (s := { s with focus := f }) h i

theorem wf_advance (c x : Nat) (a : Word) (ops : List QOp) (old : Option Delay) (step : Bool) :
    Memory.wf (s.advance c x a ops old step).mem := by
  unfold State.advance
  extract_lets t
  split
  extract_lets u
  have hu : Memory.wf u.mem := h
  split
  · dsimp only
    exact wf_takeFault hu ..
  · exact hu

omit h in
theorem wf_dispatched {s' : State} (h' : Memory.wf s'.mem) (c x : Nat) (b : Bundle) (step : Bool) :
    Memory.wf (dispatched s s' c x b step).mem := by
  simpa [dispatched] using wf_advance h' ..

theorem nextWf_issueOp (c x : Nat) (o : QOp) (step : Bool) : NextWf (issueOp s c x o step) := by
  refine nextWf_andThen (nextWf_execAt h o.ins _) fun t ht => ?_
  split
  · simpa using ht
  · split
    · exact (nextWf_stoppedAt _).2 (wf_breakStop h ..)
    · split
      · simpa using ht
      · exact ht

theorem nextWf_issueHead (c x slot : Nat) : NextWf (issueHead s c x slot) := by
  fun_cases issueHead s c x slot
  case case3 => exact nextWf_issueOp h ..
  all_goals simp [h]

theorem nextWf_issueSlots (ks : List Nat) (c x : Nat) : NextWf (issueSlots ks s c x) := by
  induction ks generalizing s with
  | nil => exact h
  | cons k r ih =>
    refine nextWf_andThen (nextWf_issueHead (s := { s with last := .idle }) h ..) fun t ht => ?_
    split
    · exact ht
    · exact ih ht

theorem nextWf_issueAll (c x : Nat) : NextWf (issueAll s c x) := nextWf_issueSlots h ..

theorem nextWf_runBundle (c x : Nat) (b : Bundle) (present : BitVec 4) (step : Bool) : NextWf (runBundle s c x b present step) := by
  fun_cases runBundle s c x b present step
  case case1 => exact h
  case case2 => exact (nextWf_stoppedAt _).2 (wf_breakStop h ..)
  case case3 u _ => exact wf_dispatched (s' := { s with last := .idle }) h ..
  case case4 u _ => exact nextWf_execAt (wf_dispatched (s' := { s with last := .idle }) h ..) ..
  case case5 =>
    refine nextWf_andThen (nextWf_execAt h b.x _) fun t ht => ?_
    extract_lets u own
    have hu : Memory.wf u.mem := by
      simp only [u]
      split
      · exact wf_dispatched ht ..
      · exact ht
    split
    · exact h
    · split
      · exact (nextWf_stoppedAt _).2 (wf_breakStop h ..)
      · exact hu

theorem nextWf_dispatchBundle (c x : Nat) (step : Bool) : NextWf (dispatchBundle s c x step) := by
  have ht (image : BitVec 24) (a : Word) : Memory.wf (s.touchLine c image a).mem := by simpa using h
  fun_cases dispatchBundle s c x step
  · exact nextWf_execAt h ..
  · exact nextWf_execAt (ht _ _) ..
  · exact nextWf_runBundle (ht _ _) ..

theorem nextWf_dispatch (c x : Nat) (step : Bool) : NextWf (dispatch s c x step) := by
  fun_cases dispatch s c x step
  case case4 => exact nextWf_dispatchBundle h ..
  all_goals simp [h]

theorem nextWf_runCtx (c x : Nat) : NextWf (runCtx s c x) := by
  have hend {t : State} (ht : Memory.wf t.mem) : Memory.wf ((t.settle c x).landHere c x false).mem := wf_landHere (by simpa using ht) ..
  refine nextWf_andThen (nextWf_dispatch h ..) fun u hu => ?_
  split
  · refine nextWf_andThen (nextWf_issueAll (s := { s with last := .idle }) h ..) fun v hv => ?_
    split
    · exact (nextWf_next _).2 (wf_landHere hv ..)
    · exact nextWf_andThen (nextWf_dispatch hv ..) fun w hw => (nextWf_next _).2 (hend (wf_landHere hw ..))
  · exact nextWf_andThen (nextWf_issueAll (wf_landHere hu ..) ..) fun v hv => (nextWf_next _).2 (hend hv)

omit h in
theorem wf_tick {u : State} (hu : Memory.wf u.mem) (c x : Nat) : Memory.wf (s.tick u c x).mem := by
  unfold State.tick
  exact wf_charge (by simpa using hu) ..

omit h in
theorem wf_endCycle {u : State} (hu : Memory.wf u.mem) (c x : Nat) : Memory.wf (s.endCycle u c x).mem := by
  unfold State.endCycle; dsimp only
  split
  · exact hu
  · exact wf_tick hu ..

theorem nextWf_stepEnds {u : State} (hu : Memory.wf u.mem) (c x : Nat) (addr : Word) (slot : Nat) :
    NextWf (stepEnds s u c x addr slot) := by
  fun_cases stepEnds s u c x addr slot
  case case1 => exact hu
  case case2 => simpa +zetaDelta using wf_owlHalt hu c x slot addr
  case case3 => exact h

theorem nextWf_stepOp (c x : Nat) : NextWf (stepOp s c x) := by
  have hgo : Memory.wf (s.modCtx c x fun k => { k with stopped := false }).mem := h
  fun_cases stepOp s c x
  · exact nextWf_andThen (nextWf_issueOp hgo ..) fun u hu => nextWf_stepEnds h hu ..
  · exact h
  · refine nextWf_andThen (nextWf_dispatch hgo ..) fun u hu => ?_
    split
    · exact nextWf_stepEnds h hu ..
    · exact hu

theorem nextWf_idleCycle (c : Nat) : NextWf (idleCycle s c) := by
  unfold idleCycle
  extract_lets u x
  have hu : Memory.wf u.mem := h
  exact wf_tick hu ..

theorem nextWf_coreStep (c : Nat) : NextWf (coreStep s c) := by
  fun_cases coreStep s c
  · exact nextWf_idleCycle h c
  next x _ b => 
    refine nextWf_andThen ?_ fun u hu => wf_endCycle hu ..
    have hb : Memory.wf b.mem := by simpa [b] using h
    split
    · exact nextWf_stepOp hb ..
    · exact nextWf_runCtx hb ..

/-! A step -/

theorem nextWf_runMove (m : Move) : NextWf (runMove m s) := by
  cases m with
  | event i => exact nextWf_exec h i
  | core c => exact nextWf_coreStep (by simpa using h) c

omit h in
theorem nextMove_mem {m : Move} {t : State} (hm : s.nextMove = some (m, t)) : t.mem = s.mem := by
  revert hm
  fun_cases State.nextMove s <;> intro hm <;> cases hm <;> rfl

theorem nextWf_step : NextWf (step s) := by
  unfold step stepOnce
  split
  next m t hm => exact nextWf_runMove (nextMove_mem hm ▸ h) m
  · exact h

end

end Sys2Proof.Machine

namespace Sys2Proof

open Machine

theorem memOk_of_nextWf {t : State} {o : Host.Outcome State Fault Refusal} (h : NextWf o) (ho : o = .next t) : MemOk t := by
  rw [ho] at h
  exact h

/-- Settles O59: every function of the model that makes a state leaves memory canonical, since memory is changed by a canonical write or
clearing alone. -/
theorem everyStepKeepsMemoryCanonical : Obligations.EveryStepKeepsMemoryCanonical :=
  ⟨fun i _ _ hs ho => memOk_of_nextWf (nextWf_exec hs i) ho, fun _ _ hs ho => memOk_of_nextWf (nextWf_step hs) ho⟩

end Sys2Proof
end

section
/-! Control registers: a branch of the map for each number, and the fields that a write takes. -/

namespace Sys2Proof
open Machine

/-! Fields of a word -/

/-- Bits in place over lower bits stay below the next place. -/
theorem two_pow_mul_add_lt {lo n m l : Nat} (hm : m < 2 ^ n) (hl : l < 2 ^ lo) : 2 ^ lo * m + l < 2 ^ (lo + n) :=
  calc 2 ^ lo * m + l < 2 ^ lo * (m + 1) := by rw [Nat.mul_succ]; omega
    _ ≤ 2 ^ lo * 2 ^ n := Nat.mul_le_mul_left _ hm
    _ = 2 ^ (lo + n) := (Nat.pow_add ..).symm

/-- A number as what lies above a field, the field, and what lies below it. -/
theorem eq_above_field_below (w lo n : Nat) :
    w = 2 ^ (lo + n) * (w / 2 ^ (lo + n)) + (2 ^ lo * (w / 2 ^ lo % 2 ^ n) + w % 2 ^ lo) := by
  rw [Nat.pow_add, ← Nat.div_div_eq_div_mul, Nat.mul_assoc, ← Nat.add_assoc, ← Nat.mul_add, Nat.div_add_mod, Nat.div_add_mod]

/-- A number with the field of `n` bits from `lo` replaced. -/
def replaceField (w lo n v : Nat) : Nat := w - ((w >>> lo) % 2 ^ n) <<< lo + (v % 2 ^ n) <<< lo

theorem replaceField_eq (w lo n v : Nat) :
    replaceField w lo n v = 2 ^ (lo + n) * (w / 2 ^ (lo + n)) + (2 ^ lo * (v % 2 ^ n) + w % 2 ^ lo) := by
  have hw := eq_above_field_below w lo n
  rw [replaceField, Nat.shiftRight_eq_div_pow, Nat.shiftLeft_eq, Nat.shiftLeft_eq, Nat.mul_comm _ (2 ^ lo), Nat.mul_comm _ (2 ^ lo)]
  omega

theorem testBit_replaceField (w lo n v k : Nat) :
    (replaceField w lo n v).testBit k = if lo ≤ k ∧ k < lo + n then v.testBit (k - lo) else w.testBit k := by
  have hlow := Nat.mod_lt w (Nat.two_pow_pos lo)
  have hmid := two_pow_mul_add_lt (Nat.mod_lt v (Nat.two_pow_pos n)) hlow
  rw [replaceField_eq, Nat.testBit_two_pow_mul_add _ hmid, Nat.testBit_two_pow_mul_add _ hlow]
  simp only [Nat.testBit_mod_two_pow, Nat.testBit_div_two_pow]
  by_cases hk : k < lo
  · simp [hk, show ¬ lo ≤ k by omega, show k < lo + n by omega]
  · by_cases hn : k < lo + n
    · simp [hk, hn, show lo ≤ k by omega, show k - lo < n by omega]
    · simp [hn, show k - (lo + n) + (lo + n) = k by omega]

/-- A bit vector that a field has been replaced in, the field inside it. -/
theorem getLsbD_replaceField {m : Nat} (w : BitVec m) {lo n : Nat} (v : Nat) (h : lo + n ≤ m) (k : Nat) :
    (BitVec.ofNat m (replaceField w.toNat lo n v)).getLsbD k = if lo ≤ k ∧ k < lo + n then v.testBit (k - lo) else w.getLsbD k := by
  rw [BitVec.getLsbD_ofNat, testBit_replaceField]
  by_cases hk : k < m
  · simp [hk, BitVec.getLsbD]
  · simp [hk, show ¬ k < lo + n by omega, BitVec.getLsbD_of_ge w k (Nat.not_lt.1 hk)]

theorem getLsbD_putBits (w : Word) {lo n : Nat} (v : Nat) (h : lo + n ≤ 64) (k : Nat) :
    (putBits w lo n v).getLsbD k = if lo ≤ k ∧ k < lo + n then v.testBit (k - lo) else w.getLsbD k := by
  rw [putBits, ← replaceField, getLsbD_replaceField w v h k]

/-- A write of a register's field takes that field of the word and keeps the rest. -/
theorem getLsbD_mergeBits (old new : Word) {hi lo : Nat} (h : lo ≤ hi) (hhi : hi < 64) (k : Nat) :
    (mergeBits old new hi lo).getLsbD k = if lo ≤ k ∧ k ≤ hi then new.getLsbD k else old.getLsbD k := by
  rw [mergeBits, getLsbD_putBits _ _ (by omega)]
  by_cases hk : lo ≤ k ∧ k ≤ hi
  · rw [if_pos hk, if_pos (by omega), bits, Nat.testBit_mod_two_pow, Nat.testBit_shiftRight, show lo + (k - lo) = k by omega]
    simp [BitVec.getLsbD, show k - lo < hi + 1 - lo by omega]
  · rw [if_neg hk, if_neg (by omega)]

theorem putBits_bit_zero (w : Word) : putBits w 0 1 1 = w ||| 1 := by
  refine BitVec.eq_of_getLsbD_eq fun k hk => ?_
  rw [getLsbD_putBits _ _ (by omega), BitVec.getLsbD_or]
  by_cases h0 : k = 0
  · subst h0; simp
  · simp [h0, show ¬ k < 1 by omega, BitVec.getLsbD_one]

/-! CSRR -/

section
variable {s : State} {d a : BitVec 6} {c : BitVec 12} {v : Word}

theorem csrr_writes (hv : s.csr s.focus.core s.focus.ctx c.toNat = some v) (hc : csrHeld s.fctx c.toNat = false) :
    WritesReg (.csrr d c) s d.toNat v :=
  writesReg_of _ s _ v (by simp [exec, execCsrr, hv, hc, finish, sreg])

theorem csrr_waits (hv : s.csr s.focus.core s.focus.ctx c.toNat = some v) (hc : csrHeld s.fctx c.toNat = true) : Waits (.csrr d c) s := by
  simp [Waits, exec, execCsrr, hv, hc, finish]

theorem csrr_traps (hv : s.csr s.focus.core s.focus.ctx c.toNat = none) : Traps (.csrr d c) s cILLOP 0 0 := by
  simp [Traps, exec, execCsrr, hv, finish]

/-- From 0x19 on the map has the range entries alone. -/
theorem csr_of_ge {num : Nat} (h : 0x19 ≤ num) (c x : Nat) :
    s.csr c x num = if 0x200 ≤ num ∧ num ≤ 0x2FF then some ((s.ctx c x).ranges.get (num - 0x200) 0) else none := by
  unfold State.csr
  extract_lets t tw w lp
  split
  case h_15 => rw [if_neg (by omega), if_neg (by omega)]
  all_goals omega

theorem csr_of_missing {num : Nat} (h : 0x300 ≤ num ∨ (0x19 ≤ num ∧ num < 0x200) ∨ (0xD ≤ num ∧ num < 0x10)) (c x : Nat) :
    s.csr c x num = none := by
  by_cases hn : 0x19 ≤ num
  · rw [csr_of_ge hn, if_neg (by omega)]
  · obtain rfl | rfl | rfl : num = 0xD ∨ num = 0xE ∨ num = 0xF := by omega
    all_goals rfl

theorem csrHeld_of_empty {t : Ctx} (hv : t.vq = []) (hm : t.mq = []) (n : Nat) : csrHeld t n = false := by
  simp [csrHeld, hv, hm]

theorem csrHeld_of_queued {t : Ctx} (h : t.vq ≠ [] ∨ t.mq ≠ []) {n : Nat} (hn : n = 3 ∨ n = 5 ∨ n = 6 ∨ n = 7) : csrHeld t n = true := by
  have hq : (t.vq.isEmpty && t.mq.isEmpty) = false := by
    rcases h with h | h <;> simp [h]
  rcases hn with rfl | rfl | rfl | rfl <;> simp [csrHeld, hq]

theorem csr_of_capacity (n : BitVec 2) :
    s.csr s.focus.core s.focus.ctx (0x10 + n.setWidth 12 : BitVec 12).toNat =
      some (BitVec.ofNat 64 (((s.tower (towerOf s.focus.core)).layer (n.toNat + 1)).cap (n.toNat + 1))) := by
  obtain rfl | rfl | rfl | rfl : n = 0 ∨ n = 1 ∨ n = 2 ∨ n = 3 := by revert n; decide
  all_goals rfl

theorem csr_of_repair (n : BitVec 2) :
    let l := (s.tower (towerOf s.focus.core)).layer (n.toNat + 1)
    s.csr s.focus.core s.focus.ctx (0x14 + n.setWidth 12 : BitVec 12).toNat = some (BitVec.ofNat 64
      (bnat l.retired.isSome <<< 24 + (l.lanes % 256) <<< 16 + (l.spares % 256) <<< 8 + l.banks.length % 256)) := by
  obtain rfl | rfl | rfl | rfl : n = 0 ∨ n = 1 ∨ n = 2 ∨ n = 3 := by revert n; decide
  all_goals rfl

theorem csr_of_range (n : BitVec 8) :
    s.csr s.focus.core s.focus.ctx (0x200 + n.setWidth 12 : BitVec 12).toNat = some (s.fctx.ranges.get n.toNat 0) := by
  have hn : (0x200 + n.setWidth 12 : BitVec 12).toNat = 0x200 + n.toNat := by bv_omega
  rw [hn, csr_of_ge (by omega), if_pos (by have := n.isLt; omega), Nat.add_sub_cancel_left]
  rfl

/-- The capacity of a layer in detect-only mode is a 32nd more. -/
theorem cap_eq (l : Layer) (n : BitVec 2) :
    l.cap (n.toNat + 1) = let size := if n = 0 then 524288 else if n = 1 then 1048576 else 2097152
      if l.retired.isSome then 0 else if l.detect then size + size / 32 else size := by
  obtain rfl | rfl | rfl | rfl : n = 0 ∨ n = 1 ∨ n = 2 ∨ n = 3 := by revert n; decide
  all_goals rfl

/-! CSRW -/

@[simp] theorem sflags_setSflags (s : State) (g : Nat) (v : Word) : (s.setSflags g v).sflags g = v := by
  simp [State.setSflags, State.sflags, State.modTower, State.setTower, State.tower]

theorem csrw_traps (hv : s.csrWrite s.focus.core s.focus.ctx c.toNat (s.sOp a) = none) : Traps (.csrw a c) s cILLOP 0 0 := by
  simp [Traps, exec, execCsrw, hv, finish]

theorem csrw_waits {u : State} (hv : s.csrWrite s.focus.core s.focus.ctx c.toNat (s.sOp a) = some u) (hc : csrHeld s.fctx c.toNat = true) :
    Waits (.csrw a c) s := by
  simp [Waits, exec, execCsrw, hv, hc, finish]

theorem exec_csrw {u : State} (hv : s.csrWrite s.focus.core s.focus.ctx c.toNat (s.sOp a) = some u) (hc : csrHeld s.fctx c.toNat = false) :
    exec (.csrw a c) s = .next { u with last := .issued } := by
  simp [exec, execCsrw, hv, hc, finish]

/-- A write that changes the context alone. -/
theorem csrw_becomes {t : Ctx} (hv : s.csrWrite s.focus.core s.focus.ctx c.toNat (s.sOp a) = some (s.setCtx s.focus.core s.focus.ctx t))
    (hc : csrHeld s.fctx c.toNat = false) : CtxBecomes (.csrw a c) s t :=
  ctxBecomes_modF _ s (fun _ => t) (exec_csrw hv hc)

theorem csrw_unchanged (hv : s.csrWrite s.focus.core s.focus.ctx c.toNat (s.sOp a) = some s) (hc : csrHeld s.fctx c.toNat = false) :
    CtxBecomes (.csrw a c) s s.fctx :=
  ctxBecomes_self _ s (exec_csrw hv hc)

/-- The number names no register that a program writes. -/
theorem csrWrite_of_readOnly {num : Nat} (h : num ≠ 1 ∧ num ≠ 3 ∧ num ≠ 4 ∧ num ≠ 5 ∧ num ≠ 6 ∧ num ≠ 7 ∧ num ≠ 0x18) (c x : Nat) (v : Word) :
    s.csrWrite c x num v = if (s.csr c x num).isSome then some s else none := by
  unfold State.csrWrite
  extract_lets t n r put cur
  split
  case h_8 => rfl
  all_goals omega

/-- LOGPTR and REVCUR take a write while no recorded span is open. -/
theorem csrWrite_of_unrecorded {t : Ctx} {x c : Nat} (ht : s.ctx c x = t) (h : ∀ sp, t.span = some sp → sp.record = none) (v : Word) :
    s.csrWrite c x 5 v = some (s.setCtx c x { t with csr := { t.csr with logptr := mergeBits t.csr.logptr v 59 6 ||| 1 } }) ∧
    s.csrWrite c x 7 v = some (s.setCtx c x { t with csr := { t.csr with
      revcur := mergeBits t.csr.revcur v 55 6, rev := t.csr.rev && mergeBits t.csr.revcur v 55 6 ≠ 0 } }) := by
  subst ht
  rw [← putBits_bit_zero]
  cases hs : (s.ctx c x).span with
  | none => simp [State.csrWrite, hs]
  | some sp => simp [State.csrWrite, hs, h sp hs]

theorem csrWrite_of_recorded {x c : Nat} {sp : Span} {rs : RecSpan} (hs : (s.ctx c x).span = some sp) (hr : sp.record = some rs) (v : Word) :
    s.csrWrite c x 5 v = some s ∧ s.csrWrite c x 7 v = some s := by
  simp [State.csrWrite, hs, hr]

theorem csrWrite_exists {num : Nat} (h : num = 5 ∨ num = 7) (c x : Nat) (v : Word) : ∃ u, s.csrWrite c x num v = some u := by
  by_cases hs : ∀ sp, (s.ctx c x).span = some sp → sp.record = none
  · obtain ⟨h5, h7⟩ := csrWrite_of_unrecorded rfl hs v
    rcases h with rfl | rfl
    · exact ⟨_, h5⟩
    · exact ⟨_, h7⟩
  · push Not at hs
    obtain ⟨sp, hs, hr⟩ := hs
    obtain ⟨rs, hr⟩ := Option.ne_none_iff_exists'.1 hr
    obtain ⟨h5, h7⟩ := csrWrite_of_recorded hs hr v
    rcases h with rfl | rfl
    · exact ⟨_, h5⟩
    · exact ⟨_, h7⟩

/-- The register can be read. -/
theorem csr_isSome {num : Nat} (h : num ≤ 0xC ∨ (0x10 ≤ num ∧ num ≤ 0x18) ∨ (0x200 ≤ num ∧ num < 0x300)) (c x : Nat) :
    (s.csr c x num).isSome := by
  by_cases hn : 0x19 ≤ num
  · rw [csr_of_ge hn, if_pos (by omega)]; rfl
  · have h' : num ≤ 0xC ∨ (0x10 ≤ num ∧ num ≤ 0x18) := by omega
    rcases h' with h' | ⟨h₁, h₂⟩
    · clear h hn
      interval_cases num <;> rfl
    · clear h hn
      interval_cases num <;> rfl

end

theorem csrHeld_of_ne {t : Ctx} {n : Nat} (h : n ≠ 3 ∧ n ≠ 5 ∧ n ≠ 6 ∧ n ≠ 7) : csrHeld t n = false := by
  obtain ⟨h3, h5, h6, h7⟩ := h
  simp [csrHeld, h3, h5, h6, h7]

/-- A read that waits for nothing. -/
theorem csrr_free {s : State} {d : BitVec 6} {c : BitVec 12} {v w : Word} (hv : s.csr s.focus.core s.focus.ctx c.toNat = some v)
    (hc : c.toNat ≠ 3 ∧ c.toNat ≠ 5 ∧ c.toNat ≠ 6 ∧ c.toNat ≠ 7) (hw : v = w) : WritesReg (.csrr d c) s d.toNat w :=
  hw ▸ csrr_writes hv (csrHeld_of_ne hc)

/-- A read once the V and M queues are empty. -/
theorem csrr_behind {s : State} {d : BitVec 6} {c : BitVec 12} {v w : Word} (hv : s.fctx.vq = []) (hm : s.fctx.mq = [])
    (hs : s.csr s.focus.core s.focus.ctx c.toNat = some v) (hw : v = w) : WritesReg (.csrr d c) s d.toNat w :=
  hw ▸ csrr_writes hs (csrHeld_of_empty hv hm _)

theorem readOnly_toNat {n : BitVec 12} {p : Prop} (h : n = 0 ∨ n = 2 ∨ p) : n.toNat = 0 ∨ n.toNat = 2 ∨ p :=
  h.imp (congrArg BitVec.toNat) (Or.imp_left (congrArg BitVec.toNat))

/-- Settles O12: each number of the map is read and written by its own branch; the fields of a written word are those of `getLsbD_mergeBits`. -/
theorem controlRegisters : Obligations.ControlRegisters := by
  unfold Obligations.ControlRegisters
  intro flag
  constructor
  · intro s d t w field
    have hfield (n lo : Nat) : field n lo = n <<< lo := (Nat.shiftLeft_eq n lo).symm
    simp only [hfield]
    refine ⟨csrr_free rfl (by decide) rfl, csrr_free rfl (by decide) rfl, csrr_free rfl (by decide) rfl, csrr_free rfl (by decide) rfl,
      csrr_free rfl (by decide) rfl, csrr_free rfl (by decide) rfl, csrr_free rfl (by decide) rfl,
      csrr_free rfl (by decide) (BitVec.ofNat_toNat ..), fun hv hm => ?_, fun hq => ?_, csrr_free rfl (by decide) rfl, fun n => ⟨?_, ?_⟩,
      csrr_free rfl (by decide) rfl, fun n => ?_, fun n hn => csrr_traps (csr_of_missing hn _ _)⟩
    · exact ⟨csrr_behind hv hm rfl rfl, csrr_behind hv hm rfl rfl, csrr_behind hv hm rfl rfl, csrr_behind hv hm rfl rfl⟩
    · have hw {c : BitVec 12} (hc : c.toNat = 3 ∨ c.toNat = 5 ∨ c.toNat = 6 ∨ c.toNat = 7) {v : Word}
          (hv : s.csr s.focus.core s.focus.ctx c.toNat = some v) : Waits (.csrr d c) s := csrr_waits hv (csrHeld_of_queued hq hc)
      exact ⟨hw (by decide) rfl, hw (by decide) rfl, hw (by decide) rfl, hw (by decide) rfl⟩
    · exact csrr_free (csr_of_capacity n) (by revert n; decide) (by rw [cap_eq])
    · exact csrr_free (csr_of_repair n) (by revert n; decide) rfl
    · exact csrr_free (csr_of_range n) (by revert n; decide) rfl
  · intro s a t v takes
    have hmerge (old : Word) {hi lo : Nat} (h : lo ≤ hi) (hhi : hi < 64) : takes (mergeBits old v hi lo) old lo hi :=
      fun k _ => getLsbD_mergeBits old v h hhi k
    have hdone {c : BitVec 12} {t' : Ctx} (hv : s.csrWrite s.focus.core s.focus.ctx c.toNat v = some (s.setCtx s.focus.core s.focus.ctx t'))
        (hc : csrHeld s.fctx c.toNat = false) {k : Csr} (hk : t'.csr = k) :
        ∃ u, exec (.csrw a c) s = .next u ∧ u.last = .issued ∧ OnlyCtx s u ∧ u.fctx.csr = k := by
      obtain ⟨u, he, hi, ho, rfl⟩ := csrw_becomes hv hc
      exact ⟨u, he, hi, ho, hk⟩
    refine ⟨hdone rfl (csrHeld_of_ne (by decide)) rfl, hdone rfl (csrHeld_of_ne (by decide)) ?_, fun hv hm => ?_, fun hq => ?_,
      ⟨_, exec_csrw rfl (csrHeld_of_ne (by decide)), rfl, ?_, rfl⟩, fun n hn => csrw_unchanged ?_ (csrHeld_of_ne ?_), fun n hn => csrw_traps ?_⟩
    · refine congrArg (fun f => { t.csr with fpcsr := f }) (BitVec.eq_of_toNat_eq ?_)
      simp [bits]
    · have hc (n : Nat) := csrHeld_of_empty hv hm n
      refine ⟨csrw_becomes rfl (hc _), ⟨_, csrw_becomes rfl (hc _), hmerge _ (by decide) (by decide)⟩, fun hs => ?_, fun sp rs hs hr => ?_⟩
      · obtain ⟨h5, h7⟩ := csrWrite_of_unrecorded (t := t) rfl hs v
        exact ⟨⟨_, csrw_becomes h5 (hc _), hmerge _ (by decide) (by decide)⟩, ⟨_, csrw_becomes h7 (hc _), hmerge _ (by decide) (by decide)⟩⟩
      · obtain ⟨h5, h7⟩ := csrWrite_of_recorded (s := s) hs hr v
        exact ⟨csrw_unchanged h5 (hc _), csrw_unchanged h7 (hc _)⟩
    · have hw {c : BitVec 12} (hc : c.toNat = 3 ∨ c.toNat = 5 ∨ c.toNat = 6 ∨ c.toNat = 7) {u : State}
          (hv : s.csrWrite s.focus.core s.focus.ctx c.toNat v = some u) : Waits (.csrw a c) s := csrw_waits hv (csrHeld_of_queued hq hc)
      obtain ⟨_, h5⟩ := csrWrite_exists (s := s) (.inl rfl) s.focus.core s.focus.ctx v
      obtain ⟨_, h7⟩ := csrWrite_exists (s := s) (.inr rfl) s.focus.core s.focus.ctx v
      exact ⟨hw (by decide) rfl, hw (by decide) h5, hw (by decide) rfl, hw (by decide) h7⟩
    · exact sflags_setSflags s _ _
    · have hn' : n.toNat = 0 ∨ n.toNat = 2 ∨ (8 ≤ n.toNat ∧ n.toNat ≤ 0xC) ∨ (0x10 ≤ n.toNat ∧ n.toNat ≤ 0x17) ∨
          (0x200 ≤ n.toNat ∧ n.toNat < 0x300) := readOnly_toNat hn
      rw [csrWrite_of_readOnly (by omega), if_pos (csr_isSome (by omega) _ _)]
    · have hn' := readOnly_toNat hn
      omega
    · rw [csrWrite_of_readOnly (by omega), csr_of_missing hn]
      rfl

end Sys2Proof
end

section
/-! Scalar loads and stores through the aperture: the pointer, the value that a load extends, the bytes and marks of a store. -/

namespace Sys2Proof
open Machine

/-! Pointers -/

theorem bits_eq {n : Nat} (w : BitVec n) (hi lo : Nat) : bits w hi lo = w.toNat / 2 ^ lo % 2 ^ (hi + 1 - lo) := by
  rw [bits, Nat.shiftRight_eq_div_pow]

theorem vaOf_eq (p : Word) : vaOf p = p.toNat % 2 ^ 56 := by simp [vaOf, bits_eq]

/-- A pointer with an offset added: the top byte, and below it the sum (R401, R432). -/
theorem toNat_addPtr (p : Word) (off : Int) :
    (addPtr p off).toNat = bits p 63 56 * 2 ^ 56 + (((vaOf p : Int) + off) % (2 ^ 56 : Int)).toNat := by
  have hsum : (((vaOf p : Int) + off) % (2 ^ 56 : Int)).toNat < 2 ^ 56 := by omega
  have htop : bits p 63 56 < 2 ^ 8 := Nat.mod_lt _ (by decide)
  rw [addPtr, BitVec.toNat_ofNat, Nat.shiftLeft_eq]
  exact Nat.mod_eq_of_lt (by unfold vaOf at hsum; omega)

theorem vaOf_addPtr (p : Word) (off : Int) : (vaOf (addPtr p off) : Int) = ((vaOf p : Int) + off) % 2 ^ 56 := by
  rw [vaOf_eq, toNat_addPtr]
  omega

theorem top_addPtr (p : Word) (off : Int) : bits (addPtr p off) 63 56 = bits p 63 56 := by
  have htop : bits p 63 56 < 2 ^ 8 := Nat.mod_lt _ (by decide)
  rw [bits_eq, toNat_addPtr]
  omega

/-! The number that a load reads -/

/-- What the entries of memory at or above byte `j` of `n` bytes add to them. -/
theorem read_le_above {m : List Host.Cell} (hm : m.Pairwise (fun c d => c.1 < d.1)) {a n j : Nat} (hj : j ≤ n)
    (hlow : ∀ c ∈ m, a ≤ c.1 → a + j ≤ c.1) : Memory.read m a n + 2 ^ (8 * j) ≤ 2 ^ (8 * n) := by
  induction m generalizing j with
  | nil => simpa [Memory.read] using Nat.pow_le_pow_right (by decide) (by omega)
  | cons c r ih =>
    obtain ⟨hc, hr⟩ := List.pairwise_cons.1 hm
    rw [Memory.read]
    split
    · next h =>
      obtain ⟨d, hd⟩ : ∃ d, c.1 = a + d := ⟨c.1 - a, by omega⟩
      have hjd : j ≤ d := by have := hlow c (by simp) h.1; omega
      have hrest := ih hr (j := d + 1) (by omega) (fun e he _ => by have := hc e he; omega)
      have hpow : 2 ^ (8 * j) ≤ 2 ^ (8 * d) := Nat.pow_le_pow_right (by decide) (by omega)
      have hbyte : c.2.toNat * 2 ^ (8 * d) ≤ 255 * 2 ^ (8 * d) := Nat.mul_le_mul_right _ (by have := c.2.isLt; omega)
      rw [Nat.mul_succ, Nat.pow_add] at hrest
      rw [hd, Nat.add_sub_cancel_left, Nat.shiftLeft_eq]
      omega
    · exact ih hr hj (fun e he => hlow e (by simp [he]))

theorem readMem_lt {s : State} (hs : MemOk s) (a n : Nat) : s.readMem a n < 2 ^ (8 * n) := by
  have := read_le_above ((Memory.wf_iff _).1 hs).1 (Nat.zero_le n) (a := a) (fun _ _ h => h)
  exact this

/-- A loaded value extended by zeros or its sign (R401). -/
theorem getLsbD_extend {n v : Nat} (hn : n ≤ 8) (hv : v < 2 ^ (8 * n)) (sx : Bool) {k : Nat} (hk : k < 64) :
    (extend n sx v).getLsbD k = if k < 8 * n then v.testBit k else sx && v.testBit (8 * n - 1) := by
  rw [extend]
  by_cases h : (sx && v.testBit (8 * n - 1)) = true
  · have hsum : 2 ^ 64 - 2 ^ (8 * n) + v = 2 ^ (8 * n) * (2 ^ (64 - 8 * n) - 1) + v := by
      rw [Nat.mul_sub_one, ← Nat.pow_add, Nat.add_sub_of_le (by omega)]
    rw [if_pos h, h, hsum, BitVec.getLsbD_ofNat, Nat.testBit_two_pow_mul_add _ hv, Nat.testBit_two_pow_sub_one]
    by_cases hlow : k < 8 * n
    · simp [hk, hlow]
    · simp [hk, hlow, show k - 8 * n < 64 - 8 * n by omega]
  · rw [if_neg h, Bool.eq_false_iff.2 h, BitVec.getLsbD_ofNat]
    by_cases hlow : k < 8 * n
    · simp [hk, hlow]
    · simp [hlow, Nat.testBit_lt_two_pow (hv.trans_le (Nat.pow_le_pow_right (by decide) (Nat.not_lt.1 hlow)))]

theorem extractLsb'_extend {n v : Nat} (hn : n ≤ 8) (hv : v < 2 ^ (8 * n)) (sx : Bool) {k : Nat} (hk : k < n) :
    (extend n sx v).extractLsb' (8 * k) 8 = BitVec.ofNat 8 (v >>> (8 * k)) := by
  refine BitVec.eq_of_getLsbD_eq fun i hi => ?_
  rw [BitVec.getLsbD_extractLsb', getLsbD_extend hn hv sx (by omega), if_pos (by omega), BitVec.getLsbD_ofNat, Nat.testBit_shiftRight]

/-! Accesses through the local aperture (R93, R176) -/

section
variable {s : State} {i : Instr} {p : Word} {n : Nat}

theorem loadScalar_misaligned (h : p.toNat % n ≠ 0) (sx : Bool) (d : Nat) : loadScalar s i p n sx d = .trap cALIGN p 0 := if_pos h

theorem storeScalar_misaligned (h : p.toNat % n ≠ 0) (v : Word) : storeScalar s i p n v = .trap cALIGN p 0 := if_pos h

section
variable (hal : p.toNat % n = 0) (hap : isAp p = true)
include hal hap

theorem loadScalar_outside (hbad : apBad p = true) (sx : Bool) (d : Nat) : loadScalar s i p n sx d = .trap cAPERTURE p 0 := by
  simp [loadScalar, hal, hap, hbad]

theorem storeScalar_outside (hbad : apBad p = true) (v : Word) : storeScalar s i p n v = .trap cAPERTURE p 0 := by
  simp [storeScalar, hal, hap, hbad]

variable (hbad : apBad p = false)
include hbad

theorem loadScalar_held (h : s.fcore.wmHeld (vaOf p) n = true ∨ s.apWaits (apAddr s.focus.core (apOff p)) n = true) (sx : Bool) (d : Nat) :
    loadScalar s i p n sx d = .wait := by
  simp [loadScalar, hal, hap, hbad, h]

theorem storeScalar_held (h : s.fcore.wmHeld (vaOf p) n = true ∨ s.apWaits (apAddr s.focus.core (apOff p)) n = true) (v : Word) :
    storeScalar s i p n v = .wait := by
  simp [storeScalar, hal, hap, hbad, h]

variable (hw : s.fcore.wmHeld (vaOf p) n = false) (hturn : s.apWaits (apAddr s.focus.core (apOff p)) n = false)
include hw hturn

theorem loadScalar_poisoned (h : s.poisonNow (apAddr s.focus.core (apOff p)) n = true) (sx : Bool) (d : Nat) :
    loadScalar s i p n sx d = .trap cPOISON p 0 := by
  simp [loadScalar, hal, hap, hbad, hw, hturn, h]

theorem loadScalar_reads (h : s.poisonNow (apAddr s.focus.core (apOff p)) n = false) (sx : Bool) (d : Nat) :
    loadScalar s i p n sx d = .done ((s.correct (apAddr s.focus.core (apOff p)) n).writePending d
      (extend n sx (s.readNow (apAddr s.focus.core (apOff p)) n)) 6) := by
  simp [loadScalar, hal, hap, hbad, hw, hturn, h]

theorem storeScalar_writes (v : Word) :
    storeScalar s i p n v = .done (s.writeMem (apAddr s.focus.core (apOff p)) n v.toNat) := by
  simp [storeScalar, hal, hap, hbad, hw, hturn]

end
end

/-- A pending write behind a read that corrects what it meets: the context of the focus is as `s` had it, with the write added. -/
theorem pended_of_finish {i : Instr} {s : State} {pa n r l : Nat} {v : Word}
    (h : exec i s = finish s (.done ((s.correct pa n).writePending r v l))) :
    ∃ u, exec i s = .next u ∧ u.last = .issued ∧ OnlyCtx (s.correct pa n) u ∧ SameMem s u ∧ u.fctx = pended s s.fctx r v l := by
  refine ⟨_, h, rfl, onlyCtx_modF _ _ _, fun a => congrArg (fun m => Memory.byte m a) (mem_correct s pa n), ?_⟩
  refine (fctx_modF_last _ _ _).trans ?_
  obtain ⟨q, f, m, hc⟩ := correct_frame s pa n
  rw [hc]
  rfl

/-! The error marks behind a store -/

/-- A store of at most a word clears the mark of the word that it is (R224). -/
theorem mem_poison_writeMem {s : State} {pa n v : Nat} (hn : n ≤ 8) (w : Nat) :
    w ∈ (s.writeMem pa n v).poison ↔ w ∈ s.poison ∧ ¬ (n = 8 ∧ 8 * w = pa) := by
  simp only [State.writeMem, List.mem_filter, wordInside, Bool.not_eq_true', Bool.and_eq_false_iff, decide_eq_false_iff_not]
  exact and_congr_right fun _ => by omega

/-- Settles O26: the checks in their order, then the load's value bit by bit and the store's bytes. -/
theorem scalarLoadsAndStores : Obligations.ScalarLoadsAndStores := by
  unfold Obligations.ScalarLoadsAndStores
  refine ⟨fun s pa n k hs hk => Memory.read_byte s.mem hs pa n k hk, ?_⟩
  intro s d v b z x i hz p n pa ld st both
  have hn : n ≤ 8 := Nat.pow_le_pow_right (by decide) hz
  have hpos : 0 < n := Nat.two_pow_pos _
  refine ⟨top_addPtr _ _, ?_, fun hal => ?_, fun hal hap hbad => ?_, fun hal hap hbad hw => ?_, fun hal hreach => ?_⟩
  · rw [add_assoc]
    exact vaOf_addPtr _ _
  · exact ⟨traps_of_finish (congrArg (finish s) (loadScalar_misaligned hal _ _)),
      traps_of_finish (congrArg (finish s) (storeScalar_misaligned hal _))⟩
  · exact ⟨traps_of_finish (congrArg (finish s) (loadScalar_outside hal hap hbad _ _)),
      traps_of_finish (congrArg (finish s) (storeScalar_outside hal hap hbad _))⟩
  · exact ⟨waits_of_finish (congrArg (finish s) (loadScalar_held hal hap hbad (.inl hw) _ _)),
      waits_of_finish (congrArg (finish s) (storeScalar_held hal hap hbad (.inl hw) _))⟩
  · obtain ⟨hap, hbad, hw⟩ := hreach
    refine ⟨fun h => ?_, fun hturn hp => ?_, fun hturn hp hs => ?_, fun hturn => ?_⟩
    · exact ⟨waits_of_finish (congrArg (finish s) (loadScalar_held hal hap hbad (.inr h) _ _)),
        waits_of_finish (congrArg (finish s) (storeScalar_held hal hap hbad (.inr h) _))⟩
    · exact traps_of_finish (congrArg (finish s) (loadScalar_poisoned hal hap hbad hw hturn hp _ _))
    · have hv : s.readNow pa n < 2 ^ (8 * n) := readMem_lt hs pa n
      obtain ⟨u, he, hi, ho, hm, hf⟩ := pended_of_finish (i := ld)
        (congrArg (finish s) (loadScalar_reads hal hap hbad hw hturn hp (x = 1) (sreg d)))
      refine ⟨u, _, he, hi, ho, hm, hf, fun k hk => extractLsb'_extend hn hv _ hk, fun k hk hk64 => ?_⟩
      rw [getLsbD_extend hn hv _ hk64, if_neg (by omega), getLsbD_extend hn hv _ (by omega), if_pos (by omega)]
      rfl
    · refine ⟨_, congrArg (finish s) (storeScalar_writes hal hap hbad hw hturn _), rfl, rfl, fun a ha => ?_, fun k hk => ?_, fun w => ?_⟩
      · exact State.byte_writeMem_outside s _ _ _ _ ha
      · refine (State.byte_writeMem_inside s _ _ _ _ (Nat.le_add_right _ _) (Nat.add_lt_add_left hk _)).trans ?_
        rw [Nat.add_sub_cancel_left]
        rfl
      · exact mem_poison_writeMem (v := (s.sOp v).toNat) hn w

end Sys2Proof
end

section
/-! Byte runs: what a list of writes leaves, the runs of a mask with their hull, and the watermarks over them. -/

namespace Sys2Proof
open Machine

/-! Writes one after another -/

section
variable {σ α β : Type} {g : σ → α → σ} {get : σ → β} {cov : α → Prop} {l : List α} 

/-- What no write of a list covers is as before. -/
theorem foldl_untouched (hout : ∀ a ∈ l, ∀ t, get (g t a) = get t) (s : σ) : get (l.foldl g s) = get s := by
  induction l generalizing s with
  | nil => rfl
  | cons a r ih => exact (ih (fun b hb => hout b (by simp [hb])) _).trans (hout a (by simp) s)

/-- What some writes of a list cover, all with one value, has that value. -/
theorem foldl_overwritten {b : β} (hin : ∀ a ∈ l, cov a → ∀ t, get (g t a) = b) (hout : ∀ a ∈ l, ¬ cov a → ∀ t, get (g t a) = get t)
    (hex : ∃ a ∈ l, cov a) (s : σ) : get (l.foldl g s) = b := by
  induction l generalizing s with
  | nil => simp at hex
  | cons a r ih =>
    by_cases hr : ∃ c ∈ r, cov c
    · exact ih (fun c hc => hin c (by simp [hc])) (fun c hc => hout c (by simp [hc])) hr _
    · push Not at hr
      obtain ⟨c, hc, hcov⟩ := hex
      obtain rfl : c = a := by
        rcases List.mem_cons.1 hc with h | h
        · exact h
        · exact absurd hcov (hr c h)
      exact (foldl_untouched (fun d hd => hout d (by simp [hd]) (hr d hd)) _).trans (hin c (by simp) hcov s)

end

/-! The runs of a mask (R81, R432) -/

/-- The bytes that the runs cover: those counted already, and the set bits from there on. -/
theorem mem_runsFrom (m fuel i len : Nat) (h : len ≤ i) (j : Nat) :
    (∃ q ∈ runsFrom m fuel i len, q.1 ≤ j ∧ j < q.1 + q.2) ↔ (i - len ≤ j ∧ j < i) ∨ (i ≤ j ∧ j < i + fuel ∧ m.testBit j = true) := by
  fun_induction runsFrom m fuel i len with
  | case1 i =>
    simp
    omega
  | case2 i len hl =>
    simp
    omega
  | case3 i len k hb ih =>
    rw [ih (by omega)]
    by_cases hj : j = i
    · simp [hj, hb]
    · have hij : i ≤ j ↔ i + 1 ≤ j := by omega
      rw [hij, Nat.add_right_comm i 1 k]
      refine or_congr_left ?_
      omega
  | case4 i k hb ih =>
    rw [ih (by omega)]
    by_cases hj : j = i
    · simp [hj, hb]
    · have hij : i ≤ j ↔ i + 1 ≤ j := by omega
      rw [hij, Nat.add_right_comm i 1 k]
      refine or_congr_left ?_
      omega
  | case5 i len k hb hl ih =>
    rw [List.exists_mem_cons_iff, ih (by omega)]
    by_cases hj : j = i
    · simp [hj, hb]
      omega
    · have hij : i ≤ j ↔ i + 1 ≤ j := by omega
      rw [hij, Nat.add_right_comm i 1 k]
      have hrun : (i - len ≤ j ∧ j < i - len + len) ↔ (i - len ≤ j ∧ j < i) := by omega
      have hnone : ¬ (i + 1 - 0 ≤ j ∧ j < i + 1) := by omega
      simp only [hrun, hnone, false_or]
      exact Iff.rfl

theorem pos_of_mem_runsFrom (m fuel i len : Nat) : ∀ q ∈ runsFrom m fuel i len, 0 < q.2 := by
  fun_induction runsFrom m fuel i len with
  | case1 i => simp
  | case2 i len hl => simpa using Nat.pos_of_ne_zero hl
  | case3 i len k hb ih => exact ih
  | case4 i k hb ih => exact ih
  | case5 i len k hb hl ih => exact List.forall_mem_cons.2 ⟨Nat.pos_of_ne_zero hl, ih⟩

/-- Each run ends below the next. -/
theorem runsFrom_ascending (m fuel i len : Nat) (h : len ≤ i) : (runsFrom m fuel i len).Pairwise (fun q r => q.1 + q.2 ≤ r.1) := by
  fun_induction runsFrom m fuel i len with
  | case1 i => simp
  | case2 i len hl => simp
  | case3 i len k hb ih => exact ih (by omega)
  | case4 i k hb ih => exact ih (by omega)
  | case5 i len k hb hl ih =>
    refine List.pairwise_cons.2 ⟨fun r hr => ?_, ih (by omega)⟩
    have hpos := pos_of_mem_runsFrom _ _ _ _ r hr
    have hstart := (mem_runsFrom m k (i + 1) 0 (by omega) r.1).1 ⟨r, hr, le_rfl, by omega⟩
    show i - len + len ≤ r.1
    omega

/-- The runs of a mask cover its set bits. -/
theorem mem_maskRuns (m : Mask) (j : Nat) : (j < 4096 ∧ m.getLsbD j = true) ↔ ∃ q ∈ maskRuns m, q.1 ≤ j ∧ j < q.1 + q.2 := by
  rw [maskRuns]
  split
  · next h =>
    simp [h, BitVec.getLsbD_allOnes, -BitVec.reduceAllOnes]
  · rw [mem_runsFrom _ _ _ _ le_rfl]
    simp [BitVec.getLsbD]

theorem pos_of_mem_maskRuns {m : Mask} {q : Nat × Nat} (h : q ∈ maskRuns m) : 0 < q.2 := by
  rw [maskRuns] at h
  split at h
  · rw [List.mem_singleton.1 h]
    decide
  · exact pos_of_mem_runsFrom _ _ _ _ q h

theorem maskRuns_ascending (m : Mask) : (maskRuns m).Pairwise (fun q r => q.1 + q.2 ≤ r.1) := by
  rw [maskRuns]
  split
  · exact List.pairwise_singleton _ _
  · exact runsFrom_ascending _ _ _ _ le_rfl

/-- The hull of ascending runs holds each of them, and ends where one of them does. -/
theorem hullOf_ascending {runs : List (Nat × Nat)} (h : runs.Pairwise (fun q r => q.1 + q.2 ≤ r.1)) :
    (∀ q ∈ runs, (hullOf runs).1 ≤ q.1 ∧ q.1 + q.2 ≤ (hullOf runs).1 + (hullOf runs).2) ∧
    (runs ≠ [] → ∃ q ∈ runs, q.1 + q.2 = (hullOf runs).1 + (hullOf runs).2) := by
  cases runs with
  | nil => simp
  | cons q r =>
    have hlast : (q :: r).getLastD (0, 0) = (q :: r).getLast (List.cons_ne_nil q r) := rfl
    have hsplit := List.dropLast_append_getLast (List.cons_ne_nil q r)
    have hz : (q :: r).getLast (List.cons_ne_nil q r) ∈ q :: r := List.getLast_mem _
    rw [hullOf]
    simp only [hlast]
    generalize (q :: r).getLast (List.cons_ne_nil q r) = z at hsplit hz
    have hend : ∀ x ∈ q :: r, x.1 + x.2 ≤ z.1 + z.2 := fun x hx => by
      rw [← hsplit] at hx h
      rcases List.mem_append.1 hx with hx | hx
      · exact ((List.pairwise_append.1 h).2.2 x hx z (by simp)).trans (Nat.le_add_right _ _)
      · rw [List.mem_singleton.1 hx]
    have hstart : ∀ x ∈ q :: r, q.1 ≤ x.1 := fun x hx => by
      rcases List.mem_cons.1 hx with rfl | hx
      · exact le_rfl
      · exact (Nat.le_add_right _ _).trans ((List.pairwise_cons.1 h).1 x hx)
    have hq := hend q (by simp)
    refine ⟨fun x hx => ⟨hstart x hx, ?_⟩, fun _ => ⟨z, hz, ?_⟩⟩
    · have := hend x hx
      omega
    · omega

/-! Watermarks over runs -/

theorem wmHeld_iff (k : Core) (lo n : Nat) : k.wmHeld lo n = true ↔ ∃ j, j < n ∧ k.wmHeld (lo + j) 1 = true := by
  simp only [Core.wmHeld, List.any_eq_true, decide_eq_true_eq]
  constructor
  · rintro ⟨e, he, h⟩
    exact ⟨max lo (max e.2.lo e.2.mark) - lo, by omega, e, he, by omega⟩
  · rintro ⟨j, hj, e, he, h⟩
    exact ⟨e, he, by omega⟩

/-- The runs meet a watermarked range where one of their bytes does (R443). -/
theorem wmHeldRuns_iff (k : Core) (p : Word) (runs : List (Nat × Nat)) :
    k.wmHeldRuns p runs = true ↔ ∃ q ∈ runs, ∃ j, q.1 ≤ j ∧ j < q.1 + q.2 ∧ k.wmHeld (vaOf p + j) 1 = true := by
  have hrun (q : Nat × Nat) : k.wmHeld (vaOf p + q.1) q.2 = true ↔ ∃ j, q.1 ≤ j ∧ j < q.1 + q.2 ∧ k.wmHeld (vaOf p + j) 1 = true := by
    rw [wmHeld_iff]
    constructor
    · rintro ⟨j, hj, h⟩
      exact ⟨q.1 + j, by omega, by omega, by rwa [← Nat.add_assoc]⟩
    · rintro ⟨j, hlo, hhi, h⟩
      exact ⟨j - q.1, by omega, by rwa [Nat.add_assoc, Nat.add_sub_of_le hlo]⟩
  simp only [Core.wmHeldRuns, Bool.and_eq_true, List.any_eq_true, hrun]
  refine and_iff_right_of_imp ?_
  rintro ⟨q, -, j, -, -, h⟩
  obtain ⟨e, he, -⟩ := List.any_eq_true.1 h
  simp [List.ne_nil_of_mem he]

end Sys2Proof
end

section
/-! Vector loads and stores through the aperture: the bytes of a register, run by run. -/

namespace Sys2Proof
open Machine

/-! Bytes of a vector register -/

theorem getLsbD_putBytes (r : VReg) {off n : Nat} (v : Nat) (h : off + n ≤ 4096) (i : Nat) :
    (putBytes r off n v).getLsbD i = if 8 * off ≤ i ∧ i < 8 * off + 8 * n then v.testBit (i - 8 * off) else r.getLsbD i := by
  rw [putBytes, ← replaceField, getLsbD_replaceField r v (by omega)]

theorem testBit_vElem (r : VReg) (w k i : Nat) : (vElem r w k).testBit i = (decide (i < 8 * w) && r.getLsbD (8 * w * k + i)) := by
  rw [vElem, Nat.testBit_mod_two_pow, Nat.testBit_shiftRight, BitVec.getLsbD]

theorem testBit_getBytes (r : VReg) (off n i : Nat) : (getBytes r off n).testBit i = (decide (i < 8 * n) && r.getLsbD (8 * off + i)) := by
  rw [getBytes, Nat.testBit_mod_two_pow, Nat.testBit_shiftRight, BitVec.getLsbD]

/-- Byte `k` of bytes of a register is the register's byte there. -/
theorem byte_of_getBytes (r : VReg) (off : Nat) {n k : Nat} (h : k < n) :
    BitVec.ofNat 8 (getBytes r off n >>> (8 * k)) = r.extractLsb' (8 * (off + k)) 8 := by
  refine BitVec.eq_of_getLsbD_eq fun i hi => ?_
  rw [BitVec.getLsbD_ofNat, Nat.testBit_shiftRight, testBit_getBytes, BitVec.getLsbD_extractLsb', Nat.mul_add, Nat.add_assoc,
    decide_eq_true (show 8 * k + i < 8 * n by omega), Bool.true_and]

/-- A bit of a number that memory holds, by its byte. -/
theorem testBit_readMem {s : State} (hm : MemOk s) (a : Nat) {n j k : Nat} (hj : j < n) (hk : k < 8) :
    (s.readMem a n).testBit (8 * j + k) = (s.byte (a + j)).getLsbD k := by
  have h := congrArg (fun b : Byte => b.getLsbD k) (Memory.read_byte s.mem hm a n j hj)
  rwa [BitVec.getLsbD_ofNat, Nat.testBit_shiftRight, decide_eq_true hk, Bool.true_and] at h

/-! A vector register filled from memory -/

theorem flags_setVreg (s : State) (d : Nat) (v : VReg) : (s.setVreg d v).fctx.flags = s.fctx.flags := by
  have hctx : (s.setVreg d v).fctx = (s.fcore.setVreg d v).ctx s.focus.ctx :=
    congrArg (fun k => Core.ctx k s.focus.ctx) (State.fcore_modFCore s (fun k => k.setVreg d v))
  rw [hctx, Core.ctx_setVreg]
  rfl

/-- An operation that issues and fills a vector register, without flags. -/
theorem lanesBecome_of_fill {i : Instr} {s : State} {d w n lat : Nat} {f : Nat → FRes} {v : VReg} {c : Option Mask}
    (hv : ∀ j, j < 4096 / w → vElem v w j = if j < n ∧ s.mask.getLsbD (j * w) = true then (f j).bits % 2 ^ (8 * w) else vElem (s.vreg d) w j)
    (hf : ∀ j, (f j).fl = 0) (h : exec i s = finish s (.done ((s.setVreg d v).covers c))) : LanesBecome i s d w n lat f := by
  refine ⟨_, 0, h, rfl, ((onlyVreg_setVreg s d v).covers c).mark .issued, flags_setVreg s d v, fun j hj => ?_, fun b hb => ?_⟩
  · exact (congrArg (fun r => vElem r w j) (vreg_setVreg s d v)).trans (hv j hj)
  · simp [hf]

/-- Reads that meet no correctable error change nothing (R223). -/
theorem foldl_correct_of_sound {α : Type} {s : State} {pa n : α → Nat} {l : List α} (h : ∀ a ∈ l, s.softAt (pa a) (n a) = false) :
    l.foldl (fun t a => t.correct (pa a) (n a)) s = s := by
  induction l with
  | nil => rfl
  | cons a r ih =>
    rw [List.foldl_cons, correct_of_softAt (h a (by simp))]
    exact ih (fun b hb => h b (by simp [hb]))

theorem softAt_iff (s : State) (a n : Nat) : s.softAt a n = true ↔ ∃ j, j < n ∧ s.softAt (a + j) 1 = true := by
  simp only [State.softAt, List.any_eq_true, Bool.and_eq_true, decide_eq_true_eq]
  constructor
  · rintro ⟨w, hw, h⟩
    exact ⟨max a (8 * w) - a, by omega, w, hw, by omega⟩
  · rintro ⟨j, hj, w, hw, h⟩
    exact ⟨w, hw, by omega⟩

/-! Vector accesses through the local aperture -/

section
variable {s : State} {i : Instr} {p : Word}

/-- The runs of a vector access that stays in the pair store, at their home. -/
def homeRuns (s : State) (p : Word) : List (Nat × Nat × Nat) :=
  (maskRuns s.mask).map (fun q => (apAddr s.focus.core (apOff p) + q.1, q.2, q.1))

theorem low_bits_eq (p : Word) : bits p 5 0 = vaOf p % 64 := by
  rw [vaOf_eq, bits_eq]
  omega

theorem vectorPieces_misaligned (hal : vaOf p % 64 ≠ 0) (runs : List (Nat × Nat)) (a : Acc) : vectorPieces s p runs a = .error cALIGN :=
  if_pos (by rwa [low_bits_eq])

section
variable (hal : vaOf p % 64 = 0) (hap : isAp p = true)
include hal hap

theorem vectorPieces_outside {j : Nat} (hj : j < 4096 ∧ s.mask.getLsbD j = true) (h : apBad p = true ∨ pairSize ≤ apOff p + j) (a : Acc) :
    vectorPieces s p (maskRuns s.mask) a = .error cAPERTURE := by
  obtain ⟨q, hq, hlo, hhi⟩ := (mem_maskRuns s.mask j).1 hj
  have hull := ((hullOf_ascending (maskRuns_ascending s.mask)).1 q hq).2
  have hout : apBad p = true ∨ pairSize < apOff p + (hullOf (maskRuns s.mask)).1 + (hullOf (maskRuns s.mask)).2 := h.imp_right (by omega)
  simp [vectorPieces, low_bits_eq, hal, hap, List.ne_nil_of_mem hq, hout]

theorem vectorPieces_home (h : ∀ j, j < 4096 ∧ s.mask.getLsbD j = true → apBad p = false ∧ apOff p + j < pairSize) (a : Acc) :
    vectorPieces s p (maskRuns s.mask) a = .ok { runs := homeRuns s p, hull := [], pages := [] } := by
  by_cases hnil : maskRuns s.mask = []
  · simp [vectorPieces, homeRuns, low_bits_eq, hal, hnil]
  · obtain ⟨q, hq, hend⟩ := (hullOf_ascending (maskRuns_ascending s.mask)).2 hnil
    have hpos := pos_of_mem_maskRuns hq
    obtain ⟨hbad, hin⟩ := h (q.1 + q.2 - 1) ((mem_maskRuns _ _).2 ⟨q, hq, by omega, by omega⟩)
    have hfits : ¬ pairSize < apOff p + (hullOf (maskRuns s.mask)).1 + (hullOf (maskRuns s.mask)).2 := by omega
    simp [vectorPieces, homeRuns, low_bits_eq, hal, hap, hnil, hbad, hfits]

end

section
variable (hap : isAp p = true)
include hap

/-- What a vector load comes to at its home, by what holds it back and what it meets. -/
theorem loadVector_home (h : vectorPieces s p (maskRuns s.mask) .rd = .ok { runs := homeRuns s p, hull := [], pages := [] }) (d : Nat) :
    loadVector s i p d =
      if s.fcore.wmHeldRuns p (maskRuns s.mask) then .wait
      else if (homeRuns s p).any (fun it => s.apWaits it.1 it.2.1) then .wait
      else if (homeRuns s p).any (fun it => s.poisonNow it.1 it.2.1) then .trap cPOISON p 0
      else .done ((((homeRuns s p).foldl (fun (s : State) it => s.correct it.1 it.2.1) s).setVreg d
        ((homeRuns s p).foldl (fun r it => putBytes r it.2.2 it.2.1 (s.readNow it.1 it.2.1)) (s.vreg d))).covers
          (runCover (maskRuns s.mask))) := by
  simp only [loadVector, h, hap, if_true]

theorem storeVector_home (h : vectorPieces s p (maskRuns s.mask) .wr = .ok { runs := homeRuns s p, hull := [], pages := [] }) (r : VReg) :
    storeVector s i p r =
      if s.fcore.wmHeldRuns p (maskRuns s.mask) then .wait
      else if (homeRuns s p).any (fun it => s.apWaits it.1 it.2.1) then .wait
      else .done ((homeRuns s p).foldl (fun s it => s.writeMem it.1 it.2.1 (getBytes r it.2.2 it.2.1)) s) := by
  simp only [storeVector, h, hap, if_true]

end

/-- A run lies in the register. -/
theorem run_le {m : Mask} {q : Nat × Nat} (h : q ∈ maskRuns m) : q.1 + q.2 ≤ 4096 := by
  have hpos := pos_of_mem_maskRuns h
  have := ((mem_maskRuns m (q.1 + q.2 - 1)).2 ⟨q, h, by omega, by omega⟩).1
  omega

theorem mem_homeRuns {it : Nat × Nat × Nat} (h : it ∈ homeRuns s p) :
    it.2.2 + it.2.1 ≤ 4096 ∧ it.1 = apAddr s.focus.core (apOff p) + it.2.2 := by
  obtain ⟨q, hq, rfl⟩ := List.mem_map.1 h
  exact ⟨run_le hq, rfl⟩

theorem any_homeRuns (f : Nat → Nat → Bool) : (homeRuns s p).any (fun it => f it.1 it.2.1) = true ↔
    ∃ q ∈ maskRuns s.mask, f (apAddr s.focus.core (apOff p) + q.1) q.2 = true := by
  rw [homeRuns, List.any_map, List.any_eq_true]
  rfl

theorem enabled_iff (j : Nat) : (j < 4096 ∧ s.mask.getLsbD j = true) ↔ ∃ it ∈ homeRuns s p, it.2.2 ≤ j ∧ j < it.2.2 + it.2.1 := by
  rw [mem_maskRuns]
  constructor
  · rintro ⟨q, hq, h⟩
    exact ⟨_, List.mem_map_of_mem hq, h⟩
  · rintro ⟨it, hit, h⟩
    obtain ⟨q, hq, rfl⟩ := List.mem_map.1 hit
    exact ⟨q, hq, h⟩

/-- The register after the load, byte by byte. -/
theorem vElem_filled (hm : MemOk s) (r : VReg) {j : Nat} (hj : j < 4096) :
    vElem ((homeRuns s p).foldl (fun r it => putBytes r it.2.2 it.2.1 (s.readNow it.1 it.2.1)) r) 1 j =
      if s.mask.getLsbD j = true then s.readNow (apAddr s.focus.core (apOff p) + j) 1 % 2 ^ 8 else vElem r 1 j := by
  have hout : ∀ it ∈ homeRuns s p, ¬ (it.2.2 ≤ j ∧ j < it.2.2 + it.2.1) → ∀ k, k < 8 → ∀ t : VReg,
      (putBytes t it.2.2 it.2.1 (s.readNow it.1 it.2.1)).getLsbD (8 * j + k) = t.getLsbD (8 * j + k) := fun it hit hcov k hk t => by
    rw [getLsbD_putBytes t _ (mem_homeRuns hit).1, if_neg (by omega)]
  refine Nat.eq_of_testBit_eq fun k => ?_
  rw [testBit_vElem, Nat.mul_one]
  by_cases hk : k < 8
  · rw [decide_eq_true hk, Bool.true_and]
    split
    · next hon =>
      have hbyte := testBit_readMem hm (apAddr s.focus.core (apOff p) + j) Nat.one_pos hk
      simp only [Nat.mul_zero, Nat.zero_add, Nat.add_zero] at hbyte
      rw [Nat.testBit_mod_two_pow, decide_eq_true hk, Bool.true_and, State.readNow, hbyte]
      refine foldl_overwritten (get := fun t : VReg => t.getLsbD (8 * j + k)) (fun it hit hcov t => ?_)
        (fun it hit hcov t => hout it hit hcov k hk t) ((enabled_iff j).1 ⟨hj, hon⟩) r
      obtain ⟨hle, hpa⟩ := mem_homeRuns hit
      rw [getLsbD_putBytes t _ hle, if_pos (by omega), show 8 * j + k - 8 * it.2.2 = 8 * (j - it.2.2) + k by omega, State.readNow,
        testBit_readMem hm _ (by omega) hk, hpa, Nat.add_assoc, Nat.add_sub_of_le hcov.1]
    · next hoff =>
      rw [testBit_vElem, decide_eq_true hk, Bool.true_and]
      exact foldl_untouched (get := fun t : VReg => t.getLsbD (8 * j + k))
        (fun it hit t => hout it hit (fun hcov => hoff ((enabled_iff j).2 ⟨it, hit, hcov⟩).2) k hk t) r
  · rw [decide_eq_false hk, Bool.false_and]
    split
    · rw [Nat.testBit_mod_two_pow, decide_eq_false hk, Bool.false_and]
    · rw [testBit_vElem, decide_eq_false hk, Bool.false_and]

/-- An enabled byte of memory after the store. -/
theorem byte_stored (r : VReg) {j : Nat} (hj : j < 4096 ∧ s.mask.getLsbD j = true) :
    ((homeRuns s p).foldl (fun s it => s.writeMem it.1 it.2.1 (getBytes r it.2.2 it.2.1)) s).byte (apAddr s.focus.core (apOff p) + j) =
      r.extractLsb' (8 * j) 8 := by
  refine foldl_overwritten (get := fun t : State => t.byte (apAddr s.focus.core (apOff p) + j)) (fun it hit hcov t => ?_)
    (fun it hit hcov t => ?_) ((enabled_iff j).1 hj) s
  · obtain ⟨hle, hpa⟩ := mem_homeRuns hit
    rw [State.byte_writeMem_inside _ _ _ _ _ (by omega) (by omega), byte_of_getBytes _ _ (by omega)]
    congr 2
    omega
  · exact State.byte_writeMem_outside _ _ _ _ _ (by have := (mem_homeRuns hit).2; omega)

/-- The other bytes of memory. -/
theorem byte_not_stored (r : VReg) {a : Nat} (h : ∀ j, j < 4096 ∧ s.mask.getLsbD j = true → a ≠ apAddr s.focus.core (apOff p) + j) :
    ((homeRuns s p).foldl (fun s it => s.writeMem it.1 it.2.1 (getBytes r it.2.2 it.2.1)) s).byte a = s.byte a := by
  refine foldl_untouched (get := fun t : State => t.byte a) (fun it hit t => State.byte_writeMem_outside _ _ _ _ _ ?_) s
  by_contra hcov
  have hpa := (mem_homeRuns hit).2
  exact h (a - apAddr s.focus.core (apOff p)) ((enabled_iff _).2 ⟨it, hit, by omega, by omega⟩) (by omega)

/-- The model's mark is no part of what a store is said to change. -/
theorem onlyMem_mark {s t : State} (h : OnlyMem s t) (l : Last) : OnlyMem s { t with last := l } := by
  unfold OnlyMem at h ⊢
  rw [h]

/-- A store changes memory with its error marks and nothing else. -/
theorem onlyMem_foldl_writeMem {α : Type} (pa n v : α → Nat) (l : List α) (s : State) :
    OnlyMem s (l.foldl (fun t a => t.writeMem (pa a) (n a) (v a)) s) := by
  induction l generalizing s with
  | nil => rfl
  | cons a r ih => exact (ih _).trans rfl

end

/-- Settles O27: the checks by the hull of the enabled bytes; what holds them back by their runs; then the bytes, run by run. -/
theorem vectorLoadsAndStores : Obligations.VectorLoadsAndStores := by
  unfold Obligations.VectorLoadsAndStores
  intro s v b i p runs h pa ld st both on reach free turn
  have hasc := maskRuns_ascending s.mask
  have hld (hr : reach) : exec ld s = finish s _ := congrArg (finish s) (loadVector_home hr.2.1 (vectorPieces_home hr.1 hr.2.1 hr.2.2 .rd) _)
  have hst (hr : reach) : exec st s = finish s _ := congrArg (finish s) (storeVector_home hr.2.1 (vectorPieces_home hr.1 hr.2.1 hr.2.2 .wr) _)
  have hfree (hf : free) : s.fcore.wmHeldRuns p runs = false := by
    rw [Bool.eq_false_iff, Ne, wmHeldRuns_iff]
    rintro ⟨q, hq, j, hlo, hhi, hj⟩
    exact absurd (hf j ((mem_maskRuns _ _).2 ⟨q, hq, hlo, hhi⟩)) (by simp [hj])
  have hturn (ht : turn) : (homeRuns s p).any (fun it => s.apWaits it.1 it.2.1) = false := by
    rw [Bool.eq_false_iff, Ne, any_homeRuns]
    rintro ⟨q, hq, hw⟩
    exact absurd (ht q hq) (by simp [pa, hw])
  have hpoison : (∃ q ∈ runs, s.poisonNow (pa + q.1) q.2 = true) ↔ (homeRuns s p).any (fun it => s.poisonNow it.1 it.2.1) = true :=
    (any_homeRuns _).symm
  refine ⟨top_addPtr _ _, vaOf_addPtr _ _, mem_maskRuns s.mask, fun j hj => ?_, fun hal => ?_, fun hal hap hout => ?_, fun hr hf => ?_,
    fun hr ht => ?_, fun hr hf ht hp => ?_, fun hr hf ht hp hs hm => ?_, fun hr hf ht => ?_⟩
  · obtain ⟨q, hq, hlo, hhi⟩ := (mem_maskRuns s.mask j).1 hj
    obtain ⟨hstart, hend⟩ := (hullOf_ascending hasc).1 q hq
    exact ⟨hstart.trans hlo, hhi.trans_le hend⟩
  · exact ⟨traps_of_finish (congrArg (finish s) (loadVector_error (vectorPieces_misaligned hal _ _))),
      traps_of_finish (congrArg (finish s) (storeVector_error (vectorPieces_misaligned hal _ _)))⟩
  · obtain ⟨j, hj, hout⟩ := hout
    exact ⟨traps_of_finish (congrArg (finish s) (loadVector_error (vectorPieces_outside hal hap hj hout _))),
      traps_of_finish (congrArg (finish s) (storeVector_error (vectorPieces_outside hal hap hj hout _)))⟩
  · have hheld : s.fcore.wmHeldRuns p runs = true := by
      simp only [free, not_forall, Bool.not_eq_false] at hf
      obtain ⟨j, hj, hw⟩ := hf
      obtain ⟨q, hq, hlo, hhi⟩ := (mem_maskRuns _ _).1 hj
      exact (wmHeldRuns_iff _ _ _).2 ⟨q, hq, j, hlo, hhi, hw⟩
    exact ⟨waits_of_finish ((hld hr).trans (by rw [if_pos hheld])), waits_of_finish ((hst hr).trans (by rw [if_pos hheld]))⟩
  · have hwait : (homeRuns s p).any (fun it => s.apWaits it.1 it.2.1) = true := by
      simp only [turn, not_forall, Bool.not_eq_false] at ht
      obtain ⟨q, hq, hw⟩ := ht
      exact (any_homeRuns _).2 ⟨q, hq, hw⟩
    exact ⟨waits_of_finish ((hld hr).trans (by rw [if_pos hwait, ite_self])),
      waits_of_finish ((hst hr).trans (by rw [if_pos hwait, ite_self]))⟩
  · exact traps_of_finish ((hld hr).trans (by rw [hfree hf, hturn ht, hpoison.1 hp]; rfl))
  · have hsound : (homeRuns s p).any (fun it => s.poisonNow it.1 it.2.1) = false :=
      Bool.eq_false_iff.2 fun h => by
        obtain ⟨q, hq, hbad⟩ := hpoison.2 h
        simp [hp q hq] at hbad
    have hsoft : ∀ it ∈ homeRuns s p, s.softAt it.1 it.2.1 = false := fun it hit => by
      rw [Bool.eq_false_iff, Ne, softAt_iff]
      rintro ⟨j, hj, hsoft⟩
      have hpa := (mem_homeRuns hit).2
      rw [hpa, Nat.add_assoc, hs (it.2.2 + j) ((enabled_iff _).2 ⟨it, hit, by omega, by omega⟩)] at hsoft
      cases hsoft
    have hdone := hld hr
    rw [hfree hf, hturn ht, hsound, foldl_correct_of_sound hsoft] at hdone
    refine lanesBecome_of_fill (fun j hj => ?_) (fun _ => rfl) hdone
    rw [Nat.div_one] at hj
    rw [vElem_filled hm _ hj, Nat.mul_one]
    simp only [hj, true_and]
    rfl
  · refine ⟨_, (hst hr).trans (by rw [hfree hf, hturn ht]; rfl), rfl, ?_, fun j hj => ?_, fun a ha => ?_⟩
    · exact onlyMem_mark (onlyMem_foldl_writeMem _ _ _ _ s) _
    · exact byte_stored _ hj
    · exact byte_not_stored _ ha

end Sys2Proof
end

section
/-! Indexed loads and stores through the aperture: the elements, their parts at home, the register after the load and memory after the store. -/

namespace Sys2Proof
open Machine

section
variable {s : State} {i : Instr} {base : Word} {z : Nat} {vi : VReg}

/-! The elements of an indexed access -/

/-- The pointer of element `k`. -/
def elemPtr (base : Word) (vi : VReg) (z k : Nat) : Word := addPtr base ((vElem vi 4 k * z : Nat) : Int)

/-- The mask enables element `k`, and the index register has a word for it. -/
def Enabled (s : State) (z k : Nat) : Prop := k < min 1024 (4096 / z) ∧ s.mask.getLsbD (k * z) = true

theorem isAp_elemPtr (k : Nat) : isAp (elemPtr base vi z k) = isAp base := by
  rw [isAp, isAp, elemPtr, top_addPtr]

theorem indexedElems_eq : indexedElems base vi z s.mask = (List.range (min 1024 (4096 / z))).filterMap (fun k =>
    if s.mask.getLsbD (k * z) then some (k, elemPtr base vi z k) else none) := by
  simp only [indexedElems, elemPtr, Nat.cast_mul]

theorem mem_indexedElems {e : Nat × Word} : e ∈ indexedElems base vi z s.mask ↔ ∃ k, Enabled s z k ∧ e = (k, elemPtr base vi z k) := by
  simp only [indexedElems_eq, List.mem_filterMap, List.mem_range, Option.ite_none_right_eq_some, Option.some.injEq, Enabled, and_assoc,
    eq_comm (b := e)]

theorem indexedElems_ascending : (indexedElems base vi z s.mask).Pairwise (fun e f => e.1 < f.1) := by
  rw [indexedElems_eq, List.pairwise_filterMap]
  refine List.pairwise_lt_range.imp fun hlt e he f hf => ?_
  simp only [Option.ite_none_right_eq_some, Option.some.injEq] at he hf
  obtain ⟨-, rfl⟩ := he
  obtain ⟨-, rfl⟩ := hf
  exact hlt

/-- The first element of a kind. -/
theorem find?_indexedElems {f : Nat × Word → Bool} {k : Nat} (hk : Enabled s z k) (hf : f (k, elemPtr base vi z k) = true)
    (hfirst : ∀ j, Enabled s z j → j < k → f (j, elemPtr base vi z j) = false) :
    (indexedElems base vi z s.mask).find? f = some (k, elemPtr base vi z k) := by
  obtain ⟨l, r, hl⟩ := List.append_of_mem (mem_indexedElems.2 ⟨k, hk, rfl⟩)
  have hasc := indexedElems_ascending (s := s) (base := base) (vi := vi) (z := z)
  rw [hl] at hasc ⊢
  rw [List.find?_append, List.find?_eq_none.2, Option.none_or, List.find?_cons_of_pos hf]
  intro e he
  obtain ⟨j, hon, rfl⟩ := mem_indexedElems.1 (hl ▸ List.mem_append_left _ he)
  have hlt := (List.pairwise_append.1 hasc).2.2 _ he _ List.mem_cons_self
  simp [hfirst j hon hlt]

/-! Their parts at home -/

/-- The bytes of one element in its pair store. -/
def elemPiece (s : State) (z : Nat) (r : VReg) (e : Nat × Word) : Piece :=
  { pa := apAddr s.focus.core (apOff e.2), len := z, off := e.1 * z, val := getBytes r (e.1 * z) z }

def elemPart (s : State) (z : Nat) (r : VReg) (e : Nat × Word) : OutPart := OutPart.new [elemPiece s z r e] [] e.2

/-- Aperture elements are checked one after another; the first that leaves the pair store is the fault (R434). -/
theorem indexedParts_home {es : List (Nat × Word)} (hap : ∀ e ∈ es, isAp e.2 = true) (a : Acc) (r : VReg) :
    indexedParts s z a r es =
      match es.find? (fun e => apBad e.2) with
      | some e => .error (cAPERTURE, e.2)
      | none => .ok (es.map (elemPart s z r), []) := by
  induction es with
  | nil => rfl
  | cons e es ih =>
    obtain ⟨k, p⟩ := e
    have hp : isAp p = true := hap (k, p) (by simp)
    have hrest := ih (fun e he => hap e (by simp [he]))
    rw [indexedParts]
    simp only [hp, if_true]
    by_cases hbad : apBad p = true
    · simp [hbad]
    · simp only [hbad, hrest, List.find?_cons]
      cases es.find? (fun e => apBad e.2) with
      | none => rfl
      | some e => rfl

theorem pieces_elemParts (r : VReg) (es : List (Nat × Word)) : (es.map (elemPart s z r)).flatMap OutPart.pieces = es.map (elemPiece s z r) := by
  induction es with
  | nil => rfl
  | cons e es ih => 
    rw [List.map_cons, List.flatMap_cons, ih]
    rfl

/-! The access at home -/

section
variable (hap : isAp base = true)
include hap

theorem isAp_of_mem {e : Nat × Word} (h : e ∈ indexedElems base vi z s.mask) : isAp e.2 = true := by
  obtain ⟨k, -, rfl⟩ := mem_indexedElems.1 h
  exact (isAp_elemPtr k).trans hap

theorem indexedParts_outside {k : Nat} (hk : Enabled s z k) (hbad : apBad (elemPtr base vi z k) = true)
    (hfirst : ∀ j, Enabled s z j → j < k → apBad (elemPtr base vi z j) = false) (a : Acc) (r : VReg) :
    indexedParts s z a r (indexedElems base vi z s.mask) = .error (cAPERTURE, elemPtr base vi z k) := by
  rw [indexedParts_home (fun e he => isAp_of_mem hap he), find?_indexedElems hk hbad hfirst]

variable (hin : ∀ k, Enabled s z k → apBad (elemPtr base vi z k) = false)
include hin

theorem indexedParts_inside (a : Acc) (r : VReg) :
    indexedParts s z a r (indexedElems base vi z s.mask) = .ok ((indexedElems base vi z s.mask).map (elemPart s z r), []) := by
  have hnone : (indexedElems base vi z s.mask).find? (fun e => apBad e.2) = none := List.find?_eq_none.2 fun e he => by
    obtain ⟨k, hon, rfl⟩ := mem_indexedElems.1 he
    simp [hin k hon]
  rw [indexedParts_home (fun e he => isAp_of_mem hap he), hnone]

variable (hal : base.toNat % z = 0)
include hal

/-- What an indexed load comes to at its home, by what holds it back and what it meets. -/
theorem loadIndexed_home (d : Nat) :
    loadIndexed s i base z vi d =
      let es := indexedElems base vi z s.mask
      let items := es.map (elemPiece s z 0)
      if es.any (fun e => s.fcore.wmHeld (vaOf e.2) z) then .wait
      else if items.any (fun it => s.apWaits it.pa it.len) then .wait
      else
        match (es.map (elemPart s z 0)).find? (fun o => o.pieces.any (fun it => s.poisonNow it.pa it.len)) with
        | some o => .trap cPOISON o.ptr 0
        | none => .done (((items.foldl (fun (s : State) it => s.correct it.pa it.len) s).setVreg d
            (items.foldl (fun r it => putBytes r it.off it.len (s.readNow it.pa it.len)) (s.vreg d))).covers
              (runCover (items.map (fun it => (it.off, it.len))))) := by
  rw [loadIndexed, if_neg (not_not.mpr hal)]
  simp only [indexedParts_inside hap hin, pieces_elemParts, hap, if_true] <;> rfl

theorem storeIndexed_home (r : VReg) :
    storeIndexed s i base z vi r =
      let es := indexedElems base vi z s.mask
      let items := es.map (elemPiece s z r)
      if es.any (fun e => s.fcore.wmHeld (vaOf e.2) z) then .wait
      else if items.any (fun it => s.apWaits it.pa it.len) then .wait
      else .done (items.foldl (fun s it => s.writeMem it.pa it.len it.val) s) := by
  rw [storeIndexed, if_neg (not_not.mpr hal)]
  simp only [indexedParts_inside hap hin, pieces_elemParts, hap, if_true]

end

theorem any_elements (f : Nat × Word → Bool) : (indexedElems base vi z s.mask).any f = true ↔
    ∃ k, Enabled s z k ∧ f (k, elemPtr base vi z k) = true := by
  rw [List.any_eq_true]
  constructor
  · rintro ⟨e, he, h⟩
    obtain ⟨k, hon, rfl⟩ := mem_indexedElems.1 he
    exact ⟨k, hon, h⟩
  · rintro ⟨k, hon, h⟩
    exact ⟨_, mem_indexedElems.2 ⟨k, hon, rfl⟩, h⟩

theorem any_pieces (f : Nat → Nat → Bool) (r : VReg) :
    ((indexedElems base vi z s.mask).map (elemPiece s z r)).any (fun it => f it.pa it.len) = true ↔
      ∃ k, Enabled s z k ∧ f (apAddr s.focus.core (apOff (elemPtr base vi z k))) z = true := by
  rw [List.any_map]
  exact any_elements _

theorem mem_pieces {r : VReg} {it : Piece} : it ∈ (indexedElems base vi z s.mask).map (elemPiece s z r) ↔
    ∃ k, Enabled s z k ∧ it = elemPiece s z r (k, elemPtr base vi z k) := by
  rw [List.mem_map]
  constructor
  · rintro ⟨e, he, rfl⟩
    obtain ⟨k, hon, rfl⟩ := mem_indexedElems.1 he
    exact ⟨k, hon, rfl⟩
  · rintro ⟨k, hon, rfl⟩
    exact ⟨_, mem_indexedElems.2 ⟨k, hon, rfl⟩, rfl⟩

/-- An element lies in the register. -/
theorem elem_le {k : Nat} (h : k < 4096 / z) : k * z + z ≤ 4096 := by
  have := (Nat.le_div_iff_mul_le (Nat.pos_of_ne_zero fun h0 => by simp [h0] at h)).1 (Nat.succ_le_of_lt h)
  rwa [Nat.succ_mul] at this

/-- A bit of element `k` of a register, when element `j` is filled. -/
theorem getLsbD_putElem (t : VReg) {j k b : Nat} (hj : j < 4096 / z) (hb : b < 8 * z) (v : Nat) :
    (putBytes t (j * z) z v).getLsbD (8 * z * k + b) = if j = k then v.testBit b else t.getLsbD (8 * z * k + b) := by
  rw [getLsbD_putBytes t v (elem_le hj), show 8 * (j * z) = 8 * z * j by ring]
  rcases Nat.lt_trichotomy j k with h | rfl | h
  · have := Nat.mul_le_mul_left (8 * z) (Nat.succ_le_of_lt h)
    rw [Nat.mul_succ] at this
    rw [if_neg (by omega), if_neg (by omega)]
  · rw [if_pos (by omega), if_pos rfl, Nat.add_sub_cancel_left]
  · have := Nat.mul_le_mul_left (8 * z) (Nat.succ_le_of_lt h)
    rw [Nat.mul_succ] at this
    rw [if_neg (by omega), if_neg (by omega)]

/-- The register after the load, element by element. -/
theorem vElem_gathered (r : VReg) (k : Nat) :
    vElem (((indexedElems base vi z s.mask).map (elemPiece s z 0)).foldl (fun r it => putBytes r it.off it.len (s.readNow it.pa it.len)) r) z k =
      if k < min 1024 (4096 / z) ∧ s.mask.getLsbD (k * z) = true then
        s.readNow (apAddr s.focus.core (apOff (elemPtr base vi z k))) z % 2 ^ (8 * z)
      else vElem r z k := by
  refine Nat.eq_of_testBit_eq fun b => ?_
  rw [testBit_vElem]
  by_cases hb : b < 8 * z
  · have hput (j : Nat) (hj : Enabled s z j) (t : VReg) (v : Nat) := getLsbD_putElem t (k := k) (hj.1.trans_le (Nat.min_le_right _ _)) hb v
    rw [decide_eq_true hb, Bool.true_and]
    split
    · next hon =>
      rw [Nat.testBit_mod_two_pow, decide_eq_true hb, Bool.true_and]
      refine foldl_overwritten (get := fun t : VReg => t.getLsbD (8 * z * k + b))
        (cov := fun it => it = elemPiece s z 0 (k, elemPtr base vi z k)) (fun it hit hcov t => ?_) (fun it hit hcov t => ?_)
        ⟨_, mem_pieces.2 ⟨k, hon, rfl⟩, rfl⟩ r
      · subst hcov
        exact (hput k hon t _).trans (if_pos rfl)
      · obtain ⟨j, hj, rfl⟩ := mem_pieces.1 hit
        exact (hput j hj t _).trans (if_neg fun h => hcov (by rw [h]))
    · next hoff =>
      rw [testBit_vElem, decide_eq_true hb, Bool.true_and]
      refine foldl_untouched (get := fun t : VReg => t.getLsbD (8 * z * k + b)) (fun it hit t => ?_) r
      obtain ⟨j, hj, rfl⟩ := mem_pieces.1 hit
      exact (hput j hj t _).trans (if_neg fun h : j = k => hoff (h ▸ hj))
  · rw [decide_eq_false hb, Bool.false_and]
    split
    · rw [Nat.testBit_mod_two_pow, decide_eq_false hb, Bool.false_and]
    · rw [testBit_vElem, decide_eq_false hb, Bool.false_and]

/-! What the access comes to -/

/-- The place of element `k` in the pair store. -/
def elemAddr (s : State) (base : Word) (vi : VReg) (z k : Nat) : Nat := apAddr s.focus.core (apOff (elemPtr base vi z k))

/-- No watermark and no older access of the context holds element `k` back. -/
def MayAccess (s : State) (base : Word) (vi : VReg) (z k : Nat) : Prop :=
  s.fcore.wmHeld (vaOf (elemPtr base vi z k)) z = false ∧ s.apWaits (elemAddr s base vi z k) z = false

theorem wmHeld_elements (h : ∀ k, Enabled s z k → MayAccess s base vi z k) :
    (indexedElems base vi z s.mask).any (fun e => s.fcore.wmHeld (vaOf e.2) z) = false := by
  rw [Bool.eq_false_iff, Ne, any_elements]
  rintro ⟨k, hk, hw⟩
  exact Bool.false_ne_true ((h k hk).1.symm.trans hw)

theorem apWaits_pieces (h : ∀ k, Enabled s z k → MayAccess s base vi z k) (r : VReg) :
    ((indexedElems base vi z s.mask).map (elemPiece s z r)).any (fun it => s.apWaits it.pa it.len) = false := by
  rw [Bool.eq_false_iff, Ne, any_pieces]
  rintro ⟨k, hk, hw⟩
  exact Bool.false_ne_true ((h k hk).2.symm.trans hw)

/-- An element that is held back is held back by a watermark or by an older access. -/
theorem held_of_not_mayAccess {k : Nat} (hk : Enabled s z k) (h : ¬ MayAccess s base vi z k) (r : VReg) :
    (indexedElems base vi z s.mask).any (fun e => s.fcore.wmHeld (vaOf e.2) z) = true ∨
      ((indexedElems base vi z s.mask).map (elemPiece s z r)).any (fun it => s.apWaits it.pa it.len) = true := by
  rw [any_elements, any_pieces]
  by_cases hw : s.fcore.wmHeld (vaOf (elemPtr base vi z k)) z = true
  · exact .inl ⟨k, hk, hw⟩
  · refine .inr ⟨k, hk, ?_⟩
    by_contra hap
    exact h ⟨Bool.eq_false_iff.2 hw, Bool.eq_false_iff.2 hap⟩

/-- The access is aligned, and every enabled element stays in the pair store. -/
structure Home (s : State) (base : Word) (vi : VReg) (z : Nat) : Prop where
  aligned : base.toNat % z = 0
  ap : isAp base = true
  inside : ∀ k, Enabled s z k → apBad (elemPtr base vi z k) = false

section
variable (h : Home s base vi z)
include h

theorem indexed_held {k : Nat} (hk : Enabled s z k) (hw : ¬ MayAccess s base vi z k) (ld st : Instr) (d : Nat) (r : VReg) :
    loadIndexed s ld base z vi d = .wait ∧ storeIndexed s st base z vi r = .wait := by
  obtain ⟨hal, hap, hin⟩ := h
  rw [loadIndexed_home hap hin hal, storeIndexed_home hap hin hal]
  dsimp only
  constructor
  · rcases held_of_not_mayAccess hk hw 0 with hheld | hheld
    · rw [if_pos hheld]
    · rw [if_pos hheld, ite_self]
  · rcases held_of_not_mayAccess hk hw r with hheld | hheld
    · rw [if_pos hheld]
    · rw [if_pos hheld, ite_self]

variable (hfree : ∀ k, Enabled s z k → MayAccess s base vi z k)
include hfree

theorem loadIndexed_poisoned {k : Nat} (hk : Enabled s z k) (hp : s.poisonNow (elemAddr s base vi z k) z = true)
    (hfirst : ∀ j, Enabled s z j → j < k → s.poisonNow (elemAddr s base vi z j) z = false) (d : Nat) :
    loadIndexed s i base z vi d = .trap cPOISON (elemPtr base vi z k) 0 := by
  have hone (j : Nat) : (elemPart s z 0 (j, elemPtr base vi z j)).pieces.any (fun it => s.poisonNow it.pa it.len) =
      s.poisonNow (elemAddr s base vi z j) z := Bool.or_false _
  rw [loadIndexed_home h.ap h.inside h.aligned]
  dsimp only
  rw [wmHeld_elements hfree, apWaits_pieces hfree, List.find?_map,
    find?_indexedElems hk ((hone k).trans hp) (fun j hj hlt => (hone j).trans (hfirst j hj hlt))]
  rfl

theorem loadIndexed_gathers (hp : ∀ k, Enabled s z k → s.poisonNow (elemAddr s base vi z k) z = false ∧
    s.softAt (elemAddr s base vi z k) z = false)
    (d : Nat) : ∃ c, loadIndexed s i base z vi d = .done ((s.setVreg d
      (((indexedElems base vi z s.mask).map (elemPiece s z 0)).foldl (fun r it => putBytes r it.off it.len (s.readNow it.pa it.len))
        (s.vreg d))).covers c) := by
  have hsound : ((indexedElems base vi z s.mask).map (elemPart s z 0)).find?
      (fun o => o.pieces.any (fun it => s.poisonNow it.pa it.len)) = none := by
    rw [List.find?_map, Option.map_eq_none_iff, List.find?_eq_none]
    intro e he
    obtain ⟨k, hk, rfl⟩ := mem_indexedElems.1 he
    exact Bool.eq_false_iff.1 ((Bool.or_false _).trans (hp k hk).1)
  have hsoft : ∀ it ∈ (indexedElems base vi z s.mask).map (elemPiece s z 0), s.softAt it.pa it.len = false := fun it hit => by
    obtain ⟨k, hk, rfl⟩ := mem_pieces.1 hit
    exact (hp k hk).2
  rw [loadIndexed_home h.ap h.inside h.aligned]
  dsimp only
  rw [wmHeld_elements hfree, apWaits_pieces hfree, hsound, foldl_correct_of_sound hsoft]
  exact ⟨_, rfl⟩

theorem storeIndexed_scatters (r : VReg) : storeIndexed s i base z vi r =
    .done (((indexedElems base vi z s.mask).map (elemPiece s z r)).foldl (fun s it => s.writeMem it.pa it.len it.val) s) := by
  rw [storeIndexed_home h.ap h.inside h.aligned]
  dsimp only
  rw [wmHeld_elements hfree, apWaits_pieces hfree]
  rfl

end

/-! Memory after the store -/

/-- Elements of an aligned base stand at multiples of their size in the pair store. -/
theorem dvd_apOff_elemPtr {e : Nat} (he : e ≤ 22) (hal : base.toNat % 2 ^ e = 0) (k : Nat) : 2 ^ e ∣ apOff (elemPtr base vi (2 ^ e) k) := by
  have hbase : 2 ^ e ∣ vaOf base := by
    rw [vaOf_eq]
    exact (Nat.dvd_mod_iff (Nat.pow_dvd_pow 2 (by omega))).2 (Nat.dvd_of_mod_eq_zero hal)
  have hva : vaOf (elemPtr base vi (2 ^ e) k) = (vaOf base + vElem vi 4 k * 2 ^ e) % 2 ^ 56 := by
    have := vaOf_addPtr base ((vElem vi 4 k * 2 ^ e : Nat) : Int)
    rw [elemPtr]
    omega
  have hoff : apOff (elemPtr base vi (2 ^ e) k) = vaOf (elemPtr base vi (2 ^ e) k) % 2 ^ 22 := by
    rw [vaOf_eq, apOff, bits_eq]
    omega
  rw [hoff, Nat.dvd_mod_iff (Nat.pow_dvd_pow 2 he), hva, Nat.dvd_mod_iff (Nat.pow_dvd_pow 2 (by omega))]
  exact Nat.dvd_add hbase (Nat.dvd_mul_left _ _)

theorem apart_of_ne {z a b c : Nat} (ha : z ∣ a) (hb : z ∣ b) (h : c + a ≠ c + b) : c + a + z ≤ c + b ∨ c + b + z ≤ c + a := by
  obtain ⟨x, rfl⟩ := ha
  obtain ⟨y, rfl⟩ := hb
  rcases Nat.lt_trichotomy x y with hxy | rfl | hxy
  · have := Nat.mul_le_mul_left z (Nat.succ_le_of_lt hxy)
    rw [Nat.mul_succ] at this
    omega
  · exact absurd rfl h
  · have := Nat.mul_le_mul_left z (Nat.succ_le_of_lt hxy)
    rw [Nat.mul_succ] at this
    omega

/-- Where the elements after it go elsewhere, an element stands in memory. -/
theorem holds_scattered {e : Nat} (he : e ≤ 22) (hal : base.toNat % 2 ^ e = 0) (r : VReg) {k : Nat} (hk : Enabled s (2 ^ e) k)
    (hlast : ∀ j, Enabled s (2 ^ e) j → k < j →
      elemAddr s base vi (2 ^ e) j ≠ elemAddr s base vi (2 ^ e) k) :
    Holds (((indexedElems base vi (2 ^ e) s.mask).map (elemPiece s (2 ^ e) r)).foldl (fun s it => s.writeMem it.pa it.len it.val) s)
      (elemAddr s base vi (2 ^ e) k) (2 ^ e) (vElem r (2 ^ e) k) := by
  obtain ⟨l, later, hl⟩ := List.append_of_mem (mem_indexedElems.2 ⟨k, hk, rfl⟩ : _ ∈ indexedElems base vi (2 ^ e) s.mask)
  have hasc := indexedElems_ascending (s := s) (base := base) (vi := vi) (z := 2 ^ e)
  rw [hl] at hasc
  intro b hb
  rw [hl, List.map_append, List.foldl_append, List.map_cons, List.foldl_cons]
  generalize (l.map _).foldl _ s = u
  refine (foldl_untouched (get := fun t : State => t.byte (elemAddr s base vi (2 ^ e) k + b))
    (fun it hit t => ?_) _).trans ?_
  · obtain ⟨f, hf, rfl⟩ := List.mem_map.1 hit
    obtain ⟨j, hj, rfl⟩ := mem_indexedElems.1 (hl ▸ List.mem_append_right _ (List.mem_cons_of_mem _ hf))
    have hlt := (List.pairwise_cons.1 (List.pairwise_append.1 hasc).2.1).1 _ hf
    have := apart_of_ne (dvd_apOff_elemPtr (vi := vi) he hal j) (dvd_apOff_elemPtr (vi := vi) he hal k) (hlast j hj hlt)
    refine State.byte_writeMem_outside _ _ _ _ _ ?_
    simp only [elemPiece, elemAddr, apAddr] at this ⊢
    omega
  · refine (State.byte_writeMem_inside _ _ _ _ _ (Nat.le_add_right _ _) (Nat.add_lt_add_left hb _)).trans ?_
    rw [Nat.add_sub_cancel_left]
    simp only [elemPiece, getBytes, vElem, Nat.mul_comm k, Nat.mul_assoc]

theorem byte_not_scattered (r : VReg) {a : Nat}
    (h : ∀ k, Enabled s z k → a < elemAddr s base vi z k ∨ elemAddr s base vi z k + z ≤ a) :
    (((indexedElems base vi z s.mask).map (elemPiece s z r)).foldl (fun s it => s.writeMem it.pa it.len it.val) s).byte a = s.byte a := by
  refine foldl_untouched (get := fun t : State => t.byte a) (fun it hit t => ?_) s
  obtain ⟨k, hk, rfl⟩ := mem_pieces.1 hit
  exact State.byte_writeMem_outside _ _ _ _ _ (h k hk)

end

/-- Settles O28: the elements' checks in ascending order; what holds the access back in any of them; then the elements, one by one. -/
theorem indexedLoadsAndStores : Obligations.IndexedLoadsAndStores := by
  unfold Obligations.IndexedLoadsAndStores
  intro s v b x e base z n q pa on here turn
  have hhome (h : here) : Home s base (s.vreg (s.vWin x)) z := ⟨h.1, h.2.1, h.2.2⟩
  have he : e.toNat ≤ 22 := by have := e.isLt; omega
  refine ⟨fun hal => ?_, fun k hal hap hk hbad hfirst => ?_, fun k h hk hw => ?_, fun k h hfree hk hp hfirst => ?_, fun h hfree hp => ?_,
    fun h hfree => ?_⟩
  · exact ⟨traps_of_finish (congrArg (finish s) (if_pos hal)), traps_of_finish (congrArg (finish s) (if_pos hal))⟩
  · exact ⟨traps_of_finish (congrArg (finish s) (loadIndexed_error hal (indexedParts_outside hap hk hbad hfirst _ _))),
      traps_of_finish (congrArg (finish s) (storeIndexed_error hal (indexedParts_outside hap hk hbad hfirst _ _)))⟩
  · obtain ⟨hload, hstore⟩ := indexed_held (hhome h) hk hw (.vldx v b x e) (.vstx v b x e) (s.vWin v) (s.vreg (s.vWin v))
    exact ⟨waits_of_finish (congrArg (finish s) hload), waits_of_finish (congrArg (finish s) hstore)⟩
  · exact traps_of_finish (congrArg (finish s) (loadIndexed_poisoned (hhome h) hfree hk hp hfirst _))
  · obtain ⟨c, hdone⟩ := loadIndexed_gathers (i := .vldx v b x e) (hhome h) hfree hp (s.vWin v)
    exact lanesBecome_of_fill (fun k _ => vElem_gathered _ k) (fun _ => rfl) (congrArg (finish s) hdone)
  · refine ⟨_, congrArg (finish s) (storeIndexed_scatters (hhome h) hfree _), rfl, onlyMem_mark (onlyMem_foldl_writeMem _ _ _ _ s) _,
      fun k hk hlast => ?_, fun a ha => ?_⟩
    · exact holds_scattered he h.1 _ hk hlast
    · exact byte_not_scattered _ ha

end Sys2Proof
end

section
/-! The spill partition and the scale queue: what stands before a SCALE, and what it comes to check by check. -/

namespace Sys2Proof
open Machine

/-! The operations of the M queue before a SCALE -/

section
variable {s : State}

theorem mem_mqBefore {o : QOp} : o ∈ s.mqBefore ↔ o ∈ s.fctx.mq ∧ o.seq ≤ s.focus.seq := by
  simp [State.mqBefore]

theorem no_span_before (h : ∀ o ∈ s.fctx.mq, o.seq ≤ s.focus.seq → spanOp o.ins = false) :
    s.mqBefore.any (fun o => spanOp o.ins) = false := by
  rw [List.any_eq_false]
  intro o ho
  obtain ⟨hmem, hseq⟩ := mem_mqBefore.1 ho
  simp [h o hmem hseq]

theorem span_before (h : ¬ ∀ o ∈ s.fctx.mq, o.seq ≤ s.focus.seq → spanOp o.ins = false) :
    s.mqBefore.any (fun o => spanOp o.ins) = true := by
  push Not at h
  obtain ⟨o, hmem, hseq, ho⟩ := h
  exact List.any_eq_true.2 ⟨o, mem_mqBefore.2 ⟨hmem, hseq⟩, by simpa using ho⟩

theorem no_scales_before (h : ∀ o ∈ s.fctx.mq, o.seq ≤ s.focus.seq → scalesOf o.ins = 0) :
    s.mqBefore.any (fun o => scalesOf o.ins ≠ 0) = false ∧ (s.mqBefore.map (fun o => scalesOf o.ins)).sum = 0 := by
  have hzero : ∀ o ∈ s.mqBefore, scalesOf o.ins = 0 := fun o ho => by
    obtain ⟨hmem, hseq⟩ := mem_mqBefore.1 ho
    exact h o hmem hseq
  refine ⟨?_, ?_⟩
  · rw [List.any_eq_false]
    intro o ho
    simp [hzero o ho]
  · rw [List.sum_eq_zero_iff]
    intro n hn
    obtain ⟨o, ho, rfl⟩ := List.mem_map.1 hn
    exact hzero o ho

theorem scales_before (h : ¬ ∀ o ∈ s.fctx.mq, o.seq ≤ s.focus.seq → scalesOf o.ins = 0) :
    s.mqBefore.any (fun o => scalesOf o.ins ≠ 0) = true := by
  push Not at h
  obtain ⟨o, hmem, hseq, ho⟩ := h
  exact List.any_eq_true.2 ⟨o, mem_mqBefore.2 ⟨hmem, hseq⟩, by simpa using ho⟩

end

/-! SCALE, check by check -/

/-- A SCALE whose turn has come, in a span: it waits for the bytes, meets their poison, or appends them (R160, R395, R443). -/
def scaleTakes (s : State) (p : Word) (k : Nat) : Res :=
  let a := apAddr s.focus.core (apOff p)
  if s.fcore.wmHeld (vaOf p) k || s.apWaits a k then .wait
  else if s.poisonNow a k then .trap cPOISON p 0
  else .done ((s.correct a k).modFCore (fun c => { c with arr := { c.arr with scaleq := c.arr.scaleq ++ bytesOf k (s.readNow a k) } }))

section
variable {s : State} {n : BitVec 7} {b : BitVec 4} {i : BitVec 15}

theorem exec_scale_format (hap : isAp (s.lqPtr b i) = false) : exec (.scale n b i) s = finish s (.trap cALIGN (s.lqPtr b i) 0) := by
  simp [exec, execScale, hap]

theorem exec_scale_outside (hap : isAp (s.lqPtr b i) = true)
    (h : apBad (s.lqPtr b i) = true ∨ pairSize < apOff (s.lqPtr b i) + n.toNat) :
    exec (.scale n b i) s = finish s (.trap cAPERTURE (s.lqPtr b i) 0) := by
  simp [exec, execScale, hap, h]

/-- A SCALE that stays in the pair store, by the operations before it (R55, R160, R395). -/
theorem exec_scale_inside (hap : isAp (s.lqPtr b i) = true) (hbad : apBad (s.lqPtr b i) = false)
    (hle : apOff (s.lqPtr b i) + n.toNat ≤ pairSize) :
    exec (.scale n b i) s = finish s (
      if s.mqBefore.any (fun o => spanOp o.ins) then .wait
      else if s.fctx.span.isNone then .trap cILLOP 0 0
      else if 64 < s.fcore.arr.scaleq.length - (s.mqBefore.map (fun o => scalesOf o.ins)).sum + n.toNat then .trap cQIMB 0 0
      else if s.mqBefore.any (fun o => scalesOf o.ins ≠ 0) then .wait
      else scaleTakes s (s.lqPtr b i) n.toNat) := by
  simp only [exec, execScale, hap, hbad, Nat.not_lt.2 hle, Bool.not_true, Bool.false_eq_true, if_false, Bool.false_or, decide_false]
  rfl

end

section
variable {s : State} {p : Word} {k : Nat}

theorem scaleTakes_held (h : s.apWaits (apAddr s.focus.core (apOff p)) k = true ∨ s.fcore.wmHeld (vaOf p) k = true) :
    scaleTakes s p k = .wait := by
  rcases h with h | h <;> simp [scaleTakes, h]

variable (hturn : s.apWaits (apAddr s.focus.core (apOff p)) k = false) (hw : s.fcore.wmHeld (vaOf p) k = false)
include hturn hw

theorem scaleTakes_poisoned (h : s.poisonNow (apAddr s.focus.core (apOff p)) k = true) : scaleTakes s p k = .trap cPOISON p 0 := by
  simp [scaleTakes, hturn, hw, h]

theorem scaleTakes_appends (hp : s.poisonNow (apAddr s.focus.core (apOff p)) k = false)
    (hs : s.softAt (apAddr s.focus.core (apOff p)) k = false) :
    scaleTakes s p k = .done (s.modFCore (fun c => { c with arr := { c.arr with
      scaleq := c.arr.scaleq ++ bytesOf k (s.readNow (apAddr s.focus.core (apOff p)) k) } })) := by
  simp [scaleTakes, hturn, hw, hp, correct_of_softAt hs]

end

/-- An operation that changes the core of the focus alone. -/
theorem coreBecomes_of_finish {i : Instr} {s : State} (f : Core → Core) (h : exec i s = finish s (.done (s.modFCore f))) :
    CoreBecomes i s (f s.fcore) :=
  ⟨_, h, rfl, onlyCore_modFCore s f .issued, State.fcore_modFCore s f⟩

/-- Settles O30: the spill partition's operations change the context alone; a SCALE passes its checks in their order, then takes its bytes. -/
theorem spillsAndScales : Obligations.SpillsAndScales := by
  unfold Obligations.SpillsAndScales
  intro s d x n b i p k pa reach turn pending alone
  have hin (h : reach) := exec_scale_inside (s := s) (n := n) h.1 h.2.1 h.2.2
  have htakes (h : reach) (ha : alone) (hspan : s.fctx.span.isSome) (hroom : s.fcore.arr.scaleq.length + k ≤ 64) :
      exec (.scale n b i) s = finish s (scaleTakes s p k) := by
    obtain ⟨hscales, hsum⟩ := no_scales_before ha.2
    rw [hin h, no_span_before ha.1, hscales, hsum, Option.isNone_eq_false_iff.2 hspan, if_neg Bool.false_ne_true, if_neg Bool.false_ne_true,
      if_neg (by omega), if_neg Bool.false_ne_true]
  refine ⟨?_, fun hb => ?_, fun hb => ?_, fun hap => ?_, fun hap hout => ?_, fun h ht => ?_, fun h ht hspan => ?_,
    fun h ht hspan hfull => ?_, fun h ht hspan hroom ha => ?_, fun h ha hspan hroom hheld => ?_, fun h ha hspan hroom hfree hw hp => ?_,
    fun h ha hspan hroom hfree hw hp hs => ?_⟩
  · exact ctxBecomes_of_finish (fun t => { t with
      spill := t.spill.set x.toNat (s.opnd d.toNat), spillBad := t.spillBad.filter (fun j => j ≠ x.toNat) }) rfl
  · refine ctxBecomes_of_finish (fun t => pended s t d.toNat (s.fctx.spill.get x.toNat 0) 1) ?_
    show finish s _ = _
    rw [hb]
    rfl
  · refine traps_of_finish ?_
    show finish s _ = _
    rw [hb]
    rfl
  · exact traps_of_finish (exec_scale_format hap)
  · exact traps_of_finish (exec_scale_outside hap hout)
  · exact waits_of_finish ((hin h).trans (by rw [if_pos (span_before ht)]))
  · exact traps_of_finish ((hin h).trans (by rw [no_span_before ht, hspan]; rfl))
  · rw [Option.isSome_iff_ne_none, ne_eq, ← Option.isNone_iff_eq_none] at hspan
    exact traps_of_finish ((hin h).trans (by rw [no_span_before ht, if_neg Bool.false_ne_true, if_neg hspan, if_pos hfull]))
  · rw [Option.isSome_iff_ne_none, ne_eq, ← Option.isNone_iff_eq_none] at hspan
    have hscales : s.mqBefore.any (fun o => scalesOf o.ins ≠ 0) = true := scales_before fun hnone => ha ⟨ht, hnone⟩
    exact waits_of_finish ((hin h).trans (by
      rw [no_span_before ht, if_neg Bool.false_ne_true, if_neg hspan, if_neg (Nat.not_lt.2 hroom), if_pos hscales]))
  · exact waits_of_finish ((htakes h ha hspan hroom).trans (congrArg (finish s) (scaleTakes_held hheld)))
  · exact traps_of_finish ((htakes h ha hspan hroom).trans (congrArg (finish s) (scaleTakes_poisoned hfree hw hp)))
  · exact coreBecomes_of_finish _ ((htakes h ha hspan hroom).trans (congrArg (finish s) (scaleTakes_appends hfree hw hp hs)))

end Sys2Proof
end

section
/-! Atomics through the aperture: what one does to a sound word, and the atomic by its checks. -/

namespace Sys2Proof
open Machine

/-! The state behind an atomic at its home -/

/-- A write of words without error marks changes memory alone. -/
theorem writeMem_of_sound {s : State} {a n : Nat} (h : Sound s a n) (v : Nat) :
    s.writeMem a n v = { s with mem := Memory.write s.mem a n v } := by
  have keeps (ws : List Nat) (hws : ws.any (fun w => decide (a < 8 * w + 8) && decide (8 * w < a + n) && decide (0 < n)) = false) :
      ws.filter (fun w => !(wordInside a n w)) = ws := by
    rw [List.filter_eq_self]
    intro w hw
    have := List.any_eq_false.1 hws w hw
    simp only [Bool.and_eq_true, decide_eq_true_eq] at this
    rw [wordInside, Bool.not_eq_true', Bool.and_eq_false_iff, decide_eq_false_iff_not, decide_eq_false_iff_not]
    omega
  rw [State.writeMem, keeps s.poison h.1, keeps s.soft h.2]

/-- An atomic of a sound word changes memory alone. -/
theorem doAtomic_of_sound {s : State} {pc : Piece} (h : Sound s pc.pa pc.len) (op : AtomicOp) (o w w' : Nat) :
    ∃ m, (s.doAtomic op o pc.len [pc] w w').1 = { s with mem := m } := by
  simp only [State.doAtomic, List.foldl_cons, List.foldl_nil, correct_of_softAt h.2, State.writePieces]
  split
  · exact ⟨s.mem, rfl⟩
  · exact ⟨_, writeMem_of_sound h _⟩

theorem raiseFlags_modF (s : State) (g : Ctx → Ctx) (l : Nat) (f : BitVec 6) : (s.modF g).raiseFlags l f =
    s.modF (fun t => { g t with flags := if f = 0 then (g t).flags else (g t).flags ++ [(s.fcore.clock + l, f)] }) := by
  rw [State.raiseFlags]
  split
  · rfl
  · have hcore : (s.modF g).fcore = s.fcore.setCtx s.focus.ctx (g s.fctx) := State.core_setCore_self s s.focus.core _
    rw [State.modF_modF, hcore]
    rfl

/-- A change of the context of the focus behind a change of memory. -/
theorem onlyMemCtx_modF (s : State) (m : List Host.Cell) (f : Ctx → Ctx) (l : Last) :
    OnlyMemCtx s { ({ s with mem := m } : State).modF f with last := l } := by
  obtain ⟨⟨hmodule, hcores⟩, hown, hothers⟩ := onlyCtx_modF { s with mem := m } f l
  exact ⟨rfl, hcores, hown, hothers⟩

/-! The atomic by its checks (R193, R194, R304 to R306) -/

section
variable {s : State} {i : Instr} {p : Word} {n : Nat} {op : AtomicOp} {o : Nat} {v c : Word} {d : Nat}

theorem atomic_misaligned (hal : p.toNat % n ≠ 0) : atomic s i op o p n v c d = .trap cALIGN p 0 := if_pos hal

section
variable (hal : p.toNat % n = 0) (hap : isAp p = true)
include hal hap

theorem atomic_outside (hbad : apBad p = true) : atomic s i op o p n v c d = .trap cAPERTURE p 0 := by
  simp [atomic, hal, hap, hbad]

variable (hbad : apBad p = false) (hw : s.fcore.wmHeld (vaOf p) n = false)
include hbad hw

theorem atomic_held
    (h : ¬ (s.apWaits (apAddr s.focus.core (apOff p)) n = false ∧ s.lineWaits (apAddr s.focus.core (apOff p)) n = false)) :
    atomic s i op o p n v c d = .wait := by
  have hheld : (s.apWaits (apAddr s.focus.core (apOff p)) n || s.lineWaits (apAddr s.focus.core (apOff p)) n) = true := by
    rwa [Bool.or_eq_true, ← not_not (a := _ ∨ _), not_or, Bool.not_eq_true, Bool.not_eq_true]
  simp only [atomic, hal, hap, hbad, hw, Bool.or_assoc, hheld]
  rfl

variable (hturn : s.apWaits (apAddr s.focus.core (apOff p)) n = false) (hline : s.lineWaits (apAddr s.focus.core (apOff p)) n = false)
include hturn hline

theorem atomic_poisoned (h : s.poisoned (apAddr s.focus.core (apOff p)) n = true) : atomic s i op o p n v c d = .trap cPOISON p 0 := by
  simp [atomic, hal, hap, hbad, hw, hturn, hline, h]

/-- An atomic of a sound word: the word's bytes, and the pending write with its flags. -/
theorem atomic_performs (hs : Sound s (apAddr s.focus.core (apOff p)) n) (hm : MemOk s) {new : Nat} {fl : BitVec 6}
    (hnew : atomicNew op o (8 * n) (s.readMem (apAddr s.focus.core (apOff p)) n) (v.toNat % 2 ^ (8 * n)) (c.toNat % 2 ^ (8 * n)) = (new, fl)) :
    ∃ m, atomic s i op o p n v c d = .done (({ s with mem := m } : State).modF (fun t =>
        { pended s t d (BitVec.ofNat 64 (s.readMem (apAddr s.focus.core (apOff p)) n)) 8 with
          flags := if fl = 0 then t.flags else t.flags ++ [(s.fcore.clock + 9, fl)] })) ∧
      SameMemBut s { s with mem := m } (apAddr s.focus.core (apOff p)) n ∧ Holds { s with mem := m } (apAddr s.focus.core (apOff p)) n new := by
  obtain ⟨u, hu, -, hholds, hsame⟩ := doAtomic_writes
    (pc := { pa := apAddr s.focus.core (apOff p), len := n, off := 0, val := 0 % 2 ^ (8 * n) }) hm rfl hnew
  obtain ⟨m, hmem⟩ := doAtomic_of_sound
    (pc := { pa := apAddr s.focus.core (apOff p), len := n, off := 0, val := 0 % 2 ^ (8 * n) }) hs op o v.toNat c.toNat
  rw [hu] at hmem
  obtain rfl : u = { s with mem := m } := hmem
  refine ⟨m, ?_, hsame, hholds⟩
  simp only [atomic, hal, hap, hbad, hw, hturn, hline, hs.1, piecesOf, hu, State.writePending, raiseFlags_modF]
  rfl

end

end

/-- What O31 says of one atomic: its checks in their order, then its word, its pending write and its flags. -/
theorem atomic_does {s : State} {i : Instr} {p : Word} {n : Nat} {op : AtomicOp} {o : Nat} {v c : Word} {d new : Nat} {fl : BitVec 6}
    (hexec : exec i s = finish s (atomic s i op o p n v c d)) :
    let pa := apAddr s.focus.core (apOff p)
    let turn : Prop := s.apWaits pa n = false ∧ s.lineWaits pa n = false
    atomicNew op o (8 * n) (s.readMem pa n) (v.toNat % 2 ^ (8 * n)) (c.toNat % 2 ^ (8 * n)) = (new, fl) →
    (p.toNat % n ≠ 0 → Traps i s cALIGN p 0) ∧
    (p.toNat % n = 0 → isAp p = true → apBad p = true → Traps i s cAPERTURE p 0) ∧
    (p.toNat % n = 0 → ApReach s p n → ¬ turn → Waits i s) ∧
    (p.toNat % n = 0 → ApReach s p n → turn → s.poisoned pa n = true → Traps i s cPOISON p 0) ∧
    (p.toNat % n = 0 → ApReach s p n → turn → Sound s pa n → MemOk s →
      ∃ u, exec i s = .next u ∧ u.last = .issued ∧ OnlyMemCtx s u ∧ SameMemBut s u pa n ∧ Holds u pa n new ∧
        u.fctx = { pended s s.fctx d (BitVec.ofNat 64 (s.readMem pa n)) 8 with
          flags := if fl = 0 then s.fctx.flags else s.fctx.flags ++ [(s.fcore.clock + 9, fl)] }) := by
  intro pa turn hnew
  refine ⟨fun hal => ?_, fun hal hap hbad => ?_, fun hal hr ht => ?_, fun hal hr ht hp => ?_, fun hal hr ht hs hm => ?_⟩
  · exact traps_of_finish (hexec.trans (congrArg (finish s) (atomic_misaligned hal)))
  · exact traps_of_finish (hexec.trans (congrArg (finish s) (atomic_outside hal hap hbad)))
  · obtain ⟨hap, hbad, hw⟩ := hr
    exact waits_of_finish (hexec.trans (congrArg (finish s) (atomic_held hal hap hbad hw ht)))
  · obtain ⟨hap, hbad, hw⟩ := hr
    exact traps_of_finish (hexec.trans (congrArg (finish s) (atomic_poisoned hal hap hbad hw ht.1 ht.2 hp)))
  · obtain ⟨hap, hbad, hw⟩ := hr
    obtain ⟨m, hdone, hsame, hholds⟩ := atomic_performs (i := i) (d := d) hal hap hbad hw ht.1 ht.2 hs hm hnew
    exact ⟨_, hexec.trans (congrArg (finish s) hdone), rfl, onlyMemCtx_modF s m _ _, hsame, hholds, fctx_modF_last _ _ _⟩

/-- Settles O31: one lemma for every atomic; each differs in its new word alone. -/
theorem atomics : Obligations.Atomics := by
  unfold Obligations.Atomics
  intro s d v c b y p pa m sg turn does l w w4
  refine ⟨atomic_does rfl rfl, atomic_does rfl rfl, atomic_does rfl rfl, atomic_does rfl ?_, atomic_does rfl rfl, atomic_does rfl rfl,
    atomic_does rfl ?_, atomic_does rfl rfl, atomic_does rfl rfl, atomic_does rfl rfl, atomic_does rfl rfl, atomic_does rfl rfl,
    atomic_does rfl rfl⟩
  · exact Prod.ext (min_def_lt _ _).symm rfl
  · exact Prod.ext ((max_comm _ _).trans (max_def_lt _ _)).symm rfl

end Sys2Proof
end

section
/-! Lock writes and held translations: the locks of aligned granules, TAGSET by its checks,
  and the access that one through translation leaves. -/

namespace Sys2Proof
open Machine

/-! Locks of a run of granules -/

theorem mem_granules {pa n g : Nat} : g ∈ granules pa n ↔ 0 < n ∧ pa / 32 ≤ g ∧ g ≤ (pa + n - 1) / 32 := by
  rw [granules]
  split
  · next h => simp [h]
  · simp only [List.mem_map, List.mem_range]
    constructor
    · rintro ⟨j, hj, rfl⟩
      omega
    · rintro ⟨-, hlo, hhi⟩
      exact ⟨g - pa / 32, by omega, by omega⟩

/-- A byte lies in a granule of an aligned run where it lies in the run. -/
theorem granule_mem_iff {pa n a : Nat} (hpa : pa % 32 = 0) (hn : n % 32 = 0) : a / 32 ∈ granules pa n ↔ pa ≤ a ∧ a < pa + n := by
  rw [mem_granules]
  omega

theorem get_foldl_set {α : Type} (gs : List Nat) (v : α) (t : Tab α) (g : Nat) (d : α) :
    (gs.foldl (fun t g => t.set g v) t).get g d = if g ∈ gs then v else t.get g d := by
  split
  · next h =>
    exact foldl_overwritten (get := fun t : Tab α => t.get g d) (cov := fun x => x = g)
      (fun x _ hx t => by rw [hx, Tab.get_set_self]) (fun x _ hx t => Tab.get_set_ne _ _ _ _ _ (Ne.symm hx)) ⟨g, h, rfl⟩ t
  · next h =>
    exact foldl_untouched (get := fun t : Tab α => t.get g d)
      (fun x hx t => Tab.get_set_ne _ _ _ _ _ fun hg => h (hg ▸ hx)) t

/-- A lock write of aligned granules sets the locks of their bytes and of no other. -/
theorem lock_setLocks (s : State) {pa n : Nat} (hpa : pa % 32 = 0) (hn : n % 32 = 0) (k : BitVec 4) (id a : Nat) :
    (s.setLocks pa n k id).lock a = if pa ≤ a ∧ a < pa + n then k else s.lock a := by
  rw [State.lock, State.setLocks, get_foldl_set]
  exact if_congr (granule_mem_iff hpa hn) rfl rfl

/-! TAGSET, check by check -/

/-- The operands that a TAGSET takes (R418). -/
def TagOperands (len : Nat) (k : Word) : Prop := 0 < len ∧ len % 32 = 0 ∧ len ≤ 2 ^ 20 ∧ k.toNat < 16

theorem tagOperands_iff (len : Nat) (k : Word) :
    (len = 0 || len % 32 ≠ 0 || decide (2 ^ 20 < len) || bits k 63 4 ≠ 0) = false ↔ TagOperands len k := by
  have hk := k.isLt
  simp only [Bool.or_eq_false_iff, decide_eq_false_iff_not, bits_eq, TagOperands]
  omega

theorem granule_bits_eq (p : Word) : bits p 4 0 = vaOf p % 32 := by
  rw [vaOf_eq, bits_eq]
  omega

section
variable {s : State} {i : Instr} {p : Word} {len : Nat} {k : Word}

theorem tagset_illegal (h : ¬ TagOperands len k) : tagset s i p len k = .trap cILLOP 0 0 := by
  rw [← tagOperands_iff, Bool.not_eq_false] at h
  exact if_pos h

variable (hgood : TagOperands len k)
include hgood

theorem tagset_misaligned (hal : vaOf p % 32 ≠ 0) : tagset s i p len k = .trap cALIGN p 0 := by
  rw [tagset, if_neg (by rw [(tagOperands_iff _ _).2 hgood]; decide), if_pos (by rwa [granule_bits_eq])]

variable (hal : vaOf p % 32 = 0)
include hal

theorem tagset_legal : tagset s i p len k = 
    let lock : BitVec 4 := BitVec.ofNat 4 k.toNat
    if isAp p then
      if apBad p || decide (pairSize < apOff p + len) then .trap cAPERTURE p 0
      else if s.tagWaits (apAddr s.focus.core (apOff p)) len then .wait
      else .done { (s.traceTag (apAddr s.focus.core (apOff p)) (apAddr s.focus.core (apOff p) + len) lock s.nextOut).setLocks
          (apAddr s.focus.core (apOff p)) len lock s.nextOut with nextOut := s.nextOut + 1 }
    else
      match s.fctx.checkLock s p len with
      | .error e => .trap e p 0
      | .ok q =>
        if q.items.any (fun it => s.lostAt it.1) then .trap cLAYERLOST p 0
        else if s.fcore.outsFull then .wait
        else
          .done ((q.items.foldl (fun t it => t.traceTag it.1 (it.1 + it.2) lock t.nextOut) s).addOut .tagset i
            ((q.items.flatMap (fun it => granules it.1 it.2)).map (granulePart p lock)) [] q.pages) := by
  rw [tagset, if_neg (by rw [(tagOperands_iff _ _).2 hgood]; decide), if_neg (by simp [granule_bits_eq, hal])] <;> rfl

section
variable (hap : isAp p = true)
include hap

theorem tagset_outside (h : apBad p = true ∨ pairSize < apOff p + len) : tagset s i p len k = .trap cAPERTURE p 0 := by
  simp [tagset_legal hgood hal, hap, h]

variable (hbad : apBad p = false) (hle : apOff p + len ≤ pairSize)
include hbad hle

theorem tagset_held (h : s.tagWaits (apAddr s.focus.core (apOff p)) len = true) : tagset s i p len k = .wait := by
  simp [tagset_legal hgood hal, hap, hbad, Nat.not_lt.2 hle, h]

theorem tagset_sets (h : s.tagWaits (apAddr s.focus.core (apOff p)) len = false) : tagset s i p len k =
    .done { (s.traceTag (apAddr s.focus.core (apOff p)) (apAddr s.focus.core (apOff p) + len) (BitVec.ofNat 4 k.toNat) s.nextOut).setLocks
      (apAddr s.focus.core (apOff p)) len (BitVec.ofNat 4 k.toNat) s.nextOut with nextOut := s.nextOut + 1 } := by
  simp [tagset_legal hgood hal, hap, hbad, Nat.not_lt.2 hle, h]

end

section
variable (hap : isAp p = false) {q : Checked}
include hap

theorem tagset_error {code : Nat} (h : s.fctx.checkLock s p len = .error code) : tagset s i p len k = .trap code p 0 := by
  simp [tagset_legal hgood hal, hap, h]

variable (hq : s.fctx.checkLock s p len = .ok q)
include hq

theorem tagset_lost (h : ∃ it ∈ q.items, s.lostAt it.1 = true) : tagset s i p len k = .trap cLAYERLOST p 0 := by
  have hany : q.items.any (fun it => s.lostAt it.1) = true := List.any_eq_true.2 h
  simp only [tagset_legal hgood hal, hap, hq, hany]
  rfl

theorem tagset_issues (h : ∀ it ∈ q.items, s.lostAt it.1 = false) (hfull : s.fcore.outsFull = false) : tagset s i p len k =
    .done ((q.items.foldl (fun t it => t.traceTag it.1 (it.1 + it.2) (BitVec.ofNat 4 k.toNat) t.nextOut) s).addOut .tagset i
      ((q.items.flatMap (fun it => granules it.1 it.2)).map (granulePart p (BitVec.ofNat 4 k.toNat))) [] q.pages) := by
  have hany : q.items.any (fun it => s.lostAt it.1) = false := List.any_eq_false.2 fun it hit => Bool.eq_false_iff.1 (h it hit)
  simp only [tagset_legal hgood hal, hap, hq, hany, hfull]
  rfl

end

end

/-! A lock write through translation is outstanding -/

/-- The traces that a lock write leaves change the towers alone. -/
theorem foldl_traceTag (items : List (Nat × Nat)) (lock : BitVec 4) (s : State) :
    ∃ w, items.foldl (fun t it => t.traceTag it.1 (it.1 + it.2) lock t.nextOut) s = { s with towers := w } := by
  induction items generalizing s with
  | nil => exact ⟨s.towers, rfl⟩
  | cons it r ih =>
    obtain ⟨w, hw⟩ := ih (s.traceTag it.1 (it.1 + it.2) lock s.nextOut)
    exact ⟨w, hw⟩

theorem granules_ne_nil {pa n : Nat} (h : n ≠ 0) : granules pa n ≠ [] :=
  List.ne_nil_of_mem (mem_granules.2 ⟨Nat.pos_of_ne_zero h, le_rfl, by omega⟩)

theorem granuleParts_ne_nil {items : List (Nat × Nat)} (h : ∃ it ∈ items, it.2 ≠ 0) (p : Word) (lock : BitVec 4) :
    (items.flatMap (fun it => granules it.1 it.2)).map (granulePart p lock) ≠ [] := by
  obtain ⟨it, hit, hn⟩ := h
  obtain ⟨g, hg⟩ := List.exists_mem_of_ne_nil _ (granules_ne_nil (pa := it.1) hn)
  exact List.ne_nil_of_mem (List.mem_map_of_mem (List.mem_flatMap.2 ⟨it, hit, hg⟩))

/-- The access that a lock write leaves outstanding, behind whatever it has traced. -/
theorem addOut_tagset {s u : State} {w : Tab Tower} (hu : u = { s with towers := w }) {i : Instr} {parts : List OutPart} {pages : List Held}
    (hp : parts ≠ []) :
    SameMem s (u.addOut .tagset i parts [] pages) ∧ (u.addOut .tagset i parts [] pages).locks = s.locks ∧
    (u.addOut .tagset i parts [] pages).fctx.st = s.fctx.st + 1 ∧
    ∃ o, (u.addOut .tagset i parts [] pages).fcore.outs = s.fcore.outs ++ [o] ∧ o.id = s.nextOut ∧ o.ctx = s.focus.ctx ∧ o.kind = .tagset ∧
      o.parts = parts := by
  subst hu
  obtain ⟨-, hown, -⟩ := onlyCtx_modF (listed { s with towers := w }
    { id := s.nextOut, ctx := s.focus.ctx, kind := .tagset, op := s.focusOp i, parts := parts, vals := [] }) (counting .tagset pages) s.last
  rw [addOut_eq hp]
  refine ⟨fun _ => rfl, rfl, ?_, _, (congrArg Core.outs hown).trans (congrArg Core.outs (fcore_listed _)), rfl, rfl, rfl, rfl⟩
  rw [State.fctx_modF]
  exact congrArg (fun t : Ctx => t.st + 1) (ctx_listed (s := { s with towers := w }) _ _)

/-- Settles O32: TAGSET by its checks, at home and through translation; XINV changes the held translations of the context alone. -/
theorem locksAndHeldTranslations : Obligations.LocksAndHeldTranslations := by
  unfold Obligations.LocksAndHeldTranslations
  intro s n b k q code p len lock pa i good here
  have hpa (h : here) : pa % 32 = 0 := by
    have hal := h.2.1
    rw [vaOf_eq] at hal
    simp only [pa, apAddr, pairAddr, pairBase, pairSize, apOff, bits_eq]
    omega
  refine ⟨fun h => ?_, fun h hal => ?_, fun h hal hap hout => ?_, fun h hw => ?_, fun h hw => ?_, fun h hal hap he => ?_,
    fun h hal hap hq hlost => ?_, fun h hal hap hq hlost hfull hsome => ?_, ?_, ?_⟩
  · exact traps_of_finish (congrArg (finish s) (tagset_illegal h))
  · exact traps_of_finish (congrArg (finish s) (tagset_misaligned h hal))
  · exact traps_of_finish (congrArg (finish s) (tagset_outside h hal hap hout))
  · obtain ⟨hgood, hal, hap, hbad, hle⟩ := h
    exact waits_of_finish (congrArg (finish s) (tagset_held hgood hal hap hbad hle hw))
  · have halign := hpa h
    obtain ⟨hgood, hal, hap, hbad, hle⟩ := h
    refine ⟨_, congrArg (finish s) (tagset_sets hgood hal hap hbad hle hw), rfl, rfl, fun a => ?_, ?_, fun t ht => ?_⟩
    · exact lock_setLocks (State.traceTag s _ _ _ _) halign hgood.2.1 _ s.nextOut _
    · exact State.tower_setTower_self _ _ _
    · exact State.tower_setTower_ne _ _ _ _ ht
  · exact traps_of_finish (congrArg (finish s) (tagset_error h hal hap he))
  · exact traps_of_finish (congrArg (finish s) (tagset_lost h hal hap hq hlost))
  · obtain ⟨w, hw⟩ := foldl_traceTag q.items lock s
    obtain ⟨hmem, hlocks, hst, houts⟩ := addOut_tagset (i := i) (pages := q.pages) hw (granuleParts_ne_nil hsome p lock)
    exact ⟨_, congrArg (finish s) (tagset_issues h hal hap hq hlost hfull), rfl, hmem, hlocks, hst, houts⟩
  · exact ctxBecomes_of_finish (fun t => { t with tlb := [] }) rfl
  · exact ctxBecomes_of_finish (fun t => { t with
      tlb := t.tlb.filter (fun h => !(decide (h.va ≤ vaOf (s.sOp n)) && decide (vaOf (s.sOp n) < h.va + h.size))) }) rfl

end Sys2Proof
end

section
/-! Runs of bytes read in parts: the word pieces of a run, the number and the bytes that sound parts give. -/

namespace Sys2Proof
open Machine

/-! A number read in two parts -/

theorem read_add (m : List Host.Cell) (a n k : Nat) : Memory.read m a (n + k) = Memory.read m a n + Memory.read m (a + n) k <<< (8 * n) := by
  induction m with
  | nil => simp [Memory.read]
  | cons c r ih =>
    simp only [Memory.read, ih]
    by_cases hlow : a ≤ c.1 ∧ c.1 < a + n
    · rw [if_pos (by omega), if_pos hlow, if_neg (by omega)]
      omega
    · by_cases hhigh : a + n ≤ c.1 ∧ c.1 < a + n + k
      · have hsplit : c.2.toNat <<< (8 * (c.1 - a)) = c.2.toNat <<< (8 * (c.1 - (a + n))) <<< (8 * n) := by
          rw [← Nat.shiftLeft_add]
          congr 1
          omega
        rw [if_pos (by omega), if_neg hlow, if_pos hhigh, hsplit]
        simp only [Nat.shiftLeft_eq]
        ring
      · rw [if_neg (by omega), if_neg hlow, if_neg hhigh]

/-! The word pieces of a run (R179) -/

/-- A run of `n` bytes at `pa` cut at the aligned words: a piece lies in the run, at its place in the row. -/
theorem mem_wordPieces {o pa n : Nat} {p : Piece} (h : p ∈ wordPieces (o, pa, n)) (hn : 0 < n) :
    pa ≤ p.pa ∧ p.pa + p.len ≤ pa + n ∧ p.off = o + (p.pa - pa) := by
  obtain ⟨i, hi, rfl⟩ := List.mem_map.1 h
  rw [List.mem_range] at hi
  dsimp only at hi ⊢
  omega

/-- The pieces cover the run. -/
theorem wordPieces_cover (o : Nat) {pa n x : Nat} (hlo : pa ≤ x) (hhi : x < pa + n) :
    ∃ p ∈ wordPieces (o, pa, n), p.pa ≤ x ∧ x < p.pa + p.len := by
  refine ⟨_, List.mem_map.2 ⟨x / 8 - pa / 8, List.mem_range.2 ?_, rfl⟩, ?_⟩
  · dsimp only
    omega
  · dsimp only
    omega

/-- What the pieces give one after another is what the run gives, where it comes part by part. -/
theorem foldl_wordPieces {β : Type} (app : β → β → β) (f : Nat → Nat → β) (part : Piece → β) (pa n : Nat)
    (hf : ∀ m k, m + k ≤ n → f pa (m + k) = app (f pa m) (part { pa := pa + m, len := k, off := m, val := 0 })) :
    (wordPieces (0, pa, n)).foldl (fun v p => app v (part p)) (f pa 0) = f pa n := by
  have hprefix : ∀ t, t ≤ (pa % 8 + n + 7) / 8 →
      ((List.range t).map (fun i =>
        let a := max pa (8 * (pa / 8 + i))
        ({ pa := a, len := min (pa + n) (8 * (pa / 8 + i) + 8) - a, off := 0 + (a - pa), val := 0 } : Piece))).foldl
        (fun v p => app v (part p)) (f pa 0) = f pa (min n (8 * (pa / 8 + t) - pa)) := by
    intro t
    induction t with
    | zero =>
      intro _
      rw [show min n (8 * (pa / 8 + 0) - pa) = 0 by omega]
      rfl
    | succ t ih =>
      intro ht
      rw [List.range_succ, List.map_append, List.foldl_append, ih (by omega)]
      have hlast : min n (8 * (pa / 8 + (t + 1)) - pa) = min n (8 * (pa / 8 + t) - pa) +
          (min (pa + n) (8 * (pa / 8 + t) + 8) - max pa (8 * (pa / 8 + t))) := by omega
      rw [hlast, hf _ _ (by omega)]
      simp only [List.map_cons, List.map_nil, List.foldl_cons, List.foldl_nil]
      congr 3 <;> omega
  refine (hprefix _ le_rfl).trans (congrArg (f pa) ?_)
  omega

/-! Parts of a row that are read (R179, R224, R331) -/

theorem softAt_mono {s : State} {a n b m : Nat} (h : s.softAt a n = false) (hb : a ≤ b) (hm : b + m ≤ a + n) : s.softAt b m = false := by
  simp only [State.softAt, List.any_eq_false, Bool.and_eq_true, decide_eq_true_eq] at h ⊢
  intro w hw hc
  exact h w hw (by omega)

theorem Sound.mono {s : State} {a n b m : Nat} (h : Sound s a n) (hb : a ≤ b) (hm : b + m ≤ a + n) : Sound s b m :=
  ⟨poisoned_mono h.1 hb hm, softAt_mono h.2 hb hm⟩

/-- A part that has not been read. -/
def unreadPart (p : Piece) : RowPart := { piece := p, done := false, bad := false, soft := false }

/-- The same part with its bytes. -/
def soundPart (s : State) (p : Piece) : RowPart := { piece := { p with val := s.readMem p.pa p.len }, done := true, bad := false, soft := false }

theorem readRowPart_sound {s : State} {p : Piece} (h : Sound s p.pa p.len) : readRowPart s (unreadPart p) = (s, soundPart s p) := by
  obtain ⟨hp, hs⟩ := h
  simp [readRowPart, unreadPart, soundPart, correct_of_softAt hs, hp, hs]

theorem readFirst_sound {s : State} {ps : List Piece} (h : ∀ p ∈ ps, Sound s p.pa p.len) {n : Nat} (hn : ps.length ≤ n) :
    readFirst n s (ps.map unreadPart) = (s, ps.map (soundPart s)) := by
  induction ps generalizing n with
  | nil => rfl
  | cons p r ih =>
    obtain ⟨m, rfl⟩ : ∃ m, n = m + 1 := ⟨n - 1, by simp at hn; omega⟩
    have hrest := ih (fun q hq => h q (by simp [hq])) (Nat.le_of_succ_le_succ hn)
    rw [List.map_cons, readFirst, if_neg (by simp [unreadPart]), readRowPart_sound (h p (by simp))]
    simp only [Nat.add_sub_cancel, hrest, List.map_cons]

theorem sound_wordPieces {s : State} {o pa n : Nat} (h : Sound s pa n) (hn : 0 < n) : ∀ p ∈ wordPieces (o, pa, n),
    Sound s p.pa p.len := fun p hp => by
  obtain ⟨hlo, hhi, -⟩ := mem_wordPieces hp hn
  exact h.mono hlo hhi

/-- The bytes of a sound run, as the number that its parts make. -/
theorem pieceValue_read (s : State) (pa n : Nat) :
    pieceValue (((wordPieces (0, pa, n)).map (soundPart s)).map RowPart.piece) 0 = s.readMem pa n := by
  rw [List.map_map, pieceValue, List.foldl_map]
  refine Eq.trans ?_ (foldl_wordPieces (· + ·) (fun a m => s.readMem a m) (fun p => s.readMem p.pa p.len <<< (8 * p.off)) pa n
    (fun m k _ => read_add s.mem pa m k))
  have h0 : s.readMem pa 0 = 0 := Memory.read_none _ _ _ (by omega)
  rw [h0]
  rfl

/-- The same as bytes. -/
theorem bytes_read {s : State} (hm : MemOk s) (pa n : Nat) :
    ((wordPieces (0, pa, n)).map (soundPart s)).flatMap (fun q => bytesOf q.piece.len q.piece.val) =
      (List.range n).map (fun j => s.byte (pa + j)) := by
  have happ : ∀ (l : List Piece) (acc : List Byte), acc ++ l.flatMap (fun p => bytesOf p.len (s.readMem p.pa p.len)) =
      l.foldl (fun v p => v ++ bytesOf p.len (s.readMem p.pa p.len)) acc := fun l => by
    induction l with
    | nil => simp
    | cons p r ih => intro acc; rw [List.foldl_cons, ← ih, List.flatMap_cons, List.append_assoc]
  rw [List.flatMap_map]
  refine Eq.trans ?_ (foldl_wordPieces (· ++ ·) (fun a m => (List.range m).map (fun j => s.byte (a + j)))
    (fun p => bytesOf p.len (s.readMem p.pa p.len)) pa n (fun m k _ => ?_))
  · rw [← happ]
    rfl
  · simp only [bytesOf_readMem hm, List.range_add, List.map_append, List.map_map, Nat.add_assoc]
    rfl

end Sys2Proof
end

section
/-! Rows on their way: how one lands, and what its parts leave in memory. -/

namespace Sys2Proof
open Machine

/-! Rows on their way land (R189, R330) -/

/-- A command that credits no barrier, moves no watermark, and whose destination has no locks to check. -/
structure Unnoticed (k : Cmd) : Prop where
  baren : ccBaren k.ccb = false
  wmen : ccWmen k.ccb = false
  untagged : tagged k.refD = false

section
variable {k : Cmd} (hk : Unnoticed k) (unit : Nat) (s : State) (l : Landing)
include hk

/-- A row that has landed counts as delivered. -/
theorem payRows_landed (hl : l.parts = []) : payRows unit [l] s k = (s, { k with landed := k.landed + l.bytes, landing := [] }) := by
  have hwm : l.vas.foldl (fun (s : State) v => s.modWm k (fun w => w.land v.1 (v.1 + v.2))) s = s := by
    simp only [State.modWm, hk.wmen, Bool.false_eq_true, if_false]
    exact List.foldl_fixed _
  rw [payRows, if_pos (by simp [hl]), hwm]
  simp only [creditNet_of_no_barrier hk.baren, creditCmd_of_no_barrier hk.baren, ite_self, payRows]

omit hk in
theorem payRows_waiting {r : List Landing} (hl : l.parts ≠ []) : payRows unit (l :: r) s k = (s, { k with landing := l :: r }) := by
  rw [payRows, if_neg (by simpa using hl)]

theorem not_locked (pa n : Nat) : s.locked k.refD k.dstKey pa n = false := by
  rw [State.locked, hk.untagged, Bool.false_and]

/-- The parts of one row land in order, and the row is delivered. -/
theorem landParts_row (parts : List (Piece × Bool)) (hne : parts ≠ []) :
    landParts parts.length s unit { k with landing := [{ l with parts := parts }] } =
      (parts.foldl State.landPart s, { k with landed := k.landed + l.bytes, landing := [] }) := by
  induction parts generalizing s with
  | nil => exact absurd rfl hne
  | cons p ps ih =>
    have hk' : Unnoticed { k with landing := [{ l with parts := p :: ps }] } := ⟨hk.baren, hk.wmen, hk.untagged⟩
    rw [List.length_cons, landParts, landOf_first unit rfl rfl, if_neg (by simp [not_locked hk'])]
    cases ps with
    | nil =>
      rw [payRows_landed hk' unit _ _ rfl]
      rfl
    | cons q qs =>
      rw [payRows_waiting unit _ _ (List.cons_ne_nil q qs)]
      exact ih (s.landPart p) (List.cons_ne_nil q qs)

theorem landRows_row : landRows s unit { k with landing := [l] } =
    (l.parts.foldl State.landPart s, { k with landed := k.landed + l.bytes, landing := [] }) := by
  have hk' : Unnoticed { k with landing := [l] } := ⟨hk.baren, hk.wmen, hk.untagged⟩
  have hcount : ({ k with landing := [l] } : Cmd).pending.length = l.parts.length := by
    simp [length_pending, partCount]
  rw [landRows, hcount]
  cases hl : l.parts with
  | nil =>
    rw [payRows_landed hk' unit s l hl]
    rfl
  | cons p ps =>
    rw [payRows_waiting unit s l (by simp [hl]), ← hl]
    exact landParts_row hk unit s l l.parts (by simp [hl])

end

theorem landRows_none (unit : Nat) (s : State) {k : Cmd} (h : k.landing = []) : landRows s unit k = (s, k) := by
  have hk : { k with landing := [] } = k := by
    cases k
    subst h
    rfl
  simp only [landRows, h, payRows, length_pending, partCount, hk]
  rfl

/-! What the parts of a row leave in memory -/

/-- The word pieces of a run at `pa`, each with its bytes of the row, and no poison. -/
def rowParts (row : Nat → Nat → Nat) (pa n : Nat) : List (Piece × Bool) :=
  (wordPieces (0, pa, n)).map (fun p => ({ p with val := row p.off p.len }, false))

section
variable {row : Nat → Nat → Nat} {n : Nat}

theorem mem_rowParts {pa : Nat} {p : Piece × Bool} (h : p ∈ rowParts row pa n) (hn : 0 < n) :
    p.2 = false ∧ pa ≤ p.1.pa ∧ p.1.pa + p.1.len ≤ pa + n ∧ p.1.val = row (p.1.pa - pa) p.1.len := by
  obtain ⟨q, hq, rfl⟩ := List.mem_map.1 h
  obtain ⟨hlo, hhi, hoff⟩ := mem_wordPieces hq hn
  exact ⟨rfl, hlo, hhi, by simp [hoff]⟩

theorem landPart_sound (s : State) {p : Piece × Bool} (h : p.2 = false) : s.landPart p = s.writeMem p.1.pa p.1.len p.1.val :=
  if_neg (by simp [h])

/-- Runs of one length that are apart: the row stands in each of them. -/
theorem byte_landed {pas : List Nat} {b : Nat → Byte} (hn : 0 < n)
    (hrow : ∀ o k i, o + i < n → i < k → BitVec.ofNat 8 (row o k >>> (8 * i)) = b (o + i))
    (hapart : ∀ x ∈ pas, ∀ y ∈ pas, x = y ∨ x + n ≤ y ∨ y + n ≤ x) {pa j : Nat} (hpa : pa ∈ pas) (hj : j < n) (s : State) :
    ((pas.flatMap (rowParts row · n)).foldl State.landPart s).byte (pa + j) = b j := by
  refine foldl_overwritten (get := fun t : State => t.byte (pa + j)) (cov := fun p => p.1.pa ≤ pa + j ∧ pa + j < p.1.pa + p.1.len)
    (fun p hp hcov t => ?_) (fun p hp hcov t => ?_) ?_ s
  · obtain ⟨x, hx, hp⟩ := List.mem_flatMap.1 hp
    obtain ⟨hclean, hlo, hhi, hval⟩ := mem_rowParts hp hn
    obtain rfl : x = pa := by
      rcases hapart x hx pa hpa with h | h | h <;> omega
    rw [landPart_sound t hclean, State.byte_writeMem_inside _ _ _ _ _ hcov.1 hcov.2, hval, hrow _ _ _ (by omega) (by omega)]
    congr 1
    omega
  · obtain ⟨x, hx, hp⟩ := List.mem_flatMap.1 hp
    rw [landPart_sound t (mem_rowParts hp hn).1, State.byte_writeMem_outside _ _ _ _ _ (by omega)]
  · obtain ⟨p, hp, hcov⟩ := wordPieces_cover 0 (Nat.le_add_right pa j) (Nat.add_lt_add_left hj pa)
    exact ⟨_, List.mem_flatMap.2 ⟨pa, hpa, List.mem_map_of_mem hp⟩, hcov⟩

theorem byte_not_landed {pas : List Nat} (hn : 0 < n) {x : Nat} (hx : ∀ pa ∈ pas, x < pa ∨ pa + n ≤ x) (s : State) :
    ((pas.flatMap (rowParts row · n)).foldl State.landPart s).byte x = s.byte x := by
  refine foldl_untouched (get := fun t : State => t.byte x) (fun p hp t => ?_) s
  obtain ⟨pa, hpa, hp⟩ := List.mem_flatMap.1 hp
  obtain ⟨hclean, hlo, hhi, -⟩ := mem_rowParts hp hn
  have := hx pa hpa
  rw [landPart_sound t hclean, State.byte_writeMem_outside _ _ _ _ _ (by omega)]

end

end Sys2Proof
end

section
/-! A plain row of a copy: begun, read whole, and sent on its way. -/

namespace Sys2Proof
open Machine

/-! A row of bytes between aperture sides (R109, R112, R114) -/

/-- Neighbouring bytes are one run. -/
theorem joinRuns_bytes (a i n : Nat) : joinRuns ((List.range' i (n + 1)).map (fun j => (j, ((a + j : Nat) : Int), 1))) =
    [(i, ((a + i : Nat) : Int), n + 1)] := by
  induction n generalizing i with
  | zero => rfl
  | succ n ih =>
    have hrest := ih (i + 1)
    rw [joinRuns] at hrest
    rw [List.range'_succ, List.map_cons, joinRuns, List.foldr_cons, hrest]
    simp [add_assoc, Nat.add_comm 1]

/-- A row begun whose parts are sound is read whole: nothing has changed but what the command holds. -/
theorem gatherRow_sound {s : State} {k : Cmd} {ps : List Piece} (hsrc : k.src = none)
    (hbegin : beginRow s k = { k with src := some (ps.map unreadPart) }) (htag : tagged k.refS = false)
    (hs : ∀ p ∈ ps, Sound s p.pa p.len) :
    gatherRow s k 0 = (s, finishRow s { k with src := some (ps.map unreadPart) } (ps.map (soundPart s))) := by
  have hmay (q : RowPart) : Cmd.mayRead s { k with src := some (ps.map unreadPart) } q = true := by
    simp [Cmd.mayRead, State.locked, htag]
  have hall : (ps.map unreadPart).all (Cmd.mayRead s { k with src := some (ps.map unreadPart) }) = true :=
    List.all_eq_true.2 fun q _ => hmay q
  have hdone : (ps.map (soundPart s)).all RowPart.done = true := by simp [soundPart]
  have hread := readFirst_sound hs (List.length_map unreadPart (as := ps)).ge
  rw [gatherRow, if_pos (by simp [hsrc]), hbegin]
  simp only [hall, if_true, hread, hdone, Bool.not_true, Bool.false_eq_true, if_false]

/-- A copy of bytes as they stand, between aperture sides, with no barrier and no watermark. -/
structure PlainCopy (k : Cmd) : Prop where
  srcAp : k.srcSide.ap = true
  dstAp : k.dstSide.ap = true
  dstMem : k.dstSide.kind = .mem
  sesz : cpSesz k.ccb = 1
  cvt : cpCvt k.ccb = 0

/-- The bytes of the next row stand one after another: from `a` in the source, from `d` in the destination. -/
def RowPlaced (k : Cmd) (a d : Nat) : Prop :=
  let r := k.rowAt k.row
  ∀ j, j < cpE k.ccb 0 → k.srcSide.addr [j, r.1, r.2.1, r.2.2] = some ((a + j : Nat) : Int) ∧
    k.dstSide.addr [j, r.1, r.2.1, r.2.2] = some ((d + j : Nat) : Int)

section
variable {k : Cmd} {a d : Nat} (hk : PlainCopy k)
include hk

theorem desz_plain : cpDesz k.ccb = 1 := by
  simp [cpDesz, hk.cvt, cvtFormats, hk.sesz]

theorem src_esz_plain : k.srcSide.esz = 1 := by
  have hap := hk.srcAp
  unfold Cmd.srcSide at hap ⊢
  dsimp only at hap ⊢
  split at hap
  · cases hap
  · next h => rw [if_neg h]; exact hk.sesz

theorem dst_esz_plain : k.dstSide.esz = 1 := by
  have hap := hk.dstAp
  unfold Cmd.dstSide at hap ⊢
  dsimp only at hap ⊢
  split at hap
  · cases hap
  · next h =>
    rw [if_neg h]
    split at hap
    · cases hap
    · next h' => rw [if_neg h']; exact desz_plain hk

theorem convert_plain {ps : List RowPart} (hbad : ∀ q ∈ ps, q.bad = false) :
    (k.convert ps) = ((List.range (cpE k.ccb 0)).map (fun i => (pieceValue (ps.map RowPart.piece) 0 >>> (8 * i)) % 2 ^ 8), []) := by
  have hany : ps.any RowPart.bad = false := List.any_eq_false.2 fun q hq => by simp [hbad q hq]
  simp [Cmd.convert, src_esz_plain hk, hany, convertEl, hk.cvt, cvtFormats]

variable (hp : RowPlaced k a d)

omit hk in
include hp in
theorem rowEls_placed : k.rowEls k.row =
    (List.range (cpE k.ccb 0)).map (fun j => (j, some ((a + j : Nat) : Int), some ((d + j : Nat) : Int))) := by
  refine List.map_congr_left fun j hj => ?_
  obtain ⟨hs, hd⟩ := hp j (List.mem_range.1 hj)
  exact congrArg₂ (fun x y => (j, x, y)) hs hd

include hp

variable (hn : 0 < cpE k.ccb 0)
include hn

theorem srcRun_placed : joinRuns ((k.rowEls k.row).filterMap (fun e => e.2.1.map (fun v => (e.1 * k.srcSide.esz, v, k.srcSide.esz)))) =
    [(0, (a : Int), cpE k.ccb 0)] := by
  obtain ⟨m, hm⟩ := Nat.exists_eq_succ_of_ne_zero hn.ne'
  rw [rowEls_placed hp, src_esz_plain hk, List.filterMap_map, hm]
  simp only [Function.comp_def, Option.map_some, Nat.mul_one, List.filterMap_eq_map', List.range_eq_range']
  exact joinRuns_bytes a 0 m

theorem dstRun_placed (k' : Cmd) :
    joinRuns ((k.rowEls k.row).filterMap (fun e =>
      if k'.writes e then e.2.2.map (fun v => (e.1 * k.dstSide.esz, v, k.dstSide.esz)) else none)) =
    [(0, (d : Int), cpE k.ccb 0)] := by
  obtain ⟨m, hm⟩ := Nat.exists_eq_succ_of_ne_zero hn.ne'
  rw [rowEls_placed hp, dst_esz_plain hk, List.filterMap_map, hm]
  simp only [Function.comp_def, Cmd.writes, Option.isSome_some, Bool.true_or, Bool.and_self, if_true, Option.map_some,
    Nat.mul_one, List.filterMap_eq_map', List.range_eq_range']
  exact joinRuns_bytes d 0 m

/-- The row begun: its parts at the source. -/
theorem beginRow_placed (s : State) : beginRow s k =
    { k with src := some ((wordPieces (0, pairAddr (pairOf k.core) + a, cpE k.ccb 0)).map unreadPart) } := by
  have href : (if k.refS = 0 then 0 else k.refS) = k.refS := by split <;> simp_all
  unfold beginRow
  dsimp only
  rw [srcRun_placed hk hp hn, if_pos hk.srcAp]
  simp [apPieces, href, unreadPart]

/-- The row goes on its way to every targeted pair. -/
theorem finishRow_placed (s : State) {ps : List RowPart} (hbad : ∀ q ∈ ps, q.bad = false) (hland : k.landing = []) :
    ∃ (k' : Cmd) (l : Landing), finishRow s k ps = { k' with landing := [l] } ∧
      k'.row = k.row + 1 ∧ k'.landed = k.landed ∧ k'.error = k.error ∧ k'.ccb = k.ccb ∧ k'.refD = k.refD ∧ l.bytes = cpE k.ccb 0 ∧
      l.parts = ((targetPairs k.core (ccMcast k.ccb)).map (fun q => pairAddr q + d)).flatMap
        (rowParts (fun o m => (joinNat 8 (k.convert ps).1 >>> (8 * o)) % 2 ^ (8 * m)) · (cpE k.ccb 0)) := by
  have href : (if k.refD = 0 then 0 else k.refD) = k.refD := by split <;> simp_all
  have hstream : ¬ k.dstSide.kind = .stream := by rw [hk.dstMem]; decide
  unfold finishRow
  rw [convert_plain hk hbad]
  dsimp only
  rw [if_neg hstream, dstRun_placed hk hp hn, if_pos hk.dstAp, dst_esz_plain hk, desz_plain hk]
  dsimp only
  rw [href, hland, List.nil_append]
  refine ⟨{ k with row := k.row + 1, read := decide (k.rows ≤ k.row + 1), src := none }, _, rfl, ?_⟩
  refine ⟨rfl, rfl, rfl, rfl, rfl, Nat.mul_one _, ?_⟩
  simp only [apPieces, rowParts, List.any_nil, List.map_flatMap, List.flatMap_map, List.map_cons, List.map_nil, List.flatMap_assoc,
    List.flatMap_cons, List.flatMap_nil, List.append_nil, Int.toNat_natCast, Nat.mul_one]

end

end Sys2Proof
end

section
/-! Moves of a running copy: a whole row, a fault of its source, and its single parts. -/

namespace Sys2Proof
open Machine

/-! Moves of a running copy (R113, R330, R331) -/

/-- A command that lands in no ring waits for no slot. -/
theorem landRound_of_no_slots {k : Cmd} (h : k.slots = []) (s : State) (hi : Nat) (final : Bool) : landRound s k hi final = .idle := by
  simp [landRound, Cmd.dueSlots, Cmd.targets, h]

section
variable {s : State} {e : Nat} {k : Cmd} (he : e < numCopyEngines) (hr : (s.copyEngine e).running = some k)
include he hr

theorem exec_copyRow_whole (hslots : k.slots = []) (hg : k.gathered = false) : exec (.copyRow (e, 0)) s =
    happened ((stepRow s (copyUnit e) k).1.setCopyEngine e { s.copyEngine e with running := some (stepRow s (copyUnit e) k).2 }) := by
  show execCopyRow (e, 0) s = _
  simp only [execCopyRow, if_neg he.not_ge, hr, landRound_of_no_slots hslots, hg]
  rfl

theorem exec_copyRow_part {j : Nat} {r : State × Cmd} (h : movePartOf s (copyUnit e) k j = some r) : exec (.copyRow (e, j + 1)) s =
    happened (r.1.setCopyEngine e { s.copyEngine e with running := some r.2 }) := by
  show execCopyRow (e, j + 1) s = _
  simp only [execCopyRow, if_neg he.not_ge, hr, Nat.add_sub_cancel, h]
  rfl

end

theorem setCopyEngine_state (s : State) (e : Nat) (k : Cmd) (g : Engine) :
    SameMem s (s.setCopyEngine e { g with running := some k }) := fun a => by
  rw [setCopyEngine_frame]
  rfl

/-- A row whose source faults stops the command at its index (R112). -/
theorem stepRow_faults {s : State} {k : Cmd} {code : Nat} (unit : Nat) (hland : k.landing = []) (hg : k.gathered = false) (hsrc : k.src = none)
    (hap : k.srcSide.ap = false)
    (h : k.srcSide.check s k.view false true k.refS
      (joinRuns ((k.rowEls k.row).filterMap (fun x => x.2.1.map (fun v => (x.1 * k.srcSide.esz, v, k.srcSide.esz))))) = .error code) :
    stepRow s unit k = (s, { k with error := some (code, flagOf code, k.rowIndex k.row), read := true }) := by
  have hbegin : beginRow s k = { k with error := some (code, flagOf code, k.rowIndex k.row), read := true } := by
    simp only [beginRow, hap, h]
    rfl
  have hgather : gatherRow s k 0 = (s, { k with error := some (code, flagOf code, k.rowIndex k.row), read := true }) := by
    rw [gatherRow, if_pos (by simp [hsrc]), hbegin]
    simp only [hsrc]
  simp only [stepRow, landRows_none unit s hland, hg, hgather]
  exact landRows_none unit s hland

/-- The row that is read has a granule that is locked under the command's key (R102, R103). -/
theorem movePartOf_locked_source {s : State} {k : Cmd} {ps : List RowPart} {i : Nat} {q : RowPart} (unit : Nat) (hslots : k.slots = [])
    (hsrc : k.src = some ps) (hq : ps[i]? = some q) (hd : q.done = false)
    (h : s.locked k.refS k.srcSide.key q.piece.pa q.piece.len = true) : movePartOf s unit k (i + 1) = some (s, k.lockedIn) := by
  have hi : i + 1 ≤ ps.length := (List.getElem?_eq_some_iff.1 hq).1
  have hmay : k.mayRead s q = false := by simp [Cmd.mayRead, hd, h]
  simp only [movePartOf, hsrc, Option.getD_some, Nat.add_one_ne_zero, if_false, if_pos hi, Cmd.waitsPermit,
    landRound_of_no_slots hslots, Machine.readOf,
    Nat.add_sub_cancel, hq, hd, hmay]
  rfl

/-- The first part on its way, where no row is being read. -/
theorem movePartOf_first {s : State} {k : Cmd} {l : Landing} {r : List Landing} {p : Piece × Bool} {ps : List (Piece × Bool)} (unit : Nat)
    (hsrc : k.src = none) (hk : k.landing = l :: r) (hl : l.parts = p :: ps) : movePartOf s unit k 1 =
      some (if s.locked k.refD k.dstKey p.1.pa p.1.len then (s, k.lockedOut 0)
        else payRows unit ({ l with parts := ps } :: r) (s.landPart p) k) := by
  have hpending : k.pending[0]? = some (0, 0) := by
    simp [Cmd.pending, hk, hl, List.zipIdx_cons, List.range_succ_eq_map]
  rw [← landOf_first unit hk hl]
  simp [movePartOf, hsrc, hpending]

/-- Bytes of a row of `n` bytes read at `pa`, from place `o` in the row's buffer. -/
def rowBytes (s : State) (pa n o m : Nat) : Nat :=
  (joinNat 8 ((List.range n).map (fun i => (s.readMem pa n >>> (8 * i)) % 2 ^ 8)) >>> (8 * o)) % 2 ^ (8 * m)

theorem byte_rowBytes {s : State} (hm : MemOk s) (pa : Nat) {n o m i : Nat} (hn : o + i < n) (hi : i < m) :
    BitVec.ofNat 8 (rowBytes s pa n o m >>> (8 * i)) = s.byte (pa + (o + i)) := by
  have hrow := joinNat_get 8 ((List.range n).map (fun i => (s.readMem pa n >>> (8 * i)) % 2 ^ 8)) (o + i)
  have hbyte := congrArg BitVec.toNat (Memory.read_byte s.mem hm pa n (o + i) hn)
  refine (BitVec.eq_of_toNat_eq ?_).trans (Memory.read_byte s.mem hm pa n (o + i) hn)
  rw [BitVec.toNat_ofNat, BitVec.toNat_ofNat, rowBytes, slice_mod _ _ _ _ (by omega), ← Nat.shiftRight_add, ← Nat.mul_add, hrow]
  simp [List.getD_eq_getElem?_getD, hn]
  rfl

/-- The parts of a copied row on their way to every targeted pair. -/
def copiedParts (s : State) (k : Cmd) (a d : Nat) : List (Piece × Bool) :=
  ((targetPairs k.core (ccMcast k.ccb)).map (fun q => pairAddr q + d)).flatMap
    (rowParts (rowBytes s (pairAddr (pairOf k.core) + a) (cpE k.ccb 0)) · (cpE k.ccb 0))

/-- A plain row between aperture sides: its bytes go to every targeted pair, and it is delivered (R109, R114, R115). -/
theorem stepRow_plain {s : State} {k : Cmd} {a d : Nat} (unit : Nat) (hk : PlainCopy k) (hp : RowPlaced k a d) (hu : Unnoticed k)
    (hland : k.landing = []) (hg : k.gathered = false) (hsrc : k.src = none) (htag : tagged k.refS = false) (hn : 0 < cpE k.ccb 0)
    (hs : Sound s (pairAddr (pairOf k.core) + a) (cpE k.ccb 0)) :
    ∃ k' : Cmd, stepRow s unit k = ((copiedParts s k a d).foldl State.landPart s, k') ∧
      k'.row = k.row + 1 ∧ k'.landed = k.landed + cpE k.ccb 0 ∧ k'.error = k.error := by
  generalize hpa : pairAddr (pairOf k.core) + a = pa at hs
  generalize hps : wordPieces (0, pa, cpE k.ccb 0) = ps
  have hsound : ∀ p ∈ ps, Sound s p.pa p.len := hps ▸ sound_wordPieces hs hn
  have hbegin : beginRow s k = { k with src := some (ps.map unreadPart) } := by rw [beginRow_placed hk hp hn, hpa, hps]
  have hclean : ∀ q ∈ ps.map (soundPart s), q.bad = false := fun q hq => by
    obtain ⟨p, -, rfl⟩ := List.mem_map.1 hq
    rfl
  have hnow : PlainCopy { k with src := some (ps.map unreadPart) } := ⟨hk.srcAp, hk.dstAp, hk.dstMem, hk.sesz, hk.cvt⟩
  obtain ⟨k', l, hfin, hrow, hlanded, herr, hccb, href, hbytes, hparts⟩ := finishRow_placed (a := a) (d := d) hnow hp hn s hclean hland
  have hu' : Unnoticed k' := ⟨hccb ▸ hu.baren, hccb ▸ hu.wmen, href ▸ hu.untagged⟩
  have hstep : stepRow s unit k = landRows s unit { k' with landing := [l] } := by
    simp only [stepRow, landRows_none unit s hland, hg, gatherRow_sound hsrc hbegin htag hsound, hfin]
    rfl
  have hcopied : l.parts = copiedParts s k a d := by
    rw [hparts, convert_plain hnow hclean, ← hps, pieceValue_read, copiedParts, hpa]
    rfl
  rw [hstep, landRows_row hu' unit s l, hcopied]
  exact ⟨_, rfl, hrow, by rw [hlanded, hbytes], herr⟩

end Sys2Proof
end

section
/-! A block of a job without stages: its parts, its bytes, and its way to the destination. -/

namespace Sys2Proof
open Machine

/-! A block of a job without stages (R128, R406) -/

/-- The parts of bytes [o, o + n) behind an aperture pointer (R93). -/
theorem harePieces_of_ap (s : State) (k : Cmd) {p : Word} (steps : List Int) (esz : Nat) (swap : Bool) (ref : Nat) {o n : Nat}
    (hp : isAp p = true) (hle : apOff p + o + n ≤ pairSize) :
    harePieces s k (memSide p steps esz swap) ref o n = .ok (wordPieces (0, apAddr k.core (apOff p) + o, n), 0) := by
  have hbase : (memSide p steps esz swap).base = apOff p := by
    simp only [memSide, if_pos hp]
    exact vaOf_mod _
  have hfits : ¬ (pairSize : Int) < ((apOff p : Int) + o) + n := by omega
  have haddr : pairAddr (pairOf k.core) + (apOff p + o) = apAddr k.core (apOff p) + o := by rw [apAddr, Nat.add_assoc]
  unfold harePieces
  dsimp only
  rw [hbase, if_pos (show (memSide p steps esz swap).ap = true from hp), if_neg hfits]
  simp only [apPieces, List.flatMap_cons, List.flatMap_nil, List.map_cons, List.map_nil, List.append_nil,
    ← Nat.cast_add, Int.toNat_natCast, haddr]

/-- Sound parts that nothing has read early and no lock holds are read as they stand. -/
theorem readParts_sound {s : State} {k : Cmd} (hsrc : k.src = none) {ps : List Piece} (h : ∀ p ∈ ps, Sound s p.pa p.len) (key : BitVec 4) :
    readParts s k 0 key ps = .ok (s, ps.map (soundPart s)) := by
  induction ps with
  | nil => rfl
  | cons p r ih =>
    have hearly : k.readEarly p = none := by simp [Cmd.readEarly, hsrc]
    have hfree : s.locked 0 key p.pa p.len = false := by simp [State.locked, tagged]
    have hread := readRowPart_sound (h p (by simp))
    rw [unreadPart] at hread
    rw [readParts]
    simp only [hearly, hfree, Bool.false_eq_true, if_false, hread, ih (fun q hq => h q (by simp [hq])), List.map_cons]

/-- A read of one sound run gives its bytes. -/
theorem hareRead_sound {s : State} {k : Cmd} (hsrc : k.src = none) (hm : MemOk s) {d : Side} {ref o n pa : Nat}
    (hps : harePieces s k d ref o n = .ok (wordPieces (0, pa, n), 0)) (hn : 0 < n) (hs : Sound s pa n) :
    hareRead s k d ref o n = .ok (s, (List.range n).map (fun j => s.byte (pa + j)), false, 0) := by
  have hclean (f : RowPart → Bool) (hf : ∀ q, f (soundPart s q) = false) (ps : List Piece) : (ps.map (soundPart s)).any f = false := by
    simp [hf]
  unfold hareRead
  simp only [hps, readParts_sound hsrc (sound_wordPieces hs hn), hclean RowPart.bad (fun _ => rfl), hclean RowPart.soft (fun _ => rfl),
    bytes_read hm, Bool.false_eq_true, if_false]

/-- A job that copies memory to memory between aperture sides as it stands. -/
structure PlainJob (k : Cmd) : Prop where
  chain : jcChain k.ccb = []
  src : isAp (nth k.ccb 0) = true
  dst : isAp (nth k.ccb 1) = true
  dkind : cpDkind k.ccb = 0
  mcast : ccMcast k.ccb = 0

section
variable {s : State} {k : Cmd} (hk : PlainJob k)
include hk

theorem taken_plain : k.taken = k.inp.length := by
  simp [Cmd.taken, jcHas, hk.chain]

theorem inSide_plain : k.inSide = (memSide (nth k.ccb 0) [] 1 false, jcSrclen k.ccb) := by
  simp [Cmd.inSide, jcHas, hk.chain]

/-- Bytes on their way to memory, all in one pair. -/
theorem sendBlock_plain {o : Nat} {bs : List Byte} (hbs : bs ≠ []) (hle : apOff (nth k.ccb 1) + o + bs.length ≤ pairSize) (flags block : Nat) :
    ∃ l : Landing, sendBlock s k o bs flags block = .ok { k with landing := k.landing ++ [l], buf := k.buf ++ bs } ∧ l.bytes = bs.length ∧
      l.parts = rowParts (fun o m => natOfBytes ((bs.drop o).take m)) (apAddr k.core (apOff (nth k.ccb 1)) + o) bs.length := by
  have hbase : (memSide (nth k.ccb 1) [] 1 false).base = apOff (nth k.ccb 1) := by
    simp only [memSide, if_pos hk.dst]
    exact vaOf_mod _
  have hfits : ¬ (pairSize : Int) < ((apOff (nth k.ccb 1) : Int) + o) + bs.length := by omega
  have haddr : pairAddr (pairOf k.core) + (apOff (nth k.ccb 1) + o) = apAddr k.core (apOff (nth k.ccb 1)) + o := by rw [apAddr, Nat.add_assoc]
  have href : (if k.refD = 0 then 0 else k.refD) = k.refD := by split <;> simp_all
  have hpairs : targetPairs k.core 0 = [pairOf k.core] := rfl
  unfold sendBlock
  dsimp only
  rw [hbase, if_neg (by simpa using hbs), if_pos (show (memSide (nth k.ccb 1) [] 1 false).ap = true from hk.dst), if_neg hfits, hk.mcast, hpairs]
  dsimp only
  rw [href]
  refine ⟨_, rfl, rfl, ?_⟩
  simp only [apPieces, rowParts, List.flatMap_cons, List.flatMap_nil, List.map_cons, List.map_nil, List.append_nil, ← Nat.cast_add,
    Int.toNat_natCast, haddr]

/-- The output that has not gone on its way yet goes. -/
theorem putOut_plain {out bs : List Byte} (hnew : out.drop k.buf.length = bs) (hbs : bs ≠ []) (hland : k.landing = [])
    (hle : apOff (nth k.ccb 1) + k.buf.length + bs.length ≤ pairSize) (flags block : Nat) :
    ∃ l : Landing, putOut s k out flags block = { k with landing := [l], buf := k.buf ++ bs } ∧ l.bytes = bs.length ∧
      l.parts = rowParts (fun o m => natOfBytes ((bs.drop o).take m)) (apAddr k.core (apOff (nth k.ccb 1)) + k.buf.length) bs.length := by
  obtain ⟨l, hsend, hbytes, hparts⟩ := sendBlock_plain (s := s) hk hbs hle flags block
  refine ⟨l, ?_, hbytes, hparts⟩
  rw [hland, List.nil_append] at hsend
  simp only [putOut, hnew, List.isEmpty_eq_false_iff.2 hbs, Bool.false_and, Bool.false_eq_true, if_false, hk.dkind, Nat.zero_ne_one, hsend]

/-- The next block is read, and goes on its way as it stands. -/
theorem gatherBlock_plain {n src dst : Nat} (hsrc : k.src = none) (hm : MemOk s) (hland : k.landing = [])
    (hbuf : k.buf.length = k.inp.length) (hn : min 4096 (jcSrclen k.ccb - k.inp.length) = n) (hpos : 0 < n)
    (hin : harePieces s k (memSide (nth k.ccb 0) [] 1 false) k.refS k.inp.length n = .ok (wordPieces (0, src, n), 0))
    (hle : apOff (nth k.ccb 1) + k.inp.length + n ≤ pairSize) (hdst : apAddr k.core (apOff (nth k.ccb 1)) + k.inp.length = dst)
    (hs : Sound s src n) :
    ∃ (k' : Cmd) (l : Landing), gatherBlock s k = (s, { k' with landing := [l] }) ∧ k'.row = k.row + 1 ∧ k'.inp.length = k.inp.length + n ∧
      k'.landed = k.landed ∧ k'.ccb = k.ccb ∧ k'.refD = k.refD ∧ l.bytes = n ∧
      l.parts = rowParts (fun o m => natOfBytes ((((List.range n).map (fun j => s.byte (src + j))).drop o).take m)) dst n := by
  have hread := hareRead_sound hsrc hm hin hpos hs
  generalize hbs : (List.range n).map (fun j => s.byte (src + j)) = bs at hread
  have hlen : bs.length = n := by rw [← hbs]; simp
  have hnext : nextUnit s k = .ok (s, { k with refS := 0 }, bs, false) := by
    unfold nextUnit
    simp only [hk.chain, inSide_plain hk, taken_plain hk, List.headD_nil, OfNat.zero_ne_ofNat, if_false, hn, hread]
  have hne : bs ≠ [] := List.ne_nil_of_length_pos (hlen ▸ hpos)
  have hnew : (k.inp ++ bs).drop k.buf.length = bs := by rw [hbuf, List.drop_left]
  obtain ⟨ended, hgather⟩ : ∃ ended, gatherBlock s k = (s, putOut s
      { k with refS := 0, inp := k.inp ++ bs, row := k.row + 1, src := none, read := ended, error := none } (k.inp ++ bs) 0 k.row) := by
    unfold gatherBlock
    rw [hnext]
    simp only [hk.chain, runStages]
    exact ⟨_, rfl⟩
  obtain ⟨l, hput, hbytes, hparts⟩ := putOut_plain (s := s)
    (k := { k with refS := 0, inp := k.inp ++ bs, row := k.row + 1, src := none, read := ended, error := none })
    ⟨hk.chain, hk.src, hk.dst, hk.dkind, hk.mcast⟩ hnew hne hland (by rw [hlen, hbuf]; exact hle) 0 k.row
  refine ⟨{ k with refS := 0, inp := k.inp ++ bs, row := k.row + 1, src := none, read := ended, error := none, buf := k.buf ++ bs },
    l, hgather.trans (congrArg (Prod.mk s) hput), rfl, ?_, rfl, rfl, rfl, hbytes.trans hlen, ?_⟩
  · rw [← hlen]
    exact List.length_append
  · rw [hparts, hlen, ← hdst, ← hbuf]

end

end Sys2Proof
end

section
/-! Rows and blocks: what they leave in memory, and the obligation. -/

namespace Sys2Proof
open Machine

/-! Rows and blocks: the obligation from the moves -/

/-- Runs at one offset of two pairs are apart (R100). -/
theorem pairs_apart {q r d n : Nat} (h : d + n ≤ pairSize) :
    pairAddr q + d = pairAddr r + d ∨ pairAddr q + d + n ≤ pairAddr r + d ∨ pairAddr r + d + n ≤ pairAddr q + d := by
  simp only [pairAddr]
  rcases Nat.lt_trichotomy q r with hq | rfl | hq
  · have := Nat.mul_le_mul_right pairSize (Nat.succ_le_of_lt hq)
    rw [Nat.succ_mul] at this
    omega
  · exact .inl rfl
  · have := Nat.mul_le_mul_right pairSize (Nat.succ_le_of_lt hq)
    rw [Nat.succ_mul] at this
    omega

theorem gathered_of_row {k : Cmd} (herr : k.error = none) (hrow : k.row < k.rows) : k.gathered = false := by
  simp [Cmd.gathered, herr, hrow]

theorem pos_of_row {k : Cmd} (h : k.row < k.rows) : 0 < cpE k.ccb 0 := by
  rw [Cmd.rows] at h
  split at h <;> omega

/-- What a copied row leaves in memory: its bytes in every targeted pair, and no others. -/
theorem copiedParts_bytes {s : State} {k : Cmd} {a d : Nat} (hm : MemOk s) (hn : 0 < cpE k.ccb 0) (hfit : d + cpE k.ccb 0 ≤ pairSize) :
    (∀ q ∈ targetPairs k.core (ccMcast k.ccb), ∀ j, j < cpE k.ccb 0 →
      ((copiedParts s k a d).foldl State.landPart s).byte (pairAddr q + d + j) = s.byte (pairAddr (pairOf k.core) + a + j)) ∧
    ∀ x, (∀ q ∈ targetPairs k.core (ccMcast k.ccb), x < pairAddr q + d ∨ pairAddr q + d + cpE k.ccb 0 ≤ x) →
      ((copiedParts s k a d).foldl State.landPart s).byte x = s.byte x := by
  refine ⟨fun q hq j hj => ?_, fun x hx => ?_⟩
  · refine byte_landed (b := fun j => s.byte (pairAddr (pairOf k.core) + a + j)) hn (fun o m i ho hi => byte_rowBytes hm _ ho hi)
      (fun x hx y hy => ?_) (List.mem_map_of_mem hq) hj s
    obtain ⟨q, -, rfl⟩ := List.mem_map.1 hx
    obtain ⟨r, -, rfl⟩ := List.mem_map.1 hy
    exact pairs_apart hfit
  · refine byte_not_landed hn (fun pa hpa => ?_) s
    obtain ⟨q, hq, rfl⟩ := List.mem_map.1 hpa
    exact hx q hq

/-! A running job -/

theorem exec_hareBlock_whole {s : State} {h : Nat} {k : Cmd} (hh : h < 4) (hr : (s.hare h).running = some k) (hslots : k.slots = [])
    (hj : k.jobRead = false) : exec (.hareBlock (h, 0)) s =
      happened ((stepBlock s h k).1.setHare h { s.hare h with running := some (stepBlock s h k).2 }) := by
  show execHareBlock (h, 0) s = _
  simp only [execHareBlock, if_neg hh.not_ge, hr, landRound_of_no_slots hslots, hj]
  rfl

/-- A block of a plain job: its bytes go to the destination, and it is delivered (R128, R406). -/
theorem stepBlock_plain {s : State} {k : Cmd} {n src dst : Nat} (h : Nat) (hk : PlainJob k) (hu : Unnoticed k)
    (hsrc : k.src = none) (hm : MemOk s)
    (hj : k.jobRead = false) (hland : k.landing = []) (hbuf : k.buf.length = k.inp.length) (hn : min 4096 (jcSrclen k.ccb - k.inp.length) = n)
    (hpos : 0 < n) (hin : harePieces s k (memSide (nth k.ccb 0) [] 1 false) k.refS k.inp.length n = .ok (wordPieces (0, src, n), 0))
    (hle : apOff (nth k.ccb 1) + k.inp.length + n ≤ pairSize) (hdst : apAddr k.core (apOff (nth k.ccb 1)) + k.inp.length = dst)
    (hs : Sound s src n) :
    ∃ k' : Cmd, stepBlock s h k = ((rowParts
        (fun o m => natOfBytes ((((List.range n).map (fun j => s.byte (src + j))).drop o).take m)) dst n).foldl
        State.landPart s, k') ∧
      k'.row = k.row + 1 ∧ k'.inp.length = k.inp.length + n ∧ k'.landed = k.landed + n := by
  obtain ⟨k', l, hgather, hrow, hinp, hlanded, hccb, href, hbytes, hparts⟩ := gatherBlock_plain hk hsrc hm hland hbuf hn hpos hin hle hdst hs
  have hu' : Unnoticed k' := ⟨hccb ▸ hu.baren, hccb ▸ hu.wmen, href ▸ hu.untagged⟩
  have hstep : stepBlock s h k = landRows s (hareUnit h) { k' with landing := [l] } := by
    simp only [stepBlock, landRows_none (hareUnit h) s hland, hj, hgather]
    rfl
  rw [hstep, landRows_row hu' (hareUnit h) s l, hparts]
  exact ⟨_, rfl, hrow, hinp, by rw [hlanded, hbytes]⟩

/-- What a block leaves in memory: its bytes at the destination, and no others. -/
theorem block_bytes (s : State) {n : Nat} (src dst : Nat) (hn : 0 < n) :
    let u := (rowParts (fun o m => natOfBytes ((((List.range n).map (fun j => s.byte (src + j))).drop o).take m)) dst n).foldl State.landPart s
    (∀ j, j < n → u.byte (dst + j) = s.byte (src + j)) ∧ SameMemBut s u dst n := by
  have hone (row : Nat → Nat → Nat) : rowParts row dst n = [dst].flatMap (rowParts row · n) := (List.append_nil _).symm
  intro u
  refine ⟨fun j hj => ?_, fun x hx => ?_⟩
  · simp only [u, hone]
    refine byte_landed (b := fun j => s.byte (src + j)) hn (fun o m i ho hi => byte_natOfBytes ?_)
      (fun x hx y hy => .inl ?_) (List.mem_singleton_self dst) hj s
    · rw [List.getElem?_take_of_lt hi, List.getElem?_drop, List.getElem?_map, List.getElem?_range ho]
      rfl
    · rw [List.mem_singleton.1 hx, List.mem_singleton.1 hy]
  · simp only [u, hone]
    exact byte_not_landed hn (fun pa hpa => List.mem_singleton.1 hpa ▸ hx) s

/-- The same as one event. -/
theorem hareBlock_copies {s : State} {k : Cmd} {h n src dst : Nat} (hh : h < 4) (hr : (s.hare h).running = some k) (hslots : k.slots = [])
    (hk : PlainJob k) (hu : Unnoticed k) (hsrc : k.src = none) (hm : MemOk s)
    (hj : k.jobRead = false) (hland : k.landing = []) (hbuf : k.buf.length = k.inp.length) (hn : min 4096 (jcSrclen k.ccb - k.inp.length) = n)
    (hpos : 0 < n) (hin : harePieces s k (memSide (nth k.ccb 0) [] 1 false) k.refS k.inp.length n = .ok (wordPieces (0, src, n), 0))
    (hle : apOff (nth k.ccb 1) + k.inp.length + n ≤ pairSize) (hdst : apAddr k.core (apOff (nth k.ccb 1)) + k.inp.length = dst)
    (hs : Sound s src n) :
    ∃ u, exec (.hareBlock (h, 0)) s = .next u ∧ u.last = .issued ∧ SameMemBut s u dst n ∧
      (∀ j, j < n → u.byte (dst + j) = s.byte (src + j)) ∧
      ∃ k', u.hare h = { s.hare h with running := some k' } ∧ k'.row = k.row + 1 ∧ k'.inp.length = k.inp.length + n ∧
        k'.landed = k.landed + n := by
  obtain ⟨hbytes, hothers⟩ := block_bytes s src dst hpos
  obtain ⟨k', hstep, hrow, hinp, hlanded⟩ := stepBlock_plain h hk hu hsrc hm hj hland hbuf hn hpos hin hle hdst hs
  have hexec := exec_hareBlock_whole hh hr hslots hj
  rw [hstep] at hexec
  exact ⟨_, hexec, rfl, fun x hx => hothers x hx, fun j hj => hbytes j hj, k', Tab.get_set_self _ _ _ _, hrow, hinp, hlanded⟩

/-- A whole row of a plain copy as one event. -/
theorem copyRow_copies {s : State} {k : Cmd} {e a d src : Nat} (he : e < numCopyEngines) (hr : (s.copyEngine e).running = some k)
    (hslots : k.slots = []) (herr : k.error = none) (hrow : k.row < k.rows) (hsrc : k.src = none) (hland : k.landing = [])
    (hk : PlainCopy k) (hp : RowPlaced k a d) (hu : Unnoticed k) (htag : tagged k.refS = false) (hm : MemOk s)
    (hfit : d + cpE k.ccb 0 ≤ pairSize) (hat : pairAddr (pairOf k.core) + a = src) (hs : Sound s src (cpE k.ccb 0)) :
    ∃ u, exec (.copyRow (e, 0)) s = .next u ∧ u.last = .issued ∧
      (∀ q ∈ targetPairs k.core (ccMcast k.ccb), ∀ j, j < cpE k.ccb 0 → u.byte (pairAddr q + d + j) = s.byte (src + j)) ∧
      (∀ x, (∀ q ∈ targetPairs k.core (ccMcast k.ccb), x < pairAddr q + d ∨ pairAddr q + d + cpE k.ccb 0 ≤ x) → u.byte x = s.byte x) ∧
      ∃ k', u.copyEngine e = { s.copyEngine e with running := some k' } ∧ k'.row = k.row + 1 ∧ k'.landed = k.landed + cpE k.ccb 0 ∧
        k'.error = none := by
  subst hat
  have hn := pos_of_row hrow
  have hg := gathered_of_row herr hrow
  obtain ⟨hbytes, hothers⟩ := copiedParts_bytes (a := a) hm hn hfit
  obtain ⟨k', hstep, hnext, hlanded, herr'⟩ := stepRow_plain (copyUnit e) hk hp hu hland hg hsrc htag hn hs
  have hexec := exec_copyRow_whole he hr hslots hg
  rw [hstep] at hexec
  refine ⟨_, hexec, rfl, fun q hq j hj => ?_, fun x hx => ?_, k', copyEngine_setCopyEngine_self _ _ _, hnext, hlanded, herr'.trans herr⟩
  · exact (setCopyEngine_state _ e k' _ _).trans (hbytes q hq j hj)
  · exact (setCopyEngine_state _ e k' _ _).trans (hothers x hx)

/-- A part that lands writes its bytes and no others, poisoned or not (R114, R224). -/
theorem landPart_writes (s : State) (p : Piece × Bool) :
    Holds (s.landPart p) p.1.pa p.1.len p.1.val ∧ SameMemBut s (s.landPart p) p.1.pa p.1.len := by
  have hmem (a : Nat) : (s.landPart p).byte a = (s.writeMem p.1.pa p.1.len p.1.val).byte a := by
    unfold State.landPart State.markPoison
    dsimp only
    split_ifs <;> rfl
  refine ⟨fun i hi => ?_, fun a ha => (hmem a).trans (State.byte_writeMem_outside _ _ _ _ _ ha)⟩
  rw [hmem, State.byte_writeMem_inside _ _ _ _ _ (Nat.le_add_right _ _) (Nat.add_lt_add_left hi _), Nat.add_sub_cancel_left]

/-- Settles O47: a row and a block by their moves; single parts by the part's own move. -/
theorem rowsAndBlocks : Obligations.RowsAndBlocks := by
  unfold Obligations.RowsAndBlocks
  refine ⟨?_, ?_⟩
  · intro s e k a d code g w n r turn untagged plain placed src pairs
    refine ⟨fun ht hu hp hplaced hfit hs hm => ?_, fun ht hap hcheck => ?_, fun ps i q he hr hslots hsrc hq hd hlock => ?_,
      fun l ls p ps he hr hsrc hk hl hlock => ?_, fun l ls p p' ps he hr hsrc hk hl hfree => ?_⟩
    · obtain ⟨he, hr, hslots, herr, hrow, hsrc, hland⟩ := ht
      obtain ⟨hsap, hdap, hmem, hsesz, hcvt, hbaren, hwmen⟩ := hp
      exact copyRow_copies he hr hslots herr hrow hsrc hland ⟨hsap, hdap, hmem, hsesz, hcvt⟩ hplaced ⟨hbaren, hwmen, hu.2⟩ hu.1 hm hfit rfl hs
    · obtain ⟨he, hr, hslots, herr, hrow, hsrc, hland⟩ := ht
      have hg := gathered_of_row herr hrow
      have hexec := exec_copyRow_whole he hr hslots hg
      rw [stepRow_faults (copyUnit e) hland hg hsrc hap hcheck] at hexec
      exact hexec
    · exact exec_copyRow_part he hr (movePartOf_locked_source (copyUnit e) hslots hsrc hq hd hlock)
    · have hmove := movePartOf_first (s := s) (copyUnit e) hsrc hk hl
      rw [if_pos hlock] at hmove
      have hexec := exec_copyRow_part he hr hmove
      have hout : k.lockedOut 0 = { k with landing := [], error := some (cTAGKEY, flagOf cTAGKEY, l.ix), read := true } := by
        simp [Cmd.lockedOut, hk, hsrc]
      rw [hout] at hexec
      exact hexec
    · have hmove := movePartOf_first (s := s) (copyUnit e) hsrc hk hl
      rw [hfree, if_neg Bool.false_ne_true, payRows_waiting _ _ { l with parts := p' :: ps } (List.cons_ne_nil p' ps)] at hmove
      obtain ⟨hholds, hsame⟩ := landPart_writes s p
      refine ⟨_, exec_copyRow_part he hr hmove, rfl, fun i hi => ?_, fun x hx => ?_, copyEngine_setCopyEngine_self _ _ _⟩
      · exact (setCopyEngine_state _ e _ _ _).trans (hholds i hi)
      · exact (setCopyEngine_state _ e _ _ _).trans (hsame x hx)
  · intro s h k g w at' n src dst hh hr hslots herr hland hsrc htag hchain hat hbuf hsap hdap hdk hmc hbaren hwmen hin hout hs hm
    have hk : PlainJob k := ⟨hchain, hsap, hdap, hdk, hmc⟩
    have hpos : 0 < n := by
      simp only [n]
      omega
    have hj : k.jobRead = false := by simp [Cmd.jobRead, herr, taken_plain hk, hat, at', w]
    exact hareBlock_copies hh hr hslots hk ⟨hbaren, hwmen, htag⟩ hsrc hm hj hland hbuf rfl hpos
      (harePieces_of_ap s k [] 1 false _ hsap hin) hout rfl hs

end Sys2Proof
end
